-- ==== Sys2Proof/Word.lean ====
section
/-! DEFINITION. The word types of the module (spec 00_scope R7, R10): unsigned integers of
8, 16, 32 and 64 bits, and FP32 values as their bit patterns. -/

namespace Sys2Proof

abbrev U8 := BitVec 8
abbrev U16 := BitVec 16
abbrev U32 := BitVec 32
abbrev U64 := BitVec 64
/-- An IEEE binary32 value, as its bit pattern (R10). -/
abbrev F32 := BitVec 32
abbrev Byte := BitVec 8
abbrev Bytes := List Byte
/-- A context slot (R275). -/
abbrev Slot := Fin 16

end Sys2Proof
end

