-- ==== Sys2Proof/Syntax.lean ====
section
/-! DEFINITION. The commands of the block: one constructor of `Instr` per row of
spec/opcode_table.json, and the data a command carries from outside the module.
Catalogue rows carry nothing: they serve the request at the front of the supervisor's queue (R338),
which MB_GO, MGMT_DATAGRAM and MGMT_PACKET filled. -/

namespace Sys2Proof

/-- The channel a catalogue request arrives on (R336). -/
inductive Channel where
  | pf
  | vf (c : Slot)
  | mgmt (addr : BitVec 128) (port : U16)
  | fabric (die : BitVec 20)
  deriving DecidableEq, Repr

/-- A PCIe function: the PF, or VF c+1 (R295). -/
inductive Func where
  | pf
  | vf (c : Slot)
  deriving DecidableEq, Repr

/-- A completion ring or an Ephemeris ring: the module's, or a slot's. -/
inductive Ring where
  | module
  | ctx (c : Slot)
  deriving DecidableEq, Repr

/-- The three arrays of a core (R116 kinds 0 to 2). -/
inductive ArrayKind where
  | forward | backward | wide
  deriving DecidableEq, Repr

/-- A beacon slot (R318). `port = none`: heard over the host link from the HA-8 (R259). -/
structure Beacon where
  port : Option (Fin 32)
  tickCode : BitVec 3
  hops : U8
  root : U32
  count : U64
  agePs : U32
  deriving DecidableEq, Repr

/-- A header slot of a packet and its data slots (R314, R323). -/
structure Packet where
  kind : U8
  hops : U8
  dest : BitVec 24
  src : BitVec 24
  destContext : U16
  srcContext : U16
  address : U64
  opTag : U32
  group : U16
  status : U16
  collSeq : U32
  ckind : U8
  redop : BitVec 2
  order : Bool
  count : U32
  peer : U32
  value : U64
  /-- data slots, 64 bytes each -/
  data : List Bytes
  deriving DecidableEq, Repr

/-- A codeword as the receiver finds it (R313). -/
structure Codeword where
  uncorrectable : Bool
  /-- FEC symbols corrected in it (R331) -/
  corrected : Nat
  seq : BitVec 12
  llane : BitVec 3
  /-- BEACON: the slot at BSLOT is a beacon slot -/
  beacon : Bool
  bslot : BitVec 4
  slots : List Bytes
  deriving DecidableEq, Repr

/-- A LINK_CTRL slot (R314). -/
structure LinkCtrl where
  ackSeq : BitVec 12
  nak : Bool
  credit0 : U16
  credit1 : U16
  credit2 : U16
  deriving DecidableEq, Repr

/-- What one training of a link finds (R317, R318). -/
structure Training where
  /-- physical lanes that locked -/
  locked : U8
  /-- both ends agreed on the width -/
  ok : Bool
  delayNs : U32
  /-- die address the far end sent; all ones: none -/
  peer : U32
  deriving DecidableEq, Repr

/-- Frames of the management port that are not Ralulolo datagrams (R352). -/
inductive IcmpKind where
  | neighborSolicitation | echoRequest | tagged | fragment
  deriving DecidableEq, Repr

/-- Coolant flow in mL/min and inlet temperature in m°C, as effective values (R368, R427). -/
structure Coolant where
  flowMl : U32
  inletMc : U32
  deriving DecidableEq, Repr

/-- What the phases of a start find (R401, R403, R406, R427). -/
structure StartFindings where
  /-- module-wide core positions that fail self-test, as module-wide logical core numbers -/
  coresFailed : List Nat
  /-- dies whose shared logic fails self-test -/
  diesFailed : List Nat
  /-- DDR5 positions that fail training twice -/
  positionsFailed : List Nat
  /-- lanes that fail to lock: (module port, lane) -/
  lanesFailed : List (Nat × Nat)
  /-- fabric ports that train in phase 5: (module port, training) -/
  ports : List (Nat × Training)
  /-- a learned DDR5 or lane result fails its check in phase 4 (false) or 5 (true) (R404) -/
  learnedFails : Option Bool
  /-- the coolant before phase 3 (R427) -/
  coolant : Coolant
  /-- Logbook slots, primary and mirror, whose CHECK fails in the scan (R380) -/
  torn : List (Bool × Nat)
  /-- the learned entries written in phase 7: (index, bytes) (R404, R411) -/
  learned : List (Nat × Bytes)
  /-- the seven phase durations in ms (R415) -/
  phaseMs : List U32
  deriving DecidableEq, Repr

/-- What one 1 ms power window measures (R358, R364). -/
structure WindowReadings where
  /-- energy of each block in the window, in µJ, before the gain: (block, µJ) -/
  energy : List (Nat × Nat)
  /-- blocks that withheld work in the window (R360 :07) -/
  withheld : List Nat
  busbarMv : U32
  inletMc : U32
  outletMc : U32
  /-- raw flow in mL/min, before the gain -/
  flowMl : U32
  dpPa : U32
  /-- hottest point of each die in m°C, before the offset -/
  dieMc : List U32
  deriving DecidableEq, Repr

/-- What one round of flash background work did on a die (R237, R238, R255). -/
structure FlashWork where
  retries : Nat
  bytesWritten : Nat
  sparePct : U8
  wearPct : U8
  /-- plates that the flash's own reads found to fail every retry: (slot, address) -/
  failed : List (Slot × Nat)
  /-- plates whose next reader is to find that -/
  latent : List (Slot × Nat)
  /-- images of which a page on the die can be read no more -/
  failedImages : List U32
  deriving DecidableEq, Repr

/-- The plates with errors of a scrub period, beside those the scrub corrects: the uncorrectable ones that the scrub
meets, those that another reader is to meet first, and the correctable ones that another reader is to meet first. -/
structure BadPlates where
  scrubbed : List (Slot × Nat)
  latent : List (Slot × Nat)
  soft : List (Slot × Nat)
  deriving DecidableEq, Repr

/-- What a link that comes up settles beside rate and width: the LTSSM state, the sizes of BAR2 of the PF and of a VF
that the host's software sets (R295), and the correctable errors that it meets until it goes down (R297). -/
structure LinkSetting where
  ltssm : U8
  barPf : Fin 7
  barVf : Fin 7
  corrected : U32
  deriving DecidableEq, Repr

/-- The condition behind a thermal stop (R368). -/
inductive StopCause where
  | dieHot (mc : U32) | inletHot (mc : U32) | flowLow (ml : U32)
  deriving DecidableEq, Repr

/-- The commands: one constructor per row of spec/opcode_table.json. -/
inductive Instr where
  | tickBoundary
  | startStep
  | barrier
  | barrierTimeout (c : Slot)
  | ramp
  | rampEnd (b : Nat) (fromModule : Bool)
  | snapshot
  | rebind
  | sample
  | ephemerisMark
  | phaseEntry
  | moduleEntry
  | ephemerisBaseWrite
  | beaconReceive (b : Beacon)
  | acquisitionComplete (correctionNs : U32)
  | beaconTimeout
  | holdoverExpiry
  | lostBeaconReturn
  | tickCodeChange
  | tickCodeWrite
  | meridianRoleWrite
  | listWalk (c : Slot)
  | forward (c : Slot) (n : Nat)
  | dataGrad (c : Slot) (n : Nat)
  | weightGrad (c : Slot) (n : Nat)
  | rmsFwd (c : Slot) (n : Nat)
  | lnFwd (c : Slot) (n : Nat)
  | softmaxFwd (c : Slot) (n : Nat)
  | rmsBwd (c : Slot) (n : Nat)
  | lnBwd (c : Slot) (n : Nat)
  | softmaxBwd (c : Slot) (n : Nat)
  | vectorCopy (c : Slot) (n : Nat)
  | add (c : Slot) (n : Nat)
  | sub (c : Slot) (n : Nat)
  | mul (c : Slot) (n : Nat)
  | fma (c : Slot) (n : Nat)
  | div (c : Slot) (n : Nat)
  | min (c : Slot) (n : Nat)
  | max (c : Slot) (n : Nat)
  | abs (c : Slot) (n : Nat)
  | neg (c : Slot) (n : Nat)
  | sqrt (c : Slot) (n : Nat)
  | rsqrt (c : Slot) (n : Nat)
  | rcp (c : Slot) (n : Nat)
  | exp (c : Slot) (n : Nat)
  | relu (c : Slot) (n : Nat)
  | leaky (c : Slot) (n : Nat)
  | gelu (c : Slot) (n : Nat)
  | silu (c : Slot) (n : Nat)
  | sigmoid (c : Slot) (n : Nat)
  | select (c : Slot) (n : Nat)
  | maskScale (c : Slot) (n : Nat)
  | dropoutMask (c : Slot) (n : Nat)
  | signMask (c : Slot) (n : Nat)
  | sumsq (c : Slot) (n : Nat)
  | absmax (c : Slot) (n : Nat)
  | adamw (c : Slot) (n : Nat)
  | sgdm (c : Slot) (n : Nat)
  | convert (c : Slot) (n : Nat)
  | copy (c : Slot) (n : Nat)
  | allReduce (c : Slot) (n : Nat)
  | reduceScatter (c : Slot) (n : Nat)
  | allGather (c : Slot) (n : Nat)
  | broadcast (c : Slot) (n : Nat)
  | send (c : Slot) (n : Nat)
  | recv (c : Slot) (n : Nat)
  | waitDrain (c : Slot) (n : Nat)
  | waitMeridian (c : Slot) (n : Nat)
  | wordGe (c : Slot) (n : Nat)
  | wordEq (c : Slot) (n : Nat)
  | waitSatisfied (c : Slot) (n : Nat)
  | waitTimeout (c : Slot) (n : Nat)
  | markWrite (c : Slot) (n : Nat)
  | markAdd (c : Slot) (n : Nat)
  | markPost (c : Slot) (n : Nat)
  | arrayPassEnd (core : Fin 512) (a : ArrayKind)
  | tileDrain (core : Fin 512)
  | plateHomeAdd (k : Nat)
  | claimUnit (c : Slot) (n : Nat) (core : Fin 512)
  | operationComplete (c : Slot) (n : Nat)
  | moderationTimeout (r : Ring)
  | msixUnmask (f : Func) (v : Fin 64)
  | completionBacklogDrain (r : Ring)
  | blinkCheck (core : Fin 512)
  | stepClose (c : Slot)
  | snapshotCapturePage (c : Slot)
  | snapshotDemandCapture (c : Slot) (page : Nat)
  | take
  | restore
  | restoreExecute (c : Slot)
  | delete
  | map
  | importImage
  | replayRequest
  | replayRun (c : Slot)
  | replayCompare (c : Slot)
  | bar2Read (f : Func) (off : Nat) (len : Nat)
  | bar2Write (f : Func) (off : Nat) (data : Bytes)
  | pageMoveSwitch (c : Slot) (page : Nat)
  | residentMoveIn (c : Slot)
  | alloc
  | free
  | setClass
  | floorWrite
  | scrubPeriodStart (corrected : List (Slot × Nat)) (uncorrectable : BadPlates)
  | ddrRetrain (p : Fin 40)
  | dramRefresh (p : Fin 40)
  | flashBackgroundWork (d : Fin 8) (w : FlashWork)
  | bind
  | release
  | slotFreed (c : Slot)
  | pause
  | pauseDone (c : Slot)
  | resume
  | rebindRequest
  | rebindPlanStart
  | rebindDrainDone (us : U32)
  | rebindSwitch (writebackUs : U32) (updateUs : U32)
  | firmware
  | coreSpare
  | ddrRetire
  | laneSpare
  | dieOutOfService
  | dieReturn (ok : Bool) (f : StartFindings) (outMs : U32)
  | coreFailure (core : Fin 512)
  | watchFlagsClear
  | flrVf (c : Slot)
  | flrPf
  | hostLinkDown
  | submitRingBaseWrite
  | mbGo (f : Func) (seq : U16) (area : Bytes)
  | mgmtDatagram (addr : BitVec 128) (port : U16) (checksumOk : Bool) (payload : Bytes)
  | mgmtPacket (p : Packet)
  | read
  | write
  | describe
  | authorise
  | subscribe
  | nextIndex
  | readRecords
  | stagedTransferExpiry (ch : Channel)
  | authorisationExpiry (ch : Channel)
  | channelIdleExpiry (ch : Channel)
  | subscriptionExpiry (ch : Channel)
  | userCorrectionWrite
  | clearUserCorrections
  | clearLearnedCorrections
  | clearAllCorrections
  | moduleNumberWrite
  | routeTableWrite
  | perfPointWrite
  | envelopeWrite
  | modulePowerCapWrite
  | authorityKeyWrite
  | rollbackRaise
  | attestRequest
  | attestSignComplete
  | operatorExtend
  | logbookClear
  | stage
  | installAll
  | discard
  | warmModuleReset (f : StartFindings)
  | coldModuleReset (f : StartFindings)
  | recoveryImageWrite (f : StartFindings)
  | powerOn (f : StartFindings)
  | meridianAcquireTimeout
  | coolantStartHoldExpiry (now : Coolant) (f : StartFindings)
  | holdupReady
  | powerWindowEnd (r : WindowReadings)
  | thermalCap (d : Fin 8) (tempMc : U32)
  | coolantDerate (inletMc : U32) (flowMl : U32)
  | supplyDerate (mv : U32)
  | busbarHigh (mv : U32)
  | conditionCleared (bits : U8) (die : Option (Fin 8))
  | thermalStop (cause : StopCause)
  | leakDetected
  | powerLoss (mv : U32) (overVolt : Bool)
  | logbookCommit
  | mirrorWrite
  | codewordReceive (port : Fin 32) (cw : Codeword)
  | linkCtrl (port : Fin 32) (ctl : LinkCtrl)
  | ackTimeoutReplay (port : Fin 32)
  | linkTraining (port : Fin 32) (t : Training)
  | downPortRetry (port : Fin 32) (t : Training)
  | writePacket (p : Packet)
  | addPacket (p : Packet)
  | collReady (p : Packet)
  | collData (p : Packet)
  | ack (p : Packet)
  | loss (p : Packet)
  | collectiveTimeout (c : Slot) (n : Nat)
  | endpointForwardExpiry (die : Fin 8) (endpoint : Fin 16)
  | hostLinkUp (rate : U16) (width : U8) (link : LinkSetting)
  | packetForward (port : Fin 32) (p : Packet)
  | vfEnableChange (enable : Bool) (numVfs : Fin 17)
  | groupTableBaseWrite
  | linkAcknowledgement (port : Fin 32)
  | requestMemoryExpiry (ch : Channel) (seq : U16)
  | icmpv6Frame (kind : IcmpKind) (src : BitVec 128) (data : Bytes)
  deriving DecidableEq, Repr

end Sys2Proof
end

