-- ==== Sys2Proof/Config.lean ====
section
/-! DEFINITION. What a module is made with or measures about itself, and the functions of standards the
spec names without giving (FIPS 202, FIPS 205). None has a body: nothing can be proved of its value, and a
claim holds whatever it is (DESIGN CHOICE, log entry 2). -/

namespace Sys2Proof.Config

/-- SHAKE256 with a 512-bit output (R387; FIPS 202 is not given in the spec). (DESIGN CHOICE, log entry 2) -/
opaque shake256 : Bytes → BitVec 512

/-- SLH-DSA-SHAKE-256s verification: context string, public key, message, signature (R387).
(DESIGN CHOICE, log entry 2) -/
opaque slhVerify : String → Bytes → Bytes → Bytes → Bool

/-- The identity-key signature of an attestation report, 49,856 bytes (R387, R394), as a number.
(DESIGN CHOICE, log entry 2) -/
opaque identitySign : Bytes → Nat

/-- 0x1000:01 `serial`, 16 ASCII characters, as a number of 16 bytes (R343). (DESIGN CHOICE, log entry 2) -/
opaque serial : BitVec 128

/-- 0x1000:07 `mac_address` (R343). (DESIGN CHOICE, log entry 2) -/
opaque macAddress : BitVec 48

/-- Firmware keys 0 and 1, in supervisor ROM (R387). (DESIGN CHOICE, log entry 2) -/
opaque firmwareKey : Bool → BitVec 512

/-- 0xA040:05 `service_key` (R398). (DESIGN CHOICE, log entry 2) -/
opaque serviceKey : BitVec 512

/-- 0xA010:01 and :03, the identity and CA public keys (R395). (DESIGN CHOICE, log entry 2) -/
opaque identityKey : BitVec 512
/-- DESIGN CHOICE, log entry 2. -/
opaque caKey : BitVec 512

/-- 0xA010:02 `identity_certificate`, 32,768 bytes as a number (R395). (DESIGN CHOICE, log entry 2) -/
opaque certificate : Nat

/-- The Almanac values of 0x2000:01, 0x2001+d, 0x2010+b and 0x2100:01, by 256 × index + subindex (R341),
and the least and greatest value of each entry (R340). (DESIGN CHOICE, log entry 2) -/
opaque almanac : Nat → BitVec 32
/-- DESIGN CHOICE, log entry 2. -/
opaque almanacMin : Nat → BitVec 32
/-- DESIGN CHOICE, log entry 2. -/
opaque almanacMax : Nat → BitVec 32

/-- The firmware image a die left the factory with (R388). (DESIGN CHOICE, log entry 2) -/
opaque factoryImage : Bytes

/-- SPARE_PCT of a die's flash at bring-up (R255 states none). (DESIGN CHOICE, log entry 2) -/
opaque flashSpare : Nat → BitVec 8

/-- A value the spec leaves open: the n-th one a run draws. (DESIGN CHOICE, log entry 2) -/
opaque freeValue : Nat → BitVec 64

end Sys2Proof.Config
end

