-- ==== Sys2Proof/Machine/State.lean ====
section
/-! DEFINITION. The state of the module as plain data: everything the spec gives it, and the queue of
waiting commands. Sparse tables are lists of (key, value) pairs with rising keys; a key that is not
listed has the default its accessor in Machine/Ops.lean names. Catalogue registers carry the entry they
stand for (index:subindex). -/

namespace Sys2Proof.Machine

/-- The SKU (00_scope R3). -/
inductive Sku where
  | dk2 | dk4 | dk8
  deriving DecidableEq, Repr

/-- The formats a tensor may have (R21, R37, R192). -/
inductive Fmt where
  | f4 | f8 | b6 | b8 | bf16 | fp32 | mask
  deriving DecidableEq, Repr

/-! ### First faults, engine watch records (chapter 06) -/

/-- A first-fault record (R121); VALID is whether the record is held at all. -/
structure FaultRec where
  opId : U32
  tileRow : U16
  tileCol : U16
  band : U16
  offset : U16
  cause : BitVec 4
  flag : BitVec 2
  kind : BitVec 3
  core : U16
  context : U16
  handle : U32
  step : U64
  deriving DecidableEq, Repr

/-- An engine watch record (R117): FLAGS[3:0], the four counters by flag code, FIRST_FAULT: its VALID bit, and
what its other fields hold (none: zero), which a clear of VALID leaves (R120). -/
structure EngineWatch where
  flags : BitVec 4
  inexact : U32
  underflow : U32
  overflow : U32
  invalid : U32
  valid : Bool
  first : Option FaultRec
  deriving DecidableEq, Repr

/-! ### Numerics (chapters 05, 06, 07) -/

/-- 0x4120+c:01 to :09 (R92). -/
structure NumSet where
  headroom : U8
  gradScale : F32
  history : U8
  crush : F32
  divisor : U16
  budget : U64
  cleanSteps : U16
  tblBase : U64
  tblCounts : U32
  deriving DecidableEq, Repr

/-- 0x4130+c:01, :02, :04 to :08 (R126). -/
structure WatchSet where
  ringBase : U64
  ringEntries : U16
  mask : U8
  layerBase : U64
  blinkRate : U16
  blinkThr : F32
  darkThr : U16
  deriving DecidableEq, Repr

/-- 0x6150+c:01 to :03 and :05 to :07 (R213). -/
structure TrainSet where
  phaseBase : U64
  ledgerBase : U64
  rings : U16
  journalBase : U64
  depth : U8
  entryBytes : U32
  deriving DecidableEq, Repr

/-- A tensor record held by the die supervisors (R93, R96), with what the device keeps beside it. -/
structure TRec where
  handle : U32
  layer : U16
  fmtW : BitVec 3
  fmtR : BitVec 3
  flags : U8
  histLen : U8
  headroom : U8
  histFill : U8
  histPos : U8
  genW : U16
  genR : U16
  scaleW : F32
  scaleR : F32
  stepMax : F32
  stepFlags : U8
  cleanSteps : U16
  crush : F32
  sideCap : U16
  status : U16
  sideBase : U64
  elements : U32
  overflows : U32
  s8Sat : U32
  lostBlocks : U32
  sideUsed : U32
  crushed : U32
  sideOvf : U32
  blinkDiv : U32
  history : List U16
  /-- effective H at the previous close (R99 step 1) -/
  effHist : U8
  /-- a granted DY promotion whose switch is pending (R114) -/
  pendingDy : Bool
  /-- budget bytes the record's promotion holds (R111) -/
  grantBytes : U64
  /-- pages its grant allocated (R252) -/
  grantPages : List Nat
  /-- demoted on the write side, released when FMT_R becomes narrow (R115) -/
  demoting : Bool
  /-- CORONAGRAPH_FULL already logged in this step (R108) -/
  fullLogged : Bool
  deriving DecidableEq, Repr

/-- A layer record as read at a close (R94). -/
structure LRec where
  rank : U16
  lflags : U8
  wRec : U16
  xRec : U16
  dyRec : U16
  demoteSteps : U16
  thOverflow : U32
  thCrush : U16
  thSideOvf : U16
  thBlink : U16
  lastCost : U64
  deriving DecidableEq, Repr

/-- The layer watch figures of one layer (R132 to R135). -/
structure LayerWatch where
  hist : List U32
  darkSteps : U32
  blinkTiles : U32
  blinkDivTiles : U32
  blinkWorst : F32
  wgPlates : U32
  /-- some plate written in the step held a non-zero element (R134) -/
  wgNonZero : Bool
  /-- BLINK_DIVERGENCE already logged for the layer in this step (R131) -/
  blinkLogged : Bool
  /-- DARK_LAYER raised since DARK_STEPS was last 0 (R135) -/
  darkRaised : Bool
  deriving DecidableEq, Repr

/-- What the device keeps of one opened, not yet closed step (R125, R127, R139). -/
structure StepAcc where
  step : U64
  seed : U64
  mode : U8
  opsInvalid : U32
  stalePlates : U32
  flags : U32
  /-- events of kind k and flag f at position 4k + f -/
  counts : List U32
  notices : U16
  blinkChecked : U32
  blinkDropped : U32
  blinkDivergent : U32
  blinkFirstLayer : U16
  firstFault : Option FaultRec
  /-- operations of the step that have written their NUMERIC_INVALID notice (R124 effect 6) -/
  invalidOps : List Nat
  deriving DecidableEq, Repr

/-! ### Operation lists (chapter 10) -/

/-- An operand reference (R195). -/
structure OperandRef where
  handle : U32
  scale : F32
  epoch : BitVec 4
  rowFirst : U32
  deriving DecidableEq, Repr

/-- A descriptor header (R196); `reserved`: no field of it. -/
structure DescHdr where
  fence : Bool
  complete : Bool
  continue_ : Bool
  layer : U16
  opId : U32
  deriving DecidableEq, Repr

/-- PRODUCT (R200). -/
structure ProductD where
  pkind : U8
  round : U8
  noBlink : Bool
  m : U32
  n : U32
  k : U32
  groupMask : U64
  a : OperandRef
  b : OperandRef
  out : OperandRef
  init : OperandRef
  inMask : OperandRef
  outMask : OperandRef
  f1 : F32
  f0 : F32
  keepRows : OperandRef
  partials : OperandRef
  deriving DecidableEq, Repr

/-- ROW (R202). -/
structure RowD where
  op : U8
  round : U8
  length : U32
  rows : U32
  causalPeriod : U32
  causalOffset : U32
  eps : F32
  alpha : F32
  groupMask : U64
  x : OperandRef
  dy : OperandRef
  out : OperandRef
  gamma : OperandRef
  beta : OperandRef
  stats : OperandRef
  inMask : OperandRef
  dparam : OperandRef
  deriving DecidableEq, Repr

/-- VECTOR (R203). -/
structure VectorD where
  func : U8
  round : U8
  rows : U32
  cols : U32
  groupMask : U64
  a : OperandRef
  b : OperandRef
  c : OperandRef
  out : OperandRef
  outMask : OperandRef
  params : List U32
  deriving DecidableEq, Repr

/-- CONVERT (R205). -/
structure ConvertD where
  round : U8
  rows : U32
  cols : U32
  groupMask : U64
  src : OperandRef
  dst : OperandRef
  deriving DecidableEq, Repr

/-- COPY (R206). -/
structure CopyD where
  count : U32
  src : U32
  dst : U32
  srcOffset : U64
  dstOffset : U64
  deriving DecidableEq, Repr

/-- COLLECTIVE (R207). -/
structure CollD where
  ckind : U8
  order : U8
  redop : U8
  count : U32
  group : U16
  root : U32
  tag : U32
  src : OperandRef
  dst : OperandRef
  srcOffset : U64
  dstOffset : U64
  deriving DecidableEq, Repr

/-- WAIT (R208). -/
structure WaitD where
  wkind : U8
  timeout : U32
  value : U64
  address : U64
  deriving DecidableEq, Repr

/-- MARK (R209). -/
structure MarkD where
  mflags : U8
  tag : U32
  value : U64
  address : U64
  deriving DecidableEq, Repr

/-- A descriptor (R196). -/
inductive Desc where
  | product (d : ProductD)
  | row (d : RowD)
  | vector (d : VectorD)
  | convert (d : ConvertD)
  | copy (d : CopyD)
  | coll (d : CollD)
  | wait (d : WaitD)
  | mark (d : MarkD)
  deriving DecidableEq, Repr

/-- A tensor operand as resolved at the start check (R193, R194): the copy used until completion. -/
structure TView where
  handle : U32
  fmt : Fmt
  /-- device-range address of tensor row 0, and its declared size in plates -/
  base : Nat
  bound : Nat
  /-- rows and columns of the whole tensor, plates from one row to the next -/
  rows : Nat
  cols : Nat
  stride : Nat
  scale : F32
  epoch : BitVec 4
  rowFirst : Nat
  /-- side list: address and entries per region -/
  side : Option (Nat × Nat)
  /-- the tracked tensor record, when there is one -/
  track : Option Nat
  /-- crush ratio of a tracked tensor with a side list (R104) -/
  crush : F32
  deriving DecidableEq, Repr

/-- One array pass: a tile, or a tile and K-band (R171). `unit`: its number in the claim order; `sub`: of a pass of the
wide array the sub-tile that is next, or that this shadow holds, in row-major order (R65). -/
structure Pass where
  c : Slot
  n : Nat
  tr : Nat
  tc : Nat
  band : Nat
  unit : Nat
  sub : Nat := 0
  deriving DecidableEq, Repr

/-- One counted event of an engine: flag code and CAUSE (R121, R122), and where it arose. -/
structure FEv where
  flag : Nat
  cause : Nat
  tr : Nat
  tc : Nat
  band : Nat
  offset : Nat
  handle : U32
  deriving DecidableEq, Repr

/-- The operation an event belongs to. `quiet`: a replay, which reports nothing (R224). -/
structure OpCtx where
  c : Slot
  n : Nat
  opId : U32
  layer : U16
  step : U64
  seed : U64
  mode : U8
  quiet : Bool
  deriving DecidableEq, Repr

/-- The shadow accumulators of a finished pass with its corrections (R54, R57), row-major; `blink`: for a
sampled tile the FP32 reference y_r and the wide array's events of the check (R69, R91, R129). -/
structure Shadow where
  pass : Pass
  acc : List (List F32)
  corr : List (List F32)
  blink : Option (List (List F32))
  deriving DecidableEq, Repr

/-- A Blink check waiting on a core (R69): the operation, the array whose shadow holds the narrow tile until the check
has read it (by 4n + k), the tile's linear index and band, the narrow y and the reference y_r of its elements, and
the tracked records among the operands (R131). -/
structure BlinkCheck where
  op : OpCtx
  key : Nat
  lin : Nat
  band : Nat
  narrow : List (List F32)
  ref : List (List F32)
  recs : List Nat
  handle : U32
  deriving DecidableEq, Repr

/-- An FP32 plate on its way to its home (R184). -/
structure HomeAdd where
  c : Slot
  n : Nat
  core : Nat
  unit : Nat
  key : Nat
  vals : List F32
  /-- the tile of the plate, for the flags of the addition (R186) -/
  tr : Nat
  tc : Nat
  deriving DecidableEq, Repr

/-- A collective in progress at one rank (R325 to R329). -/
structure CollRun where
  ranks : Nat
  localRank : Nat
  /-- endpoint address of each rank -/
  list : List U32
  seq : U32
  order : Bool
  /-- ranks whose COLL_READY is held, with the context id each gave -/
  ready : List (Nat × U16)
  /-- contributions held by the engine: (rank, plate offset, bytes), in order of arrival -/
  got : List (Nat × Nat × Bytes)
  /-- plates of a REDUCE_SCATTER that the engine has reduced for another rank: (plate offset, bytes) -/
  results : List (Nat × Bytes)
  /-- plates sent: (rank, plate offset) -/
  sent : List (Nat × Nat)
  /-- plate offsets whose plate of DST is written -/
  placed : List Nat
  /-- OP_TAGs of the COLL_READY it sent -/
  tags : List U32
  deriving DecidableEq, Repr

/-- What the device holds of a running operation. (open points: DESIGN CHOICE, log entry 75) -/
structure RunData where
  /-- the resolved operands, by descriptor offset -/
  views : List (Nat × TView)
  /-- tile grid and number of bands (R171, R177) -/
  tr : Nat
  tc : Nat
  bands : Nat
  /-- participating cores (R173) -/
  cores : List Nat
  /-- next unit the claim counter issues (R178) -/
  nextUnit : Nat
  /-- units of failed cores, each from the sub-tile it had come to (R180) -/
  reissue : List (Nat × Nat)
  /-- cores whose share of a claimed operation has ended (R179) -/
  ended : List Nat
  /-- passes not yet drained: tiles or units -/
  left : Nat
  /-- partial slots: (slot, tile rank) held (R179, R181) -/
  held : List (Nat × Nat)
  /-- bands drained of each tile: (tile linear index, bands) -/
  bandsDone : List (Nat × List Nat)
  /-- plates whose tag this operation has written (R60) -/
  tagged : List Nat
  /-- side-list entries written, by region (R105) -/
  regs : List (Nat × Nat)
  /-- stale plates counted: (operand offset, plate address) (R44) -/
  stale : List (Nat × Nat)
  staleFault : Bool
  seed : U64
  mode : U8
  /-- the fault that ended the operation (R433) -/
  fault : Option U16
  invalid : Bool
  /-- units, and sub-tiles, whose pass raised its events on a core that failed before the drain (R146, R180) -/
  counted : List (Nat × Nat)
  staleLogged : Bool
  /-- packets sent and not yet acknowledged (OP_TAGs) -/
  acks : List U32
  coll : Option CollRun
  /-- WAIT: the Meridian count when it started -/
  waitFrom : U64
  /-- die that holds its claim line (R178) -/
  line : Nat
  deriving DecidableEq, Repr

/-- The state of an operation of the stream. -/
inductive OpState where
  | waiting
  | running
  /-- completed with this status -/
  | done (status : U16)
  /-- never started, because its list had ended (R211) -/
  | dropped
  deriving DecidableEq, Repr

/-- An operation of a context's stream (R190, R197). -/
structure OpRec where
  n : Nat
  list : Nat
  hdr : DescHdr
  desc : Desc
  step : U64
  st : OpState
  run : Option RunData
  /-- started before a FLR: completes but posts nothing (R296) -/
  silent : Bool
  deriving DecidableEq, Repr

/-- A walked list (R187). -/
structure ListRec where
  id : Nat
  tag : U32
  programId : U32
  count : U32
  addr : U64
  step : U64
  /-- the position of the operation that ended it (R211) -/
  endedAt : Option Nat
  /-- status and OP_ID deciding it so far, with the deciding operation's number (R212) -/
  decided : Option (U16 × U32 × Nat)
  silent : Bool
  /-- its record number in the journal entry of its step (R218) -/
  jpos : Nat
  deriving DecidableEq, Repr

/-- A submission entry taken in whose turn has not come (R302, R303): a list to walk, or a NOP. -/
structure SubEntry where
  tag : U32
  list : U64
  nop : Bool
  deriving DecidableEq, Repr

/-! ### Training-step support (chapter 11) -/

/-- A stash ring in the ledger (R215), with the consuming reads started per slot (R216). -/
structure StashRing where
  idx : Nat
  first : U32
  depth : U8
  reads : U8
  fills : U32
  consumed : U32
  highWater : U16
  status : U16
  readsLeft : List Nat
  started : List Nat
  deriving DecidableEq, Repr

/-- A scale record of the journal (R218). -/
structure JScale where
  handle : U32
  scaleR : F32
  scaleW : F32
  genR : U16
  genW : U16
  format : U8
  flags : U8
  deriving DecidableEq, Repr

/-- A list record of the journal (R218). -/
structure JList where
  programId : U32
  count : U32
  addr : U64
  deriving DecidableEq, Repr

/-- An input record of the journal (R218, R219). -/
structure JInput where
  handle : U32
  list : U16
  modified : Bool
  fabric : Bool
  deriving DecidableEq, Repr

/-- A journal entry of a step, as the device keeps it while it writes it (R218). -/
structure JEntry where
  step : U64
  meridian : U64
  seed : U64
  mode : U8
  context : U16
  addr : Nat
  room : Nat
  closed : Bool
  truncated : Bool
  lists : List JList
  scales : List JScale
  inputs : List JInput
  /-- handle indices written by operations of the step (R219), in order of first write -/
  written : List Nat
  deriving DecidableEq, Repr

/-- A shadow of a replay (R220, R221). -/
structure ReplayShadow where
  idx : Nat
  /-- the real tensor, and the address of its shadow and of its shadow side list -/
  view : TView
  addr : Nat
  sideAddr : Nat
  /-- a replayed operation has written it -/
  used : Bool
  deriving DecidableEq, Repr

/-- Plates of a tensor, by index, that a replayed operation wrote (R222). -/
structure ReplayWrite where
  opId : U32
  idx : Nat
  plates : List Nat
  deriving DecidableEq, Repr

/-- A replay asked for or running (R220 to R223). -/
structure Replay where
  step : U64
  shadowBase : Nat
  shadowPlates : Nat
  running : Bool
  /-- its operations have run, and the comparison is next -/
  ran : Bool
  entry : JEntry
  shadows : List ReplayShadow
  writes : List ReplayWrite
  replayed : U32
  skipped : U32
  status : U16
  deriving DecidableEq, Repr

/-- 0x6150+c:0D `snapshot_status` (R229). (open points: DESIGN CHOICE, log entry 20) -/
structure SnapStatus where
  imageId : U32
  state : U8
  status : U16
  step : U64
  bytes : U64
  deriving DecidableEq, Repr

/-- A section of a snapshot image (R227). `src`: the device-range address it was taken from. -/
structure Section where
  kind : U8
  form : U8
  handle : U32
  offset : Nat
  length : Nat
  count : U32
  src : Nat
  deriving DecidableEq, Repr

/-- A snapshot image in flash (R225 to R229). -/
structure Image where
  id : U32
  owner : U16
  dies : U8
  mode : U8
  step : U64
  seed : U64
  meridian : U64
  bytes : Nat
  firmware : U32
  committed : Bool
  pages : Nat
  sections : List Section
  /-- contents by offset from the image start; an offset not listed holds zero -/
  data : List Host.Cell
  /-- device-range pages of the owner still to capture -/
  left : List Nat
  /-- the die on which a page of it fails every read retry (R237) -/
  bad : Option Nat
  deriving DecidableEq, Repr

/-! ### Memory tiers (chapter 12) -/

/-- The page classes (R240). -/
inductive PageClass where
  | auto | resident | pinned | cold
  deriving DecidableEq, Repr

/-- Where a page's data lives (R231, R242, R246). -/
inductive Tier where
  /-- no frame: never written -/
  | unbacked
  /-- slice of the plate store of a die, and the die that keeps its shadow frame in DDR5 (R231) -/
  | plate (die : Nat) (slice : Nat) (shadow : Nat)
  | ddr (die : Nat)
  | flash (die : Nat)
  deriving DecidableEq, Repr

/-- An allocated page (R240 to R251). -/
structure Page where
  cls : PageClass
  /-- class to return to when the ledger's pin leaves (R240) -/
  ledgerPin : Option PageClass
  hint : U8
  home : Option Nat
  tier : Tier
  touched : BitVec 48
  /-- a move in progress, and where to (R249) -/
  moving : Option Tier
  freePending : Bool
  /-- an image mapped read-only: (image id, page of the image) (R229) -/
  mapped : Option (U32 × Nat)
  deriving DecidableEq, Repr

/-- 0x5100+c:09 `pool_result` (R241). -/
structure PoolResult where
  seq : U32
  status : U16
  state : U8
  pages : U32
  address : U64
  deriving DecidableEq, Repr

/-- Pages whose FREE waits for operations (R243): first page, count, operations waited for. -/
structure PendingFree where
  first : Nat
  count : Nat
  ops : List Nat
  deriving DecidableEq, Repr

/-- 0x5200+p `ddr_position` (R255), and its being out of use for the power cycle (R406). -/
structure DdrPosition where
  corrected : U64
  uncorrectable : U32
  framesRetired : U32
  retired : Bool
  outOfUse : Bool
  deriving DecidableEq, Repr

/-- 0x5300+d `flash_die` (R255). -/
structure FlashDie where
  sparePct : U8
  wearPct : U8
  readRetries : U64
  readFails : U32
  bytesWritten : U64
  deriving DecidableEq, Repr

/-- An error that stands in a plate (R233, R234, R237): one that a read corrects; an uncorrectable one that no reader has
met; one that a reader has met and marked; a plate in the flash of a die whose next read fails every retry. -/
inductive Latent where
  | soft
  | hard
  | met
  | flash (die : Nat)
  deriving DecidableEq, Repr

/-- The memory tiers of the module (chapter 12). -/
structure Tiers where
  positions : List (Nat × DdrPosition)
  flash : List (Nat × FlashDie)
  /-- reserved frames used to replace retired ones, per die (R234) -/
  reservedUsed : List (Nat × Nat)
  scrubPeriod : U16
  scrubPasses : U32
  /-- a patrol period is running (R235) -/
  scrubbing : Bool
  /-- pages whose frame holds an uncorrectable plate, by 2^27 × slot + page, with its position (R234) -/
  bad : List (Nat × Nat)
  /-- positions whose die has no reserved frame left, still to be reported (R234) -/
  limitDue : List Nat
  /-- keys of plates with an error that patrol scrub has not found, rising, and what the error is; the frame of one
  that a reader has met is to be retired (R233, R234, R237) -/
  latent : List (Nat × Latent)
  deriving DecidableEq, Repr

/-! ### Meridian and Ephemeris (chapter 13) -/

/-- 0x7000 and what the device keeps beside it (R257 to R263). -/
structure Meridian where
  role : U8
  tickCode : U8
  /-- the count the module keeps in every state -/
  count : U64
  state : U8
  /-- time in the current or last holdover, in quarters of a microsecond (R258, R259) -/
  holdover : Nat
  root : U32
  lastCorrection : U32
  missed : U64
  changes : U32
  start : U64
  /-- tick code to take at the next multiple of 65,536 (R258) -/
  nextCode : Option U8
  /-- a code written while the count stands on a multiple of 65,536: it waits for the next one (R258) -/
  laterCode : Option U8
  /-- the module has been SYNCHRONISED since bring-up (R261) -/
  wasSync : Bool
  /-- beacons heard since the last boundary, and in the tick before it -/
  heard : List Beacon
  heardBefore : List Beacon
  /-- the last beacon followed -/
  followed : Option Beacon
  /-- the followed root's count at the latest boundary (R263) -/
  domain : Option U64
  /-- roots already reported as two (R260) -/
  twoRoots : Option (U32 × U32)
  deriving DecidableEq, Repr

/-- An Ephemeris entry (R267). -/
structure EphEntry where
  target : U64
  kind : U8
  eflags : U8
  tag : U32
  args : List U64
  deriving DecidableEq, Repr

/-- An entry waiting on a ring: its ring position, and the status with which it was discarded at arrival. -/
structure EphPending where
  pos : U32
  entry : EphEntry
  discard : U16
  deriving DecidableEq, Repr

/-- A BARRIER holding its ring (R268). -/
structure Barrier where
  entry : EphEntry
  pos : U32
  lateness : Nat
  missed : Bool
  since : U64
  /-- its action has begun -/
  began : Bool
  deriving DecidableEq, Repr

/-- An entry that has fired and whose action is still to begin (R269). -/
structure DueEntry where
  ring : Ring
  pos : U32
  entry : EphEntry
  at_ : U64
  lateness : Nat
  missed : Bool
  /-- of a RAMP: the blocks it names at firing, with the power of each in the last window before (R363) -/
  blocks : List (Nat × U32)
  /-- `operating_ms` and the slot's energy in µJ at the firing boundary (R363, R366) -/
  ms : Nat
  energy : Nat
  /-- :01 and :02 of the slot at the firing boundary, which a START_STEP fixes (R139) -/
  seed : U64
  mode : U8
  deriving DecidableEq, Repr

/-- A context's Ephemeris ring: 0x7100+c and the device's copies (R264, R265, R274). -/
structure EphRing where
  base : U64
  /-- the ring in service, which follows :01 at the boundary after its write (R271) -/
  baseInUse : U64
  fresh : Bool
  tolerance : U32
  fired : U64
  late : U64
  missed : U64
  discarded : U64
  head : U32
  /-- position up to which entries were taken in -/
  pos : U32
  /-- TAIL values ignored and noticed (R265) -/
  ignored : List U32
  pending : List EphPending
  barrier : Option Barrier
  deriving DecidableEq, Repr

/-- The module ring: 0x7200 (R266, R274). -/
structure ModuleRing where
  tolerance : U32
  fired : U64
  late : U64
  missed : U64
  discarded : U64
  next : U32
  pending : List EphPending
  /-- `module_sample`: count, target, energy, tokens, step, flags (R273) -/
  sample : Bytes
  deriving DecidableEq, Repr

/-! ### Host link (chapter 15) -/

/-- A completion entry (R304), less PHASE and DROPPED, which the write gives it. -/
structure Cmpl where
  late : Bool
  kind : U8
  status : U16
  tag : U32
  opId : U32
  context : U16
  ekind : U8
  count : U64
  arg : U64
  deriving DecidableEq, Repr

/-- A completion ring: 0x6160+c:03 to :09, or 0x6170:01 to :07 (R300, R306, R308). -/
structure CmplRing where
  base : U64
  entries : U32
  vector : U8
  modCount : U16
  modTime : U16
  dropped : U64
  backlog : List Cmpl
  cmpHead : U32
  cmpTail : U32
  /-- entries written since the ring's base was written, for PHASE -/
  posted : Nat
  dropNext : Bool
  /-- entries since the last message (p of R308) -/
  p : Nat
  deriving DecidableEq, Repr

/-- A slot's submission ring: 0x6160+c:01, :02, :0A and the device's copies (R301, R303). -/
structure SubRing where
  base : U64
  entries : U16
  window : U64
  head : U32
  pos : U32
  discards : U32
  /-- SUB_TAIL and CMP_HEAD values ignored and noticed (R303) -/
  ignored : List U32
  ignoredHead : List U32
  deriving DecidableEq, Repr

/-- A mailbox (R354). `request`: the 4,088 bytes of the request area. -/
structure Mailbox where
  request : Bytes
  response : Bytes
  doneSeq : U16
  busy : Bool
  deriving DecidableEq, Repr

/-- A vector of a function's MSI-X table: message address and data, mask and pending bits (R297, R308). -/
structure MsixVec where
  addr : U64
  data : U32
  masked : Bool
  pending : Bool
  deriving DecidableEq, Repr

/-- The PCIe side (R293 to R299). -/
structure HostLink where
  up : Bool
  rate : U16
  width : U8
  ltssm : U8
  downs : U64
  correctable : U64
  bar2Refused : U64
  vfEnable : Bool
  numVfs : Fin 17
  /-- Resizable BAR settings of BAR2, of the PF and of every VF: 2^(30 + n) bytes (R295) -/
  barPf : Fin 7
  barVf : Fin 7
  /-- mailboxes by function number; default idle -/
  mailboxes : List (Nat × Mailbox)
  /-- MSI-X vectors by 64 × function + vector; default masked, not pending -/
  msix : List (Nat × MsixVec)
  ring : CmplRing
  windowSlot : U8
  windowBase : U64
  /-- pages already noticed as refused (R299) -/
  refusedPages : List Nat
  deriving DecidableEq, Repr

/-! ### Contexts, rebinding, repair (chapter 14) -/

/-- The states of a slot (R277). -/
inductive CtxState where
  | free | bound | rebinding | paused | releasing
  deriving DecidableEq, Repr

/-- An assignment of a plan (R281). -/
structure Assign where
  kind : U8
  slot : U8
  die : U8
  from_ : U8
  mask : U32
  pages : U32
  deriving DecidableEq, Repr

/-- Why a plan runs (R283). -/
inductive PlanFor where
  | request | ring | bind (c : Slot) | repair
  deriving DecidableEq, Repr

/-- A plan queued or running (R283). -/
structure PlanRun where
  idx : U8
  why : PlanFor
  assigns : List Assign
  affected : List Slot
  /-- operations the drain waits for: (slot, number) (R284) -/
  waits : List (Slot × Nat)
  drainUs : U32
  writtenBack : U32
  deriving DecidableEq, Repr

/-- 0x6000:05 `rebind_status` (R286). -/
structure RebindStatus where
  plan : U8
  state : U8
  status : U16
  drainUs : U32
  writebackUs : U32
  updateUs : U32
  totalUs : U32
  writtenBack : U32
  deriving DecidableEq, Repr

/-- A repair in progress (R288, R291). -/
structure Repair where
  action : U8
  die : Nat
  plan : U8
  target : U8
  /-- the slots it pauses, once it has begun (PAUSE_MASK of the request until then) -/
  pauseMask : U16
  seq : U32
  phase : U8
  /-- plans that ran or waited at its request and have not finished: it begins after them (R285) -/
  ahead : Nat
  deriving DecidableEq, Repr

/-- 0x6000:07 `repair_status` (R292). -/
structure RepairStatus where
  seq : U32
  state : U8
  die : U8
  action : U8
  status : U16
  rebindUs : U32
  outMs : U32
  deriving DecidableEq, Repr

/-- An endpoint whose packets are forwarded after a rebinding (R285). -/
structure Forwarding where
  die : Nat
  endpoint : Nat
  toDie : Nat
  toEndpoint : Nat
  context : U16
  deriving DecidableEq, Repr

/-- The module's resources: 0x6000, 0x6020+d, 0x6080+k (R277, R278). -/
structure Resources where
  slotSeq : U32
  slotStatus : U16
  slotId : U16
  /-- plans by index; default empty -/
  plans : List (Nat × Bytes)
  planQueue : List PlanRun
  planRunning : Option PlanRun
  /-- phase of the running plan: 2 draining, 3 writing back (R286) -/
  planPhase : U8
  rebindStatus : RebindStatus
  repair : Option Repair
  repairStatus : RepairStatus
  /-- die out of service for a repair -/
  dieOut : Option Nat
  /-- dies that did not start (R406) -/
  notStarted : U8
  /-- physical position of module-wide core n, where it is not its own (R15) -/
  coreMap : List (Nat × U8)
  /-- module-wide numbers of cores failed and not spared (R277) -/
  coresFailed : List Nat
  /-- spares in use or failed: 4 × die + spare -/
  sparesUsed : List Nat
  forwards : List Forwarding
  deriving DecidableEq, Repr

/-! ### Fabric (chapter 16) -/

/-- A codeword that was sent: its SEQ, whether its slot 0 is a beacon slot, its ten slots (R313, R315). -/
structure SentWord where
  seq : BitVec 12
  beacon : Bool
  slots : List Bytes
  deriving DecidableEq, Repr

/-- A module port: its record (R331) and its link layer (R312 to R317). -/
structure Port where
  state : U8
  width : U8
  live : U8
  peer : U32
  delayNs : U32
  retrains : U32
  corrected : U64
  uncorrectable : U32
  replays : U32
  txSeq : BitVec 12
  /-- how often SEQ has wrapped, on each side: the sequence number itself does not (R312, R313) -/
  txWraps : Nat
  rxWraps : Nat
  /-- codewords sent and not yet acknowledged, oldest first (R315) -/
  replay : List SentWord
  /-- packets not yet acknowledged, with the SEQ of their last codeword -/
  inFlight : List (BitVec 12 × Packet)
  rxSeq : BitVec 12
  /-- codewords received since the last acknowledgement -/
  sinceAck : Nat
  /-- a NAK was sent and the expected codeword has not come -/
  nakSent : Bool
  /-- replays without progress -/
  stuck : Nat
  /-- failed trainings in a row (R317) -/
  fails : Nat
  credit0 : Nat
  credit1 : Nat
  credit2 : Nat
  /-- credits to return with the next acknowledgement (R316) -/
  owed0 : Nat
  owed1 : Nat
  owed2 : Nat
  /-- slots of a packet not yet complete (R313) -/
  partialSlots : List Bytes
  /-- packets waiting for the link or for credits -/
  waiting : List Packet
  /-- the beacon of the last boundary, and the codewords that still have to carry it (R318) -/
  beacon : Option Beacon
  beaconDue : Nat
  /-- an acknowledgement waits for a codeword; with a NAK -/
  ctrlDue : Option Bool
  deriving DecidableEq, Repr

/-- 0x8000 and the ports (R331). -/
structure Fabric where
  routes : List (Nat × U16)
  routeWrites : U32
  collTimeout : U16
  dropped : U64
  moduleNumber : U32
  ports : List (Nat × Port)
  /-- packets received whole and not yet acted on, with their port; none: over a bridge (R321) -/
  arrived : List (Option Nat × Packet)
  /-- LINK_CTRL slots and beacon slots received and not yet acted on (R314, R318) -/
  ctrls : List (Fin 32 × LinkCtrl)
  beacons : List Beacon
  nextTag : U32
  deriving DecidableEq, Repr

/-- A COLL_READY held at an endpoint before its collective starts (R328). -/
structure HeldReady where
  endpoint : BitVec 24
  packet : Packet
  deriving DecidableEq, Repr

/-! ### Catalogue (chapter 17) -/

/-- A catalogue request waiting for the supervisor (R338, R344). -/
structure Request where
  ch : Channel
  version : U8
  op : U8
  seq : U16
  index : U16
  sub : U8
  more : Bool
  length : U32
  offset : U32
  /-- the value bytes the message carries -/
  value : Bytes
  /-- for a mailbox, whether MB_GO made it; for a fabric source, its endpoint address -/
  replyTo : BitVec 24
  deriving DecidableEq, Repr

/-- A staged transfer (R347): bytes by offset. -/
structure Staged where
  op : U8
  index : U16
  sub : U8
  bytes : List (Nat × Byte)
  deriving DecidableEq, Repr

/-- An authorisation (R349, R396, R397). -/
structure Auth where
  tokenId : U64
  scopes : List (U16 × U16)
  keySlot : U8
  notAfter : U64
  /-- `operating_ms` at expiry by duration -/
  expires : Nat
  token : Bytes
  deriving DecidableEq, Repr

/-- A subscription (R351). -/
structure Subscription where
  ch : Channel
  severity : U8
  seq : U16
  deriving DecidableEq, Repr

/-- A remembered request (R352). -/
structure Remembered where
  ch : Channel
  seq : U16
  response : Bytes
  deriving DecidableEq, Repr

/-- A user correction (R340). -/
structure Correction where
  mode : U8
  value : U32
  written : U32
  deriving DecidableEq, Repr

/-- What each channel holds of its own (R347, R349, R348, R381). -/
structure ChanState where
  ch : Channel
  staged : Option Staged
  auth : Option Auth
  /-- `operating_ms` of its last RWS_REFUSED notice -/
  refusedAt : Option Nat
  readFrom : U64
  readSeverity : U8
  deriving DecidableEq, Repr

/-- The catalogue's own state. -/
structure CatState where
  requests : List Request
  chans : List ChanState
  subs : List Subscription
  remembered : List Remembered
  ipv6 : Bytes
  prefixLen : U8
  gateway : Bytes
  allowed : Bytes
  peers : Bytes
  mgmtDiscarded : U64
  /-- by 256 × index + subindex of the Almanac entry -/
  corrections : List (Nat × Correction)
  learnedValid : Bool
  /-- learned entries by index 0x2C01 to 0x2C60; default zero -/
  learned : List (Nat × Bytes)
  /-- 0x2C00:01 `corrections_clear`, as last written (R341) -/
  clearCode : U8
  deriving DecidableEq, Repr

/-! ### Power (chapter 18) -/

/-- A ramp limit (R272, R363). -/
structure RampLimit where
  rate : Nat
  /-- the rate as the U32 entries :08 and :09 show it -/
  shown : U32
  endCount : U64
  base : Nat
  /-- windows elapsed since the firing boundary -/
  windows : Nat
  /-- the part of the firing window after the boundary, in 65,536ths of a millisecond, 1 to 65,536 -/
  frac : Nat
  deriving DecidableEq, Repr

/-- A block: 0x3100+b and 0xB100+b (R360, R362, R366). -/
structure Block where
  point : U8
  inForce : U8
  envelope : Option U32
  cause : U8
  rampModule : Option RampLimit
  rampContext : Option RampLimit
  limitedMs : U64
  overRun : Nat
  held : Bool
  /-- limit of the current window, when it was set at a window's start, and what makes it the least (R360) -/
  limit : Option U32
  /-- the envelope that governs the current window; none: the maximum (R361) -/
  envNow : Option U32
  limCauses : U8
  /-- arrays of the group, by 4n + k, in a pass begun before the last change of point (R359) -/
  taking : List Nat
  energyUj : Nat
  power : U32
  peak : U32
  deriving DecidableEq, Repr

/-- 0x3000, 0xB000 and the conditions of R368. -/
structure Power where
  cap : Option U32
  blocks : List (Nat × Block)
  modulePower : U32
  unboundUj : Nat
  busbarMv : U32
  inletMc : U32
  outletMc : U32
  flowMl : U32
  dpPa : U32
  dieMc : List U32
  thermalDies : U8
  coolantDerate : Bool
  supplyDerate : Bool
  busbarHigh : Bool
  deriving DecidableEq, Repr

/-! ### Logbook (chapter 19) -/

/-- A Logbook record, less CHECK (R374). -/
structure LogRec where
  seq : U64
  opMs : BitVec 48
  severity : BitVec 2
  meridianValid : Bool
  clearRec : Bool
  powerCycles : U32
  meridian : U64
  event : U16
  status : U16
  context : U16
  unit : U16
  opId : U32
  handle : U32
  step : U64
  address : U64
  args : List U64
  deriving DecidableEq, Repr

/-- The Logbook (R371 to R386). -/
structure Logbook where
  nextSeq : U64
  queue : List LogRec
  /-- primary store and mirror: (slot, record) -/
  primary : List (Nat × LogRec)
  mirror : List (Nat × LogRec)
  /-- committed records waiting for the mirror, oldest first -/
  mirrorQueue : List LogRec
  written : List U64
  dropped : List U32
  torn : U32
  mirrorLost : U64
  clearMask : U8
  watermarks : List U64
  holdupReady : Bool
  /-- main power is lost, and the capacitors still feed the Logbook (R379) -/
  holdup : Bool
  deriving DecidableEq, Repr

/-! ### Security and bring-up (chapters 20, 21) -/

/-- The two firmware slots of a die (R390): contents and states. -/
structure FwSlots where
  active : Bool
  next : Bool
  stateA : U8
  stateB : U8
  imageA : Bytes
  imageB : Bytes
  /-- release the die runs (it may lag ACTIVE's manifest never; 0: not running) -/
  running : U32
  deriving DecidableEq, Repr

/-- Attestation (R394). -/
structure Attest where
  state : U8
  status : U16
  nonce : Bytes
  /-- the 640 bytes being signed, with channel and mask for the record -/
  signing : Option (Bytes × Channel × U8)
  report : Bytes
  deriving DecidableEq, Repr

/-- 0xA000 to 0xA040 (chapter 20). -/
structure Security where
  rollback : U32
  fw : List (Nat × FwSlots)
  measurements : List Bytes
  events : U32
  attest : Attest
  authority : List Bytes
  serviceEnabled : Bool
  revokedBelow : U64
  /-- 0xA000:02 `rollback_raise`, as last written (R392) -/
  raiseValue : U32
  deriving DecidableEq, Repr

/-- 0xA050:03 `fw_stage_status` (R412). -/
structure StageStatus where
  seq : U32
  state : U8
  status : U16
  release : U32
  svn : U32
  digest : U64
  deriving DecidableEq, Repr

/-- 0xA050:04 `start_record` (R415). -/
structure StartRecord where
  kind : U8
  cause : U8
  downgrade : U8
  phase : U8
  status : U16
  diesStarted : U8
  phaseMs : List U32
  totalMs : U32
  deriving DecidableEq, Repr

/-- Where the module is in its life (R369, R370, R401, R407). -/
inductive Life where
  /-- main power is off -/
  | off
  /-- held before phase 3 for low coolant (R427) -/
  | held
  /-- waiting in phase 6 for the Meridian (R402) -/
  | acquiring
  | ready
  | recovery
  /-- stopped until a cold start (R369) -/
  | stopped
  /-- stopped in a start, before Ready; `link`: phase 5 had ended (R410, R426, R427) -/
  | cut (link : Bool)
  deriving DecidableEq, Repr

/-- Bring-up and update (chapter 21). -/
structure Boot where
  life : Life
  record : StartRecord
  supervisorRelease : U32
  staged : Option Bytes
  stageStatus : StageStatus
  /-- copied images that wait for the Keccak engine, oldest first (R400, R412) -/
  verifying : List Bytes
  /-- the last stop was a thermal stop (R403 code 5) -/
  afterThermal : Bool
  /-- the record of a start in progress, written at Ready (R415) -/
  starting : StartRecord
  /-- what a cold start in progress has learned, written in phase 7 (R404) -/
  toLearn : Option (List (Nat × Bytes))
  deriving DecidableEq, Repr

/-- Identity counters (R343). -/
structure Ident where
  powerCycles : U32
  operatingMs : BitVec 48
  deriving DecidableEq, Repr

/-! ### A context slot -/

/-- Energy of a slot: 0xB400+c (R366). -/
structure CtxEnergy where
  energyUj : Nat
  tokens : U64
  stepEnergy : U64
  stepTokens : U64
  stepPerMwh : F32
  bindPerMwh : F32
  accountStep : U64
  /-- the period in progress: energy at its start, its tokens, its step -/
  periodFrom : Option (Nat × U64 × U64)
  /-- energy (µJ) and tokens of the periods completed since the bind -/
  bindEnergy : Nat
  bindTokens : Nat
  deriving DecidableEq, Repr

/-- The numerics side of a slot: 0x4010, 0x4120+c, 0x4130+c, 0x4140+c. -/
structure CtxNum where
  stale : U8
  set : NumSet
  inForce : NumSet
  alarm : U16
  inUse : U64
  refused : U32
  watchSet : WatchSet
  watchInForce : WatchSet
  reports : U64
  lastNotices : U16
  seed : U64
  mode : U8
  seedInForce : U64
  modeInForce : U8
  recs : List (Nat × TRec)
  layers : List (Nat × LRec)
  layerWatch : List (Nat × LayerWatch)
  steps : List StepAcc
  deriving DecidableEq, Repr

/-- The operation stream of a slot: 0x6140+c. -/
structure CtxStream where
  tblBase : U64
  tblEntries : U32
  listsCompleted : U64
  lastStatus : U16
  openStep : U64
  /-- a START_STEP has fired since the bind -/
  stepOpened : Bool
  /-- the step whose close is pending: its START_STEP successor has fired (R98) -/
  closing : List U64
  subQueue : List SubEntry
  lists : List ListRec
  ops : List OpRec
  nextOp : Nat
  nextList : Nat
  deriving DecidableEq, Repr

/-- Training-step support of a slot: 0x6150+c. -/
structure CtxTrain where
  set : TrainSet
  inForce : TrainSet
  replayResult : Bytes
  manifestBase : U64
  manifestCount : U32
  snap : SnapStatus
  rings : List StashRing
  journal : List JEntry
  replay : Option Replay
  /-- image ids to take at the next close (R225) -/
  takeAt : Option U32
  restoring : Option U32
  /-- seed and mode for the first START_STEP after a restore (R228) -/
  restored : Option (U64 × U8)
  /-- phase entries run (R214) -/
  phaseSeq : U64
  deriving DecidableEq, Repr

/-- Pool and pages of a slot: 0x5100+c. -/
structure CtxPool where
  floorDdr : U32
  floorFlash : U32
  result : PoolResult
  evicted : U64
  unmapped : U64
  pages : List (Nat × Page)
  pendingFrees : List PendingFree
  deriving DecidableEq, Repr

/-- Fabric side of a slot: 0x8100+c. -/
structure CtxFabric where
  groupBase : U64
  groupEntries : U16
  apertureBase : U64
  apertureMap : Bytes
  dropped : U64
  /-- sequence counter of each group (R328) -/
  groupSeq : List (Nat × U32)
  held : List HeldReady
  deriving DecidableEq, Repr

/-- A context slot (R275, R277). -/
structure Ctx where
  gen : U8
  st : CtxState
  groups : U64
  /-- bit 20d + s -/
  slices : BitVec 160
  /-- bit 16d + e -/
  endpoints : BitVec 128
  staleDiscards : U64
  num : CtxNum
  stream : CtxStream
  train : CtxTrain
  pool : CtxPool
  eph : EphRing
  sub : SubRing
  ring : CmplRing
  fab : CtxFabric
  energy : CtxEnergy
  /-- PAUSE is draining (R279) -/
  pausing : Bool
  deriving DecidableEq, Repr

/-! ### Outputs -/

/-- What leaves the module, in the order it left. -/
inductive Out where
  /-- a posted write to host memory by the ring's requester (R307) -/
  | hostWrite (f : Func) (addr : U64) (data : Bytes)
  | msix (f : Func) (vector : U8)
  /-- a BAR2 read completion: the bytes, the poisoned bit -/
  | bar2 (f : Func) (data : Bytes) (ep : Bool)
  /-- a BAR2 access completed as Unsupported Request -/
  | unsupported (f : Func)
  /-- a response or a NOTICE on a management-port or fabric channel -/
  | message (ch : Channel) (data : Bytes)
  /-- a codeword on a physical lane of a port: its link header and its ten slots (R312, R313) -/
  | codeword (port lane : Nat) (header : BitVec 20) (slots : List Bytes)
  /-- the die address a port sends to the far end as it trains (R322) -/
  | training (port : Nat) (die : U32)
  | neighborAdvertisement (dst : BitVec 128)
  | echoReply (dst : BitVec 128) (data : Bytes)
  deriving DecidableEq, Repr

/-! ### The whole -/

/-- The arrays and drains of the cores (R47, R54, R62, R65, R69, R71). -/
structure Arrays where
  /-- passes assigned to array k of core n and not yet ended, by 4n + k -/
  queues : List (Nat × List Pass)
  /-- the shadow of array k of core n, by 4n + k: undrained, or drained and held for its Blink check (R69) -/
  shadows : List (Nat × Shadow)
  /-- arrays of core n whose tiles wait for the drain, in order of completion -/
  drains : List (Nat × List Nat)
  /-- Blink checks waiting on core n -/
  blinks : List (Nat × List BlinkCheck)
  /-- plates on their way to their homes (R184) -/
  adds : List HomeAdd
  deriving DecidableEq, Repr

/-- The module. `pending`: the commands waiting, first in, first out. -/
structure State where
  pending : List Instr
  sku : Sku
  ident : Ident
  ctxs : Vector Ctx 16
  /-- device-range bytes: key 2^48 × slot + address; an unlisted key reads zero (R242) -/
  mem : List Host.Cell
  /-- keys of poisoned plates, rising (R234) -/
  poison : List Nat
  /-- engine watch records: 8 × core + kind, and 4096 + die for kind 7 (R117) -/
  watch : List (Nat × EngineWatch)
  arrays : Arrays
  tiers : Tiers
  images : List Image
  mer : Meridian
  modRing : ModuleRing
  /-- entries fired whose actions have not begun, in firing order (R269) -/
  due : List DueEntry
  host : HostLink
  res : Resources
  fab : Fabric
  cat : CatState
  power : Power
  log : Logbook
  sec : Security
  boot : Boot
  out : List Out
  /-- the model's own counter for free values -/
  freeCtr : Nat
  deriving DecidableEq, Repr

/-! ### Stops -/

/-- Why the module stops with a fault. -/
inductive Fault where
  /-- Raised by a command that names a die, core, port, DDR5 position or block that the SKU lacks (R3, R15,
  R357): no such unit exists to act. Safe: the model stops where no hardware could run the command. -/
  | noSuchUnit
  deriving DecidableEq, Repr

/-- Why a command is refused. -/
inductive Refusal where
  /-- Raised by an arm of exec whose command has no meaning yet. Safe: the model claims nothing of it. -/
  | notModelled (mnemonic : String)
  deriving DecidableEq, Repr

/-! ### Reset: the module at Ready (R405) -/

/-- The canonical form of the device-range bytes: addresses strictly rising, and no listed byte zero,
which is what an unlisted one reads as (R242). -/
abbrev Memory.wf (m : List Host.Cell) : Prop :=
  m.Pairwise (fun a b => a.1 < b.1) ∧ ∀ x ∈ m, x.2 ≠ 0

/-- Defaults of 0x4120+c (R92). -/
def NumSet.reset : NumSet :=
  { headroom := 1, gradScale := 0x3F800000, history := 8, crush := 0x41000000, divisor := 1024,
    budget := 268435456, cleanSteps := 64, tblBase := 0, tblCounts := 0 }

/-- Defaults of 0x4130+c (R126); `blink_threshold` is 2^-10. -/
def WatchSet.reset : WatchSet :=
  { ringBase := 0, ringEntries := 16, mask := 0x0C, layerBase := 0, blinkRate := 64,
    blinkThr := 0x3A800000, darkThr := 64 }

/-- Defaults of 0x6150+c (R213). -/
def TrainSet.reset : TrainSet :=
  { phaseBase := 0, ledgerBase := 0, rings := 0, journalBase := 0, depth := 4, entryBytes := 1048576 }

/-- Defaults of 0x4010 and 0x4120+c to 0x4140+c (R45, R92, R126, R139). -/
def CtxNum.reset : CtxNum :=
  { stale := 0, set := .reset, inForce := .reset, alarm := 0, inUse := 0, refused := 0,
    watchSet := .reset, watchInForce := .reset, reports := 0, lastNotices := 0, seed := 0, mode := 0,
    seedInForce := 0, modeInForce := 0, recs := [], layers := [], layerWatch := [], steps := [] }

/-- Defaults of 0x6140+c, with an empty stream (R191). -/
def CtxStream.reset : CtxStream :=
  { tblBase := 0, tblEntries := 0, listsCompleted := 0, lastStatus := 0, openStep := 0,
    stepOpened := false, closing := [], subQueue := [], lists := [], ops := [], nextOp := 0,
    nextList := 0 }

/-- `snapshot_status` all zero (R213). -/
def SnapStatus.reset : SnapStatus :=
  { imageId := 0, state := 0, status := 0, step := 0, bytes := 0 }

/-- Defaults of 0x6150+c with nothing running. -/
def CtxTrain.reset : CtxTrain :=
  { set := .reset, inForce := .reset, replayResult := List.replicate 64 0, manifestBase := 0,
    manifestCount := 0, snap := .reset, rings := [], journal := [], replay := none, takeAt := none,
    restoring := none, restored := none, phaseSeq := 0 }

/-- `pool_result` all zero (R254). -/
def PoolResult.reset : PoolResult := { seq := 0, status := 0, state := 0, pages := 0, address := 0 }

/-- Defaults of 0x5100+c (R254) over an empty device range (R239). -/
def CtxPool.reset : CtxPool :=
  { floorDdr := 0, floorFlash := 0, result := .reset, evicted := 0, unmapped := 0, pages := [],
    pendingFrees := [] }

/-- Defaults of 0x7100+c (R274). -/
def EphRing.reset : EphRing :=
  { base := 0, baseInUse := 0, fresh := false, tolerance := 64, fired := 0, late := 0, missed := 0, discarded := 0,
    head := 0, pos := 0, ignored := [], pending := [], barrier := none }

/-- Defaults of 0x6160+c:01, :02 and :0A (R300). -/
def SubRing.reset : SubRing :=
  { base := 0, entries := 256, window := 0, head := 0, pos := 0, discards := 0, ignored := [],
    ignoredHead := [] }

/-- Defaults of a completion ring (R300). -/
def CmplRing.reset : CmplRing :=
  { base := 0, entries := 1024, vector := 0, modCount := 1, modTime := 0, dropped := 0, backlog := [],
    cmpHead := 0, cmpTail := 0, posted := 0, dropNext := false, p := 0 }

/-- Defaults of 0x8100+c (R331). -/
def CtxFabric.reset : CtxFabric :=
  { groupBase := 0, groupEntries := 0, apertureBase := 0, apertureMap := List.replicate 4096 0,
    dropped := 0, groupSeq := [], held := [] }

/-- Defaults of 0xB400+c (R366). -/
def CtxEnergy.reset : CtxEnergy :=
  { energyUj := 0, tokens := 0, stepEnergy := 0, stepTokens := 0, stepPerMwh := 0, bindPerMwh := 0,
    accountStep := 0, periodFrom := none, bindEnergy := 0, bindTokens := 0 }

/-- A FREE slot (R405). The generation is 0 at manufacture (DESIGN CHOICE, log entry 5). -/
def Ctx.reset : Ctx :=
  { gen := 0, st := .free, groups := 0, slices := 0, endpoints := 0, staleDiscards := 0,
    num := .reset, stream := .reset, train := .reset, pool := .reset, eph := .reset, sub := .reset,
    ring := .reset, fab := .reset, energy := .reset, pausing := false }

/-- Defaults of 0x7000; the count starts at 0 (DESIGN CHOICE, log entry 5). -/
def Meridian.reset : Meridian :=
  { role := 0, tickCode := 2, count := 0, state := 0, holdover := 0, root := 0xFFFFFFFF,
    lastCorrection := 0, missed := 0, changes := 0, start := 0, nextCode := none, laterCode := none, wasSync := false,
    heard := [], heardBefore := [], followed := none, domain := none, twoRoots := none }

/-- Defaults of 0x7200 (R274). -/
def ModuleRing.reset : ModuleRing :=
  { tolerance := 64, fired := 0, late := 0, missed := 0, discarded := 0, next := 0, pending := [],
    sample := List.replicate 64 0 }

/-- The PCIe side before the link has come up; defaults of 0x6170 (R300). (open points: DESIGN CHOICE, log entry 5) -/
def HostLink.reset : HostLink :=
  { up := false, rate := 0, width := 0, ltssm := 0, downs := 0, correctable := 0, bar2Refused := 0,
    vfEnable := false, numVfs := 0, barPf := 0, barVf := 0, mailboxes := [], msix := [], ring := .reset, windowSlot := 0,
    windowBase := 0, refusedPages := [] }

/-- `rebind_status` all zero (R277). -/
def RebindStatus.reset : RebindStatus :=
  { plan := 0, state := 0, status := 0, drainUs := 0, writebackUs := 0, updateUs := 0, totalUs := 0,
    writtenBack := 0 }

/-- `repair_status` all zero (R277). -/
def RepairStatus.reset : RepairStatus :=
  { seq := 0, state := 0, die := 0, action := 0, status := 0, rebindUs := 0, outMs := 0 }

/-- Defaults of 0x6000 and 0x6080+k, every core in its own position (R15, R277, R278). -/
def Resources.reset : Resources :=
  { slotSeq := 0, slotStatus := 0, slotId := 0, plans := [], planQueue := [],
    planRunning := none, planPhase := 0, rebindStatus := .reset, repair := none,
    repairStatus := .reset, dieOut := none, notStarted := 0, coreMap := [], coresFailed := [],
    sparesUsed := [], forwards := [] }

/-- A port at its defaults (R331), its link layer empty. (open points: DESIGN CHOICE, log entry 5) -/
def Port.reset : Port :=
  { state := 0, width := 0, live := 0xFF, peer := 0xFFFFFFFF, delayNs := 0, retrains := 0,
    corrected := 0, uncorrectable := 0, replays := 0, txSeq := 0, txWraps := 0, rxWraps := 0, replay := [], inFlight := [], rxSeq := 0,
    sinceAck := 0, nakSent := false, stuck := 0, fails := 0, credit0 := 0, credit1 := 0,
    credit2 := 0, owed0 := 0, owed1 := 0, owed2 := 0, partialSlots := [], waiting := []
    beacon := none, beaconDue := 0, ctrlDue := none }

/-- Defaults of 0x8000 (R331). -/
def Fabric.reset : Fabric :=
  { routes := [], routeWrites := 0, collTimeout := 50, dropped := 0, moduleNumber := 0xFFFFFFFF,
    ports := [], arrived := [], ctrls := [], beacons := [], nextTag := 0 }

/-- Defaults of 0x8300 and of the catalogue's channels (R353, R382, R405). -/
def CatState.reset : CatState :=
  { requests := [], chans := [], subs := [], remembered := [], ipv6 := List.replicate 16 0,
    prefixLen := 64, gateway := List.replicate 16 0, allowed := List.replicate 136 0,
    peers := List.replicate 64 0xFF, mgmtDiscarded := 0, corrections := [], learnedValid := false,
    learned := [], clearCode := 0 }

/-- A block at its defaults (R360, R366). -/
def Block.reset : Block :=
  { point := 0, inForce := 0, envelope := none, cause := 0, rampModule := none, rampContext := none,
    limitedMs := 0, overRun := 0, held := false, limit := none, envNow := none, limCauses := 1, taking := [], energyUj := 0,
    power := 0, peak := 0 }

/-- Defaults of 0x3000 and 0xB000; the sensors read nominal values of R367 (DESIGN CHOICE, log entry 5). -/
def Power.reset : Power :=
  { cap := none, blocks := [], modulePower := 0, unboundUj := 0, busbarMv := 54000, inletMc := 20000,
    outletMc := 20000, flowMl := 14000, dpPa := 80000, dieMc := List.replicate 8 20000,
    thermalDies := 0, coolantDerate := false, supplyDerate := false, busbarHigh := false }

/-- An empty Logbook, whose next record takes SEQ 1 (R372). -/
def Logbook.reset : Logbook :=
  { nextSeq := 1, queue := [], primary := [], mirror := [], mirrorQueue := [],
    written := List.replicate 4 0, dropped := List.replicate 4 0, torn := 0, mirrorLost := 0,
    clearMask := 0, watermarks := List.replicate 4 0, holdupReady := false, holdup := false }

/-- A die with the factory image verified in slot A, running release 3.2.0 (R1; DESIGN CHOICE, log entry 5). -/
def FwSlots.reset : FwSlots :=
  { active := false, next := false, stateA := 1, stateB := 0, imageA := Config.factoryImage,
    imageB := [], running := 0x03020000 }

/-- Attestation idle (R394). -/
def Attest.reset : Attest :=
  { state := 0, status := 0, nonce := List.replicate 64 0, signing := none, report := [] }

/-- Defaults of 0xA000 to 0xA040 (R392, R393, R398). (open points: DESIGN CHOICE, log entry 5) -/
def Security.reset : Security :=
  { rollback := 0, fw := [], measurements := List.replicate 8 (List.replicate 64 0), events := 0,
    attest := .reset, authority := List.replicate 4 (List.replicate 64 0), serviceEnabled := true,
    revokedBelow := 0, raiseValue := 0 }

/-- `fw_stage_status` all zero (R412). -/
def StageStatus.reset : StageStatus :=
  { seq := 0, state := 0, status := 0, release := 0, svn := 0, digest := 0 }

/-- `start_record` all zero (R415). -/
def StartRecord.reset : StartRecord :=
  { kind := 0, cause := 0, downgrade := 0, phase := 0, status := 0, diesStarted := 0,
    phaseMs := List.replicate 7 0, totalMs := 0 }

/-- Ready, with nothing staged (R405). (open points: DESIGN CHOICE, log entry 5) -/
def Boot.reset : Boot :=
  { life := .ready, record := .reset, supervisorRelease := 0x03020000, staged := none,
    stageStatus := .reset, verifying := [], afterThermal := false, starting := .reset, toLearn := none }

/-- The module at Ready (R405). -/
def State.reset : State :=
  { pending := [], sku := .dk8, ident := { powerCycles := 0, operatingMs := 0 },
    ctxs := Vector.replicate 16 Ctx.reset, mem := [], poison := [], watch := [],
    arrays := { queues := [], shadows := [], drains := [], blinks := [], adds := [] },
    tiers := { positions := [], flash := [], reservedUsed := [], scrubPeriod := 24, scrubPasses := 0,
               scrubbing := false, bad := [], limitDue := [], latent := [] },
    images := [], mer := .reset, modRing := .reset, due := [], host := .reset, res := .reset,
    fab := .reset, cat := .reset, power := .reset, log := .reset, sec := .reset, boot := .reset,
    out := [], freeCtr := 0 }

end Sys2Proof.Machine
end

