-- ==== Sys2Proof/Machine/Bits.lean ====
section
/-! DEFINITION. Byte order (R7), sparse tables and small list helpers. -/

namespace Sys2Proof.Machine

/-- The unsigned number in little-endian bytes (R7). -/
def leNat : Bytes → Nat
  | [] => 0
  | b :: rest => b.toNat + 256 * leNat rest

/-- The low `n` bytes of a number, least significant first (R7). -/
def natLe : Nat → Nat → Bytes
  | 0, _ => []
  | n + 1, v => BitVec.ofNat 8 v :: natLe n (v / 256)

/-- A bit vector as its little-endian bytes. -/
def bvLe {w : Nat} (n : Nat) (v : BitVec w) : Bytes := natLe n v.toNat

/-- `len` bytes from offset `o`, zero past the end. -/
def slice (b : Bytes) (o len : Nat) : Bytes :=
  let part := (b.drop o).take len
  part ++ List.replicate (len - part.length) 0

/-- The field of `n` bytes at offset `o`. -/
def field (b : Bytes) (o n : Nat) : Nat := leNat (slice b o n)

def fieldBv (w : Nat) (b : Bytes) (o n : Nat) : BitVec w := BitVec.ofNat w (field b o n)

/-- `b` with `v` over its bytes from offset `o`. -/
def patch (b : Bytes) (o : Nat) (v : Bytes) : Bytes :=
  b.take o ++ v ++ b.drop (o + v.length)

def padTo (n : Nat) (b : Bytes) : Bytes := slice b 0 n

def zeros (n : Nat) : Bytes := List.replicate n 0

def ceilDiv (a b : Nat) : Nat := (a + b - 1) / b

/-! ### Sparse tables: (key, value) pairs with rising keys -/

/-- The value at a key, when it is listed. -/
def kvGet {α : Type} : List (Nat × α) → Nat → Option α
  | [], _ => none
  | (k, v) :: rest, key => if k = key then some v else kvGet rest key

def kvGetD {α : Type} (l : List (Nat × α)) (key : Nat) (d : α) : α := (kvGet l key).getD d

/-- The table with `v` at `key`. -/
def kvSet {α : Type} : List (Nat × α) → Nat → α → List (Nat × α)
  | [], key, v => [(key, v)]
  | (k, x) :: rest, key, v =>
    if key < k then (key, v) :: (k, x) :: rest
    else if key = k then (key, v) :: rest
    else (k, x) :: kvSet rest key v

/-- The table without `key`. -/
def kvErase {α : Type} (l : List (Nat × α)) (key : Nat) : List (Nat × α) :=
  l.filter (fun p => p.1 != key)

/-- The table with `f` applied at `key`, from `d` where it is not listed. -/
def kvMod {α : Type} (l : List (Nat × α)) (key : Nat) (d : α) (f : α → α) : List (Nat × α) :=
  kvSet l key (f (kvGetD l key d))

/-- A rising list of numbers with `k` in it. -/
def insertNat : List Nat → Nat → List Nat
  | [], k => [k]
  | x :: rest, k => if k < x then k :: x :: rest else if k = x then x :: rest else x :: insertNat rest k

/-- Positions below `n` where the bit of `m` is set. -/
def bitsOf (m n : Nat) : List Nat := (List.range n).filter (fun i => m.testBit i)

def popCount (m n : Nat) : Nat := (bitsOf m n).length

/-- The number with exactly the listed bits. -/
def ofBits (l : List Nat) : Nat := l.foldl (fun acc i => acc ||| (2 ^ i)) 0


/-- Insertion before the first element whose key is not less. -/
def insBy {α : Type} (key : α → Nat) (x : α) : List α → List α
  | [] => [x]
  | y :: ys => if key y < key x then y :: insBy key x ys else x :: y :: ys

/-- Stable insertion sort by a key. -/
def sortBy {α : Type} (key : α → Nat) : List α → List α
  | [] => []
  | x :: rest => insBy key x (sortBy key rest)

def sumNat {α : Type} (f : α → Nat) (l : List α) : Nat := (l.map f).foldl (· + ·) 0

def maxNat {α : Type} (f : α → Nat) (l : List α) : Nat := (l.map f).foldl Nat.max 0

/-- A counter that stops at 0xFFFF_FFFF (R93, R127). -/
def satAdd32 (a : U32) (n : Nat) : U32 := BitVec.ofNat 32 (Nat.min (a.toNat + n) 0xFFFFFFFF)

def natAt (l : List Nat) (i : Nat) : Nat := l.getD i 0

/-- `l` with the element at `i` replaced. -/
def setAt {α : Type} (l : List α) (i : Nat) (v : α) : List α := l.set i v

end Sys2Proof.Machine
end

