-- ==== Sys2Proof/Machine/Mem.lean ====
section
/-! DEFINITION. The module's geometry, its context slots, and the bytes, poison marks, pages and frames of
the device ranges (chapters 01, 12). -/

namespace Sys2Proof.Machine

/-! ### Geometry (R3, R15, R16) -/

def Sku.dies : Sku → Nat
  | .dk2 => 2 | .dk4 => 4 | .dk8 => 8
def Sku.cores (k : Sku) : Nat := 64 * k.dies
def Sku.ports (k : Sku) : Nat := 4 * k.dies
def Sku.positions (k : Sku) : Nat := 5 * k.dies
/-- Core groups of the module (R15). -/
def Sku.groups (k : Sku) : Nat := 8 * k.dies
/-- Grid row and column of a die (R16). -/
def Sku.grid (k : Sku) (d : Nat) : Nat × Nat :=
  match k with
  | .dk2 => (0, d)
  | .dk4 => (d / 2, d % 2)
  | .dk8 => (d / 4, d % 4)

def natDist (a b : Nat) : Nat := (a - b) + (b - a)

/-- Bridges between two dies (R16). -/
def Sku.hops (k : Sku) (a b : Nat) : Nat :=
  natDist (k.grid a).1 (k.grid b).1 + natDist (k.grid a).2 (k.grid b).2

/-! ### Context slots -/

def State.ctx (s : State) (c : Slot) : Ctx := s.ctxs[c]
def State.setCtx (s : State) (c : Slot) (x : Ctx) : State := { s with ctxs := s.ctxs.set c x }
def State.modCtx (s : State) (c : Slot) (f : Ctx → Ctx) : State := s.setCtx c (f (s.ctx c))

/-- All slots, in ascending order. -/
def slots : List Slot := List.finRange 16

/-- Context id: slot in [3:0], generation in [11:4] (R276). -/
def State.ctxId (s : State) (c : Slot) : U16 := BitVec.ofNat 16 (c.val + 16 * (s.ctx c).gen.toNat)

/-- A slot that holds a context (R277). -/
def CtxState.holds : CtxState → Bool
  | .bound => true | .rebinding => true | .paused => true | .free => false | .releasing => false

/-- Module-wide core groups bound to a slot, ascending (R15). -/
def Ctx.groupList (x : Ctx) : List Nat := bitsOf x.groups.toNat 64
/-- Module-wide core numbers bound to a slot, ascending. -/
def Ctx.coreList (x : Ctx) : List Nat := x.groupList.flatMap (fun g => (List.range 8).map (8 * g + ·))
/-- The lowest-numbered die on which a context holds cores (R275). -/
def Ctx.servingDie (x : Ctx) : Option Nat := x.groupList.head?.map (· / 8)
def Ctx.sliceOn (x : Ctx) (die : Nat) : List Nat := bitsOf (x.slices.toNat / 2 ^ (20 * die)) 20
/-- Endpoints bound on a die (R277). -/
def Ctx.endpointsOn (x : Ctx) (die : Nat) : List Nat := bitsOf (x.endpoints.toNat / 2 ^ (16 * die)) 16

/-- The Meridian count as fields record it: all ones when none is held (R257). -/
def Meridian.held (m : Meridian) : Bool := m.state == 1 || m.state == 2
def State.meridianField (s : State) : U64 :=
  if s.mer.held then s.mer.count else 0xFFFFFFFFFFFFFFFF

/-! ### Bytes -/

/-- The key of a device-range byte. -/
def memKey (c : Slot) (a : Nat) : Nat := c.val * 2 ^ 48 + a

/-- A byte of the device ranges; an unlisted one reads zero (R242). -/
def memGet : List Host.Cell → Nat → Byte
  | [], _ => 0
  | (k, v) :: rest, key => if k = key then v else memGet rest key

/-- The canonical list with one byte written: a zero byte is not listed. -/
def memSet : List Host.Cell → Nat → Byte → List Host.Cell
  | [], key, v => if v = 0 then [] else [(key, v)]
  | (k, x) :: rest, key, v =>
    if key < k then (if v = 0 then (k, x) :: rest else (key, v) :: (k, x) :: rest)
    else if key = k then (if v = 0 then rest else (key, v) :: rest)
    else (k, x) :: memSet rest key v

/-- `bytes` written from `key` on. -/
def memWrite : List Host.Cell → Nat → Bytes → List Host.Cell
  | m, _, [] => m
  | m, key, b :: rest => memWrite (memSet m key b) (key + 1) rest

/-- The bytes without those in `lo ≤ key < hi`. -/
def memClear (m : List Host.Cell) (lo hi : Nat) : List Host.Cell :=
  m.filter (fun x => x.1 < lo || hi ≤ x.1)

/-- `n` bytes at a device-range address, as they stand. -/
def State.bytes (s : State) (c : Slot) (a n : Nat) : Bytes :=
  (List.range n).map (fun i => memGet s.mem (memKey c a + i))

/-- The little-endian number in `n` bytes at a device-range address. -/
def State.num (s : State) (c : Slot) (a n : Nat) : Nat := leNat (s.bytes c a n)

/-- The plate that holds an address is poisoned, or holds an uncorrectable error that a read of it meets (R234).
(open points: DEDUCED, log entry 59) -/
def State.poisoned (s : State) (c : Slot) (a : Nat) : Bool :=
  s.poison.contains (memKey c (a / 64 * 64)) || (kvGet s.tiers.latent (memKey c (a / 64 * 64))).any (· != .soft)

/-- A plate of flash whose read fails every retry, and that no reader has met (R237). -/
def State.flashBad (s : State) (c : Slot) (a : Nat) : Bool :=
  match kvGet s.tiers.latent (memKey c (a / 64 * 64)) with
  | some (.flash _) => true
  | _ => false

/-- Keys of the plates that no reader can read, rising. -/
def State.badKeys (s : State) : List Nat :=
  ((s.tiers.latent.filter (fun x => x.2 != .soft)).map (·.1)).foldl insertNat s.poison

/-- The first poisoned plate of a range. -/
def State.firstPoison (s : State) (c : Slot) (a n : Nat) : Option Nat :=
  (s.badKeys.find? (fun k => memKey c (a / 64 * 64) ≤ k && k < memKey c (a + n))).map (· - memKey c 0)

def State.setPoison (s : State) (c : Slot) (a : Nat) : State :=
  { s with poison := insertNat s.poison (memKey c (a / 64 * 64)) }

/-- The marks of the plates that lie wholly in a written range are cleared (R234). -/
def clearPoison (p : List Nat) (key n : Nat) : List Nat :=
  p.filter (fun k => !(key ≤ k && k + 64 ≤ key + n))

/-- So are the errors that lie in them. -/
def clearLatent (l : List (Nat × Latent)) (key n : Nat) : List (Nat × Latent) :=
  l.filter (fun x => !(key ≤ x.1 && x.1 + 64 ≤ key + n))

/-! ### Pages (R239 to R251) -/

def pageBytes : Nat := 2097152
def pageCount : Nat := 134217728
def rangeBytes : Nat := 281474976710656

def Ctx.page (x : Ctx) (p : Nat) : Option Page := kvGet x.pool.pages p

/-- A page is usable for operations and host accesses: allocated, and its FREE not pending (R242, R243). -/
def Ctx.usable (x : Ctx) (p : Nat) : Bool :=
  match x.page p with
  | some pg => !pg.freePending
  | none => false

/-- Every page of a range is usable; page 0 never is (R239). -/
def State.allocated (s : State) (c : Slot) (a n : Nat) : Bool :=
  n = 0 || (a + n ≤ rangeBytes &&
    (List.range ((a + n - 1) / pageBytes - a / pageBytes + 1)).all (fun i =>
      (s.ctx c).usable (a / pageBytes + i)))

/-- A range lies within the device range (R188, R192). -/
def inRange (a n : Nat) : Bool := a + n ≤ rangeBytes

/-- Bytes of a ring the host placed; an entry past the end of the range reads as zeros (R239). (open points: DEDUCED,
log entry 21) -/
def State.ringBytes (s : State) (c : Slot) (a n : Nat) : Bytes := if inRange a n then s.bytes c a n else zeros n

def Ctx.modPage (x : Ctx) (p : Nat) (f : Page → Page) : Ctx :=
  match kvGet x.pool.pages p with
  | none => x
  | some pg => { x with pool := { x.pool with pages := kvSet x.pool.pages p (f pg) } }

def State.modPage (s : State) (c : Slot) (p : Nat) (f : Page → Page) : State :=
  s.modCtx c (fun x => x.modPage p f)

/-- DDR5 frames a page takes on a die: its own, or its shadow's (R231). -/
def Tier.ddrOn (t : Tier) (d : Nat) : Bool :=
  match t with
  | .ddr d' => d' == d
  | .plate _ _ h => h == d
  | _ => false

def Tier.isDdr (t : Tier) : Bool := match t with | .ddr _ => true | .plate _ _ _ => true | _ => false
def Tier.isFlash (t : Tier) : Bool := match t with | .flash _ => true | _ => false
def Tier.isPlate (t : Tier) : Bool := match t with | .plate _ _ _ => true | _ => false

/-- Slice `sl` of die `d` holds it. -/
def Tier.inSlice (t : Tier) (d sl : Nat) : Bool :=
  match t with
  | .plate d' sl' _ => d' == d && sl' == sl
  | _ => false

/-- A page owns frames unless it only maps an image (R253). -/
def Page.owns (p : Page) : Bool := p.mapped.isNone

def Ctx.pagesWhere (x : Ctx) (f : Page → Bool) : Nat :=
  (x.pool.pages.filter (fun p => p.2.owns && f p.2)).length

def State.ddrUsedOn (s : State) (d : Nat) : Nat :=
  sumNat (fun c => (s.ctx c).pagesWhere (fun p => p.tier.ddrOn d ||
    (match p.moving with | some t => t.ddrOn d && !p.tier.ddrOn d | none => false))) slots
def State.flashUsedOn (s : State) (d : Nat) : Nat :=
  sumNat (fun c => (s.ctx c).pagesWhere (fun p => p.tier == .flash d)) slots

def DdrPosition.reset : DdrPosition :=
  { corrected := 0, uncorrectable := 0, framesRetired := 0, retired := false, outOfUse := false }

def State.position (s : State) (p : Nat) : DdrPosition := kvGetD s.tiers.positions p .reset

/-- Stopped until a cold start: the compute, DDR5 and flash of every die are off (R369, R426, R427). -/
def Life.dead : Life → Bool
  | .stopped => true
  | .cut _ => true
  | _ => false

/-- A die that is running: it started, is not out of service, and the module is not stopped (R287, R369, R406).
(open points: DESIGN CHOICE, log entry 49) -/
def State.dieRuns (s : State) (d : Nat) : Bool :=
  !s.boot.life.dead && d < s.sku.dies && !s.res.notStarted.getLsbD d && s.res.dieOut != some d

/-- The flash of a die can be read and written: the die runs, and its spare blocks are not exhausted, with which
its flash counts as failed (R238, R287). (open points: DESIGN CHOICE, log entry 49) -/
def State.flashUp (s : State) (d : Nat) : Bool :=
  s.dieRuns d && (kvGet s.tiers.flash d).all (fun x => x.sparePct != 0)

/-- The flash of a die as it left the factory: its spare is a free percentage that is not yet exhausted.
(open points: DEDUCED, log entry 59) -/
def FlashDie.reset (d : Nat) : FlashDie :=
  { sparePct := BitVec.ofNat 8 (1 + (Config.flashSpare d).toNat % 100), wearPct := 0, readRetries := 0, readFails := 0, bytesWritten := 0 }

def State.flashDie (s : State) (d : Nat) : FlashDie := kvGetD s.tiers.flash d (.reset d)

/-- DDR5 pool pages of a die: a retired position or one out of use takes a fifth of them
(R230, R289, R406; DESIGN CHOICE, log entry 6). -/
def State.ddrCapOn (s : State) (d : Nat) : Nat :=
  if d < s.sku.dies then
    171008 - 34201 * ((List.range 5).filter (fun i =>
      (s.position (5 * d + i)).retired || (s.position (5 * d + i)).outOfUse)).length
  else 0
/-- Flash pool pages of a die; none once its spare is exhausted and its flash counts as failed (R230, R238).
(open points: DEDUCED, log entry 59) -/
def State.flashCapOn (s : State) (d : Nat) : Nat :=
  if d < s.sku.dies && (kvGet s.tiers.flash d).all (fun x => x.sparePct != 0) then 3000000 else 0

def State.ddrFreeOn (s : State) (d : Nat) : Nat := s.ddrCapOn d - s.ddrUsedOn d

/-- Dies in order of distance from `d`, lowest number first (R248). -/
def State.diesFrom (s : State) (d : Nat) : List Nat :=
  sortBy (fun x => s.sku.hops d x * 16 + x) (List.range s.sku.dies)

/-- The home die of a page (R246). -/
def homeOf (dies p : Nat) (pg : Page) : Nat :=
  match pg.home with
  | some d => d
  | none => if pg.hint.toNat < dies then pg.hint.toNat else p % dies

/-- RESIDENT pages of a slot that are not in the plate store, lowest address first. -/
def Ctx.residentWaiting (x : Ctx) : List Nat :=
  (x.pool.pages.filter (fun q => q.2.cls == .resident && q.2.ledgerPin.isNone && !q.2.tier.isPlate &&
    q.2.tier != .unbacked)).map (·.1)

/-- The die whose slices of a slot take a page with home die `d` (R246); none while the context is paused or the die
does not run (R279, R287). (open points: DESIGN CHOICE, log entry 58) -/
def State.sliceDie (s : State) (c : Slot) (d : Nat) : Option Nat :=
  let x := s.ctx c
  if x.st = .paused || x.pausing then none
  else
    (if (x.sliceOn d).isEmpty then (List.range s.sku.dies).find? (fun d' => !(x.sliceOn d').isEmpty)
     else some d).filter s.dieRuns

/-- A page in the flash of a die that cannot be reached. (open points: DESIGN CHOICE, log entry 49) -/
def State.flashLost (s : State) (t : Tier) : Bool := match t with | .flash d => !s.flashUp d | _ => false

/-- A page waits for a frame of the slices on die `d`, and could take one. -/
def State.waitsFor (s : State) (c : Slot) (d p : Nat) : Bool :=
  match (s.ctx c).page p with
  | none => false
  | some pg => pg.moving.isNone && !pg.freePending && pg.owns && !s.flashLost pg.tier &&
      s.sliceDie c (homeOf s.sku.dies p pg) == some d

/-- A free frame of the slices a slot binds for a page with home die `d` (R246, R251). -/
def State.sliceFrame (s : State) (c : Slot) (d : Nat) : Option (Nat × Nat) :=
  let x := s.ctx c
  (s.sliceDie c d).bind (fun d' =>
    ((x.sliceOn d').find? (fun sl => x.pagesWhere (fun p => p.tier.inSlice d' sl) < 8)).map (d', ·))

/-- Free frames of a slot's slices on a die. -/
def State.slicesFree (s : State) (c : Slot) (d : Nat) : Nat :=
  let x := s.ctx c
  sumNat (fun sl => 8 - x.pagesWhere (fun p => p.tier.inSlice d sl)) (x.sliceOn d)

/-- The frame that page `p` takes when it is touched or first written: one that no waiting page goes before it for. Pages
that wait are served in address order, and one that does not wait yet comes after them (R251).
(open points: DESIGN CHOICE, log entry 58) -/
def State.sliceTurn (s : State) (c : Slot) (p : Nat) (pg : Page) : Option (Nat × Nat) :=
  let d := homeOf s.sku.dies p pg
  (s.sliceDie c d).bind (fun d' =>
    let ahead := (s.ctx c).residentWaiting.filter (fun q =>
      q != p && (pg.tier == .unbacked || q < p) && s.waitsFor c d' q)
    if ahead.length < s.slicesFree c d' then s.sliceFrame c d else none)

/-- Pages that may be evicted, with their age key (R247, R248). (open points: DESIGN CHOICE, log entry 58) -/
def State.evictable (s : State) : List (Slot × Nat) :=
  let cand := slots.flatMap (fun c =>
    let x := s.ctx c
    if x.pagesWhere (fun p => p.tier.isDdr) ≤ x.pool.floorDdr.toNat then []
    else (x.pool.pages.filter (fun q =>
      q.2.owns && q.2.moving.isNone && s.flashUp (homeOf s.sku.dies q.1 q.2) &&
      (match q.2.tier with | .ddr _ => true | _ => false) &&
      (q.2.cls == .auto || q.2.cls == .resident) && q.2.ledgerPin.isNone &&
      q.2.touched != s.ident.operatingMs)).map (fun q => (q.2.touched.toNat, c, q.1)))
  (sortBy (fun q => q.1) cand).map (fun q => q.2)

/-- A plate that lies in a DDR5 frame. -/
def State.inDdr (s : State) (c : Slot) (a : Nat) : Bool :=
  match (s.ctx c).page (a / pageBytes) with
  | some g => (match g.tier with | .ddr _ => true | _ => false)
  | none => false

/-- The DDR5 position that holds a plate (R232, R291): plates interleave over the live sub-channels of the home die. -/
def State.positionOf (s : State) (c : Slot) (a : Nat) : Nat :=
  let p := a / pageBytes
  let d := match (s.ctx c).page p with | some g => homeOf s.sku.dies p g | none => p % s.sku.dies
  let live := (List.range 5).filter (fun i => !(s.position (5 * d + i)).retired)
  let k := (a % pageBytes) / 64
  5 * d + live.getD (k % (2 * live.length) / 2) 0

def State.modPosition (s : State) (p : Nat) (f : DdrPosition → DdrPosition) : State :=
  { s with tiers := { s.tiers with positions := kvSet s.tiers.positions p (f (s.position p)) } }

/-- An uncorrectable plate is counted in its position's record, and its DDR5 frame is to be retired; a word of the
plate store has no position (R231, R234, R255). (open points: DEDUCED, log entry 59) -/
def State.countBad (s : State) (c : Slot) (a : Nat) : State :=
  if s.inDdr c a then
    let pos := s.positionOf c a
    let key := c.val * pageCount + a / pageBytes
    let s := s.modPosition pos (fun x => { x with uncorrectable := x.uncorrectable + 1 })
    if (kvGet s.tiers.bad key).isSome then s
    else { s with tiers := { s.tiers with bad := kvSet s.tiers.bad key pos } }
  else s

/-- A corrected plate is counted, whichever reader met it (R233). (open points: DEDUCED, log entry 59) -/
def State.scrubCorrected (s : State) (q : Slot × Nat) : State :=
  if s.inDdr q.1 q.2 then
    s.modPosition (s.positionOf q.1 q.2) (fun x => { x with corrected := x.corrected + 1 })
  else s

/-- A read of a range corrects the plates with correctable errors in it, and counts them (R233).
(open points: DEDUCED, log entry 59) -/
def State.correct (s : State) (c : Slot) (a n : Nat) : State :=
  (s.tiers.latent.filter (fun x => x.2 == .soft && memKey c (a / 64 * 64) ≤ x.1 && x.1 < memKey c (a + n))).foldl
    (fun s x => ({ s with tiers := { s.tiers with latent := kvErase s.tiers.latent x.1 } } : State).scrubCorrected
      (c, x.1 - memKey c 0)) s

/-- A plate in flash whose read failed every retry is marked and counted (R237). -/
def State.flashPoison (s : State) (d : Nat) (c : Slot) (a : Nat) : State :=
  let x := s.flashDie d
  let s := s.setPoison c a
  { s with tiers := { s.tiers with
      latent := kvErase s.tiers.latent (memKey c (a / 64 * 64))
      flash := kvSet s.tiers.flash d { x with readFails := x.readFails + 1 } } }

/-- A read or a migration meets the plate: an error no one has met before is counted, and marked from then on (R234,
R237). (open points: DEDUCED, log entry 59) -/
def State.meet (s : State) (c : Slot) (a : Nat) : State :=
  let key := memKey c (a / 64 * 64)
  match kvGet s.tiers.latent key with
  | some .hard => ({ s with tiers := { s.tiers with latent := kvSet s.tiers.latent key .met } } : State).countBad c a
  | some (.flash d) => s.flashPoison d c a
  | _ => s

/-- A migration copies every plate of a page; of a page that comes up from flash, the reader that the move serves, or
the first after it, meets what cannot be read (R234, R237). (open points: DEDUCED, log entry 59) -/
def State.meetPage (s : State) (c : Slot) (p : Nat) : State :=
  let s := s.correct c (p * pageBytes) pageBytes
  ((s.tiers.latent.filter (fun x => x.2 == .hard && memKey c (p * pageBytes) ≤ x.1 &&
    x.1 < memKey c ((p + 1) * pageBytes)))).foldl (fun s x => s.meet c (x.1 - memKey c 0)) s

/-- A page leaves its DDR5 frame: one that held an uncorrectable plate is retired and replaced from the reserve of
its die, 256 frames (R234). -/
def State.leaveFrame (s : State) (c : Slot) (p : Nat) : State :=
  let s := s.meetPage c p
  let key := c.val * pageCount + p
  match kvGet s.tiers.bad key with
  | none => s
  | some q =>
    let x := s.position q
    let n := kvGetD s.tiers.reservedUsed (q / 5) 0 + 1
    let t := s.tiers
    { s with tiers := { t with
        positions := kvSet t.positions q { x with framesRetired := x.framesRetired + 1 }
        reservedUsed := kvSet t.reservedUsed (q / 5) n
        limitDue := if 256 < n then t.limitDue ++ [q] else t.limitDue
        bad := kvErase t.bad key } }

/-- A DDR5 frame for a page with home die `d`: free at home, free on the nearest die, or that of the oldest
page that may be evicted, which moves to flash (R248). (open points: DESIGN CHOICE, log entry 58) -/
def State.ddrFrame (s : State) (d : Nat) : State × Option Nat :=
  match (s.diesFrom d).find? (fun x => 0 < s.ddrFreeOn x) with
  | some x => (s, some x)
  | none =>
    match s.evictable with
    | [] => (s, none)
    | (c, p) :: _ =>
      let x := s.ctx c
      match x.page p with
      | none => (s, none)
      | some pg =>
        let die := match pg.tier with | .ddr y => some y | _ => none
        let s := (s.leaveFrame c p).modCtx c (fun x =>
          let x := x.modPage p (fun g => { g with tier := .flash (homeOf s.sku.dies p g) })
          { x with pool := { x.pool with evicted := x.pool.evicted + 1 } })
        (s, die)

/-- A page without a frame gets none: it belongs in the flash of its home die, by its class or since no DDR5 frame can
be had, and that flash cannot be reached (R238, R240, R248, R287). (open points: DESIGN CHOICE, log entry 49) -/
def State.noFrame (s : State) (p : Nat) (pg : Page) : Bool :=
  let d := homeOf s.sku.dies p pg
  pg.tier == .unbacked && pg.owns && !s.flashUp d &&
    ((pg.cls == .cold && pg.ledgerPin.isNone) || (s.ddrFrame d).2.isNone)

/-- An access to a page waits for the flash of its home die (R287). (open points: DESIGN CHOICE, log entry 49) -/
def State.pageWaits (s : State) (p : Nat) (pg : Page) : Bool := s.flashLost pg.tier || s.noFrame p pg

/-- An access to a range waits: a page of it lies, or would have to lie, in flash that cannot be reached (R287).
(open points: DESIGN CHOICE, log entry 49) -/
def State.flashWaits (s : State) (c : Slot) (a n : Nat) : Bool :=
  (s.ctx c).pool.pages.any (fun q => a < (q.1 + 1) * pageBytes && q.1 * pageBytes < a + n && s.pageWaits q.1 q.2)

/-- A page's frame lies, or would have to lie, in flash that cannot be reached.
(open points: DESIGN CHOICE, log entry 49) -/
def State.lostPage (s : State) (c : Slot) (p : Nat) : Bool := ((s.ctx c).page p).any (s.pageWaits p)

/-- Where a page goes that needs a frame by its class: the first write of it, or its move up
(R240, R242, R246, R248, R251). `stay`: the tier it keeps when no frame can be had.
(open points: DESIGN CHOICE, log entry 58) -/
def State.placePage (s : State) (c : Slot) (p : Nat) (pg : Page) (stay : Tier) : State :=
  let d := homeOf s.sku.dies p pg
  let put := fun (s : State) (t : Tier) => s.modPage c p (fun g => { g with tier := t, home := some d })
  if s.noFrame p pg then s
  else if pg.cls = .cold && pg.ledgerPin.isNone then put s (.flash d)
  else
    let (s', f) := s.ddrFrame d
    match f with
    | none => put s stay
    | some fd =>
      if pg.cls = .resident && pg.ledgerPin.isNone then
        match s'.sliceTurn c p pg with
        | some (pd, sl) => put s' (.plate pd sl fd)
        | none => put s' (.ddr fd)
      else put s' (.ddr fd)

/-- The page whose move is done lies in its new frame; its contents and marks travel with it. A page that leaves a
DDR5 frame that held an uncorrectable plate retires it, also where the frame would stay as its shadow: a reserved frame
takes its place (R231, R234). (open points: DESIGN CHOICE, log entry 58) -/
def State.switchPage (s : State) (c : Slot) (p : Nat) (pg : Page) (t : Tier) : State :=
  let s := match pg.tier with
    | .ddr _ => if pg.tier = t then s else s.leaveFrame c p
    | _ => s.meetPage c p
  s.modPage c p (fun g => { g with tier := t, moving := none })

/-- A RESIDENT page that is touched in DDR5 moves into a free frame of the context's slices; its frame stays behind
as its shadow (R231, R251). -/
def State.touchResident (s : State) (c : Slot) (p : Nat) (pg : Page) (x : Nat) : State :=
  match s.sliceTurn c p pg with
  | some (d, sl) => (s.leaveFrame c p).modPage c p (fun g => { g with tier := .plate d sl x, moving := none })
  | none => s

/-- What a touch does to a page: its age is renewed, a move down to flash is abandoned, an AUTO page in
flash, or a RESIDENT or PINNED one, moves up on demand before it is read or written, and a RESIDENT page in DDR5
moves into the plate store when a slice frame is free (R240, R247, R249, R250, R251). A page that is moving up
already is read in its source frame until the switch (R250).
(open points: DESIGN CHOICE, log entry 58) -/
def State.touchPage (s : State) (c : Slot) (p : Nat) : State :=
  match (s.ctx c).page p with
  | none => s
  | some pg =>
    let s := s.modPage c p (fun g => { g with
      touched := s.ident.operatingMs
      moving := match g.moving with | some (.flash _) => none | m => m })
    match pg.tier with
    | .flash d =>
      if pg.owns && pg.moving.all Tier.isFlash && s.flashUp d && (pg.cls != .cold || pg.ledgerPin.isSome) then
        s.placePage c p pg (.flash d) else s
    | .ddr x =>
      if pg.cls = .resident && pg.ledgerPin.isNone && pg.owns then s.touchResident c p pg x else s
    | _ => s

/-- The bytes of one page that an image's sections still lack are copied from the page (R226).
(open points: DEDUCED, log entry 43) -/
def Image.capture (m : List Host.Cell) (c : Slot) (p : Nat) (img : Image) : Image :=
  let lo := p * pageBytes
  let cells := img.sections.flatMap (fun sec =>
    let a := Nat.max lo sec.src
    let b := Nat.min (lo + pageBytes) (sec.src + sec.length)
    if sec.src = 0 then []
    else (m.filter (fun x => memKey c a ≤ x.1 && x.1 < memKey c b)).map (fun x =>
      (sec.offset + (x.1 - memKey c sec.src), x.2)))
  { img with data := cells.foldl (fun d x => memSet d x.1 x.2) img.data, left := img.left.erase p }

/-- The capture of a slot in progress, if any, takes the page first (R226). (open points: DEDUCED, log entry 43) -/
def State.captureFirst (s : State) (c : Slot) (p : Nat) : State :=
  { s with images := s.images.map (fun img =>
      if !img.committed && img.owner == s.ctxId c && img.left.contains p then img.capture s.mem c p
      else img) }

/-- Everything a write does to one page before its bytes land: capture, first frame, touch
(R226, R242, R247). A write during a move up waits for its switch, which comes before the write's bytes land (R250).
(open points: DESIGN CHOICE, log entry 58) -/
def State.writePage (s : State) (c : Slot) (p : Nat) : State :=
  let s := s.captureFirst c p
  let s := s.touchPage c p
  match (s.ctx c).page p with
  | none => s
  | some pg =>
    if pg.tier = .unbacked then s.placePage c p pg (.flash (homeOf s.sku.dies p pg))
    else
      match pg.tier, pg.moving with
      | .flash _, some t => s.switchPage c p pg t
      | _, _ => s

/-- Pages that a range of bytes meets. -/
def pagesOf (a n : Nat) : List Nat :=
  if n = 0 then [] else (List.range ((a + n - 1) / pageBytes - a / pageBytes + 1)).map (a / pageBytes + ·)

/-- A page shows an image read-only (R229). -/
def State.shows (s : State) (c : Slot) (p : Nat) : Bool :=
  match (s.ctx c).page p with
  | some pg => pg.mapped.isSome
  | none => false

/-- So does the page of an address. -/
def State.readOnly (s : State) (c : Slot) (a : Nat) : Bool := s.shows c (a / pageBytes)

/-- The bytes of a store that fall in page `p`, and where they begin. -/
def pagePart (a : Nat) (b : Bytes) (p : Nat) : Nat × Bytes :=
  let lo := Nat.max a (p * pageBytes)
  (lo, (b.drop (lo - a)).take ((p + 1) * pageBytes - lo))

/-- Bytes land: pages as above, then the bytes, then the marks of plates written whole (R234). -/
def State.land (s : State) (c : Slot) (a : Nat) (b : Bytes) : State :=
  let s := (pagesOf a b.length).foldl (fun s p => s.writePage c p) s
  { s with mem := memWrite s.mem (memKey c a) b, poison := clearPoison s.poison (memKey c a) b.length
           tiers := { s.tiers with latent := clearLatent s.tiers.latent (memKey c a) b.length } }

/-- Bytes written to the device range of a slot. A page that shows an image is not changed: of a store that meets one,
only the bytes in its other pages land (R229, R253). No byte lies past the range (R239).
(open points: DEDUCED, log entry 54) -/
def State.store (s : State) (c : Slot) (a : Nat) (b : Bytes) : State :=
  if rangeBytes < a + b.length then s
  else if !(pagesOf a b.length).any (s.shows c) then s.land c a b
  else
    ((pagesOf a b.length).filter (fun p => !s.shows c p)).foldl (fun s p =>
      let q := pagePart a b p
      s.land c q.1 q.2) s

/-- A read touches its pages, and corrects what it can (R233, R247). -/
def State.touch (s : State) (c : Slot) (a n : Nat) : State :=
  ((pagesOf a n).foldl (fun s p => s.touchPage c p) s).correct c a n

/-- Bytes written with byte enables: pairs of offset and byte. A plate is merged at its home.
(open points: DEDUCED, log entry 54) -/
def State.storeAt (s : State) (c : Slot) (a : Nat) (b : List (Nat × Byte)) : State :=
  let hi := maxNat (fun x => x.1 + 1) b
  if s.readOnly c a || rangeBytes < a + hi then s
  else
  let s := (pagesOf a hi).foldl (fun s p => s.writePage c p) s
  { s with mem := b.foldl (fun m x => memSet m (memKey c a + x.1) x.2) s.mem }

/-! ### Registers of the core, as sparse tables with their resets -/

def EngineWatch.reset : EngineWatch :=
  { flags := 0, inexact := 0, underflow := 0, overflow := 0, invalid := 0, valid := false, first := none }

/-- The next free value of the run (a value the spec leaves open). (open points: DESIGN CHOICE, log entry 2) -/
def State.draw (s : State) : State × U64 :=
  ({ s with freeCtr := s.freeCtr + 1 }, Config.freeValue s.freeCtr)

/-- Free bytes, eight to a free value. (open points: DESIGN CHOICE, log entry 2) -/
def State.drawBytes (s : State) (n : Nat) : State × Bytes :=
  ({ s with freeCtr := s.freeCtr + ceilDiv n 8 },
   (List.range n).map (fun i => BitVec.ofNat 8 ((Config.freeValue (s.freeCtr + i / 8)).toNat / 256 ^ (i % 8))))

/-- A stretch of memory that the spec leaves undefined holds free bytes. (open points: DESIGN CHOICE, log entry 30) -/
def State.undefine (s : State) (c : Slot) (a n : Nat) : State :=
  let q := s.drawBytes n
  q.1.store c a q.2

end Sys2Proof.Machine
end

