-- ==== Sys2Proof/Machine/Links.lean ====
section
/-! DEFINITION. The link layer of the Lamunem fabric as every family uses it: packets and their slots, codewords,
sending on a port, routes (R312 to R316, R318 to R323). -/

namespace Sys2Proof

open Sys2Proof.Machine

/-! ### Packets (R314, R323) -/

/-- The 64 bytes of a header slot (R323). -/
def Packet.header (p : Packet) : Bytes :=
  bvLe 1 p.kind ++ natLe 1 p.data.length ++ bvLe 1 p.hops ++ [0] ++ bvLe 4 p.dest ++ bvLe 4 p.src ++
    bvLe 2 p.destContext ++ bvLe 2 p.srcContext ++ bvLe 8 p.address ++ bvLe 4 p.opTag ++ bvLe 2 p.group ++
    bvLe 2 p.status ++ bvLe 4 p.collSeq ++ bvLe 1 p.ckind ++
    natLe 1 (p.redop.toNat + (if p.order then 4 else 0)) ++ zeros 2 ++ bvLe 4 p.count ++ bvLe 4 p.peer ++
    bvLe 8 p.value ++ zeros 8

/-- The header fields of a slot, with its data slots. -/
def Packet.parse (h : Bytes) (data : List Bytes) : Packet :=
  { kind := fieldBv 8 h 0 1, hops := fieldBv 8 h 2 1, dest := fieldBv 24 h 4 4, src := fieldBv 24 h 8 4,
    destContext := fieldBv 16 h 12 2, srcContext := fieldBv 16 h 14 2, address := fieldBv 64 h 16 8,
    opTag := fieldBv 32 h 24 4, group := fieldBv 16 h 28 2, status := fieldBv 16 h 30 2,
    collSeq := fieldBv 32 h 32 4, ckind := fieldBv 8 h 36 1, redop := fieldBv 2 h 37 1,
    order := (field h 37 1).testBit 2, count := fieldBv 32 h 40 4, peer := fieldBv 32 h 44 4,
    value := fieldBv 64 h 48 8, data := data }

def Packet.slots (p : Packet) : Nat := 1 + p.data.length

/-- A packet with everything but its kind and addresses at its default. -/
def Packet.blank : Packet :=
  { kind := 0, hops := 0, dest := 0, src := 0, destContext := 0, srcContext := 0, address := 0, opTag := 0,
    group := 0, status := 0, collSeq := 0, ckind := 0, redop := 0, order := false, count := 0, peer := 0,
    value := 0, data := [] }

/-- The answer to a packet: an ACK or LOSS to its source with a status. -/
def Packet.reply (p : Packet) (kind : U8) (src : BitVec 24) (status : U16) : Packet :=
  { Packet.blank with
    kind := kind, dest := p.src, src := src, destContext := p.srcContext, srcContext := p.destContext
    opTag := p.opTag, group := p.group, status := status }

/-- A WRITE of one word carries COUNT 8 and its bytes first in its one data slot (DESIGN CHOICE, log
entry 10). -/
def Packet.isWord (p : Packet) : Bool := p.count == 8

/-- What a WRITE stores. (open points: DESIGN CHOICE, log entry 10) -/
def Packet.payload (p : Packet) : Bytes :=
  if p.isWord then (p.data.getD 0 []).take 8 else p.data.flatMap id

/-! ### LINK_CTRL and beacon slots (R314, R318) -/

/-- A LINK_CTRL slot. -/
def LinkCtrl.slot (c : LinkCtrl) : Bytes :=
  [1] ++ bvLe 2 c.ackSeq ++ natLe 1 (if c.nak then 1 else 0) ++ bvLe 2 c.credit0 ++ bvLe 2 c.credit1 ++
    bvLe 2 c.credit2 ++ zeros 54

def LinkCtrl.parse (b : Bytes) : LinkCtrl :=
  { ackSeq := fieldBv 12 b 1 2, nak := (field b 3 1).testBit 0, credit0 := fieldBv 16 b 4 2
    credit1 := fieldBv 16 b 6 2, credit2 := fieldBv 16 b 8 2 }

/-- A beacon slot. -/
def Beacon.slot (b : Beacon) : Bytes :=
  [0] ++ bvLe 1 b.tickCode ++ bvLe 1 b.hops ++ [0] ++ bvLe 4 b.root ++ bvLe 8 b.count ++ bvLe 4 b.agePs ++ zeros 44

def Beacon.parse (port : Fin 32) (b : Bytes) : Beacon :=
  { port := some port, tickCode := fieldBv 3 b 1 1, hops := fieldBv 8 b 2 1, root := fieldBv 32 b 4 4
    count := fieldBv 64 b 8 8, agePs := fieldBv 32 b 16 4 }

end Sys2Proof

namespace Sys2Proof.Machine

def State.emit (s : State) (o : Out) : State := { s with out := s.out ++ [o] }

/-! ### Ports -/

def State.port (s : State) (n : Nat) : Port := kvGetD s.fab.ports n .reset
def State.setPort (s : State) (n : Nat) (p : Port) : State :=
  { s with fab := { s.fab with ports := kvSet s.fab.ports n p } }
def State.modPort (s : State) (n : Nat) (f : Port → Port) : State := s.setPort n (f (s.port n))

/-! ### Slots and packets (R313, R314, R323) -/

def kindLoss : U8 := 0x31
def kindAck : U8 := 0x30

/-- Virtual channel of a packet kind (R314). -/
def vcOf (kind : U8) : Nat := if kind = 0x40 then 0 else if kind = 0x30 || kind = 0x31 then 2 else 1

/-- The slot kinds (R314). -/
def slotKinds : List Nat := [0x00, 0x01, 0x10, 0x11, 0x20, 0x21, 0x30, 0x31, 0x40]

/-- What a slot stream holds: its whole packets, its LINK_CTRL slots, the slots left over, and whether a slot has a kind
that is none (a framing error, R314). -/
structure SlotRun where
  packets : List Packet
  ctrls : List LinkCtrl
  left : List Bytes
  bad : Bool
  deriving DecidableEq, Repr

/-- A slot stream from its front; IDLE is filler. `fuel`: slots. -/
def takeSlots : Nat → List Bytes → SlotRun
  | 0, ss => { packets := [], ctrls := [], left := ss, bad := false }
  | _ + 1, [] => { packets := [], ctrls := [], left := [], bad := false }
  | fuel + 1, h :: rest =>
    let kind := field h 0 1
    if !slotKinds.contains kind then { packets := [], ctrls := [], left := [], bad := true }
    else if kind = 0 then takeSlots fuel rest
    else if kind = 1 then
      let r := takeSlots fuel rest
      { r with ctrls := LinkCtrl.parse h :: r.ctrls }
    else
      let n := field h 1 1
      if rest.length < n then { packets := [], ctrls := [], left := h :: rest, bad := false }
      else
        let r := takeSlots fuel (rest.drop n)
        { r with packets := Packet.parse h (rest.take n) :: r.packets }

/-! ### Addresses (R319, R322) -/

/-- Endpoint `e` of die `d` of this module. -/
def State.endpointAddr (s : State) (d e : Nat) : BitVec 24 :=
  BitVec.ofNat 24 (128 * s.fab.moduleNumber.toNat + 16 * d + e)

def destModule (a : BitVec 24) : Nat := a.toNat / 128
def destDie (a : BitVec 24) : Nat := (a.toNat / 16) % 8
def destEndpoint (a : BitVec 24) : Nat := a.toNat % 16

/-- The die address a die sends when its port trains: all ones while no number is assigned (R322). -/
def State.dieAddr (s : State) (d : Nat) : U32 :=
  if s.fab.moduleNumber = 0xFFFFFFFF then 0xFFFFFFFF else BitVec.ofNat 32 (8 * s.fab.moduleNumber.toNat + d)

/-- An address of this module (R322). -/
def State.isMine (s : State) (a : BitVec 24) : Bool :=
  s.fab.moduleNumber != 0xFFFFFFFF && destModule a == s.fab.moduleNumber.toNat

/-! ### Sending on a port (R312, R313, R315, R316) -/

def Port.credit (p : Port) (vc : Nat) : Nat := match vc with | 0 => p.credit0 | 1 => p.credit1 | _ => p.credit2
def Port.spend (p : Port) (vc n : Nat) : Port :=
  match vc with
  | 0 => { p with credit0 := p.credit0 - n }
  | 1 => { p with credit1 := p.credit1 - n }
  | _ => { p with credit2 := p.credit2 - n }

def idleSlot : Bytes := zeros 64

/-- Slots cut into codewords of ten, the last filled with IDLE. -/
def cutTen : Nat → List Bytes → List (List Bytes)
  | 0, _ => []
  | fuel + 1, ss =>
    if ss.isEmpty then []
    else
      let a := ss.take 10
      (a ++ List.replicate (10 - a.length) idleSlot) :: cutTen fuel (ss.drop 10)

/-- SEQ moves on by one, with its wraps. -/
def nextSeq (seq : BitVec 12) (wraps : Nat) : BitVec 12 × Nat := (seq + 1, if seq = 0xFFF then wraps + 1 else wraps)

/-- The sequence number of a codeword sent, or next to be sent: at most 2,048 lie before that (R313, R315). -/
def Port.txNumber (p : Port) (seq : BitVec 12) : Nat := 4096 * p.txWraps + p.txSeq.toNat - (p.txSeq - seq).toNat

/-- The sequence number of a codeword received: the one of its SEQ nearest to the one expected (R313, R315). -/
def Port.rxNumber (p : Port) (seq : BitVec 12) : Nat :=
  let n := 4096 * p.rxWraps + p.rxSeq.toNat
  if (seq - p.rxSeq).toNat < 2048 then n + (seq - p.rxSeq).toNat else n - (p.rxSeq - seq).toNat

/-- LLANE of a codeword, and the physical lane that carries it (R312, R313). -/
def Port.llane (p : Port) (seq : BitVec 12) : Nat := p.txNumber seq % p.width.toNat
def Port.laneOf (p : Port) (seq : BitVec 12) : Nat := (bitsOf p.live.toNat 8).getD (p.llane seq) 0

/-- The link header: SEQ, LLANE, BEACON, and BSLOT 0 (R313). -/
def linkHeader (seq : BitVec 12) (llane : Nat) (beacon : Bool) : BitVec 20 :=
  seq ++ BitVec.ofNat 3 llane ++ BitVec.ofBool beacon ++ (0 : BitVec 4)

/-- A kept codeword goes out, now or again (R312, R313, R315). -/
def State.putWord (s : State) (n : Nat) (w : SentWord) : State :=
  let p := s.port n
  s.emit (.codeword n (p.laneOf w.seq) (linkHeader w.seq (p.llane w.seq) w.beacon) w.slots)

/-- One codeword leaves the port and is kept for replay. -/
def State.sendCodeword (s : State) (n : Nat) (beacon : Bool) (slots : List Bytes) : State :=
  let p := s.port n
  let w : SentWord := { seq := p.txSeq, beacon := beacon, slots := slots }
  let q := nextSeq p.txSeq p.txWraps
  (s.setPort n { p with txSeq := q.1, txWraps := q.2, replay := p.replay ++ [w] }).putWord n w

/-- The port may send a new codeword (R315). -/
def Port.room (p : Port) : Bool := p.state == 2 && p.replay.length < 2048

/-- The beacon of the last boundary goes out in the first codeword on each live lane (R318); its age is not the model's
to know. `k`: codewords due. (open points: DEDUCED, log entry 70) -/
def State.putBeacons (s : State) (n : Nat) : Nat → State
  | 0 => s
  | k + 1 =>
    match (s.port n).beacon with
    | none => s
    | some b =>
      if !(s.port n).room || (s.port n).beaconDue = 0 then s
      else
        let (s, v) := s.draw
        let s := s.modPort n (fun p => { p with beaconDue := p.beaconDue - 1 })
        (s.sendCodeword n true (({ b with agePs := v.setWidth 32 } : Beacon).slot :: List.replicate 9 idleSlot)).putBeacons n k

/-- An acknowledgement that is due goes out, with the credits owed (R314 to R316). (open points: DEDUCED, log entry
70) -/
def State.putCtrl (s : State) (n : Nat) : State :=
  let p := s.port n
  match p.ctrlDue with
  | none => s
  | some nak =>
    if !p.room then s
    else
      let c : LinkCtrl := { ackSeq := p.rxSeq - 1, nak := nak, credit0 := BitVec.ofNat 16 p.owed0
                            credit1 := BitVec.ofNat 16 p.owed1, credit2 := BitVec.ofNat 16 p.owed2 }
      (s.setPort n { p with ctrlDue := none, sinceAck := 0, owed0 := 0, owed1 := 0, owed2 := 0 }).sendCodeword n false
        (c.slot :: List.replicate 9 idleSlot)

/-- Does a port issue a packet now: up, with credits for all its slots, and room to replay it. -/
def Port.canSend (p : Port) (pk : Packet) : Bool :=
  p.state == 2 && pk.slots ≤ p.credit (vcOf pk.kind) && p.replay.length + ceilDiv pk.slots 10 ≤ 2048

/-- A packet leaves: its credits are spent and its codewords go out. -/
def State.issue (s : State) (n : Nat) (pk : Packet) : State :=
  let s := s.modPort n (fun p => p.spend (vcOf pk.kind) pk.slots)
  let s := (cutTen 4 (pk.header :: pk.data)).foldl (fun s c => s.sendCodeword n false c) s
  s.modPort n (fun p => { p with inFlight := p.inFlight ++ [(p.txSeq - 1, pk)] })

/-- What a port may send leaves it: the beacon and an acknowledgement that are due; then waiting packets, oldest first
on each channel; one that cannot go holds back the later ones of its channel only (R316). -/
def State.pumpPort (s : State) (n : Nat) : State :=
  let step := fun (acc : State × List Packet × List Nat) (pk : Packet) =>
    let (s, held, blocked) := acc
    if blocked.contains (vcOf pk.kind) || !(s.port n).canSend pk then
      (s, held ++ [pk], vcOf pk.kind :: blocked)
    else (s.issue n pk, held, blocked)
  let s := (s.putBeacons n (s.port n).beaconDue).putCtrl n
  let ws := (s.port n).waiting
  let (s, held, _) := ws.foldl step (s.modPort n (fun p => { p with waiting := [] }), [], [])
  s.modPort n (fun p => { p with waiting := held ++ p.waiting })

/-- Open points: DEDUCED, log entry 70. -/
def State.countDropped (s : State) : State := { s with fab := { s.fab with dropped := s.fab.dropped + 1 } }

/-! ### Routing (R320, R321) -/

/-- The port of a route byte, when it is valid and up (or training). -/
def State.routePort (s : State) (b : Nat) : Option Nat :=
  let n := b % 32
  let st := (s.port n).state
  if b / 128 = 1 && n < s.sku.ports && (st == 1 || st == 2) then some n else none

def State.routeTo (s : State) (m : Nat) : Option Nat :=
  let e := (kvGetD s.fab.routes m 0).toNat
  (s.routePort (e % 256)).orElse (fun _ => s.routePort (e / 256))

/-- A packet on its way: over the bridges to a die of this module, where it has then arrived, or to the port of its
route, where it waits its turn. The flag: it has a way. -/
def State.route (s : State) (p : Packet) : State × Bool :=
  if s.isMine p.dest then ({ s with fab := { s.fab with arrived := s.fab.arrived ++ [(none, p)] } }, true)
  else
    match s.routeTo (destModule p.dest) with
    | none => (s, false)
    | some n => ((s.modPort n (fun q => { q with waiting := q.waiting ++ [p] })).pumpPort n, true)

/-- A Ralulolo message to a fabric source or subscriber: the data slots of one MGMT packet from die 0 (R355). -/
def State.mgmtPacket (s : State) (dest : BitVec 24) (b : Bytes) : State :=
  let p : Packet := { Packet.blank with
    kind := 0x40, dest := dest, src := s.endpointAddr 0 0
    data := (List.range (ceilDiv b.length 64)).map (fun i => slice b (64 * i) 64) }
  let r := s.route p
  if r.2 then r.1 else s.countDropped

end Sys2Proof.Machine
end

