-- ==== Sys2Proof/Machine/Ops.lean ====
section
/-! DEFINITION. The operations every family uses: completions and interrupts (chapter 15), Logbook records
(chapter 19), notices, and status codes (chapter 23). -/

namespace Sys2Proof.Machine

/-! ### Status codes (R432) -/

namespace St
def ok : U16 := 0x0000
def lengthReserved : U16 := 0x0101
def beyondBound : U16 := 0x0102
def staleGeneration : U16 := 0x0103
def formatPairInvalid : U16 := 0x0104
def misaligned : U16 := 0x0105
def poolExhausted : U16 := 0x0201
def pageUncorrectable : U16 := 0x0202
def flashReadFail : U16 := 0x0203
def promotionDenied : U16 := 0x0301
def coronagraphFull : U16 := 0x0302
def darkLayer : U16 := 0x0303
def blinkDivergence : U16 := 0x0304
def numericInvalid : U16 := 0x0305
def stalePlate : U16 := 0x0306
def linkDown : U16 := 0x0401
def latePacketDropped : U16 := 0x0402
def objectUnknown : U16 := 0x0501
def accessDenied : U16 := 0x0502
def valueOutOfRange : U16 := 0x0503
def lengthExceedsObject : U16 := 0x0504
def signatureInvalid : U16 := 0x0601
def rollbackRefused : U16 := 0x0602
def envelopeLimit : U16 := 0x0701
def coolantFault : U16 := 0x0702
def meridianHoldover : U16 := 0x0801
def meridianLost : U16 := 0x0802
def eventMissed : U16 := 0x0803

/-- The codes of R432 other than OK. -/
def failures : List U16 :=
  [lengthReserved, beyondBound, staleGeneration, formatPairInvalid, misaligned, poolExhausted, pageUncorrectable,
   flashReadFail, promotionDenied, coronagraphFull, darkLayer, blinkDivergence, numericInvalid, stalePlate, linkDown,
   latePacketDropped, objectUnknown, accessDenied, valueOutOfRange, lengthExceedsObject, signatureInvalid,
   rollbackRefused, envelopeLimit, coolantFault, meridianHoldover, meridianLost, eventMissed]

/-- A failure to which the spec gives no code has one of R432, which of them is free: no other code is ever written
(R430). (open points: DESIGN CHOICE, log entry 2) -/
def ofFree (v : U64) : U16 := failures.getD (v.toNat % failures.length) accessDenied
end St

/-- The checks of a length, count or size field against a bound (R12): the refusal, if any. -/
def lengthCheck (w v bound : Nat) : Option U16 :=
  if v = 2 ^ w - 1 then some St.lengthReserved
  else if bound < v then some St.beyondBound
  else none

/-! ### The module's life (R369, R401, R407, R410) -/

/-- The host link and the ports exist: after phase 5 of a start, and not in recovery (R407, R410).
(open points: DESIGN CHOICE, log entry 4) -/
def Life.hasLink : Life → Bool
  | .ready => true
  | .acquiring => true
  | .stopped => true
  | .cut link => link
  | _ => false

/-- The module serves every request: it is Ready, or stopped by heat (R369, R410). (open points: DEDUCED, log entry
18) -/
def Life.open : Life → Bool
  | .ready => true
  | .stopped => true
  | _ => false

/-! ### Interrupts (R295, R308) -/

/-- The function that serves a slot (R295). -/
def HostLink.serves (h : HostLink) (c : Slot) : Func :=
  if h.vfEnable && c.val < h.numVfs.val then .vf c else .pf

def funcNum : Func → Nat
  | .pf => 0
  | .vf c => c.val + 1

/-- Vectors of a function's MSI-X table (R295). -/
def funcVectors : Func → Nat
  | .pf => 64
  | .vf _ => 4

/-- Masked and not pending: the reset state of a vector (PRESUMED, PCIe; log entry 7). -/
def MsixVec.reset : MsixVec := { addr := 0, data := 0, masked := true, pending := false }

def State.msixVec (s : State) (f : Func) (v : Nat) : MsixVec :=
  kvGetD s.host.msix (64 * funcNum f + v) .reset

def State.setMsix (s : State) (f : Func) (v : Nat) (x : MsixVec) : State :=
  { s with host := { s.host with msix := kvSet s.host.msix (64 * funcNum f + v) x } }

/-- The message of a vector, or its pending bit while the vector is masked (R308).
(open points: DESIGN CHOICE, log entry 55) -/
def State.sendMsix (s : State) (f : Func) (v : U8) : State :=
  let x := s.msixVec f v.toNat
  if x.masked then s.setMsix f v.toNat { x with pending := true } else s.emit (.msix f v)

/-! ### Completion rings (R304 to R308) -/

def State.ringOf (s : State) (r : Ring) : CmplRing :=
  match r with
  | .module => s.host.ring
  | .ctx c => (s.ctx c).ring

def State.setRing (s : State) (r : Ring) (x : CmplRing) : State :=
  match r with
  | .module => { s with host := { s.host with ring := x } }
  | .ctx c => s.modCtx c (fun k => { k with ring := x })

/-- The function whose vector and requester a ring uses (R307). -/
def State.ringFunc (s : State) (r : Ring) : Func :=
  match r with
  | .module => .pf
  | .ctx c => s.host.serves c

/-- A ring has room (R306). The module ring has no consumer word: it always has room
(DESIGN CHOICE, log entry 8). -/
def State.ringRoom (s : State) (r : Ring) : Bool :=
  let x := s.ringOf r
  s.host.up && x.base != 0 &&
    (match r with
     | .module => true
     | .ctx _ => (x.cmpTail - x.cmpHead).toNat < x.entries.toNat)

/-- The 32 bytes of an entry (R304). -/
def Cmpl.bytes (e : Cmpl) (phase dropped : Bool) : Bytes :=
  let fl := (if phase then 1 else 0) + (if e.late then 2 else 0) + (if dropped then 4 else 0)
  natLe 1 fl ++ bvLe 1 e.kind ++ bvLe 2 e.status ++ bvLe 4 e.tag ++ bvLe 4 e.opId ++
    bvLe 2 e.context ++ bvLe 1 e.ekind ++ [0] ++ bvLe 8 e.count ++ bvLe 8 e.arg

/-- An entry that calls for a message at once (R308). -/
def Cmpl.urgent (e : Cmpl) : Bool :=
  e.kind == 5 || !(e.status == St.ok || e.status == St.numericInvalid)

/-- The message of a ring; p returns to 0 (R308). -/
def State.ringMessage (s : State) (r : Ring) : State :=
  let x := s.ringOf r
  (s.setRing r { x with p := 0 }).sendMsix (s.ringFunc r) x.vector

/-- Writes an entry to a ring with room (R304, R308); a slot's CMP_TAIL goes to its ring header
(R301), of a module that is not stopped (R369). -/
def State.writeCmpl (s : State) (r : Ring) (e : Cmpl) : State :=
  let x := s.ringOf r
  let n := x.cmpTail.toNat % x.entries.toNat
  let phase := (x.posted / x.entries.toNat) % 2 == 0
  let addr := x.base + BitVec.ofNat 64 (32 * n)
  let x' := { x with cmpTail := x.cmpTail + 1, posted := x.posted + 1, dropNext := false, p := x.p + 1 }
  let s := (s.setRing r x').emit (.hostWrite (s.ringFunc r) addr (e.bytes phase x.dropNext))
  let s :=
    match r with
    | .module => s
    | .ctx c =>
      let b := (s.ctx c).sub.base.toNat
      if b != 0 && s.allocated c b 64 && !s.boot.life.dead then s.store c (b + 12) (bvLe 4 x'.cmpTail) else s
  if e.urgent || x'.p ≥ x.modCount.toNat then s.ringMessage r else s

/-- Posts a completion: written, or waiting in the backlog, or dropped and counted (R306).
(open points: DEDUCED, log entry 57) -/
def State.post (s : State) (r : Ring) (e : Cmpl) : State :=
  let x := s.ringOf r
  if x.backlog.isEmpty && s.ringRoom r then s.writeCmpl r e
  else if x.backlog.length < 4096 then s.setRing r { x with backlog := x.backlog ++ [e] }
  else s.setRing r { x with dropped := x.dropped + 1, dropNext := true }

/-- Posts to a slot's ring a completion of the generation its CONTEXT names; one of a generation since
released is counted instead (R280, R306). -/
def State.postCtx (s : State) (c : Slot) (e : Cmpl) : State :=
  if (s.ctx c).st != .free && e.context == s.ctxId c then s.post (.ctx c) e
  else s.modCtx c (fun x => { x with staleDiscards := x.staleDiscards + 1 })

/-! ### Logbook records and notices (R351, R372, R373, R305) -/

/-- One step of CRC-32, reflected (R374). -/
def crcStep (c : U32) : Nat → U32
  | 0 => c
  | n + 1 => crcStep ((c >>> 1) ^^^ (if c.getLsbD 0 then 0xEDB88320 else 0)) n

/-- CRC-32 of IEEE 802.3 over bytes (R374). -/
def crc32 (b : Bytes) : U32 :=
  ~~~ (b.foldl (fun c x => crcStep (c ^^^ x.setWidth 32) 8) 0xFFFFFFFF)

/-- The 128 bytes of a record (R374). -/
def LogRec.bytes (r : LogRec) : Bytes :=
  let sev := r.severity.toNat + (if r.meridianValid then 4 else 0) + (if r.clearRec then 8 else 0)
  let args := (r.args ++ List.replicate 6 0).take 6
  let b := bvLe 8 r.seq ++ bvLe 6 r.opMs ++ natLe 1 sev ++ [0] ++ bvLe 4 r.powerCycles ++
    bvLe 8 r.meridian ++ bvLe 2 r.event ++ bvLe 2 r.status ++ bvLe 2 r.context ++ bvLe 2 r.unit ++
    bvLe 4 r.opId ++ bvLe 4 r.handle ++ zeros 4 ++ bvLe 8 r.step ++ bvLe 8 r.address ++
    args.flatMap (bvLe 8) ++ zeros 12
  b ++ bvLe 4 (crc32 b)

/-- A Ralulolo header (R344). -/
def ralHeader (op : Nat) (seq index : U16) (sub : U8) (mflags : Nat) (status : U16) (len off : Nat) :
    Bytes :=
  natLe 1 1 ++ natLe 1 op ++ bvLe 2 seq ++ bvLe 2 index ++ bvLe 1 sub ++ natLe 1 mflags ++
    bvLe 2 status ++ zeros 2 ++ natLe 4 len ++ natLe 4 off ++ zeros 4

/-- The NOTICE message of a record to each subscriber at or above whose severity it lies (R351).
(open points: DEDUCED, log entry 63) -/
def State.noticeMessages (s : State) (r : LogRec) : State :=
  let hits := fun (x : Subscription) => r.severity.toNat ≤ x.severity.toNat
  let send := fun (s : State) (x : Subscription) =>
    let b := ralHeader 0x40 x.seq 0x9000 0 0 0 128 0 ++ r.bytes
    match x.ch with
    | .fabric d => s.mgmtPacket (d ++ (0 : BitVec 4)) b
    | _ => s.emit (.message x.ch b)
  let s' := (s.cat.subs.filter hits).foldl send s
  { s' with cat := { s.cat with
      subs := s.cat.subs.map (fun x => if hits x then { x with seq := x.seq + 1 } else x) } }

/-- The NOTICE completions of a record: of severity fault or fatal, or with a status of the time group
(R305). (open points: DEDUCED, log entry 63) -/
def State.noticeCompletions (s : State) (r : LogRec) : State :=
  if r.severity.toNat ≤ 1 || r.status.toNat / 256 = 8 then
    let e : Cmpl := { late := false, kind := 5, status := r.status, tag := 0, opId := 0, context := 0xFFFF,
                      ekind := 0, count := r.meridian, arg := r.seq }
    let s := s.post .module e
    if r.context = 0xFFFF then s
    else s.postCtx (Fin.ofNat 16 (r.context.toNat % 16)) { e with context := r.context }
  else s

/-- What a raised record names; absent items keep their defaults (R374). -/
structure Event where
  severity : BitVec 2
  event : U16
  status : U16 := 0
  context : U16 := 0xFFFF
  unit : U16 := 0xFFFF
  opId : U32 := 0
  handle : U32 := 0
  step : U64 := 0xFFFFFFFFFFFFFFFF
  address : U64 := 0
  args : List U64 := []
  clearRec : Bool := false
  deriving DecidableEq, Repr

/-- The record an event raises now (R372, R374). -/
def State.recordOf (s : State) (e : Event) : LogRec :=
  { seq := s.log.nextSeq, opMs := s.ident.operatingMs, severity := e.severity,
    meridianValid := s.mer.held, clearRec := e.clearRec, powerCycles := s.ident.powerCycles,
    meridian := s.meridianField, event := e.event, status := e.status, context := e.context,
    unit := e.unit, opId := e.opId, handle := e.handle, step := e.step, address := e.address,
    args := e.args }

def Logbook.countDrop (l : Logbook) (sev : BitVec 2) : Logbook :=
  { l with dropped := l.dropped.set sev.toNat (l.dropped.getD sev.toNat 0 + 1) }

/-- A dropped record is counted, and still sent as a notice (R373, R435). (open points: DEDUCED, log entry 63) -/
def State.dropRecord (s : State) (r : LogRec) : State :=
  (({ s with log := s.log.countDrop r.severity }).noticeMessages r).noticeCompletions r

/-- The position of the newest pending info or notice record. -/
def newestMinor : List LogRec → Option Nat
  | l => ((List.range l.length).reverse).find? (fun i =>
      match l[i]? with | some r => 2 ≤ r.severity.toNat | none => false)

/-- An event raises a record: it takes the next SEQ and joins the queue, or is dropped (R372, R373).
(open points: DEDUCED, log entries 63 and 72) -/
def State.raise (s : State) (e : Event) : State :=
  let r := s.recordOf e
  let s := { s with log := { s.log with nextSeq := s.log.nextSeq + 1 } }
  if s.log.queue.length < 256 then { s with log := { s.log with queue := s.log.queue ++ [r] } }
  else if 2 ≤ r.severity.toNat then s.dropRecord r
  else
    match newestMinor s.log.queue with
    | none => { s with log := { s.log with queue := s.log.queue ++ [r] } }
    | some i =>
      match s.log.queue[i]? with
      | none => s
      | some old =>
        ({ s with log := { s.log with queue := s.log.queue.eraseIdx i ++ [r] } }).dropRecord old

/-- A record that reports a status (R375). (open points: DEDUCED, log entry 72) -/
def State.raiseStatus (s : State) (sev : BitVec 2) (st : U16) (e : Event) : State :=
  s.raise { e with severity := sev, event := st, status := st }

def sevFatal : BitVec 2 := 0
def sevFault : BitVec 2 := 1
def sevNotice : BitVec 2 := 2
def sevInfo : BitVec 2 := 3

/-- An event with every item at its default. -/
def Event.blank : Event := { severity := 3, event := 0 }

end Sys2Proof.Machine
end

