-- ==== Sys2Proof/Machine/Blocks.lean ====
section
/-! DEFINITION. The power blocks of the module (R357, R363) and its energy (R364, R366). -/

namespace Sys2Proof.Machine

/-- Kind of block `b`, when the SKU has it (R357). -/
def Sku.blockKind (k : Sku) (b : Nat) : Option Nat :=
  if b = 192 then some 5
  else if b / 24 < k.dies then
    let r := b % 24
    if r < 8 then some 0
    else if r = 8 then some 1
    else if r = 9 then some 2
    else if r < 15 then some 3
    else if 16 ≤ r && r < 20 then some 4
    else none
  else none

/-- Block numbers that exist, ascending. -/
def Sku.blocks (k : Sku) : List Nat := (List.range 193).filter (fun b => (k.blockKind b).isSome)

/-- Maximum envelope of a kind, in mW (R357). -/
def kindMax (kind : Nat) : Nat :=
  match kind with
  | 0 => 100000 | 1 => 100000 | 2 => 8000 | 3 => 18000 | 4 => 8000 | _ => 150000

def State.blockMax (s : State) (b : Nat) : Nat := kindMax ((s.sku.blockKind b).getD 5)

def State.block (s : State) (b : Nat) : Block := kvGetD s.power.blocks b .reset
def State.setBlock (s : State) (b : Nat) (x : Block) : State :=
  { s with power := { s.power with blocks := kvSet s.power.blocks b x } }
def State.modBlock (s : State) (b : Nat) (f : Block → Block) : State := s.setBlock b (f (s.block b))

/-- Every block that is not as at reset is changed. -/
def State.mapBlocks (s : State) (g : Block → Block) : State :=
  { s with power := { s.power with blocks := s.power.blocks.map (fun q => (q.1, g q.2)) } }

/-- Block number of a module-wide core group. -/
def groupBlock (g : Nat) : Nat := 24 * (g / 8) + g % 8

/-- The module-wide core group of a block of kind 0. -/
def blockGroup (b : Nat) : Nat := 8 * (b / 24) + b % 24

/-- The slot that binds a core group (R275). -/
def State.groupOwner (s : State) (g : Nat) : Option Slot :=
  slots.find? (fun c => (s.ctx c).groups.getLsbD g)

/-- A slot binds the core group of a block (R363). -/
def State.bindsBlock (s : State) (c : Slot) (b : Nat) : Bool :=
  s.sku.blockKind b == some 0 && (s.ctx c).groups.getLsbD (blockGroup b)

/-- The module's energy in µJ (R364). -/
def State.moduleUj (s : State) : Nat := sumNat (fun b => (s.block b).energyUj) s.sku.blocks

/-! ### Limits (R358, R360, R362, R363) -/

def Block.envelopeOf (x : Block) (max : Nat) : Nat :=
  match x.envelope with | some v => v.toNat | none => max

/-- A ramp limit at the end of the current window. -/
def RampLimit.now (r : RampLimit) : Nat := r.base + r.rate * (65536 * r.windows + r.frac) / 65536

/-- The limit of a window under envelope `env`, and the causes that make it the least: bits as 0x3100+b:07. A block of
kind 4 or 5 has no means to hold one, and its ramps have no effect. (open points: DESIGN CHOICE, log entry 34;
DEDUCED, log entry 62) -/
def State.limitsOf (s : State) (b env : Nat) : List (Nat × Nat) :=
  let x := s.block b
  let kind := (s.sku.blockKind b).getD 5
  let ramp := fun (bit : Nat) (r : Option RampLimit) =>
    match r with
    | some r => if kind ≤ 3 then [(bit, Nat.min r.now env)] else []
    | none => []
  let cap := fun (bit : Nat) (on : Bool) => if kind = 0 && on then [(bit, 38000)] else []
  [(0, env)] ++ ramp 1 x.rampModule ++ ramp 2 x.rampContext ++
    cap 3 (s.power.thermalDies.getLsbD (b / 24)) ++ cap 4 s.power.coolantDerate ++ cap 5 s.power.supplyDerate ++
    (if x.held && kind ≤ 3 then [(6, if kind = 0 then 15000 else kindMax kind / 2)] else [])

/-- Open points: DEDUCED, log entry 62. -/
def leastOf : List (Nat × Nat) → Nat
  | [] => 0
  | [x] => x.2
  | x :: rest => Nat.min x.2 (leastOf rest)

/-- 0x3100+b:06: the limit of the current window. -/
def State.limitNow (s : State) (b : Nat) : Nat :=
  match (s.block b).limit with | some v => v.toNat | none => s.blockMax b

/-- The least of the limits stands, with its causes. -/
def Block.limited (x : Block) (l : List (Nat × Nat)) : Block :=
  { x with limit := some (BitVec.ofNat 32 (leastOf l))
           limCauses := BitVec.ofNat 8 (ofBits ((l.filter (fun q => q.2 == leastOf l)).map (·.1))) }

/-- The limit and its causes as a window begins: the envelope written governs it (R361).
(open points: DEDUCED, log entry 62) -/
def State.setLimit (s : State) (b : Nat) : State :=
  let l := s.limitsOf b ((s.block b).envelopeOf (s.blockMax b))
  s.modBlock b (fun x => { x.limited l with envNow := x.envelope })

/-- A condition or a ramp that begins within a window lowers the limit at once, and never raises it; an envelope written
since waits for the next window (R361, R363, R368). (open points: DEDUCED, log entry 62) -/
def State.lowerLimit (s : State) (b : Nat) : State :=
  let l := s.limitsOf b ((s.block b).envNow.elim (s.blockMax b) BitVec.toNat)
  if leastOf l ≤ s.limitNow b then s.modBlock b (fun x => x.limited l) else s

/-- Open points: DEDUCED, log entry 62. -/
def State.lowerAll (s : State) : State := s.sku.blocks.foldl (fun s b => s.lowerLimit b) s

end Sys2Proof.Machine
end

