-- ==== Sys2Proof/Machine/Fp.lean ====
section
/-! DEFINITION. FP32 arithmetic, exact and then rounded once (R10, R46, R149, R150, R436), with the flags
each operation raises. A magnitude is `m × 2^e`. -/

namespace Sys2Proof.Machine

/-- The flags one result raises; overflow and invalid carry their CAUSE (R122). -/
structure Fl where
  inx : Bool
  unf : Bool
  ovf : Option Nat
  inv : Option Nat
  deriving DecidableEq, Repr

def Fl.none : Fl := { inx := false, unf := false, ovf := .none, inv := .none }
def Fl.invalid (cause : Nat) : Fl := { Fl.none with inv := some cause }
def Fl.overflow (cause : Nat) : Fl := { Fl.none with ovf := some cause }
def Fl.inexact : Fl := { Fl.none with inx := true }
/-- A flush sets underflow and inexact (R46, R436). -/
def Fl.flush : Fl := { Fl.none with inx := true, unf := true }

/-- Of two causes the lowest is recorded (R436). (open points: DEDUCED, log entry 28) -/
def lowCause : Option Nat → Option Nat → Option Nat
  | some a, some b => some (Nat.min a b)
  | some a, .none => some a
  | .none, b => b

/-- Both results' flags. -/
def Fl.or (a b : Fl) : Fl :=
  { inx := a.inx || b.inx, unf := a.unf || b.unf, ovf := lowCause a.ovf b.ovf,
    inv := lowCause a.inv b.inv }

/-- Every flag. -/
def Fl.all : Fl := { inx := true, unf := true, ovf := some 0, inv := some 0 }

/-- The flags of `a` that `b` has not. -/
def Fl.minus (a b : Fl) : Fl :=
  { inx := a.inx && !b.inx, unf := a.unf && !b.unf, ovf := if b.ovf.isSome then .none else a.ovf,
    inv := if b.inv.isSome then .none else a.inv }

/-- A number as an exact value. -/
inductive FVal where
  | nan
  | inf (neg : Bool)
  | fin (neg : Bool) (m : Nat) (e : Int)
  deriving DecidableEq, Repr

/-- The canonical NaN (R28). -/
def nan32 : F32 := 0x7FC00000
def inf32 (neg : Bool) : F32 := if neg then 0xFF800000 else 0x7F800000
def zero32 (neg : Bool) : F32 := if neg then 0x80000000 else 0

/-- The value of an FP32 pattern (R21). -/
def fval (x : F32) : FVal :=
  let neg := x.msb
  let ef : Nat := (x.toNat / 2 ^ 23) % 256
  let fr : Nat := x.toNat % 2 ^ 23
  if ef = 255 then (if fr = 0 then .inf neg else .nan)
  else if ef = 0 then .fin neg fr (-149)
  else .fin neg (2 ^ 23 + fr) ((ef : Int) - 150)

/-- The value of a BF16 pattern: the upper half of an FP32 one. -/
def bf16To32 (x : Nat) : F32 := BitVec.ofNat 32 ((x % 65536) * 65536)

def isNan (x : F32) : Bool := match fval x with | .nan => true | _ => false
def isInf (x : F32) : Bool := match fval x with | .inf _ => true | _ => false
def isZero (x : F32) : Bool := match fval x with | .fin _ 0 _ => true | _ => false
def isFinite (x : F32) : Bool := match fval x with | .fin _ _ _ => true | _ => false
/-- A subnormal: exponent field 0 and a fraction that is not. -/
def isSub (x : F32) : Bool := (x.toNat / 2 ^ 23) % 256 == 0 && x.toNat % 2 ^ 23 != 0

def bitLen (m : Nat) : Nat := if m = 0 then 0 else Nat.log2 m + 1

/-! ### Rounding a magnitude to a binary format of `p` significand bits whose least unit is 2^`qmin` -/

/-- The code of the largest magnitude not above `m × 2^e`, the remainder, and the size of the gap above
it, in one unit: `(code, rem, gap)`. -/
def floorCode (p : Nat) (qmin : Int) (m : Nat) (e : Int) : Nat × Nat × Nat :=
  let q := max (e + (bitLen m : Int) - (p : Int)) qmin
  let sh := (e - q).toNat
  let d := (q - e).toNat
  let scaled := m * 2 ^ sh
  let lo := scaled / 2 ^ d
  ((q - qmin).toNat * 2 ^ (p - 1) + lo, scaled % 2 ^ d, 2 ^ d)

/-- Round to nearest, ties to even; `sticky`: the exact value lies a little above `m × 2^e`. -/
def nearCode (p : Nat) (qmin : Int) (m : Nat) (e : Int) (sticky : Bool) : Nat × Bool :=
  let (code, rem, gap) := floorCode p qmin m e
  let up := 2 * rem > gap || (2 * rem = gap && (sticky || code % 2 = 1))
  (if up then code + 1 else code, rem != 0 || sticky)

/-- Rounds a magnitude to FP32 once, to nearest, ties to even; `sub`: subnormal results are kept, otherwise
they are flushed to zero of the same sign. Underflow is set where subnormals are kept and the result is tiny after
rounding and inexact (R149), or where it is flushed (R46, R78). (open points: DEDUCED, log entry 28) -/
def roundF (sub : Bool) (neg : Bool) (m : Nat) (e : Int) (sticky : Bool) : F32 × Fl :=
  if m = 0 && !sticky then (zero32 neg, Fl.none)
  else
    let (code, inx) := nearCode 24 (-149) m e sticky
    let sign := if neg then 2 ^ 31 else 0
    if code ≥ 0x7F800000 then (inf32 neg, { Fl.none with inx := true, ovf := some 2 })
    else if !sub && code < 0x00800000 then
      if code = 0 && !inx then (zero32 neg, Fl.none) else (zero32 neg, Fl.flush)
    else
      let tiny := (nearCode 24 (-400) m e sticky).1 < 252 * 2 ^ 23
      (BitVec.ofNat 32 (code + sign), { Fl.none with inx := inx, unf := sub && inx && tiny })

/-- A signed exact value `n × 2^e`, rounded; an exact zero is +0. -/
def roundInt (sub : Bool) (n : Int) (e : Int) : F32 × Fl := roundF sub (n < 0) n.natAbs e false

/-- The sum of two dyadics. -/
def dyAdd (n1 : Int) (e1 : Int) (n2 : Int) (e2 : Int) : Int × Int :=
  let e := min e1 e2
  (n1 * 2 ^ (e1 - e).toNat + n2 * 2 ^ (e2 - e).toNat, e)

def signed (neg : Bool) (m : Nat) : Int := if neg then -(m : Int) else (m : Int)

/-- Is `m1 × 2^e1 < m2 × 2^e2`? -/
def dyLt (n1 : Int) (e1 : Int) (n2 : Int) (e2 : Int) : Bool :=
  let e := min e1 e2
  n1 * 2 ^ (e1 - e).toNat < n2 * 2 ^ (e2 - e).toNat

/-! ### The operations (R149). A NaN operand raises nothing here: it is flagged where it is read. -/

/-- fma(a, b, c) rounded once (R149, R436). -/
def fmaF (sub : Bool) (a b c : F32) : F32 × Fl :=
  match fval a, fval b with
  | .inf _, .fin _ 0 _ => (nan32, Fl.invalid 5)
  | .fin _ 0 _, .inf _ => (nan32, Fl.invalid 5)
  | .nan, _ => (nan32, Fl.none)
  | _, .nan => (nan32, Fl.none)
  | .fin na ma ea, .fin nb mb eb =>
    match fval c with
    | .nan => (nan32, Fl.none)
    | .inf nc => (inf32 nc, Fl.none)
    | .fin nc mc ec =>
      let np := na != nb
      if ma * mb = 0 && mc = 0 then (zero32 (np && nc), Fl.none)
      else
        let (n, e) := dyAdd (signed np (ma * mb)) (ea + eb) (signed nc mc) ec
        roundInt sub n e
  | va, vb =>
    let sgn := fun v => match v with | FVal.inf n => n | FVal.fin n _ _ => n | .nan => false
    let np := sgn va != sgn vb
    match fval c with
    | .nan => (nan32, Fl.none)
    | .inf nc => if nc = np then (inf32 np, Fl.none) else (nan32, Fl.invalid 9)
    | .fin _ _ _ => (inf32 np, Fl.none)

def addF (sub : Bool) (a b : F32) : F32 × Fl := fmaF sub a 0x3F800000 b

def negF (x : F32) : F32 := if isNan x then nan32 else x ^^^ 0x80000000

def absF (x : F32) : F32 := if isNan x then nan32 else x &&& 0x7FFFFFFF

/-- a × b rounded once. -/
def mulF (sub : Bool) (a b : F32) : F32 × Fl :=
  match fval a, fval b with
  | .inf _, .fin _ 0 _ => (nan32, Fl.invalid 5)
  | .fin _ 0 _, .inf _ => (nan32, Fl.invalid 5)
  | .nan, _ => (nan32, Fl.none)
  | _, .nan => (nan32, Fl.none)
  | .fin na ma ea, .fin nb mb eb => roundF sub (na != nb) (ma * mb) (ea + eb) false
  | .inf na, .inf nb => (inf32 (na != nb), Fl.none)
  | .inf na, .fin nb _ _ => (inf32 (na != nb), Fl.none)
  | .fin na _ _, .inf nb => (inf32 (na != nb), Fl.none)

/-- a ÷ b (R149): a finite non-zero value over ±0 overflows, 0/0 and inf/inf are invalid. -/
def divF (sub : Bool) (a b : F32) : F32 × Fl :=
  match fval a, fval b with
  | .nan, _ => (nan32, Fl.none)
  | _, .nan => (nan32, Fl.none)
  | .inf _, .inf _ => (nan32, Fl.invalid 12)
  | .inf na, .fin nb _ _ => (inf32 (na != nb), Fl.none)
  | .fin na _ _, .inf nb => (zero32 (na != nb), Fl.none)
  | .fin na ma ea, .fin nb mb eb =>
    if mb = 0 then
      if ma = 0 then (nan32, Fl.invalid 12) else (inf32 (na != nb), Fl.overflow 2)
    else
      let num := ma * 2 ^ 64
      roundF sub (na != nb) (num / mb) (ea - eb - 64) (num % mb != 0)

/-- The integer square root of `n`, by bits from bit `k - 1` of the root down. -/
def isqrtBits : Nat → Nat → Nat → Nat
  | 0, _, r => r
  | k + 1, n, r =>
    let t := r + 2 ^ k
    isqrtBits k n (if t * t ≤ n then t else r)

/-- √a (R149). -/
def sqrtF (a : F32) : F32 × Fl :=
  match fval a with
  | .nan => (nan32, Fl.none)
  | .inf true => (nan32, Fl.invalid 12)
  | .inf false => (inf32 false, Fl.none)
  | .fin neg 0 _ => (zero32 neg, Fl.none)
  | .fin true _ _ => (nan32, Fl.invalid 12)
  | .fin false m e =>
    let odd : Nat := if e % 2 = 0 then 0 else 1
    let n := m * 2 ^ (64 + odd)
    let r := isqrtBits 46 n 0
    roundF true false r ((e - 64 - (odd : Int)) / 2) (r * r != n)

/-- 1 ÷ √a, correctly rounded (R149). -/
def rsqrtF (a : F32) : F32 × Fl :=
  match fval a with
  | .nan => (nan32, Fl.none)
  | .inf true => (nan32, Fl.invalid 12)
  | .inf false => (zero32 false, Fl.none)
  | .fin neg 0 _ => (inf32 neg, Fl.overflow 2)
  | .fin true _ _ => (nan32, Fl.invalid 12)
  | .fin false m e =>
    let odd : Nat := if e % 2 = 0 then 0 else 1
    let n := m * 2 ^ odd
    let e' := (e - (odd : Int)) / 2
    let num := 2 ^ 120
    let r := isqrtBits 61 (num / n) 0
    roundF true false r (-60 - e') (r * r * n != num)

/-- 1 ÷ a, correctly rounded (R149). -/
def rcpF (a : F32) : F32 × Fl := divF true 0x3F800000 a

/-- −0 is below +0 (R149). -/
def ltF (a b : F32) : Bool :=
  match fval a, fval b with
  | .nan, _ => false
  | _, .nan => false
  | .inf na, .inf nb => na && !nb
  | .inf na, .fin _ _ _ => na
  | .fin _ _ _, .inf nb => !nb
  | .fin na ma ea, .fin nb mb eb => dyLt (signed na ma) ea (signed nb mb) eb

/-- Equality of values: ±0 are equal, a NaN equals nothing. -/
def eqF (a b : F32) : Bool := !isNan a && !isNan b && !ltF a b && !ltF b a

def leF (a b : F32) : Bool := !isNan a && !isNan b && !ltF b a

def minF (a b : F32) : F32 :=
  if isNan a || isNan b then nan32
  else if isZero a && isZero b then (if a.msb then a else b)
  else if ltF b a then b else a

def maxF (a b : F32) : F32 :=
  if isNan a || isNan b then nan32
  else if isZero a && isZero b then (if a.msb then b else a)
  else if ltF a b then b else a

/-- a > 0. -/
def posF (a : F32) : Bool := ltF 0 a

/-- 2^(e−127) for e in 1..254 (R100). -/
def pow2F (e : Nat) : F32 := BitVec.ofNat 32 (e * 2 ^ 23)

/-- An integer as the nearest FP32 value. -/
def natToF (n : Nat) : F32 := (roundF true false n 0 false).1

/-- An FP32 value rounded to an integer, ties to even (used on small values). -/
def roundToInt (x : F32) : Int :=
  match fval x with
  | .fin neg m e =>
    let n : Nat :=
      if 0 ≤ e then m * 2 ^ e.toNat
      else
        let d := (-e).toNat
        let lo := m / 2 ^ d
        let rem := m % 2 ^ d
        if 2 * rem > 2 ^ d || (2 * rem = 2 ^ d && lo % 2 = 1) then lo + 1 else lo
    signed neg n
  | _ => 0

/-- The exponential (R150), with its own flags. -/
def expF (x : F32) : F32 × Fl :=
  if isNan x then (nan32, Fl.none)
  else if isZero x then (0x3F800000, Fl.none)
  else if isInf x then (if x.msb then (0, Fl.none) else (inf32 false, Fl.none))
  else
    let t := (mulF true x 0x3FB8AA3B).1
    if leF 0x43000000 t then (inf32 false, { Fl.none with inx := true, ovf := some 2 })
    else if ltF t 0xC3160000 then (0, Fl.flush)
    else
      let kf := (addF true (addF true t 0x4B400000).1 0xCB400000).1
      let k := roundToInt kf
      let f := (addF true t (negF kf)).1
      let p := (fmaF true 0x39218489 f 0x3AAEC3FF).1
      let p := (fmaF true p f 0x3C1D955B).1
      let p := (fmaF true p f 0x3D635847).1
      let p := (fmaF true p f 0x3E75FDF0).1
      let p := (fmaF true p f 0x3F317218).1
      let p := (fmaF true p f 0x3F800000).1
      let r :=
        if k = 128 then (mulF true (mulF true p 0x40000000).1 (pow2F 254)).1
        else if k ≥ -126 then (mulF true p (pow2F (k + 127).toNat)).1
        else (mulF true (mulF true p (pow2F (k + 151).toNat)).1 (pow2F 103)).1
      (r, { Fl.none with inx := true, unf := isSub r || isZero r,
                         ovf := if isInf r then some 2 else .none })

/-- Rounds to BF16, to nearest, ties to even: the pattern; the flags a drain or engine raises for it. -/
def bf16Near (x : F32) : Nat × Fl :=
  match fval x with
  | .nan => (0x7FC0, Fl.none)
  | .inf neg => (if neg then 0xFF80 else 0x7F80, Fl.none)
  | .fin neg m e =>
    let (code, inx) := nearCode 8 (-133) m e false
    let sign := if neg then 0x8000 else 0
    if m = 0 then (sign, Fl.none)
    else if code ≥ 0x7F80 then (0x7F80 + sign, { Fl.none with inx := true, ovf := some 2 })
    else (code + sign, { Fl.none with inx := inx, unf := inx && code < 0x80 })

/-- Rounds up to BF16, clamped to 0x7F7F (R99); for a non-negative finite value. -/
def bf16Up (x : F32) : Nat :=
  let hi := x.toNat / 65536
  let up := if x.toNat % 65536 = 0 then hi else hi + 1
  Nat.min up 0x7F7F

end Sys2Proof.Machine
end

