-- ==== Sys2Proof/Machine/Formats.lean ====
section
/-! DEFINITION. Element formats, block scales, plates, tags and block encoding (chapter 02), the dither
hash and stochastic rounding (chapter 07), and the crush test (R104). A plate is held as the number of its
64 little-endian bytes. -/

namespace Sys2Proof.Machine

/-! ### Formats (R21, R37, R38) -/

/-- The tag code of a block-scaled format (R41) and the table code of every format (R192). -/
def Fmt.code : Fmt → Nat
  | .f4 => 0 | .f8 => 1 | .b6 => 2 | .b8 => 3 | .bf16 => 4 | .fp32 => 5 | .mask => 6

def Fmt.ofCode : Nat → Option Fmt
  | 0 => some .f4 | 1 => some .f8 | 2 => some .b6 | 3 => some .b8
  | 4 => some .bf16 | 5 => some .fp32 | 6 => some .mask | _ => none

/-- Elements per plate (R37). -/
def Fmt.per : Fmt → Nat
  | .f4 => 112 | .f8 => 48 | .b6 => 72 | .b8 => 56 | .bf16 => 32 | .fp32 => 16 | .mask => 512

/-- Bits of an element (R21). -/
def Fmt.bits : Fmt → Nat
  | .f4 => 4 | .f8 => 8 | .b6 => 6 | .b8 => 8 | .bf16 => 16 | .fp32 => 32 | .mask => 1

/-- First element byte (R37). -/
def Fmt.first : Fmt → Nat
  | .f4 => 8 | .f8 => 4 | .b6 => 10 | .b8 => 8 | _ => 0

/-- Elements of a block (R37). -/
def Fmt.block : Fmt → Nat
  | .f4 => 16 | .f8 => 16 | .b6 => 8 | .b8 => 8 | _ => 1

def Fmt.scaled : Fmt → Bool
  | .f4 => true | .f8 => true | .b6 => true | .b8 => true | _ => false
def Fmt.forward : Fmt → Bool
  | .f4 => true | .f8 => true | _ => false
def Fmt.grad : Fmt → Bool
  | .b6 => true | .b8 => true | _ => false
/-- The wide format of a narrow one (R114, R194). -/
def Fmt.wide : Fmt → Fmt
  | .f4 => .f8 | .b6 => .b8 | f => f

/-- Plates of a row of `l` elements (R39). -/
def Fmt.platesPerRow (f : Fmt) (l : Nat) : Nat := ceilDiv l f.per

/-! ### Plate fields -/

def getBits (p o w : Nat) : Nat := (p >>> o) % 2 ^ w
def setBits (p o w v : Nat) : Nat := p - (getBits p o w) * 2 ^ o + (v % 2 ^ w) * 2 ^ o

/-- Element code i (R38). -/
def plateCode (f : Fmt) (p i : Nat) : Nat := getBits p (8 * f.first + f.bits * i) f.bits
def setPlateCode (f : Fmt) (p i v : Nat) : Nat := setBits p (8 * f.first + f.bits * i) f.bits v
/-- Scale byte j (R37). -/
def plateScale (p j : Nat) : Nat := getBits p (8 + 8 * j) 8
def setPlateScale (p j v : Nat) : Nat := setBits p (8 + 8 * j) 8 v

/-- Tag fields (R41). -/
def tagFormat (p : Nat) : Nat := p % 8
def tagOutlier (p : Nat) : Bool := (p / 8) % 2 = 1
def tagEpoch (p : Nat) : Nat := (p / 16) % 16
def makeTag (f : Fmt) (epoch : BitVec 4) (outlier : Bool) : Nat :=
  16 * epoch.toNat + (if outlier then 8 else 0) + f.code

/-! ### Element values -/

/-- An element as the arrays take it: its exact value less the tensor scale (R72), or why it is none. A
NaN carries its CAUSE and the handle of its tensor. -/
inductive El where
  | zero
  | fin (n : Int) (q : Int)
  | inf (neg : Bool)
  | nan (cause : Nat) (handle : U32)
  deriving DecidableEq, Repr

/-- An S8 code as significand and exponent (R31, R73); 0x00 and 0xFF are handled by the reader. -/
def s8Parts (c : Nat) : Nat × Int :=
  let e := c / 16
  let m := c % 16
  if e = 0 then (m, -10) else (m + 16, (e : Int) - 11)

/-- A forward element code as significand and exponent (R22, R26). -/
def fwdParts (f8 : Bool) (code : Nat) : Nat × Int :=
  if f8 then
    let e := (code / 8) % 16
    let m := code % 8
    if e = 0 then (m, -9) else (m + 8, (e : Int) - 10)
  else
    let e := (code / 2) % 4
    let m := code % 2
    if e = 0 then (m, -1) else (m + 2, (e : Int) - 2)

/-- A gradient element code as significand and exponent (R24, R27). -/
def gradParts (b8 : Bool) (code : Nat) : Nat × Int :=
  if b8 then
    let e := (code / 4) % 32
    let m := code % 4
    if e = 0 then (m, -16) else (m + 4, (e : Int) - 17)
  else
    let e := code % 32
    if e = 0 then (0, 0) else (1, (e : Int) - 16)

/-- Open points: DEDUCED, log entry 28. -/
def codeNeg (f : Fmt) (code : Nat) : Bool :=
  match f with
  | .f4 => code / 8 % 2 = 1
  | .b6 => code / 32 % 2 = 1
  | _ => code / 128 % 2 = 1

/-- The exact value of a block-scaled element in a block of scale byte `sc` (R33, R73, R74).
(open points: DEDUCED, log entry 28) -/
def decodeEl (f : Fmt) (sc code : Nat) (h : U32) : El :=
  if sc = 0 then .zero
  else if sc = 255 then .nan 7 h
  else
    let neg := codeNeg f code
    match f with
    | .f4 =>
      let (n, q) := fwdParts false code
      let (ns, qs) := s8Parts sc
      if n = 0 then .zero else .fin (signed neg (n * ns)) (q + qs)
    | .f8 =>
      if code % 128 = 127 then .nan 6 h
      else
        let (n, q) := fwdParts true code
        let (ns, qs) := s8Parts sc
        if n = 0 then .zero else .fin (signed neg (n * ns)) (q + qs)
    | .b6 =>
      let (n, q) := gradParts false code
      if n = 0 then .zero else .fin (signed neg n) (q + (sc : Int) - 127)
    | .b8 =>
      if (code / 4) % 32 = 31 then (if code % 4 = 0 then .inf neg else .nan 6 h)
      else
        let (n, q) := gradParts true code
        if n = 0 then .zero else .fin (signed neg n) (q + (sc : Int) - 127)
    | _ => .zero

/-- An FP32 value as an element of the wide array: a subnormal reads as zero (R66). -/
def elOfF32 (x : F32) (h : U32) : El :=
  match fval x with
  | .nan => .nan 6 h
  | .inf n => .inf n
  | .fin n m e => if m = 0 || isSub x then .zero else .fin (signed n m) e

/-- The sign of a zero element is lost in El: the wide array keeps the FP32 pattern, subnormals as zero of
the same sign (R66). -/
def flushIn (x : F32) : F32 := if isSub x then zero32 x.msb else x

/-- Element i of a block-scaled plate read in format `f`: a tag that does not agree makes every block
invalid with CAUSE 8 (R42). -/
def plateEl (f : Fmt) (p i : Nat) (h : U32) : El :=
  if tagFormat p != f.code then .nan 8 h
  else decodeEl f (plateScale p (i / f.block)) (plateCode f p i) h

/-- The flags of reading an FP32 operand: a NaN is invalid with CAUSE 6 (R436). -/
def readFl (t : F32) : Fl := if isNan t then Fl.invalid 6 else Fl.none

/-- An element as FP32 after the tensor scale, rounded once (R33, R152), with the flags of reading both; `neg`: the
sign of a zero code. -/
def scaleEl (e : El) (neg : Bool) (t : F32) : F32 × Fl :=
  match e with
  | .zero => let (v, fl) := mulF true (zero32 neg) t; (v, fl.or (readFl t))
  | .nan c _ => (nan32, (Fl.invalid c).or (readFl t))
  | .inf n => let (v, fl) := mulF true (inf32 n) t; (v, fl.or (readFl t))
  | .fin n q =>
    match fval t with
    | .fin nt mt et => roundF true ((n < 0) != nt) (n.natAbs * mt) (q + et) false
    | .inf nt => (inf32 ((n < 0) != nt), Fl.none)
    | .nan => (nan32, Fl.invalid 6)

/-- Element i of a plate lies in a zero block of a plate whose tag agrees (R31, R32, R42). -/
def inZeroBlock (f : Fmt) (p i : Nat) : Bool := tagFormat p == f.code && plateScale p (i / f.block) == 0

/-- Element i of a block-scaled plate as an FP32 value with its decode flags: an element of a zero block is +0 whatever
T is (R33, R152). -/
def plateVal (f : Fmt) (p i : Nat) (h : U32) (t : F32) : F32 × Fl :=
  if inZeroBlock f p i then (0, Fl.none)
  else scaleEl (plateEl f p i h) (codeNeg f (plateCode f p i)) t

/-- A code that is a NaN or an infinity (R26, R27). -/
def specialElCode (f : Fmt) (code : Nat) : Bool :=
  match f with
  | .f8 => code % 128 == 127
  | .b8 => (code / 4) % 32 == 31
  | _ => false

/-- Element i keeps a group of reduction steps from being skipped: an invalid block, a plate that fails R42 and, with
`codes`, a NaN or infinite code (R52, R80). -/
def barsSkip (codes : Bool) (f : Fmt) (p i : Nat) : Bool :=
  tagFormat p != f.code || plateScale p (i / f.block) == 255 || (codes && specialElCode f (plateCode f p i))

/-! ### The dither hash (R136, R137) -/

def ditherMix (z : U64) : U64 :=
  let z := z ^^^ (z >>> 32)
  let z := z * 0x8F3D6C21B5A794E1
  let z := z ^^^ (z >>> 29)
  let z := z * 0xC6B127E93D58A4F3
  z ^^^ (z >>> 32)

def ditherHash (domain : Nat) (seed : U64) (tensor : Nat) (step : U64) (index : Nat) (low : Nat) : U64 :=
  let h := ditherMix (seed ^^^ BitVec.ofNat 64 (domain * 2 ^ 32 + tensor % 2 ^ 24))
  let h := ditherMix (h ^^^ step)
  let h := ditherMix (h ^^^ BitVec.ofNat 64 index)
  ditherMix (h ^^^ BitVec.ofNat 64 (low % 65536))

/-- What stochastic rounding draws from (R136): `none` rounds to nearest. -/
structure Draw where
  seed : U64
  tensor : Nat
  step : U64
  deriving DecidableEq, Repr

/-- Bits [63:52] of the ROUND hash of an element (R141). -/
def Draw.bits (d : Draw) (index : Nat) (u : F32) : Nat :=
  (ditherHash 1 d.seed d.tensor d.step index u.toNat).toNat / 2 ^ 52

/-! ### Rounding to an element code (R23, R25, R26, R27, R141, R142) -/

/-- Significand bits, least exponent and largest finite code of an element format. -/
def Fmt.shape : Fmt → Nat × Int × Nat
  | .f4 => (2, -1, 7)
  | .f8 => (4, -9, 0x7E)
  | .b6 => (1, -15, 31)
  | .b8 => (3, -16, 0x7B)
  | .bf16 => (8, -133, 0x7F7F)
  | _ => (24, -149, 0x7F7FFFFF)

def Fmt.signBit : Fmt → Nat
  | .f4 => 8 | .b6 => 32 | .f8 => 128 | .b8 => 128 | .bf16 => 0x8000 | _ => 2 ^ 31

/-- A magnitude `m × 2^e` (or a little above, `sticky`) to a code of `f`: to nearest, ties to even, or by 12
drawn bits. -/
def roundCode (f : Fmt) (neg : Bool) (m : Nat) (e : Int) (sticky : Bool) (r12 : Option Nat) : Nat × Fl :=
  let (p, qmin, top) := f.shape
  let (lo, rem, gap) := floorCode p qmin m e
  let exact := rem = 0 && !sticky
  let sign := if neg then f.signBit else 0
  if top < lo || (lo = top && !exact) then
    -- beyond the largest finite value: both modes act alike (R142)
    match f with
    | .b8 =>
      let n := (nearCode p qmin m e sticky).1
      if 0x7C ≤ n then (0x7C + sign, { Fl.none with inx := true, ovf := some 2 })
      else (n + sign, Fl.inexact)
    | .bf16 =>
      let n := (nearCode p qmin m e sticky).1
      if 0x7F80 ≤ n then (0x7F80 + sign, { Fl.none with inx := true, ovf := some 2 })
      else (n + sign, Fl.inexact)
    | _ => (top + sign, { Fl.none with inx := true, ovf := some 3 })
  else if exact then (lo + sign, Fl.none)
  else
    match r12 with
    | none => ((nearCode p qmin m e sticky).1 + sign, Fl.inexact)
    | some r => ((if r < rem * 4096 / gap then lo + 1 else lo) + sign, Fl.inexact)

/-- An FP32 value to BF16 (R58 step 6, R63): a subnormal result that was rounded sets underflow. -/
def toBf16 (u : F32) (r12 : Option Nat) : Nat × Fl :=
  match fval u with
  | .nan => (0x7FC0, Fl.none)
  | .inf n => (if n then 0xFF80 else 0x7F80, Fl.none)
  | .fin n m e =>
    let (c, fl) := roundCode .bf16 n m e false r12
    (c, { fl with unf := fl.inx && c % 0x8000 < 0x80 })

/-! ### Block scales (R34, R35) -/

/-- The smallest S8 code from `c` up whose value times `fmax` is at least `m × 2^e`, in `fuel` steps. -/
def s8Search (m : Nat) (e : Int) (fmax : Nat) : Nat → Nat → Nat
  | 0, _ => 0xFE
  | fuel + 1, c =>
    let (n, q) := s8Parts c
    if dyLt ((n * fmax : Nat) : Int) q (m : Int) e then s8Search m e fmax fuel (c + 1) else c

/-- The block scale of a forward block whose largest magnitude is `m × 2^e` (R34). -/
def s8CodeFor (m : Nat) (e : Int) (fmax : Nat) : Nat := if m = 0 then 0 else s8Search m e fmax 254 1

/-- The block scale of a gradient block whose largest |u| is `m` (R35). -/
def x8CodeFor (m : F32) : Nat :=
  if isZero m then 0
  else
    let ef := (m.toNat / 2 ^ 23) % 256
    if ef ≤ 15 then 1 else ef - 14

/-! ### The crush test (R104) -/

/-- Largest and second largest magnitude of a block, with the position of the largest. -/
def crushScan : List (Option F32) → Nat → F32 → F32 → Option Nat → F32 × F32 × Option Nat
  | [], _, a, b, ia => (a, b, ia)
  | none :: rest, i, a, b, ia => crushScan rest (i + 1) a b ia
  | some u :: rest, i, a, b, ia =>
    let m := absF u
    if ltF a m then crushScan rest (i + 1) m a (some i)
    else if ltF b m then crushScan rest (i + 1) a m ia
    else crushScan rest (i + 1) a b ia

/-- The element the crush test picks (R104); padding is `none`. -/
def crushPick (u : List (Option F32)) (ratio : F32) : Option Nat :=
  if u.any (fun x => match x with | some v => !isFinite v | none => false) then none
  else
    let (a, b, ia) := crushScan u 0 0 0 none
    if isZero b then none
    else
      match fval a, fval b, fval ratio with
      | .fin _ ma ea, .fin _ mb eb, .fin _ mr er =>
        if dyLt ((mr * mb : Nat) : Int) (er + eb) (ma : Int) ea then ia else none
      | _, _, _ => none

/-! ### Encoding a block (R34 steps 2 to 6, R35 steps 2 to 5) -/

/-- A block as encoded: its scale and codes, the flags each element raises (R63), and what the counters take. -/
structure EncBlock where
  scale : Nat
  codes : List Nat
  fls : List Fl
  s8sat : Bool
  lost : Bool
  deriving DecidableEq, Repr

/-- The largest finite magnitude of a block. -/
def blockMax (u : List (Option F32)) : F32 :=
  u.foldl (fun a x => match x with
    | some v => if isFinite v && ltF a (absF v) then absF v else a
    | none => a) 0

/-- The code of a NaN or an infinity in F8 or B8 (R26, R27, R35). -/
def specialCode (f : Fmt) (u : F32) : Nat :=
  match f with
  | .b8 => if isNan u then 0x7E else if u.msb then 0xFC else 0x7C
  | _ => 0x7F

/-- Encodes a block of `u`s (padding `none`); `r12 i`: the drawn bits of element i, or none.
(open points: DEDUCED, log entry 28) -/
def encodeBlock (f : Fmt) (u : List (Option F32)) (r12 : List (Option Nat)) : EncBlock :=
  let special := u.any (fun x => match x with | some v => !isFinite v | none => false)
  if special && (f == .f4 || f == .b6) then
    { scale := 0xFF, codes := u.map (fun _ => 0), s8sat := false, lost := false
      fls := u.map (fun x => match x with
        | some v => if isFinite v then Fl.none else Fl.invalid 11
        | none => Fl.none) }
  else
    let m := blockMax u
    let fmax := if f == .f4 then 6 else 448
    let (mm, me) : Nat × Int := match fval m with | .fin _ a b => (a, b) | _ => (0, 0)
    let sc0 := if f.forward then s8CodeFor mm me fmax else x8CodeFor m
    let sc := if sc0 = 0 && special then 1 else sc0
    let sat := f.forward && sc == 0xFE && dyLt ((480 * fmax : Nat) : Int) 0 (mm : Int) me
    let one : Option F32 × Option Nat → Nat × Fl := fun x =>
      match x.1 with
      | none => (0, Fl.none)
      | some v =>
        match fval v with
        | .fin n a b =>
          let sign := if n then f.signBit else 0
          if sc = 0 then (sign, Fl.none)
          else if f.forward then
            let (ns, qs) := s8Parts sc
            -- u ÷ value(scale), formed exactly: the quotient with its remainder as sticky
            let num := a * 2 ^ 40
            roundCode f n (num / ns) (b - qs - 40) (num % ns != 0) x.2
          else roundCode f n a (b - (sc : Int) + 127) false x.2
        | _ => (specialCode f v, if f == .f8 then Fl.invalid 11 else Fl.none)
    let rs := (u.zip (r12 ++ List.replicate u.length none)).map one
    let codes := rs.map (·.1)
    let allZero := sc != 0 && codes.all (fun c => c % f.signBit == 0)
    { scale := if allZero then 0 else sc, codes := codes, fls := rs.map (·.2), s8sat := sat, lost := allZero }

/-! ### Photometer scale arithmetic (R100) -/

/-- The smallest power of two from 2^(e−127) up that places `q` under `vmax`, in `fuel` steps. -/
def candSearch (q : F32) (vmax : F32) : Nat → Nat → F32
  | 0, _ => pow2F 254
  | fuel + 1, e => if leF q (mulF true (pow2F e) vmax).1 then pow2F e else candSearch q vmax fuel (e + 1)

def candidate (histMax : F32) (h : Nat) (vmax : F32) : F32 :=
  candSearch (mulF true histMax (pow2F (127 + h))).1 vmax 254 1

/-- next_scale of R100. -/
def nextScale (s histMax : F32) (infSeen : Bool) (h : Nat) (vmax : F32) : F32 :=
  if infSeen then
    if leF (pow2F 238) s then pow2F 254 else (mulF true s 0x47800000).1
  else if isZero histMax then s
  else
    let c := candidate histMax h vmax
    if ltF s c then c
    else if leF (mulF true c 0x40800000).1 s then (mulF true s 0x3F000000).1
    else s

end Sys2Proof.Machine
end

