-- ==== Sys2Proof/Machine/Flags.lean ====
section
/-! DEFINITION. Numeric watch: sticky flags, counters, first faults, and the step accumulators of the
seeing report (chapter 06). -/

namespace Sys2Proof.Machine

/-- The bytes of a first-fault record (R121). -/
def FaultRec.bytes (f : FaultRec) : Bytes :=
  bvLe 4 f.opId ++ bvLe 2 f.tileRow ++ bvLe 2 f.tileCol ++ bvLe 2 f.band ++ bvLe 2 f.offset ++
    natLe 1 (16 * f.cause.toNat + f.flag.toNat) ++ natLe 1 (128 + f.kind.toNat) ++ bvLe 2 f.core ++
    bvLe 2 f.context ++ zeros 2 ++ bvLe 4 f.handle ++ bvLe 8 f.step

/-- A record that may be absent, as bytes: all zero. -/
def faultBytes : Option FaultRec → Bytes
  | none => zeros 32
  | some f => f.bytes

/-- FIRST_FAULT as presented: a clear of VALID leaves its other fields (R120, R121). -/
def EngineWatch.firstFault (w : EngineWatch) : Bytes :=
  let b := faultBytes w.first
  patch b 13 (natLe 1 (if w.valid then 128 + field b 13 1 % 128 else field b 13 1 % 128))

/-- The 64 bytes of a watch record (R117). -/
def EngineWatch.bytes (w : EngineWatch) : Bytes :=
  natLe 4 w.flags.toNat ++ bvLe 4 w.inexact ++ bvLe 4 w.underflow ++ bvLe 4 w.overflow ++
    bvLe 4 w.invalid ++ zeros 12 ++ w.firstFault

/-- The key of a watch record: kinds 0 to 6 by core, kind 7 by die (R117). -/
def watchKey (unit kind : Nat) : Nat := if kind = 7 then 4096 + unit else 8 * unit + kind

def State.watchOf (s : State) (k : Nat) : EngineWatch := kvGetD s.watch k .reset

/-- The record an event would be captured as (R121). -/
def State.faultOf (s : State) (o : OpCtx) (unit kind : Nat) (e : FEv) : FaultRec :=
  { opId := o.opId, tileRow := BitVec.ofNat 16 e.tr, tileCol := BitVec.ofNat 16 e.tc,
    band := BitVec.ofNat 16 e.band, offset := BitVec.ofNat 16 e.offset, cause := BitVec.ofNat 4 e.cause,
    flag := BitVec.ofNat 2 e.flag, kind := BitVec.ofNat 3 kind, core := BitVec.ofNat 16 unit,
    context := s.ctxId o.c, handle := e.handle, step := o.step }

/-- The order in which a report chooses its FIRST_FAULT (R128), as one number. -/
def FaultRec.rank (f : FaultRec) : Nat :=
  ((((((f.opId.toNat * 4 + (3 - f.flag.toNat)) * 65536 + f.tileRow.toNat) * 65536 + f.tileCol.toNat) *
    65536 + f.band.toNat) * 65536 + f.offset.toNat) * 8) + f.kind.toNat

def leastFault (a : Option FaultRec) (b : FaultRec) : Option FaultRec :=
  match a with
  | none => some b
  | some x => if b.rank < x.rank then some b else some x

/-- `mask` selects the event's flag (R123). -/
def maskSelects (mask : U8) (flag : Nat) : Bool := mask.toNat.testBit flag

/-- One event at its engine: flag, counter, capture (R117, R123). -/
def EngineWatch.count (w : EngineWatch) (mask : U8) (e : FEv) (r : FaultRec) : EngineWatch :=
  let w := { w with flags := w.flags ||| BitVec.ofNat 4 (2 ^ e.flag)
                    inexact := if e.flag = 0 then w.inexact + 1 else w.inexact
                    underflow := if e.flag = 1 then w.underflow + 1 else w.underflow
                    overflow := if e.flag = 2 then w.overflow + 1 else w.overflow
                    invalid := if e.flag = 3 then w.invalid + 1 else w.invalid }
  if !w.valid && maskSelects mask e.flag then { w with valid := true, first := some r } else w

/-! ### Step accumulators (R125, R127) -/

/-- An accumulator with nothing in it. -/
def StepAcc.new (step seed : U64) (mode : U8) : StepAcc :=
  { step := step, seed := seed, mode := mode, opsInvalid := 0, stalePlates := 0, flags := 0,
    counts := List.replicate 32 0, notices := 0, blinkChecked := 0, blinkDropped := 0,
    blinkDivergent := 0, blinkFirstLayer := 0xFFFF, firstFault := none, invalidOps := [] }

/-- The accumulator of a step; one with the seed and mode in force when none was opened (R139). -/
def CtxNum.stepAcc (x : CtxNum) (step : U64) : StepAcc :=
  (x.steps.find? (fun a => a.step == step)).getD (.new step x.seedInForce x.modeInForce)

def CtxNum.modStep (x : CtxNum) (step : U64) (f : StepAcc → StepAcc) : CtxNum :=
  let a := f (x.stepAcc step)
  if x.steps.any (fun b => b.step == step) then
    { x with steps := x.steps.map (fun b => if b.step == step then a else b) }
  else { x with steps := x.steps ++ [a] }

def State.modNum (s : State) (c : Slot) (f : CtxNum → CtxNum) : State :=
  s.modCtx c (fun x => { x with num := f x.num })

def State.modStepAcc (s : State) (c : Slot) (step : U64) (f : StepAcc → StepAcc) : State :=
  s.modNum c (fun x => x.modStep step f)

/-- A NOTICES bit of a step's report (R127). -/
def State.noteStep (s : State) (c : Slot) (step : U64) (bit : Nat) : State :=
  s.modStepAcc c step (fun a => { a with notices := a.notices ||| BitVec.ofNat 16 (2 ^ bit) })

def StepAcc.count (a : StepAcc) (mask : U8) (kind : Nat) (e : FEv) (r : FaultRec) : StepAcc :=
  let i := 4 * kind + e.flag
  { a with flags := a.flags ||| BitVec.ofNat 32 (2 ^ i)
           counts := a.counts.set i (satAdd32 (a.counts.getD i 0) 1)
           firstFault := if maskSelects mask e.flag then leastFault a.firstFault r else a.firstFault }

def State.modStream (s : State) (c : Slot) (f : CtxStream → CtxStream) : State :=
  s.modCtx c (fun x => { x with stream := f x.stream })

def State.op? (s : State) (c : Slot) (n : Nat) : Option OpRec :=
  (s.ctx c).stream.ops.find? (fun o => o.n == n)

def State.modOp (s : State) (c : Slot) (n : Nat) (f : OpRec → OpRec) : State :=
  s.modStream c (fun x => { x with ops := x.ops.map (fun o => if o.n == n then f o else o) })

def State.modRun (s : State) (c : Slot) (n : Nat) (f : RunData → RunData) : State :=
  s.modOp c n (fun o => { o with run := o.run.map f })

def State.run? (s : State) (c : Slot) (n : Nat) : Option RunData :=
  (s.op? c n).bind (fun o => o.run)

/-- An invalid event marks its operation and writes one notice per operation (R124 effects 5 and 6, R438). -/
def State.noteInvalid (s : State) (o : OpCtx) (r : FaultRec) : State :=
  let s := s.noteStep o.c o.step 5
  let s := s.modRun o.c o.n (fun x => { x with invalid := true })
  if ((s.ctx o.c).num.stepAcc o.step).invalidOps.contains o.n then s
  else
    let s := s.modStepAcc o.c o.step (fun a => { a with invalidOps := a.invalidOps ++ [o.n] })
    let b := r.bytes
    s.raiseStatus sevNotice St.numericInvalid
      { Event.blank with
        context := s.ctxId o.c, unit := o.layer, opId := o.opId, handle := r.handle, step := o.step
        args := (List.range 4).map (fun i => fieldBv 64 b (8 * i) 8) }

/-- One event of an engine and all its effects (R117, R120, R123, R124, R125). (open points: DEDUCED, log entry 25) -/
def State.event (s : State) (o : OpCtx) (unit kind : Nat) (e : FEv) : State :=
  if o.quiet then
    if e.flag = 3 then s.modRun o.c o.n (fun x => { x with invalid := true }) else s
  else
    let mask := (s.ctx o.c).num.watchInForce.mask
    let r := s.faultOf o unit kind e
    let k := watchKey unit kind
    let s := { s with watch := kvSet s.watch k ((s.watchOf k).count mask e r) }
    let s := s.modStepAcc o.c o.step (fun a => a.count mask kind e r)
    if e.flag = 3 then s.noteInvalid o r else s

/-- Events in the order their engine meets them. (open points: DEDUCED, log entry 25) -/
def State.events (s : State) (o : OpCtx) (unit kind : Nat) (es : List FEv) : State :=
  es.foldl (fun s e => s.event o unit kind e) s

/-- The CAUSE of an inexact event: that of a flush where the result was flushed too, else of a rounding (R63, R122).
(open points: DEDUCED, log entry 28) -/
def Fl.inxCause (fl : Fl) : Nat := if fl.unf then 1 else 0

/-- The events one result's flags make: invalid first, then overflow, underflow, inexact (R123). -/
def flEvents {α : Type} (fl : Fl) (mk : Nat → Nat → α) : List α :=
  (match fl.inv with | some c => [mk 3 c] | none => []) ++
  (match fl.ovf with | some c => [mk 2 c] | none => []) ++
  (if fl.unf then [mk 1 1] else []) ++ (if fl.inx then [mk 0 fl.inxCause] else [])

/-- The cycle in which an engine of `lanes` lanes meets column `j` of row `i`, with the place of a flag in it: invalid
before overflow, underflow and inexact (R123). An engine takes its rows in order. (open points: DESIGN CHOICE, log entry
77) -/
def cycleKey (lanes i j flag : Nat) : Nat := (i * 2 ^ 24 + j / lanes) * 4 + (3 - flag)

/-- Events with their cycles, in the order of the cycles; within one in the order they are listed. -/
def inCycles (es : List (Nat × FEv)) : List FEv := (sortBy (·.1) es).map (·.2)

/-- The events of rows of elements, each in its cycle. -/
def rowEvents (lanes : Nat) (rows : List (List Fl)) (mk : Nat → Nat → Nat → Nat → FEv) : List (Nat × FEv) :=
  (List.range rows.length).flatMap (fun i =>
    let row := rows.getD i []
    (List.range row.length).flatMap (fun j =>
      flEvents (row.getD j Fl.none) (fun flag cause => (cycleKey lanes i j flag, mk i j flag cause))))

/-! ### Clearing when a core group leaves its context (R119) -/

/-- The records of a core with flags, counters and VALID zero. -/
def State.cleanCore (s : State) (core : Nat) : State :=
  { s with watch := s.watch.filter (fun x => !(8 * core ≤ x.1 && x.1 < 8 * core + 8)) }

end Sys2Proof.Machine
end

