-- ==== Sys2Proof/Machine/Operands.lean ====
section
/-! DEFINITION. Tensor handles, the tensor table and operand references (R191 to R195), and the reading of
their plates: tags, epochs, poison and side lists (R33, R39, R42 to R44, R107, R152, R234). -/

namespace Sys2Proof.Machine

/-! ### The tensor table (R192, R193) -/

/-- A tensor table entry as read. -/
structure TEntry where
  base : Nat
  baseWide : Nat
  bound : Nat
  boundWide : Nat
  dims : List Nat
  rowdims : Nat
  format : Nat
  gen : Nat
  valid : Bool
  stride : Nat
  side : Nat
  deriving DecidableEq, Repr

def TEntry.parse (b : Bytes) : TEntry :=
  { base := field b 0 8, baseWide := field b 8 8, bound := field b 16 4, boundWide := field b 20 4,
    dims := (List.range 4).map (fun i => field b (24 + 4 * i) 4), rowdims := field b 40 1,
    format := field b 41 1, gen := field b 42 1, valid := (field b 43 1) % 2 = 1,
    stride := field b 44 4, side := field b 48 8 }

def mulList (l : List Nat) : Nat := l.foldl (· * ·) 1
def TEntry.rows (e : TEntry) : Nat := mulList (e.dims.take e.rowdims)
def TEntry.cols (e : TEntry) : Nat := mulList (e.dims.drop e.rowdims)

/-- An entry that a handle may resolve to, less its generation (R193, R95). -/
def TEntry.usable (e : TEntry) : Bool := e.valid && e.format ≤ 6 && 1 ≤ e.rowdims && e.rowdims ≤ 3

def handleIdx (h : U32) : Nat := h.toNat % 2 ^ 24
def handleGen (h : U32) : Nat := h.toNat / 2 ^ 24

/-- An entry of the tensor table; one that runs past the device range is none, and reads as zeros, VALID = 0 (R192,
R239). -/
def State.entryAt (s : State) (c : Slot) (idx : Nat) : TEntry :=
  let a := (s.ctx c).stream.tblBase.toNat + 64 * idx
  TEntry.parse (if inRange a 64 then s.bytes c a 64 else zeros 64)

/-- Resolves a handle (R193): BEYOND_BOUND or STALE_GENERATION where it cannot. -/
def State.entryOf (s : State) (c : Slot) (h : U32) : Except U16 TEntry :=
  let st := (s.ctx c).stream
  let idx := handleIdx h
  if idx = 0 || st.tblEntries.toNat ≤ idx || st.tblBase = 0 then .error St.beyondBound
  else
    let e := s.entryAt c idx
    if !e.usable then .error St.beyondBound
    else if e.gen != handleGen h then .error St.staleGeneration
    else .ok e

/-- The tracked record of a handle, with its number (R194); of two that name one HANDLE, which no rule forbids, the one of
the lowest number (DEDUCED, log entry 39). -/
def CtxNum.track (x : CtxNum) (h : U32) : Option (Nat × TRec) := x.recs.find? (fun r => r.2.handle == h)

/-- Entries per side-list region: SIDE_CAP, or the default of :05 (R93, R105). -/
def CtxNum.sideCap (x : CtxNum) (r : TRec) : Nat :=
  if r.sideCap = 0 then 16384 / x.inForce.divisor.toNat else r.sideCap.toNat

def CtxNum.crushOf (x : CtxNum) (r : TRec) : F32 := if r.crush = 0 then x.inForce.crush else r.crush

/-- FLAGS of a tensor record (R93). -/
def TRec.noSide (r : TRec) : Bool := r.flags.getLsbD 4
def TRec.frozen (r : TRec) : Bool := r.flags.getLsbD 3
def TRec.carried (r : TRec) : Bool := r.flags.getLsbD 2
def TRec.grad (r : TRec) : Bool := r.flags.getLsbD 1
def TRec.promoted (r : TRec) : Bool := r.flags.getLsbD 0

/-- A format code that is the wide one of its pair (R194). -/
def wideCode (f : BitVec 3) : Bool := f == 1 || f == 3

/-- The view of an entry in a format: the wide form is packed at BASE_WIDE (R192, R194). -/
def TEntry.view (e : TEntry) (h : U32) (f : Fmt) (wide : Bool) : TView :=
  { handle := h, fmt := f, base := if wide then e.baseWide else e.base,
    bound := if wide then e.boundWide else e.bound, rows := e.rows, cols := e.cols,
    stride := if wide || e.stride = 0 then f.platesPerRow e.cols else e.stride,
    scale := 0x3F800000, epoch := 0, rowFirst := 0, side := none, track := none, crush := 0 }

/-- The scale record of a handle, in a replay (R221). -/
def Replay.scaleOf (r : Replay) (h : U32) : Option JScale := r.entry.scales.find? (fun j => j.handle == h)

/-- The view of an untracked tensor (R195). -/
def TEntry.plain (e : TEntry) (x : CtxNum) (ref : OperandRef) : TView :=
  let f0 := (Fmt.ofCode e.format).getD .mask
  let v := e.view ref.handle f0 false
  { v with scale := if f0.scaled then ref.scale else 0x3F800000
           epoch := if f0.scaled then ref.epoch else 0
           rowFirst := ref.rowFirst.toNat
           side := if f0.scaled && e.side != 0 then some (e.side, 16384 / x.inForce.divisor.toNat) else none }

/-- The view of a tensor a step tracked, as its scale record fixes it; `held`: its record, while it is still tracked.
One that is tracked no more has the side list and capacity of its table entry. (open points: DEDUCED, log entry 44) -/
def TEntry.journalled (e : TEntry) (x : CtxNum) (ref : OperandRef) (write : Bool) (j : JScale)
    (held : Option (Nat × TRec)) : TView :=
  let code := BitVec.ofNat 3 (if write then j.format.toNat / 16 else j.format.toNat)
  let v := e.view ref.handle ((Fmt.ofCode code.toNat).getD .f4) (wideCode code)
  { v with
    scale := if write then j.scaleW else j.scaleR
    epoch := (if write then j.genW else j.genR).setWidth 4
    rowFirst := ref.rowFirst.toNat
    side := match held with
      | some (_, r) => if r.noSide then none else some (r.sideBase.toNat, x.sideCap r)
      | none => if e.side != 0 then some (e.side, 16384 / x.inForce.divisor.toNat) else none
    track := held.map (·.1)
    crush := match held with | some (_, r) => x.crushOf r | none => x.inForce.crush }

/-- Resolves an operand reference to the view the operation uses until it completes (R193, R194, R195). A
replay takes format, scale and generation from its scale records, and a tensor without one as untracked (R221). -/
def State.viewOf (s : State) (c : Slot) (rp : Option Replay) (ref : OperandRef) (write : Bool) :
    Except U16 TView := do
  let e ← s.entryOf c ref.handle
  let x := (s.ctx c).num
  match rp with
  | some p =>
    match p.scaleOf ref.handle with
    | some j => .ok (e.journalled x ref write j (x.track ref.handle))
    | none => .ok (e.plain x ref)
  | none =>
    match x.track ref.handle with
    | none => .ok (e.plain x ref)
    | some (i, r) =>
      let fmtC := if write then r.fmtW else r.fmtR
      let v := e.view ref.handle ((Fmt.ofCode fmtC.toNat).getD .f4) (wideCode fmtC)
      .ok { v with scale := if write then r.scaleW else r.scaleR
                   epoch := (if write then r.genW else r.genR).setWidth 4, rowFirst := ref.rowFirst.toNat
                   side := if r.noSide then none else some (r.sideBase.toNat, x.sideCap r)
                   track := some i, crush := x.crushOf r }

/-- Plates of a row (R39). -/
def TView.ppr (v : TView) : Nat := v.fmt.platesPerRow v.cols

/-- Device-range address of plate j of tensor row r (R192, R195). -/
def TView.addr (v : TView) (r j : Nat) : Nat := v.base + 64 * (r * v.stride + j)

/-- Operand rows `[0, n)` lie within the tensor and within BOUND (R201, R210 stage 6). -/
def TView.fits (v : TView) (n : Nat) : Bool :=
  n = 0 || (v.rowFirst + n ≤ v.rows && (v.rowFirst + n - 1) * v.stride + v.ppr ≤ v.bound)

/-- First address and bytes of operand rows `[0, n)`. -/
def TView.extent (v : TView) (n : Nat) : Nat × Nat :=
  if n = 0 then (v.base, 0)
  else (v.addr v.rowFirst 0, 64 * ((n - 1) * v.stride + v.ppr))

/-- The extent of operand rows is allocated (R210 stage 6, R239). -/
def State.extentOk (s : State) (c : Slot) (v : TView) (n : Nat) : Bool :=
  v.fits n && (let (a, l) := v.extent n; s.allocated c a l)

/-- The side list a view reads lies in the allocated range (R192); `rows` of the tensor. -/
def State.sideOk (s : State) (c : Slot) (v : TView) : Bool :=
  match v.side with
  | none => true
  | some (a, cap) => s.allocated c a (8 * cap * ceilDiv v.rows 128 * ceilDiv v.cols 128)

/-! ### Plates of a window -/

/-- A plate as read: where, and its number. -/
structure RPlate where
  addr : Nat
  val : Nat
  deriving DecidableEq, Repr

def State.plateAt (s : State) (c : Slot) (a : Nat) : RPlate := { addr := a, val := s.num c a 64 }

/-- The plates of tensor row r that hold columns [c0, c1). -/
def State.rowPlates (s : State) (c : Slot) (v : TView) (r c0 c1 : Nat) : List RPlate :=
  if c1 ≤ c0 then []
  else
    let j0 := c0 / v.fmt.per
    let j1 := (c1 - 1) / v.fmt.per
    (List.range (j1 + 1 - j0)).map (fun k => s.plateAt c (v.addr r (j0 + k)))

/-- Columns [c0, c1) of a row, from its plates, by a reader of one element of a plate. -/
def pickCols {α : Type} (v : TView) (ps : List RPlate) (c0 c1 : Nat) (d : α) (f : Nat → Nat → α) : List α :=
  let j0 := c0 / v.fmt.per
  (List.range (c1 - c0)).map (fun k =>
    match ps[(c0 + k) / v.fmt.per - j0]? with
    | none => d
    | some p => f p.val ((c0 + k) % v.fmt.per))

/-- Side-list entries of one region: (row, column, VALUE) of the tensor, and whether the scan ended on a
region mismatch (R106, R107). (open points: DEDUCED, log entry 32) -/
def State.scanRegion (s : State) (c : Slot) (base reg row0 col0 : Nat) :
    Nat → Nat → List (Nat × Nat × F32) × Bool
  | 0, _ => ([], false)
  | fuel + 1, k =>
    let b := s.bytes c (base + 8 * k) 8
    let tag := field b 6 2
    if tag < 32768 then ([], false)
    else if tag % 32768 != reg % 32768 then ([], true)
    else
      let idx := field b 0 4
      let (rest, bad) := s.scanRegion c base reg row0 col0 fuel (k + 1)
      ((row0 + (idx / 128) % 128, col0 + idx % 128, bf16To32 (field b 4 2)) :: rest, bad)

/-- A window of a tensor as read: rows [r0, r1) and columns [c0, c1) of the tensor. -/
structure Window where
  v : TView
  r0 : Nat
  r1 : Nat
  c0 : Nat
  c1 : Nat
  rows : List (List RPlate)
  /-- side-list entries of plates with OUTLIER set, ascending -/
  side : List (Nat × Nat × F32)
  /-- regions whose scan met a mismatch -/
  bad : List Nat
  /-- address and bytes of the regions searched -/
  searched : List (Nat × Nat)
  /-- the first poisoned plate among those read -/
  poison : Option Nat
  /-- stale plates: address and EPOCH -/
  stale : List (Nat × Nat)
  deriving DecidableEq, Repr

def Window.plates (w : Window) : List RPlate := w.rows.flatMap id

/-- The plate of tensor column `col` in a row of the window. -/
def Window.plateOf (w : Window) (r col : Nat) : Option RPlate :=
  (w.rows[r - w.r0]?).bind (fun ps => ps[col / w.v.fmt.per - w.c0 / w.v.fmt.per]?)

/-- A side-list region: its number, and the tensor row and column it starts at (R105). -/
structure Region where
  reg : Nat
  row : Nat
  col : Nat
  deriving DecidableEq, Repr

/-- A region as scanned: its slots' address and bytes, its entries, a mismatch. -/
structure Scan where
  reg : Nat
  addr : Nat
  len : Nat
  entries : List (Nat × Nat × F32)
  bad : Bool
  deriving DecidableEq, Repr

/-- Side-list regions a window meets. (open points: DEDUCED, log entry 29) -/
def TView.regions (v : TView) (r0 r1 c0 c1 : Nat) : List Region :=
  if r1 ≤ r0 || c1 ≤ c0 then []
  else
    let ncr := ceilDiv v.cols 128
    (List.range ((r1 - 1) / 128 + 1 - r0 / 128)).flatMap (fun i =>
      (List.range ((c1 - 1) / 128 + 1 - c0 / 128)).map (fun j =>
        let a := r0 / 128 + i
        let b := c0 / 128 + j
        { reg := a * ncr + b, row := 128 * a, col := 128 * b }))

/-- Some plate of the window with elements of the region has OUTLIER set (R43). (open points: DEDUCED, log entry 29) -/
def State.regionSearched (s : State) (c : Slot) (v : TView) (r0 r1 c0 c1 : Nat) (g : Region) : Bool :=
  (List.range (r1 - r0)).any (fun i =>
    g.row ≤ r0 + i && r0 + i < g.row + 128 &&
    (s.rowPlates c v (r0 + i) (Nat.max c0 g.col) (Nat.min c1 (g.col + 128))).any
      (fun p => tagOutlier p.val))

/-- Scans of the regions a window searches. -/
def State.scans (s : State) (c : Slot) (v : TView) (r0 r1 c0 c1 : Nat) : List Scan :=
  match v.side with
  | none => []
  | some (base, cap) =>
    if !v.fmt.scaled then []
    else
      ((v.regions r0 r1 c0 c1).filter (s.regionSearched c v r0 r1 c0 c1)).map (fun g =>
        let a := base + 8 * cap * g.reg
        let (es, bad) := s.scanRegion c a g.reg g.row g.col cap 0
        { reg := g.reg, addr := a, len := 8 * cap, entries := es, bad := bad })

/-- Reads a window (R42 to R44, R107, R234). -/
def State.readWindow (s : State) (c : Slot) (v : TView) (r0 r1 c0 c1 : Nat) : Window :=
  let rows := (List.range (r1 - r0)).map (fun i => s.rowPlates c v (r0 + i) c0 c1)
  let all := rows.flatMap id
  let w0 : Window := { v := v, r0 := r0, r1 := r1, c0 := c0, c1 := c1, rows := rows, side := [],
                       bad := [], searched := [], poison := none, stale := [] }
  let scans := s.scans c v r0 r1 c0 c1
  let keep := (scans.flatMap (·.entries)).filter (fun e =>
    r0 ≤ e.1 && e.1 < r1 && c0 ≤ e.2.1 && e.2.1 < c1 &&
    (match w0.plateOf e.1 e.2.1 with | some p => tagOutlier p.val | none => false))
  let poison := match all.find? (fun p => s.poisoned c p.addr) with
    | some p => some p.addr
    | none => scans.findSome? (fun x => s.firstPoison c x.addr x.len)
  { w0 with
    side := sortBy (fun e => e.1 * v.cols + e.2.1) keep
    bad := (scans.filter (·.bad)).map (·.reg)
    searched := scans.map (fun x => (x.addr, x.len))
    poison := poison
    stale := if v.fmt.scaled then
        (all.filter (fun p => tagEpoch p.val != v.epoch.toNat)).map (fun p => (p.addr, tagEpoch p.val))
      else [] }

/-- The elements of a window as the arrays take them (R72): rows of the window. -/
def Window.els (w : Window) : List (List El) :=
  w.rows.map (fun ps => pickCols w.v ps w.c0 w.c1 El.zero (fun p i =>
    match w.v.fmt with
    | .bf16 => elOfF32 (bf16To32 (plateCode .bf16 p i)) w.v.handle
    | .fp32 => elOfF32 (BitVec.ofNat 32 (plateCode .fp32 p i)) w.v.handle
    | .mask => if plateCode .mask p i = 1 then .fin 1 0 else .zero
    | f => plateEl f p i w.v.handle))

/-- The FP32 patterns of a BF16 or FP32 window. -/
def Window.patterns (w : Window) : List (List F32) :=
  w.rows.map (fun ps => pickCols w.v ps w.c0 w.c1 (0 : F32) (fun p i =>
    match w.v.fmt with
    | .bf16 => bf16To32 (plateCode .bf16 p i)
    | .fp32 => BitVec.ofNat 32 (plateCode .fp32 p i)
    | _ => 0))

/-- The bits of a mask window. -/
def Window.bits (w : Window) : List (List Bool) :=
  w.rows.map (fun ps => pickCols w.v ps w.c0 w.c1 false (fun p i => plateCode .mask p i = 1))

/-- The element `x` of a plate with a side-list entry of VALUE `o`: o × T, rounded once (R152). An element that reads
as a NaN because of its code, block or plate stays one (R42). A NaN VALUE is an invalid of CAUSE 6 in the record of the
engine that reads the element, kind 4 or 5 (R149, R170), and an infinite one is no event there, where R116 names kind 6
for such values met by a reader (DEDUCED, log entry 32). -/
def sideVal (x : F32 × Fl) (o t : F32) : F32 × Fl :=
  let (v, fl) := mulF true o t
  let fl := fl.or ((readFl o).or (readFl t))
  match x.2.inv with
  | some c => if 6 ≤ c then (nan32, { x.2 with inv := lowCause (some c) fl.inv }) else (v, fl)
  | none => (v, fl)

/-- The elements of a window as FP32 values with their decode flags (R152); a zero code keeps its sign. -/
def Window.values (w : Window) : List (List (F32 × Fl)) :=
  let raw := w.rows.map (fun ps => pickCols w.v ps w.c0 w.c1 ((0 : F32), Fl.none) (fun p i =>
    match w.v.fmt with
    | .mask => (if plateCode .mask p i = 1 then 0x3F800000 else 0, Fl.none)
    | .bf16 =>
      let x := bf16To32 (plateCode .bf16 p i)
      if isNan x then (nan32, Fl.invalid 6) else (x, Fl.none)
    | .fp32 =>
      let x : F32 := BitVec.ofNat 32 (plateCode .fp32 p i)
      if isNan x then (nan32, Fl.invalid 6) else (x, Fl.none)
    | f => plateVal f p i w.v.handle w.v.scale))
  w.side.foldl (fun m e => m.modify (e.1 - w.r0) (fun row =>
    row.modify (e.2.1 - w.c0) (fun x => sideVal x e.2.2 w.v.scale))) raw

/-- Elements of an edge that stand in a zero block, and those that bar a skip (R52, R80), row by row of the window. -/
def Window.skipMarks (w : Window) (codes : Bool) : List (List (Bool × Bool)) :=
  w.rows.map (fun ps => pickCols w.v ps w.c0 w.c1 (true, false) (fun p i =>
    (inZeroBlock w.v.fmt p i, barsSkip codes w.v.fmt p i)))

end Sys2Proof.Machine
end

