-- ==== Sys2Proof/Machine/Tiler.lean ====
section
/-! DEFINITION. The tiler: grids, rectangles, Hilbert order and the band tree (chapter 09). -/

namespace Sys2Proof.Machine

def t128 (x : Nat) : Nat := ceilDiv x 128
def t256 (x : Nat) : Nat := ceilDiv x 256

/-- The best grid so far while candidates `gr` to `top` are weighed: (gr, gc, load, h + w) (R174). `load` is a u32 (R10). -/
def gridFrom (tr tc p : Nat) : Nat → Nat → Nat × Nat × Nat × Nat → Nat × Nat × Nat × Nat
  | 0, _, best => best
  | fuel + 1, gr, (bgr, bgc, load, perim) =>
    let gc := Nat.min (p / gr) tc
    let h := ceilDiv tr gr
    let w := ceilDiv tc gc
    let l := (h * w) % 2 ^ 32
    gridFrom tr tc p fuel (gr + 1)
      (if l < load || (l = load && h + w < perim) then (gr, gc, l, h + w) else (bgr, bgc, load, perim))

/-- The grid of core rectangles of an operation with a static split (R174). -/
def chooseGrid (tr tc p : Nat) : Nat × Nat :=
  let (gr, gc, _, _) := gridFrom tr tc p (Nat.min tr p) 1 (1, 1, 0xFFFFFFFF, 0xFFFFFFFF)
  (gr, gc)

/-- A point of a Hilbert curve while its digits are taken, smallest first: `fuel` digits, side `s`. -/
def hilbertFrom : Nat → Nat → Nat → Nat → Nat → Nat × Nat
  | 0, _, _, x, y => (x, y)
  | fuel + 1, s, t, x, y =>
    let rx := (t / 2) % 2
    let ry := (t ^^^ rx) % 2
    let (x, y) := if ry = 0 then
        (if rx = 1 then (s - 1 - y, s - 1 - x) else (y, x))
      else (x, y)
    hilbertFrom fuel (2 * s) (t / 4) (x + s * rx) (y + s * ry)

/-- Smallest b with n ≤ 2^b, for n below 2^32. -/
def log2Up (n : Nat) : Nat := ((List.range 33).find? (fun b => n ≤ 2 ^ b)).getD 32

/-- Local (row, column) of a rectangle h high and w wide in visiting order (R176). A rectangle more
than 65,536 tiles high or wide has more points than the spec's u32 d can count: d goes on here without a bound.
(open points: DESIGN CHOICE, log entry 31) -/
def hilbertOrder (h w : Nat) : List (Nat × Nat) :=
  let b := log2Up (Nat.max h w)
  (List.range (2 ^ b * 2 ^ b)).filterMap (fun d =>
    let (x, y) := hilbertFrom b 1 d 0 0
    if x < w && y < h then some (y, x) else none)

/-- Tiles (tr, tc) of participating core `idx` in the order it visits them (R175, R176). -/
def coreTiles (tr tc p idx : Nat) : List (Nat × Nat) :=
  let (gr, gc) := chooseGrid tr tc p
  if gr * gc ≤ idx then []
  else
    let a := idx / gc
    let b := idx % gc
    let r0 := a * tr / gr
    let r1 := (a + 1) * tr / gr
    let c0 := b * tc / gc
    let c1 := (b + 1) * tc / gc
    (hilbertOrder (r1 - r0) (c1 - c0)).map (fun q => (r0 + q.1, c0 + q.2))

/-- The participating core a tile lies on (R175). -/
def coreOfTile (tr tc p row col : Nat) : Nat :=
  let (gr, gc) := chooseGrid tr tc p
  let a := ((List.range gr).find? (fun a => row < (a + 1) * tr / gr)).getD 0
  let b := ((List.range gc).find? (fun b => col < (b + 1) * tc / gc)).getD 0
  a * gc + b

/-- Units of a weight gradient in claim order: tile and band of unit u (R177). -/
def unitTile (tr tc bands u : Nat) : Option (Nat × Nat × Nat) :=
  match (hilbertOrder tr tc)[u / bands]? with
  | some (r, c) => some (r, c, u % bands)
  | none => none

/-! ### The band tree (R182) -/

/-- One level of the tree: neighbours added, an odd one passed up. -/
def treeLevel {α : Type} (add : α → α → α) : List α → List α
  | a :: b :: rest => add a b :: treeLevel add rest
  | [a] => [a]
  | [] => []

/-- The tree over `fuel` levels at most. -/
def treeFrom {α : Type} (add : α → α → α) : Nat → List α → List α
  | 0, l => l
  | fuel + 1, l => if l.length ≤ 1 then l else treeFrom add fuel (treeLevel add l)

/-- band_tree of R182. -/
def bandTree {α : Type} (add : α → α → α) (l : List α) : Option α := (treeFrom add l.length l).head?

/-- Bit of the state plate of node (l, i) (R183). -/
def nodeBit : Nat → Nat → Nat → Nat → Nat
  | 0, i, _, off => off + i
  | l + 1, i, n, off => nodeBit l i ((n + 1) / 2) (off + n)

end Sys2Proof.Machine
end

