-- ==== Sys2Proof/Machine/Desc.lean ====
section
/-! DEFINITION. Operation descriptors: their bytes, the tensors they name, and the checks of an operation's
start (R196, R198, R200 to R210). -/

namespace Sys2Proof.Machine

/-! ### Parsing (R195, R196, R200, R202, R203, R205 to R209) -/

def OperandRef.parse (b : Bytes) (o : Nat) : OperandRef :=
  { handle := fieldBv 32 b o 4, scale := fieldBv 32 b (o + 4) 4, epoch := fieldBv 4 b (o + 8) 1,
    rowFirst := fieldBv 32 b (o + 12) 4 }

def OperandRef.none : OperandRef := { handle := 0, scale := 0, epoch := 0, rowFirst := 0 }
def OperandRef.ofHandle (h : U32) : OperandRef := { OperandRef.none with handle := h }

/-- Size of a descriptor by KIND; none for a KIND that refuses the list (R196). -/
def descSize : Nat → Option Nat
  | 1 => some 192 | 2 => some 192 | 3 => some 192 | 4 => some 64
  | 5 => some 64 | 6 => some 128 | 7 => some 64 | 8 => some 64
  | _ => none

def DescHdr.parse (b : Bytes) : DescHdr :=
  let f := field b 1 1
  { fence := f.testBit 0, complete := f.testBit 1, continue_ := f.testBit 2, layer := fieldBv 16 b 2 2,
    opId := fieldBv 32 b 4 4 }

def ProductD.parse (b : Bytes) : ProductD :=
  { pkind := fieldBv 8 b 8 1, round := fieldBv 8 b 9 1, noBlink := (field b 10 1).testBit 0
    m := fieldBv 32 b 12 4, n := fieldBv 32 b 16 4, k := fieldBv 32 b 20 4,
    groupMask := fieldBv 64 b 24 8, a := .parse b 32, b := .parse b 48, out := .parse b 64,
    init := .parse b 80, inMask := .parse b 96, outMask := .parse b 112, f1 := fieldBv 32 b 128 4,
    f0 := fieldBv 32 b 132 4, keepRows := .parse b 136, partials := .parse b 152 }

def RowD.parse (b : Bytes) : RowD :=
  { op := fieldBv 8 b 8 1, round := fieldBv 8 b 9 1, length := fieldBv 32 b 12 4,
    rows := fieldBv 32 b 16 4, causalPeriod := fieldBv 32 b 20 4, causalOffset := fieldBv 32 b 24 4,
    eps := fieldBv 32 b 28 4, alpha := fieldBv 32 b 32 4, groupMask := fieldBv 64 b 40 8,
    x := .parse b 48, dy := .parse b 64, out := .parse b 80, gamma := .parse b 96, beta := .parse b 112,
    stats := .parse b 128, inMask := .parse b 144, dparam := .parse b 160 }

def VectorD.parse (b : Bytes) : VectorD :=
  { func := fieldBv 8 b 8 1, round := fieldBv 8 b 9 1, rows := fieldBv 32 b 12 4,
    cols := fieldBv 32 b 16 4, groupMask := fieldBv 64 b 24 8, a := .parse b 32, b := .parse b 48,
    c := .parse b 64, out := .parse b 80, outMask := .parse b 96,
    params := (List.range 12).map (fun w => fieldBv 32 b (112 + 4 * w) 4) }

def ConvertD.parse (b : Bytes) : ConvertD :=
  { round := fieldBv 8 b 8 1, rows := fieldBv 32 b 12 4, cols := fieldBv 32 b 16 4,
    groupMask := fieldBv 64 b 24 8, src := .parse b 32, dst := .parse b 48 }

def CopyD.parse (b : Bytes) : CopyD :=
  { count := fieldBv 32 b 8 4, src := fieldBv 32 b 16 4, dst := fieldBv 32 b 20 4,
    srcOffset := fieldBv 64 b 24 8, dstOffset := fieldBv 64 b 32 8 }

def CollD.parse (b : Bytes) : CollD :=
  { ckind := fieldBv 8 b 8 1, order := fieldBv 8 b 9 1, redop := fieldBv 8 b 10 1,
    count := fieldBv 32 b 12 4, group := fieldBv 16 b 16 2, root := fieldBv 32 b 20 4,
    tag := fieldBv 32 b 24 4, src := .parse b 32, dst := .parse b 48, srcOffset := fieldBv 64 b 64 8,
    dstOffset := fieldBv 64 b 72 8 }

def WaitD.parse (b : Bytes) : WaitD :=
  { wkind := fieldBv 8 b 8 1, timeout := fieldBv 32 b 12 4, value := fieldBv 64 b 16 8,
    address := fieldBv 64 b 24 8 }

def MarkD.parse (b : Bytes) : MarkD :=
  { mflags := fieldBv 8 b 8 1, tag := fieldBv 32 b 12 4, value := fieldBv 64 b 16 8,
    address := fieldBv 64 b 24 8 }

/-- The descriptor in the bytes of its size. -/
def Desc.parse (b : Bytes) : Option Desc :=
  match field b 0 1 with
  | 1 => some (.product (.parse b))
  | 2 => some (.row (.parse b))
  | 3 => some (.vector (.parse b))
  | 4 => some (.convert (.parse b))
  | 5 => some (.copy (.parse b))
  | 6 => some (.coll (.parse b))
  | 7 => some (.wait (.parse b))
  | 8 => some (.mark (.parse b))
  | _ => none

/-! ### Codes (R155, R160, R166) -/

def rowOps : List Nat := [0x01, 0x02, 0x03, 0x11, 0x12, 0x13]
def vectorFuncs : List Nat :=
  [0x00, 0x01, 0x02, 0x03, 0x04, 0x05, 0x06, 0x07, 0x08, 0x09, 0x0A, 0x0B, 0x0C, 0x0D, 0x10, 0x11, 0x12,
   0x13, 0x14, 0x18, 0x19, 0x20, 0x21, 0x30, 0x31, 0x40, 0x41]

def VectorD.f (d : VectorD) : Nat := d.func.toNat
def VectorD.optim (d : VectorD) : Bool := d.f == 0x40 || d.f == 0x41
def VectorD.reduces (d : VectorD) : Bool := d.f == 0x30 || d.f == 0x31
/-- Functions that read b, and c (R160). -/
def VectorD.usesA (d : VectorD) : Bool := d.f != 0x20
def VectorD.usesB (d : VectorD) : Bool :=
  [0x01, 0x02, 0x03, 0x04, 0x05, 0x06, 0x07, 0x11, 0x18, 0x19, 0x40, 0x41].contains d.f
def VectorD.usesC (d : VectorD) : Bool := [0x04, 0x18, 0x19, 0x40, 0x41].contains d.f
def VectorD.masksOut (d : VectorD) : Bool := [0x10, 0x11, 0x13].contains d.f
/-- The handle of s (R204). PARAMS word 0 carries no ROW_FIRST: its rows are taken from row 0 (DESIGN CHOICE, log entry
79). -/
def VectorD.s (d : VectorD) : OperandRef :=
  if d.f = 0x40 then .ofHandle (d.params.getD 0 0) else .none

def RowD.backward (d : RowD) : Bool := 0x10 < d.op.toNat
def RowD.norm (d : RowD) : Bool := [0x01, 0x02, 0x11, 0x12].contains d.op.toNat
def RowD.softmax (d : RowD) : Bool := d.op == 0x03 || d.op == 0x13
/-- Parameter-gradient rows per band (R202). -/
def RowD.p (d : RowD) : Nat := if d.op = 0x12 then 2 else 1

/-! ### The tensors an operation names (R198, R202, R203) -/

/-- A field that names a tensor: its offset, whether the operation reads, writes, and needs it. -/
structure Named where
  off : Nat
  ref : OperandRef
  reads : Bool
  writes : Bool
  need : Bool
  deriving DecidableEq, Repr

def rd (off : Nat) (ref : OperandRef) (need : Bool) : Named :=
  { off := off, ref := ref, reads := true, writes := false, need := need }
def wr (off : Nat) (ref : OperandRef) (need : Bool) : Named :=
  { off := off, ref := ref, reads := false, writes := true, need := need }

/-- PARTIALS is no field that a product must name: a banded weight gradient without it has no slots, and is refused at
stage 6 where it needs any, so that an empty one completes (R181, R193). (open points: DESIGN CHOICE, log entry 22) -/
def ProductD.named (d : ProductD) : List Named :=
  [rd 32 d.a true, rd 48 d.b true, wr 64 d.out true, rd 80 d.init false, rd 96 d.inMask false,
   rd 112 d.outMask false, rd 136 d.keepRows false] ++
  (if d.pkind = 2 then [wr 152 d.partials false] else [])

def RowD.named (d : RowD) : List Named :=
  [rd 48 d.x true] ++ (if d.backward then [rd 64 d.dy true] else []) ++ [wr 80 d.out true] ++
  (if d.norm then [rd 96 d.gamma true] else []) ++
  (if d.op = 0x01 || d.op = 0x02 then [rd 112 d.beta false] else []) ++
  (if !d.backward then [wr 128 d.stats false] else if d.norm then [rd 128 d.stats true] else []) ++
  (if d.softmax then [rd 144 d.inMask false] else []) ++
  (if d.backward && d.norm then [wr 160 d.dparam false] else [])

def VectorD.named (d : VectorD) : List Named :=
  (if d.usesA then [rd 32 d.a d.optim] else []) ++
  (if d.usesB then [{ rd 48 d.b d.optim with writes := d.optim }] else []) ++
  (if d.usesC then [{ rd 64 d.c d.optim with writes := d.optim }] else []) ++
  [wr 80 d.out (!d.optim)] ++
  (if d.masksOut then [wr 96 d.outMask false] else []) ++
  (if d.f = 0x40 then [{ rd 112 d.s true with writes := true }] else [])

def Desc.named : Desc → List Named
  | .product d => d.named
  | .row d => d.named
  | .vector d => d.named
  | .convert d => [rd 32 d.src true, wr 48 d.dst true]
  | .copy d => [rd 16 (.ofHandle d.src) true, wr 20 (.ofHandle d.dst) true]
  | .coll d => (if d.ckind = 5 then [] else [rd 32 d.src true]) ++
      (if d.ckind = 4 then [] else [wr 48 d.dst true])
  | .wait _ => []
  | .mark _ => []

/-- Handle indices an operation reads, and writes (R198). -/
def Desc.readIdx (d : Desc) : List Nat :=
  (d.named.filter (fun x => x.reads && x.ref.handle != 0)).map (fun x => handleIdx x.ref.handle)
def Desc.writeIdx (d : Desc) : List Nat :=
  (d.named.filter (fun x => x.writes && x.ref.handle != 0)).map (fun x => handleIdx x.ref.handle)

/-! ### Stage 1: codes (R210) -/

def maxCount : Nat := 16777216

/-- Codes of an operation that starts in step mode `mode`: in deterministic mode ORDER is read as 1, whatever it holds
(R145, R207). (open points: DEDUCED, log entry 22) -/
def Desc.stage1 (mode : Nat) : Desc → Bool
  | .product d => d.pkind.toNat ≤ 2 && d.round.toNat ≤ 2
  | .row d =>
    rowOps.contains d.op.toNat && d.round.toNat ≤ 2 &&
      (d.op != 0x01 && d.op != 0x02 || (isZero d.eps || (isFinite d.eps && !d.eps.msb)))
  | .vector d => vectorFuncs.contains d.f && d.round.toNat ≤ 2
  | .convert d => d.round.toNat ≤ 2
  | .copy _ => true
  | .coll d => d.ckind.toNat ≤ 5 && (mode = 0 || d.order.toNat ≤ 1) && (1 < d.ckind.toNat || d.redop.toNat ≤ 1)
  | .wait d => d.wkind.toNat ≤ 3
  | .mark d => !(d.mflags.toNat.testBit 0 && d.mflags.toNat.testBit 1)

/-! ### Stage 3: lengths and counts (R12, R201, R202, R203, R205) -/

/-- Plates of SRC and of DST that a collective of `g` ranks uses (R326). -/
def CollD.sizes (d : CollD) (g : Nat) : Nat × Nat :=
  let n := d.count.toNat
  match d.ckind.toNat with
  | 1 => (n, n / g)
  | 2 => (n, n * g)
  | _ => (n, n)

/-- A view at a descriptor offset is declared at `n` plates or more, or is absent. -/
def boundAt (vs : List (Nat × TView)) (off n : Nat) : Bool :=
  match kvGet vs off with
  | some v => n ≤ v.bound
  | none => true

/-- The length fields with their bounds, in offset order: COUNT of a COPY or a COLLECTIVE is bounded by the BOUND of the
tensors it addresses (R12). `vs`: the tensors; `ranks`: of the group. -/
def Desc.lengths (d : Desc) (vs : List (Nat × TView)) (ranks : Nat) : List (Nat × Nat) :=
  match d with
  | .product d => [(d.m.toNat, maxCount), (d.n.toNat, maxCount), (d.k.toNat, maxCount)]
  | .row d => [(d.length.toNat, 65536), (d.rows.toNat, maxCount)]
  | .vector d => [(d.rows.toNat, maxCount), (d.cols.toNat, maxCount)]
  | .convert d => [(d.rows.toNat, maxCount), (d.cols.toNat, maxCount)]
  | .copy d =>
    let n := d.count.toNat
    [(n, if boundAt vs 16 n && boundAt vs 20 n then 2 ^ 32 else 0)]
  | .coll d =>
    let q := d.sizes ranks
    [(d.count.toNat, if boundAt vs 32 q.1 && boundAt vs 48 q.2 then 2 ^ 32 else 0)]
  | .wait _ => []
  | .mark _ => []

def Desc.stage3 (d : Desc) (vs : List (Nat × TView)) (ranks : Nat) : Option U16 :=
  (d.lengths vs ranks).findSome? (fun x => lengthCheck 32 x.1 x.2)
def Desc.empty (d : Desc) : Bool := (d.lengths [] 0).any (fun x => x.1 == 0)

/-! ### Resolved views -/

/-- The view at a descriptor offset. -/
def viewAt (vs : List (Nat × TView)) (off : Nat) : Option TView := kvGet vs off

/-! ### Stage 5: formats (R29, R30, R67, R201, R202, R203, R207) -/

/-- The array of an operand pair: 0 forward, 1 backward, 2 wide (R29, R30, R201). -/
def productArray (pkind : Nat) (a b : Fmt) : Option ArrayKind :=
  match a, b with
  | .bf16, .bf16 => some .wide
  | .fp32, .fp32 => some .wide
  | _, _ =>
    if pkind = 0 then (if a.forward && b.forward then some .forward else none)
    else
      match a, b with
      | .b6, .f4 => some .backward
      | .b6, .f8 => some .backward
      | .b8, .f8 => some .backward
      | _, _ => none

def outAllowed (pkind : Nat) (f : Fmt) : Bool :=
  match pkind with
  | 0 => [Fmt.f4, .f8, .bf16, .fp32].contains f
  | 1 => [Fmt.b6, .b8, .bf16, .fp32].contains f
  | _ => f == .fp32

/-- A view that is absent, or has the format asked for. -/
def optFmt (v : Option TView) (f : Fmt) : Bool := match v with | none => true | some v => v.fmt == f

def ProductD.stage5 (d : ProductD) (vs : List (Nat × TView)) (sensitive : Bool) : Bool :=
  match viewAt vs 32, viewAt vs 48, viewAt vs 64 with
  | some a, some b, some o =>
    (productArray d.pkind.toNat a.fmt b.fmt).isSome &&
      !(sensitive && (a.fmt.scaled || b.fmt.scaled || o.fmt.scaled)) &&
      outAllowed d.pkind.toNat o.fmt && optFmt (viewAt vs 80) .fp32 &&
      (d.pkind != 0 || (viewAt vs 96).isNone) && optFmt (viewAt vs 96) .mask &&
      (d.pkind == 1 || (viewAt vs 112).isNone) && optFmt (viewAt vs 112) .mask &&
      (d.pkind == 2 || (viewAt vs 136).isNone) && optFmt (viewAt vs 136) .mask
  | _, _, _ => true

def RowD.stage5 (vs : List (Nat × TView)) : Bool :=
  let par := fun (v : Option TView) => match v with | none => true | some v => v.fmt == .bf16 || v.fmt == .fp32
  (match viewAt vs 80 with | some o => o.fmt != .mask | none => true) &&
    par (viewAt vs 96) && par (viewAt vs 112) && optFmt (viewAt vs 128) .fp32 &&
    optFmt (viewAt vs 144) .mask && optFmt (viewAt vs 160) .fp32

def VectorD.stage5 (d : VectorD) (vs : List (Nat × TView)) : Bool :=
  optFmt (viewAt vs 96) .mask &&
    (!d.reduces || optFmt (viewAt vs 80) .fp32) &&
    (!d.optim || (optFmt (viewAt vs 32) .fp32 && optFmt (viewAt vs 48) .fp32 &&
      optFmt (viewAt vs 64) .fp32 && optFmt (viewAt vs 112) .fp32))

def Desc.stage5 (d : Desc) (vs : List (Nat × TView)) (sensitive : Bool) : Bool :=
  match d with
  | .product p => p.stage5 vs sensitive
  | .row _ => RowD.stage5 vs
  | .vector v => v.stage5 vs
  | .coll k => 1 < k.ckind.toNat || (optFmt (viewAt vs 32) .fp32 && optFmt (viewAt vs 48) .fp32)
  | _ => true

/-! ### Stage 6: shapes and extents -/

/-- Rows and columns an operand must offer from its ROW_FIRST (R201, R202, R205). -/
def ProductD.shapes (d : ProductD) : List (Nat × Nat × Nat) :=
  let m := d.m.toNat
  let n := d.n.toNat
  let k := d.k.toNat
  let (a, b, o) : (Nat × Nat) × (Nat × Nat) × (Nat × Nat) :=
    match d.pkind.toNat with
    | 0 => ((m, k), (n, k), (m, n))
    | 1 => ((m, n), (n, k), (m, k))
    | _ => ((m, n), (m, k), (n, k))
  [(32, a), (48, b), (64, o), (80, o), (96, a), (112, o), (136, (1, n))]

def RowD.shapes (d : RowD) : List (Nat × Nat × Nat) :=
  let r := d.rows.toNat
  let l := d.length.toNat
  [(48, r, l), (64, r, l), (80, r, l), (96, 1, l), (112, 1, l), (128, ceilDiv r 4, 16), (144, r, l),
   (160, ceilDiv r 2048 * d.p, l)]

/-- Rows of an input that a vector output of `r` rows and `l` columns reads, when its shape is one of R161. An input
of one row is a tensor of one row, read from row 0 (DESIGN CHOICE, log entry 79). -/
def vecInRows (v : TView) (r l : Nat) : Option Nat :=
  if v.cols != l && v.cols != 1 then none
  else if v.rowFirst + r ≤ v.rows then some r
  else if v.rows = 1 && v.rowFirst = 0 then some 1
  else none

/-- The shape of a view meets what is asked, within BOUND and the allocated range (stage 6 of R210). -/
def State.shapeOk (s : State) (c : Slot) (v : TView) (rows cols : Nat) : Bool :=
  v.cols == cols && s.extentOk c v rows

/-- Slot size and number of slots of a partial buffer (R181). -/
def partialSlot (bands mode : Nat) : Nat := if mode = 0 then 64 + (bands - 1) * 131072 else 64
def partialSlots (v : TView) (bands mode : Nat) : Nat := 64 * v.bound / partialSlot bands mode

/-- Two views are the same tensor in the same place (R162). -/
def sameView (a b : TView) : Bool :=
  a.handle == b.handle && a.base == b.base && a.fmt == b.fmt && a.rows == b.rows && a.cols == b.cols &&
    a.stride == b.stride && a.rowFirst == b.rowFirst

def overlaps (a b : Nat × Nat) : Bool := a.1 < b.1 + b.2 && b.1 < a.1 + a.2

/-- No output overlaps an input but exactly (R162). Views with the rows the operation uses. -/
def aliasOk (outs ins : List (TView × Nat)) : Bool :=
  outs.all (fun o => ins.all (fun i =>
    (sameView o.1 i.1 && o.2 == i.2) || !overlaps (o.1.extent o.2) (i.1.extent i.2)))

def pick (vs : List (Nat × TView)) (l : List (Nat × Nat)) : List (TView × Nat) :=
  l.filterMap (fun x => (viewAt vs x.1).map (·, x.2))

def ProductD.stage6 (s : State) (c : Slot) (d : ProductD) (mode : Nat) (vs : List (Nat × TView)) : Bool :=
  let bands := ceilDiv d.m.toNat 2048
  (d.pkind != 2 || d.m.toNat ≤ 524288) &&
    d.shapes.all (fun x => match viewAt vs x.1 with
      | some v => s.shapeOk c v x.2.1 x.2.2
      | none => true) &&
    (match viewAt vs 32, viewAt vs 48 with
     | some a, some b =>
       if d.pkind = 2 && productArray 2 a.fmt b.fmt == some .backward && 1 < bands then
         match viewAt vs 152 with
         | none => false
         | some p =>
           let n := partialSlots p bands mode
           0 < n && s.allocated c p.base (n * partialSlot bands mode)
       else true
     | _, _ => true)

def RowD.stage6 (s : State) (c : Slot) (d : RowD) (vs : List (Nat × TView)) : Bool :=
  let rowsOf := fun off => ((d.shapes.find? (fun x => x.1 == off)).map (fun x => x.2.1)).getD 0
  let offs := d.named.map (·.off)
  let mine := fun (w : Bool) => pick vs ((d.named.filter (fun x => if w then x.writes else x.reads)).map
    (fun x => (x.off, rowsOf x.off)))
  d.shapes.all (fun x => !offs.contains x.1 || (match viewAt vs x.1 with
    | some v => s.shapeOk c v x.2.1 x.2.2
    | none => true)) && aliasOk (mine true) (mine false)

def VectorD.stage6 (s : State) (c : Slot) (d : VectorD) (vs : List (Nat × TView)) : Bool :=
  let r := d.rows.toNat
  let l := d.cols.toNat
  let inOk := fun (off : Nat) => match viewAt vs off with
    | none => true
    | some v =>
      match vecInRows v r l with
      | none => false
      | some n => (!d.optim || (n == r && v.cols == l)) && s.extentOk c v n
  let (orows, ocols) := if d.reduces then (1, 1) else (r, l)
  let outOk := fun (off : Nat) => match viewAt vs off with
    | none => true
    | some v => s.shapeOk c v orows ocols
  let inRows := fun (off : Nat) => ((viewAt vs off).bind (fun v => vecInRows v r l)).getD 0
  let ins := pick vs ([32, 48, 64, 112].map (fun o => (o, inRows o)))
  let outs := pick vs ([(80, orows), (96, orows)] ++
    (if d.optim then [48, 64, 112].map (fun o => (o, inRows o)) else []))
  [32, 48, 64, 112].all inOk && [80, 96].all outOk && aliasOk outs ins

def ConvertD.stage6 (s : State) (c : Slot) (d : ConvertD) (vs : List (Nat × TView)) : Bool :=
  let r := d.rows.toNat
  let ok := fun (off : Nat) => match viewAt vs off with
    | none => true
    | some v => s.shapeOk c v r d.cols.toNat
  ok 32 && ok 48 && aliasOk (pick vs [(48, r)]) (pick vs [(32, r)])

/-- Byte offset and count within BOUND, and allocated (R206). -/
def State.moverOk (s : State) (c : Slot) (v : TView) (off count : Nat) : Bool :=
  off + 64 * count ≤ 64 * v.bound && s.allocated c (v.base + off) (64 * count)

def CopyD.stage6 (s : State) (c : Slot) (d : CopyD) (ap : Nat → Nat → Bool) (vs : List (Nat × TView)) : Bool :=
  let n := d.count.toNat
  match viewAt vs 16, viewAt vs 20 with
  | some a, some b =>
    let ra := (a.base + d.srcOffset.toNat, 64 * n)
    let rb := (b.base + d.dstOffset.toNat, 64 * n)
    let ok := fun (v : TView) (off : Nat) =>
      off + 64 * n ≤ 64 * v.bound && (ap (v.base + off) (64 * n) || s.allocated c (v.base + off) (64 * n))
    s.moverOk c a d.srcOffset.toNat n && ok b d.dstOffset.toNat && !overlaps ra rb
  | _, _ => true

end Sys2Proof.Machine
end

