-- ==== Sys2Proof/Machine/Journal.lean ====
section
/-! DEFINITION. The step journal (R218, R219) and the stash ledger's checks (R215, R216). -/

namespace Sys2Proof.Machine

def State.modTrain (s : State) (c : Slot) (f : CtxTrain → CtxTrain) : State :=
  s.modCtx c (fun x => { x with train := f x.train })

/-! ### The journal -/

def JScale.bytes (j : JScale) : Bytes :=
  bvLe 4 j.handle ++ bvLe 4 j.scaleR ++ bvLe 4 j.scaleW ++ bvLe 2 j.genR ++ bvLe 2 j.genW ++
    bvLe 1 j.format ++ bvLe 1 j.flags ++ zeros 14

def JList.bytes (j : JList) : Bytes := bvLe 4 j.programId ++ bvLe 4 j.count ++ bvLe 8 j.addr

def JInput.bytes (j : JInput) : Bytes :=
  bvLe 4 j.handle ++ bvLe 2 j.list ++ natLe 1 ((if j.modified then 1 else 0) + (if j.fabric then 2 else 0)) ++
    [0]

/-- Bytes the entry takes. -/
def JEntry.size (e : JEntry) : Nat := 64 + 16 * e.lists.length + 32 * e.scales.length + 8 * e.inputs.length

/-- The entry as it lies in memory (R218). -/
def JEntry.bytes (e : JEntry) : Bytes :=
  let oL := 64
  let oS := oL + 16 * e.lists.length
  let oI := oS + 32 * e.scales.length
  bvLe 8 e.step ++ bvLe 8 e.meridian ++ bvLe 8 e.seed ++ bvLe 1 e.mode ++
    natLe 1 ((if e.closed then 1 else 0) + (if e.truncated then 2 else 0)) ++ bvLe 2 e.context ++
    natLe 4 e.lists.length ++ natLe 4 e.scales.length ++ natLe 4 e.inputs.length ++ natLe 4 oL ++
    natLe 4 oS ++ natLe 4 oI ++ zeros 12 ++ e.lists.flatMap JList.bytes ++ e.scales.flatMap JScale.bytes ++
    e.inputs.flatMap JInput.bytes

def CtxTrain.entryOf (t : CtxTrain) (step : U64) : Option JEntry := t.journal.find? (fun e => e.step == step)

/-- The entry in memory again, where its place is allocated (R213). (open points: DESIGN CHOICE, log entry 42) -/
def State.journalWrite (s : State) (c : Slot) (e : JEntry) : State :=
  if s.allocated c e.addr e.room then s.store c e.addr e.bytes else s

/-- A change to the entry of a step; recording stops once it runs out of room (R218).
(open points: DESIGN CHOICE, log entry 42) -/
def State.journalMod (s : State) (c : Slot) (step : U64) (f : JEntry → JEntry) : State :=
  match (s.ctx c).train.entryOf step with
  | none => s
  | some e =>
    if e.truncated then s
    else
      let e' := f e
      let e' := if e'.size ≤ e'.room then e' else { e with truncated := true, written := e'.written }
      if e' = e then s
      else
        let s := s.modTrain c (fun t => { t with journal := t.journal.map (fun x =>
          if x.step == step then e' else x) })
        s.journalWrite c e'

/-- An operation that reads an index records it as an input, unless an earlier one of the step wrote it
(R219). (open points: DESIGN CHOICE, log entry 42) -/
def JEntry.read (e : JEntry) (h : U32) (list : Nat) : JEntry :=
  let i := handleIdx h
  if e.written.contains i || e.inputs.any (fun x => handleIdx x.handle == i) then e
  else { e with inputs := e.inputs ++
      [{ handle := h, list := BitVec.ofNat 16 list, modified := false, fabric := false }] }

/-- An operation that writes an index: an input recorded before the operation, `was`, is MODIFIED; a collective's
output is a FABRIC input, MODIFIED only if an operation before it recorded the index (R219).
(open points: DESIGN CHOICE, log entry 42) -/
def JEntry.write (e : JEntry) (h : U32) (list : Nat) (coll was : Bool) : JEntry :=
  let i := handleIdx h
  let e := if e.inputs.any (fun x => handleIdx x.handle == i) then
      { e with inputs := e.inputs.map (fun x => if handleIdx x.handle == i then
          { x with modified := x.modified || was || !coll, fabric := x.fabric || coll } else x) }
    else if coll then { e with inputs := e.inputs ++
      [{ handle := h, list := BitVec.ofNat 16 list, modified := false, fabric := true }] }
    else e
  { e with written := if e.written.contains i then e.written else e.written ++ [i] }

/-- What the journal takes from an operation that starts (R219). -/
def State.journalOp (s : State) (c : Slot) (step : U64) (list : Nat) (d : Desc) : State :=
  let coll := match d with | .coll _ => true | _ => false
  s.journalMod c step (fun e0 =>
    let was := fun (h : U32) => e0.inputs.any (fun x => handleIdx x.handle == handleIdx h)
    let e := (d.named.filter (fun x => x.reads && x.ref.handle != 0)).foldl
      (fun e x => e.read x.ref.handle list) e0
    (d.named.filter (fun x => x.writes && x.ref.handle != 0)).foldl
      (fun e x => e.write x.ref.handle list coll (was x.ref.handle)) e)

/-- A walked list enters the journal of its step; its record number (R218). -/
def State.journalList (s : State) (c : Slot) (step : U64) (l : JList) : State × Nat :=
  match (s.ctx c).train.entryOf step with
  | none => (s, 0)
  | some e => (s.journalMod c step (fun e => { e with lists := e.lists ++ [l] }), e.lists.length)

/-! ### The stash ledger (R215, R216) -/

def StashRing.inForce (r : StashRing) : Bool := r.status == St.ok

/-- The slot of a handle index in a ring in force: ring number and slot. -/
def CtxTrain.slotOf (t : CtxTrain) (idx : Nat) : Option (Nat × Nat) :=
  (t.rings.find? (fun r => r.inForce && r.first.toNat ≤ idx && idx < r.first.toNat + r.depth.toNat)).map
    (fun r => (r.idx, idx - r.first.toNat))

def CtxTrain.ring (t : CtxTrain) (r : Nat) : Option StashRing := t.rings.find? (fun x => x.idx == r)

def CtxTrain.modRing (t : CtxTrain) (r : Nat) (f : StashRing → StashRing) : CtxTrain :=
  { t with rings := t.rings.map (fun x => if x.idx == r then f x else x) }

/-- READS_LEFT of a slot, and the consuming reads of it that have started and not completed. -/
def CtxTrain.slotState (t : CtxTrain) (q : Nat × Nat) : Nat × Nat :=
  match t.ring q.1 with
  | some r => (natAt r.readsLeft q.2, natAt r.started q.2)
  | none => (0, 0)

/-- Slots among handle indices, each once. -/
def CtxTrain.slotsOf (t : CtxTrain) (idxs : List Nat) : List (Nat × Nat) := (idxs.filterMap t.slotOf).dedup

/-- The read check (R216). -/
def CtxTrain.readOk (t : CtxTrain) (idx : Nat) : Bool :=
  match t.slotOf idx with
  | none => true
  | some q => (t.slotState q).2 < (t.slotState q).1

/-- The fill check (R216): empty slots, none of them also read. -/
def CtxTrain.fillOk (t : CtxTrain) (reads writes : List Nat) : Bool :=
  let ws := t.slotsOf writes
  ws.all (fun q => (t.slotState q).1 = 0) && !(ws.any (fun q => (t.slotsOf reads).contains q))

def Desc.consumes : Desc → Bool
  | .product _ => true
  | .row _ => true
  | .vector _ => true
  | .convert _ => true
  | _ => false

/-- Consuming reads that start, or end (R216). -/
def State.stashStart (s : State) (c : Slot) (d : Desc) (up : Bool) : State :=
  if !d.consumes then s
  else
    s.modTrain c (fun t => (t.slotsOf d.readIdx).foldl (fun t q =>
      t.modRing q.1 (fun r =>
        let n := natAt r.started q.2
        { r with started := setAt r.started q.2 (if up then n + 1 else n - 1) })) t)

/-- Slots full at once. -/
def StashRing.full (r : StashRing) : Nat := (r.readsLeft.filter (· != 0)).length

/-- READS_LEFT, 4 bits a slot. -/
def StashRing.leftBytes (r : StashRing) : Bytes :=
  natLe 32 ((List.range 64).foldl (fun a k => a + (natAt r.readsLeft k) * 2 ^ (4 * k)) 0)

/-- The RO fields of a ring record in memory (R215). -/
def State.stashWrite (s : State) (c : Slot) (r : StashRing) : State :=
  let a := (s.ctx c).train.inForce.ledgerBase.toNat + 64 * r.idx
  if a < 64 || !s.allocated c a 64 then s
  else
    (s.store c (a + 8) (bvLe 4 r.fills ++ bvLe 4 r.consumed ++ bvLe 2 r.highWater ++ bvLe 2 r.status)).store
      c (a + 32) r.leftBytes

def State.stashMod (s : State) (c : Slot) (q : Nat × Nat) (f : StashRing → StashRing) : State :=
  let s := s.modTrain c (fun t => t.modRing q.1 f)
  match (s.ctx c).train.ring q.1 with
  | some r => s.stashWrite c r
  | none => s

/-- Slot changes of an operation that completed (R216). -/
def State.stashComplete (s : State) (c : Slot) (d : Desc) : State :=
  let t := (s.ctx c).train
  let fills := t.slotsOf d.writeIdx
  let reads := if d.consumes then t.slotsOf d.readIdx else []
  let s := fills.foldl (fun s q => s.stashMod c q (fun r =>
    let r := { r with readsLeft := setAt r.readsLeft q.2 r.reads.toNat, fills := r.fills + 1 }
    { r with highWater := if r.highWater.toNat < r.full then BitVec.ofNat 16 r.full else r.highWater })) s
  reads.foldl (fun s q => s.stashMod c q (fun r =>
    { r with readsLeft := setAt r.readsLeft q.2 (natAt r.readsLeft q.2 - 1), consumed := r.consumed + 1 })) s

end Sys2Proof.Machine
end

