-- ==== Sys2Proof/Machine/Pool.lean ====
section
/-! DEFINITION. The shared pool: admission, requests, freeing, resident pages and moves (chapter 12). -/

namespace Sys2Proof.Machine

/-! ### Admission (R244, R245) -/

def Ctx.allocatedPages (x : Ctx) : Nat := x.pagesWhere (fun _ => true)
def Page.pinned (p : Page) : Bool := p.cls == .pinned || p.ledgerPin.isSome
def Ctx.pinnedPages (x : Ctx) : Nat := x.pagesWhere Page.pinned
def Ctx.floorSum (x : Ctx) : Nat := x.pool.floorDdr.toNat + x.pool.floorFlash.toNat

def State.ddrPool (s : State) : Nat := sumNat s.ddrCapOn (List.range s.sku.dies)
def State.flashPool (s : State) : Nat := sumNat s.flashCapOn (List.range s.sku.dies)
def State.imagePages (s : State) : Nat := sumNat (fun (i : Image) => i.pages) s.images

/-- Left side of R244, and of R245. -/
def State.admitted (s : State) : Nat :=
  sumNat (fun c => Nat.max (s.ctx c).allocatedPages (s.ctx c).floorSum) slots + s.imagePages
def State.pinAdmitted (s : State) : Nat :=
  sumNat (fun c => Nat.max (s.ctx c).pinnedPages (s.ctx c).pool.floorDdr.toNat) slots

def State.poolOk (s : State) : Bool := s.admitted ≤ s.ddrPool + s.flashPool
def State.pinsOk (s : State) : Bool := s.pinAdmitted ≤ s.ddrPool

/-! ### Allocation and freeing (R242, R243, R253) -/

/-- A page as allocated. -/
def Page.fresh (cls : PageClass) (hint : U8) : Page :=
  { cls := cls, ledgerPin := none, hint := hint, home := none, tier := .unbacked, touched := 0,
    moving := none, freePending := false, mapped := none }

def Ctx.setPage (x : Ctx) (p : Nat) (pg : Page) : Ctx :=
  { x with pool := { x.pool with pages := kvSet x.pool.pages p pg } }

def State.addPages (s : State) (c : Slot) (first n : Nat) (pg : Page) : State :=
  s.modCtx c (fun x => (List.range n).foldl (fun x i => x.setPage (first + i) pg) x)

/-- Pages freed: their contents and marks are lost; one still to be captured is captured first (R226,
R243). A promotion that took one of them holds it no more (R252). -/
def State.freePages (s : State) (c : Slot) (ps : List Nat) : State :=
  let s := ps.foldl (fun s p => s.captureFirst c p) s
  let s := s.modCtx c (fun x => { x with
    num := { x.num with recs := x.num.recs.map (fun r =>
      (r.1, { r.2 with grantPages := r.2.grantPages.filter (fun p => !ps.contains p) })) }
    pool := { x.pool with pages := x.pool.pages.filter (fun q => !ps.contains q.1) } })
  (ps.filter (fun p => p < pageCount)).foldl (fun s p =>
    let lo := memKey c (p * pageBytes)
    let hi := memKey c ((p + 1) * pageBytes)
    { s with
      mem := memClear s.mem lo hi
      poison := s.poison.filter (fun k => k < lo || hi ≤ k)
      tiers := { s.tiers with bad := kvErase s.tiers.bad (c.val * pageCount + p)
                              latent := s.tiers.latent.filter (fun x => x.1 < lo || hi ≤ x.1) } }) s

/-- A completed operation may let pending FREEs take effect (R243). (open points: DEDUCED, log entry 60) -/
def State.freeAfter (s : State) (c : Slot) (n : Nat) : State :=
  let x := s.ctx c
  let fs := x.pool.pendingFrees.map (fun f => { f with ops := f.ops.filter (· != n) })
  let (done, rest) := fs.partition (fun f => f.ops.isEmpty)
  let s := s.modCtx c (fun x => { x with pool := { x.pool with pendingFrees := rest } })
  done.foldl (fun s f =>
    let s := s.freePages c ((List.range f.count).map (f.first + ·))
    s.modCtx c (fun x =>
      let r := x.pool.result
      if r.state = 2 && r.address.toNat / pageBytes = f.first && r.pages.toNat = f.count then
        { x with pool := { x.pool with result := { r with state := 1 } } }
      else x)) s

/-! ### Resident pages (R251) and moves (R249) -/

/-- A page goes back to DDR5 from the plate store, into its shadow frame (R231). -/
def Page.writeBack (p : Page) : Page :=
  match p.tier with
  | .plate _ _ h => { p with tier := .ddr h, moving := none }
  | _ => p

/-- Where a page must move for its class, when it may not stay where it lies (R240, R243), with the state in which
the frame is found: a page that must come up from flash takes a DDR5 frame as R248 finds one, and none moves to flash
that cannot be reached (R238, R287). -/
def State.classTarget (s : State) (p : Nat) (pg : Page) : State × Option Tier :=
  let d := homeOf s.sku.dies p pg
  if pg.pinned then
    match pg.tier with
    | .plate _ _ h => (s, some (.ddr h))
    | .flash _ => let q := s.ddrFrame d; (q.1, q.2.map Tier.ddr)
    | _ => (s, none)
  else
    match pg.cls, pg.tier with
    | .cold, .ddr _ => (s, if s.flashUp d then some (.flash d) else none)
    | .cold, .plate _ _ _ => (s, if s.flashUp d then some (.flash d) else none)
    | .auto, .plate _ _ h => (s, some (.ddr h))
    | _, _ => (s, none)

/-- The die a page's frame lies on. -/
def Tier.die? (t : Tier) : Option Nat :=
  match t with
  | .unbacked => none
  | .plate d _ _ => some d
  | .ddr d => some d
  | .flash d => some d

/-- Moves under way from the frames of a die (R249). -/
def State.movesOn (s : State) (d : Nat) : Nat :=
  sumNat (fun c => (s.ctx c).pagesWhere (fun p => p.moving.isSome && p.tier.die? == some d)) slots

/-- A page whose class calls for a move starts it, when its die runs fewer than four (R249).
(open points: DEDUCED, log entry 60) -/
def State.startMove (s : State) (c : Slot) (p : Nat) : State :=
  match (s.ctx c).page p with
  | none => s
  | some pg =>
    if pg.moving.isSome || !pg.owns || 4 ≤ s.movesOn ((pg.tier.die?).getD 0) then s
    else
      let q := s.classTarget p pg
      match q.2 with
      | none => s
      | some t => q.1.modPage c p (fun g => { g with moving := some t })

/-- A new class for a page, with the move it calls for (R243). (open points: DEDUCED, log entry 60) -/
def State.reclass (s : State) (c : Slot) (p : Nat) (f : Page → Page) : State :=
  (s.modPage c p (fun g => { f g with moving := none })).startMove c p

/-! ### pool_request (R241 to R243) -/

/-- A pool request. -/
structure PoolReq where
  action : Nat
  cls : Nat
  hint : U8
  pages : U32
  addr : Nat
  seq : U32
  deriving DecidableEq, Repr

def PoolReq.parse (b : Bytes) : PoolReq :=
  { action := field b 0 1, cls := field b 1 1, hint := fieldBv 8 b 2 1, pages := fieldBv 32 b 4 4,
    addr := field b 8 8, seq := fieldBv 32 b 16 4 }

def PageClass.ofCode : Nat → Option PageClass
  | 0 => some .auto | 1 => some .resident | 2 => some .pinned | 3 => some .cold | _ => none

/-- A page of the fabric aperture counts as allocated (R324). -/
def Ctx.aperturePage (x : Ctx) (p : Nat) : Bool :=
  let b := x.fab.apertureBase.toNat / pageBytes
  b != 0 && b ≤ p && p < b + 256

/-- The checks of R241 in row order; PAGES 0 asks for nothing more (R12). (open points: DEDUCED, log entry 60) -/
def State.poolCheck (s : State) (c : Slot) (r : PoolReq) : Option U16 :=
  let x := s.ctx c
  let first := r.addr / pageBytes
  let n := r.pages.toNat
  let ps := (List.range n).map (first + ·)
  if !x.st.holds then some St.valueOutOfRange
  else if r.action = 0 || 3 < r.action then some St.valueOutOfRange
  else if r.action != 2 && (PageClass.ofCode r.cls).isNone then some St.valueOutOfRange
  else if r.action = 1 && r.hint != 0xFF && s.sku.dies ≤ r.hint.toNat then some St.valueOutOfRange
  else if r.pages = 0xFFFFFFFF then some St.lengthReserved
  else if n = 0 then none
  else if rangeBytes ≤ r.addr || pageCount - first < n then some St.beyondBound
  else if r.addr % pageBytes != 0 then some St.misaligned
  else if r.action = 1 then
    if ps.any (fun p => p = 0 || (x.page p).isSome || x.aperturePage p) then some St.valueOutOfRange
    else none
  else if ps.any (fun p => !(x.usable p || x.aperturePage p)) then some St.valueOutOfRange
  else if ps.any (fun p => match x.page p with | some g => g.ledgerPin.isSome | none => false) then
    some St.valueOutOfRange
  else none

def State.setPoolResult (s : State) (c : Slot) (r : PoolReq) (status : U16) (state : U8) : State :=
  s.modCtx c (fun x => { x with pool := { x.pool with
    result := { seq := r.seq, status := status, state := state, pages := r.pages,
                address := BitVec.ofNat 64 r.addr } } })

/-- Operations of a slot that have started and not completed. -/
def Ctx.runningOps (x : Ctx) : List Nat := (x.stream.ops.filter (fun o => o.st == .running)).map (·.n)

/-- A request that passed its checks, with admission (R243 to R245). (open points: DEDUCED, log entry 60) -/
def State.poolAct (s : State) (c : Slot) (r : PoolReq) : State × U16 × U8 :=
  let first := r.addr / pageBytes
  let n := r.pages.toNat
  let ps := (List.range n).map (first + ·)
  let cls := (PageClass.ofCode r.cls).getD .auto
  if n = 0 then (s, St.ok, 1)
  else
  match r.action with
  | 1 =>
    let s' := s.addPages c first n (Page.fresh cls r.hint)
    if !s'.poolOk then (s, St.poolExhausted, 1)
    else if cls = .pinned && !s'.pinsOk then (s, St.poolExhausted, 1)
    else (s', St.ok, 1)
  | 2 =>
    let busy := (s.ctx c).runningOps
    if busy.isEmpty then (s.freePages c ps, St.ok, 1)
    else
      (s.modCtx c (fun x =>
        let x := ps.foldl (fun x p => x.modPage p (fun g => { g with freePending := true })) x
        { x with pool := { x.pool with
            pendingFrees := x.pool.pendingFrees ++ [{ first := first, count := n, ops := busy }] } }),
       St.ok, 2)
  | _ =>
    let s' := ps.foldl (fun s p => s.reclass c p (fun g => { g with cls := cls })) s
    if cls = .pinned && !s'.pinsOk then (s, St.poolExhausted, 1) else (s', St.ok, 1)

/-- `pool_request`: the state with `pool_result` written, and the answer (R241). (open points: DEDUCED, log entry 60) -/
def State.poolRequest (s : State) (c : Slot) (r : PoolReq) : State × U16 :=
  match s.poolCheck c r with
  | some st => (s.setPoolResult c r st 1, st)
  | none =>
    let (s', st, state) := s.poolAct c r
    (s'.setPoolResult c r st state, st)

/-- A floor write (R244, R245, R254). -/
def State.writeFloor (s : State) (c : Slot) (ddr : Bool) (v : U32) : State × U16 :=
  let s' := s.modCtx c (fun x => { x with pool :=
    if ddr then { x.pool with floorDdr := v } else { x.pool with floorFlash := v } })
  if s'.poolOk && s'.pinsOk then (s', St.ok) else (s, St.valueOutOfRange)

/-! ### Internal reservations (R252) -/

/-- `pool_reserve`: pages of a wide form that are not allocated are allocated; the pages taken, or why not.
(open points: DEDUCED, log entry 59) -/
def State.poolReserve (s : State) (c : Slot) (base plates : Nat) : State × Except U16 (List Nat) :=
  let bytes := 64 * plates
  if base < pageBytes || rangeBytes < base + bytes then (s, .error St.beyondBound)
  else
    let ps := (pagesOf base bytes).filter (fun p => ((s.ctx c).page p).isNone)
    let s' := s.modCtx c (fun x => ps.foldl (fun x p => x.setPage p (Page.fresh .auto 0xFF)) x)
    if s'.poolOk then (s', .ok ps) else (s, .error St.poolExhausted)

end Sys2Proof.Machine
end

