-- ==== Sys2Proof/Machine/Stream.lean ====
section
/-! DEFINITION. The operation stream of a context: walking lists, starting operations, ending and completing
them (chapter 10). -/

namespace Sys2Proof.Machine

/-! ### Completions of operations and lists (R199, R211, R212, R304) -/

def State.isMark (d : Desc) : U32 := match d with | .mark m => m.tag | _ => 0

/-- The completion of an operation. -/
def State.opCmpl (s : State) (c : Slot) (o : OpRec) (status : U16) : Cmpl :=
  { late := false, kind := 1, status := status, tag := State.isMark o.desc, opId := o.hdr.opId,
    context := s.ctxId c, ekind := 0, count := s.meridianField, arg := o.step }

def endsList (status : U16) : Bool := !(status == St.ok || status == St.numericInvalid)

/-- What an operation's status makes of its list so far (R211, R212). -/
def ListRec.take (l : ListRec) (n : Nat) (opId : U32) (status : U16) (cont : Bool) : ListRec :=
  let new := some (status, opId, n)
  let dec := match l.decided with
    | none => if status = St.ok then none else new
    | some (st, id, m) =>
      if endsList status then (if endsList st && m < n then some (st, id, m) else new)
      else if status = St.numericInvalid && !endsList st && n < m then new
      else some (st, id, m)
  let ended := if endsList status && !cont then
      (match l.endedAt with
       | some m => some (Nat.min m n)
       | none => some n)
    else l.endedAt
  { l with decided := dec, endedAt := ended }

/-- Operations after the one that ended their list, and not yet started, never start (R211). -/
def CtxStream.dropEnded (x : CtxStream) : CtxStream :=
  { x with ops := x.ops.map (fun o =>
      match o.st, x.lists.find? (fun l => l.id == o.list) with
      | .waiting, some l =>
        (match l.endedAt with
         | some m => if m < o.n then { o with st := .dropped } else o
         | none => o)
      | _, _ => o) }

def OpRec.finished (o : OpRec) : Bool :=
  match o.st with
  | .done _ => true
  | .dropped => true
  | _ => false

/-- Lists all of whose operations have ended complete in ring order, each with its completion (R190, R212).
-/
def State.completeLists (s : State) (c : Slot) : State :=
  let x := (s.ctx c).stream
  let ready := x.lists.filter (fun l => (x.ops.filter (fun o => o.list == l.id)).all OpRec.finished)
  ready.foldl (fun s l =>
    let (st, id) := match l.decided with
      | some (st, id, _) => (st, id)
      | none => (St.ok, 0)
    let s := s.modStream c (fun x =>
      { x with lists := x.lists.filter (fun y => y.id != l.id)
               ops := x.ops.filter (fun o => o.list != l.id)
               listsCompleted := x.listsCompleted + 1, lastStatus := st })
    if l.silent then s
    else s.postCtx c { late := false, kind := 2, status := st, tag := l.tag, opId := id,
                       context := s.ctxId c, ekind := 0, count := s.meridianField, arg := l.step }) s

/-- Once a weight-gradient product has completed, its partial buffer is undefined (R181).
(open points: DESIGN CHOICE, log entry 30) -/
def State.scratchUndefined (s : State) (c : Slot) (d : Desc) (run : Option RunData) : State :=
  match d, run with
  | .product p, some r =>
    if p.pkind = 2 && 1 < r.bands then
      match viewAt r.views 152 with
      | some v => s.undefine c v.base (partialSlots v r.bands r.mode.toNat * partialSlot r.bands r.mode.toNat)
      | none => s
    else s
  | _, _ => s

/-- An operation completes with a status: its completion is posted if asked, the stash, the pending FREEs and
its list follow (R199, R211, R212, R216, R243). `started`: it passed its start check. -/
def State.finishOp (s : State) (c : Slot) (o : OpRec) (status : U16) (started : Bool) : State :=
  let s := s.scratchUndefined c o.desc o.run
  let s := s.modOp c o.n (fun x => { x with st := .done status, run := none })
  let s := if status = St.numericInvalid then
      s.modStepAcc c o.step (fun a => { a with opsInvalid := satAdd32 a.opsInvalid 1 })
    else s
  let s := if started then s.stashStart c o.desc false else s
  let s := if started && !endsList status then s.stashComplete c o.desc else s
  let s := s.modStream c (fun x =>
    { x with lists := x.lists.map (fun l =>
        if l.id == o.list then l.take o.n o.hdr.opId status o.hdr.continue_ else l) })
  let s := s.modStream c CtxStream.dropEnded
  let s := s.freeAfter c o.n
  let post := o.hdr.complete || (match o.desc with | .mark m => m.mflags.getLsbD 2 && !endsList status | _ => false)
  let s := if post && !o.silent then s.postCtx c (s.opCmpl c o status) else s
  s.completeLists c

/-- The operation context of a running operation. -/
def OpRec.ctx (o : OpRec) (c : Slot) (seed : U64) (mode : U8) : OpCtx :=
  { c := c, n := o.n, opId := o.hdr.opId, layer := o.hdr.layer, step := o.step, seed := seed, mode := mode,
    quiet := false }

/-- The status of an operation whose work is done (R433). -/
def RunData.status (r : RunData) : U16 :=
  match r.fault with
  | some st => st
  | none => if r.invalid then St.numericInvalid else St.ok

/-! ### Faults during an operation (R64, R211, R234, R434) -/

/-- Passes of the operation that have not begun are not started; the one at the front of an array is under way and
completes (R64, R211). (open points: DESIGN CHOICE, log entry 23) -/
def Arrays.dropOp (a : Arrays) (c : Slot) (n : Nat) : Arrays :=
  { a with queues := a.queues.map (fun q =>
      (q.1, q.2.take 1 ++ (q.2.drop 1).filter (fun p => !(p.c == c && p.n == n)))) }

/-- An operation has met what ends it: it starts no further pass or unit (R64, R211). -/
def State.endFaulted (s : State) (o : OpCtx) (status : U16) : State :=
  let s := s.modRun o.c o.n (fun x => { x with fault := some (x.fault.getD status), reissue := [] })
  { s with arrays := s.arrays.dropOp o.c o.n }

/-- The engine has ended the operation with a fault. -/
def State.faulted (s : State) (o : OpCtx) : Bool := ((s.run? o.c o.n).bind (·.fault)).isSome

/-- What an operation that reads a plate it cannot ends with (R234, R237). -/
def State.badStatus (s : State) (c : Slot) (a : Nat) : U16 :=
  if s.flashBad c a then St.flashReadFail else St.pageUncorrectable

/-- A status that says that a plate could not be read (R234, R237). -/
def unreadable (st : U16) : Bool := st == St.pageUncorrectable || st == St.flashReadFail

/-- The first fault an operation meets ends it; PAGE_UNCORRECTABLE, FLASH_READ_FAIL and STALE_PLATE write a
Logbook fault. A plate that cannot be read is met with it: one in flash whose read failed just now is
FLASH_READ_FAIL (R234, R237). -/
def State.faultOp (s : State) (o : OpCtx) (status : U16) (handle : U32) (addr : Nat) (args : List U64) :
    State :=
  match s.run? o.c o.n with
  | none => s
  | some r =>
    if r.fault.isSome then s
    else
      let (s, status) := if unreadable status then (s.meet o.c addr, s.badStatus o.c addr) else (s, status)
      let s := s.endFaulted o status
      if o.quiet then s
      else if unreadable status || status = St.stalePlate then
        s.raiseStatus sevFault status
          { Event.blank with context := s.ctxId o.c, opId := o.opId, handle := handle, step := o.step,
                             address := BitVec.ofNat 64 addr, args := args }
      else s

/-- Plates of an operand that a step's report counts as stale, and its notice (R44, R127). -/
def State.countStale (s : State) (o : OpCtx) (n : Nat) : State :=
  if o.quiet then s
  else s.modStepAcc o.c o.step (fun x => { x with stalePlates := satAdd32 x.stalePlates n, notices := x.notices ||| 1 })

/-- A window read touches its pages, those of the side-list regions it searches too (R247). -/
def State.touchWindow (s : State) (c : Slot) (w : Window) : State :=
  let s := w.searched.foldl (fun s q => s.touch c q.1 q.2) s
  w.rows.foldl (fun s ps =>
    match ps.head? with
    | some p => s.touch c p.addr (64 * ps.length)
    | none => s) s

/-- A plate that ends the operation that reads it: when it is met, and what its record says. -/
structure BadPlate where
  time : Nat
  status : U16
  addr : Nat
  handle : U32
  args : List U64
  deriving DecidableEq, Repr

/-- The plates of a window, each with when it is met. `time i j`: when the plate that holds column `j` of row `i` of the
window is. (open points: DEDUCED, log entry 32) -/
def Window.met (time : Nat → Nat → Nat) (w : Window) : List (Nat × RPlate) :=
  let per := w.v.fmt.per
  (List.range w.rows.length).flatMap (fun i =>
    let ps := w.rows.getD i []
    (List.range ps.length).filterMap (fun j =>
      (ps[j]?).map (fun p => (time i ((w.c0 / per + j) * per - w.c0), p))))

/-- The stale plates of a window, with what a record of one says (R44, R438). -/
def Window.stalePlates (time : Nat → Nat → Nat) (w : Window) : List BadPlate :=
  ((w.met time).filter (fun p => w.stale.any (fun q => q.1 == p.2.addr))).map (fun p =>
    { time := p.1, status := St.stalePlate, addr := p.2.addr, handle := w.v.handle
      args := [w.v.epoch.setWidth 64, BitVec.ofNat 64 (tagEpoch p.2.val)] })

/-- Plates of a window that end its reader: those it cannot read, of its side list too, and under the fault action stale
ones (R44, R45, R234, R237). (open points: DEDUCED, log entry 32) -/
def State.badPlates (s : State) (c : Slot) (staleFault : Bool) (time : Nat → Nat → Nat) (w : Window) : List BadPlate :=
  let lost := fun (t a : Nat) =>
    ({ time := t, status := s.badStatus c a, addr := a, handle := w.v.handle, args := [] } : BadPlate)
  ((w.met time).filter (fun p => s.poisoned c p.2.addr)).map (fun p => lost p.1 p.2.addr) ++
    w.searched.filterMap (fun q => (s.firstPoison c q.1 q.2).map (lost (time 0 0))) ++
    (if staleFault then w.stalePlates time else [])

/-- The fault met first: of those of one time the one of the least code (R433). -/
def firstBad (l : List BadPlate) : Option BadPlate := (sortBy (fun b => b.time * 65536 + b.status.toNat) l).head?

/-- Stale plates as read under the notice action, with the operand's offset, in the order in which they are met: each counts
once for the operation, and one notice names the first (R44, R45, R438). (open points: DEDUCED, log entry 32) -/
def State.noteStale (s : State) (o : OpCtx) (plates : List (Nat × BadPlate)) : State :=
  match s.run? o.c o.n with
  | none => s
  | some r =>
    match plates.filter (fun p => !r.stale.contains (p.1, p.2.addr)) with
    | [] => s
    | (off, b) :: rest =>
      if o.quiet then s
      else
        let s := s.countStale o (rest.length + 1)
        let s := s.modRun o.c o.n (fun x =>
          { x with stale := x.stale ++ ((off, b) :: rest).map (fun p => (p.1, p.2.addr)), staleLogged := true })
        if r.staleLogged then s
        else
          s.raiseStatus sevNotice St.stalePlate
            { Event.blank with
              context := s.ctxId o.c, opId := o.opId, handle := b.handle, step := o.step
              address := BitVec.ofNat 64 b.addr, args := b.args }

/-- What the plates of some windows do to the operation that reads them: stale plates count under the notice action, and
the fault met first ends it (R44, R45, R234, R433). The flag: the operation ends. `time`: when an operand's plates are
met. (open points: DEDUCED, log entry 32) -/
def State.noteWindows (s : State) (o : OpCtx) (time : Nat → Nat → Nat → Nat) (ws : List (Nat × Window)) :
    State × Bool :=
  let r := s.run? o.c o.n
  let staleFault := r.any (·.staleFault)
  let bad := firstBad (ws.flatMap (fun x => s.badPlates o.c staleFault (time x.1) x.2))
  let s := ws.foldl (fun s x => s.touchWindow o.c x.2) s
  let s := if staleFault then s
    else s.noteStale o (sortBy (fun p => p.2.time)
      (ws.flatMap (fun x => (x.2.stalePlates (time x.1)).map (x.1, ·))))
  match bad with
  | none => (s, false)
  | some b =>
    let s := if b.status = St.stalePlate && r.any (·.fault.isNone) then s.countStale o 1 else s
    (s.faultOp o b.status b.handle b.addr b.args, true)

/-- Rows are met one after another, each from its first column on. -/
def rowOrder (_ i j : Nat) : Nat := i * 2 ^ 32 + j

/-! ### When an operation may start (R189, R197) -/

/-- The context's own operations may start: bound, not draining, no replay running, the module Ready
(R221, R279, R284, R407). -/
def State.mayRun (s : State) (c : Slot) : Bool :=
  let x := s.ctx c
  x.st == .bound && !x.pausing && s.boot.life == .ready &&
    (match x.train.replay with | some r => !r.running | none => true)

def OpRec.isWait (o : OpRec) : Bool := match o.desc with | .wait _ => true | _ => false
def OpRec.isMark (o : OpRec) : Bool := match o.desc with | .mark _ => true | _ => false

def meets (a b : List Nat) : Bool := a.any (fun x => b.contains x)

/-- The operation names a tracked tensor. -/
def CtxNum.tracksAny (x : CtxNum) (d : Desc) : Bool :=
  d.named.any (fun n => n.ref.handle != 0 && (x.track n.ref.handle).isSome)

/-- Participating cores, ascending: of the groups the mask selects, without failed cores and those of a die that does
not run (R173, R287, R290). -/
def State.participants (s : State) (c : Slot) (mask : U64) : List Nat :=
  let gs := (s.ctx c).groupList
  let sel := (List.range gs.length).filter (fun i => mask.getLsbD i)
  let use := if sel.isEmpty then gs else sel.filterMap (fun i => gs[i]?)
  (use.flatMap (fun g => (List.range 8).map (8 * g + ·))).filter (fun k =>
    !s.res.coresFailed.contains k && s.dieRuns (k / 64))

def Desc.groupMask : Desc → U64
  | .product d => d.groupMask
  | .row d => d.groupMask
  | .vector d => d.groupMask
  | .convert d => d.groupMask
  | _ => 0

def Desc.usesCores : Desc → Bool
  | .product _ => true
  | .row _ => true
  | .vector _ => true
  | .convert _ => true
  | _ => false

/-- A core can take the operation's work, where it needs one (R287, R290). -/
def State.hasCores (s : State) (c : Slot) (d : Desc) : Bool := !d.usesCores || !(s.participants c d.groupMask).isEmpty

/-- An earlier operation of the list has met a fault that ends the list, though its work has not ended yet (R211,
R431). -/
def CtxStream.endsBefore (x : CtxStream) (o : OpRec) : Bool :=
  x.ops.any (fun e => e.list == o.list && e.n < o.n && !e.hdr.continue_ &&
    ((e.run.bind (·.fault)).any endsList))

/-- The start conditions of R197. -/
def State.mayStart (s : State) (c : Slot) (o : OpRec) : Bool :=
  let x := (s.ctx c).stream
  let earlier := x.ops.filter (fun e => e.n < o.n && !e.finished)
  !x.endsBefore o && s.mayRun c && s.hasCores c o.desc && o.st == .waiting &&
    earlier.length < 16 && !earlier.any OpRec.isWait &&
    (!(o.hdr.fence || o.isMark) || earlier.isEmpty) &&
    earlier.all (fun e => !meets o.desc.readIdx e.desc.writeIdx) &&
    earlier.all (fun e => !meets o.desc.writeIdx (e.desc.readIdx ++ e.desc.writeIdx)) &&
    o.step ≤ x.openStep &&
    !((s.ctx c).num.tracksAny o.desc && x.closing.any (fun t => t < o.step))

/-! ### The start check (R210) -/

/-- Stage 2: handles in offset order, with the stash read check (R193, R216). (open points: DEDUCED, log entry 22) -/
def State.resolve (s : State) (c : Slot) (rp : Option Replay) :
    List Named → Except U16 (List (Nat × TView))
  | [] => .ok []
  | x :: rest =>
    if x.ref.handle = 0 then
      (if x.need then .error St.beyondBound else s.resolve c rp rest)
    else
      match s.viewOf c rp x.ref x.writes with
      | .error st => .error st
      | .ok v =>
        if rp.isNone && x.reads && !(s.ctx c).train.readOk (handleIdx x.ref.handle) then
          .error St.staleGeneration
        else
          match s.resolve c rp rest with
          | .error st => .error st
          | .ok vs => .ok ((x.off, v) :: vs)

/-- Stage 4 (R40, R195, R206 to R209). A field the kind does not use is ignored (R198). (open points: DEDUCED, log
entry 22) -/
def State.stage4 (s : State) (c : Slot) (d : Desc) (vs : List (Nat × TView)) : Bool :=
  let entryOk := fun (x : Named) =>
    x.ref.handle = 0 ||
      (let e := s.entryAt c (handleIdx x.ref.handle)
       e.base % 64 = 0 && e.baseWide % 64 = 0 && e.side % 64 = 0)
  let rowOk := fun (x : Named) =>
    !x.writes || (match viewAt vs x.off with
      | some v => !v.fmt.scaled || v.rowFirst % 128 = 0
      | none => true)
  d.named.all (fun x => entryOk x && rowOk x) &&
    (match d with
     | .copy k => k.srcOffset.toNat % 64 = 0 && k.dstOffset.toNat % 64 = 0
     | .coll k => (k.ckind = 5 || k.srcOffset.toNat % 64 = 0) && (k.ckind = 4 || k.dstOffset.toNat % 64 = 0)
     | .wait k => k.wkind.toNat ≤ 1 || k.address.toNat % 8 = 0
     | .mark k => k.mflags.toNat % 4 = 0 || k.address.toNat % 8 = 0
     | _ => true)

/-- Entry of the aperture map that serves an address: target endpoint, context id expected there, remote
address; none where the page is not of the aperture or its entry is not valid (R324). -/
def Ctx.apertureAt (x : Ctx) (a : Nat) : Option (U32 × U16 × Nat) :=
  let p := a / pageBytes
  if !x.aperturePage p then none
  else
    let e := slice x.fab.apertureMap (16 * (p - x.fab.apertureBase.toNat / pageBytes)) 16
    if (field e 6 1) % 2 = 1 then some (fieldBv 32 e 0 4, fieldBv 16 e 4 2, field e 8 8 + a % pageBytes)
    else none

/-- A range lies in the aperture, in pages with valid entries, and the module has a number (R322, R324). -/
def State.inAperture (s : State) (c : Slot) (a n : Nat) : Bool :=
  s.fab.moduleNumber != 0xFFFFFFFF && 0 < n &&
    (pagesOf a n).all (fun p => ((s.ctx c).apertureAt (p * pageBytes)).isSome)

/-- Stage 6 (R210). -/
def State.stage6 (s : State) (c : Slot) (o : OpRec) (mode : Nat) (vs : List (Nat × TView)) (ranks : Nat) :
    Bool :=
  let d := o.desc
  (match d with
   | .product p => p.stage6 s c mode vs
   | .row r => r.stage6 s c vs
   | .vector v => v.stage6 s c vs
   | .convert k => k.stage6 s c vs
   | .copy k => k.stage6 s c (s.inAperture c) vs
   | .coll k =>
     let (a, b) := k.sizes ranks
     (k.ckind != 1 || (ranks != 0 && k.count.toNat % ranks = 0)) &&
       (match viewAt vs 32 with | some v => s.moverOk c v k.srcOffset.toNat a | none => true) &&
       (match viewAt vs 48 with | some v => s.moverOk c v k.dstOffset.toNat b | none => true)
   | .wait w =>
     let a := w.address.toNat
     w.wkind.toNat ≤ 1 || s.allocated c a 8
   | .mark m =>
     let a := m.address.toNat
     m.mflags.toNat % 4 = 0 || (inRange a 8 && (s.allocated c a 8 || s.inAperture c a 8))) &&
  vs.all (fun x => s.sideOk c x.2)

/-- SENSITIVE of the layer an operation names (R67, R94). -/
def CtxNum.sensitive (x : CtxNum) (layer : U16) : Bool :=
  match kvGet x.layers layer.toNat with
  | some l => layer != 0xFFFF && l.lflags.getLsbD 1
  | none => false

/-- The start check: the status that refuses the operation, none for an empty one, or the views it uses until
it completes (R193, R210). `ranks`: of a collective's group; `extra`: its own checks (R325). -/
def State.startCheck (s : State) (c : Slot) (rp : Option Replay) (o : OpRec) (mode : Nat) (ranks : Nat)
    (extra : Option U16) : Except U16 (Option (List (Nat × TView))) :=
  let d := o.desc
  if !d.stage1 mode then .error St.formatPairInvalid
  else
    match s.resolve c rp d.named with
    | .error st => .error st
    | .ok vs =>
      match d.stage3 vs ranks with
      | some st => .error st
      | none =>
        if d.empty then .ok none
        else if !s.stage4 c d vs then .error St.misaligned
        else if !d.stage5 vs ((s.ctx c).num.sensitive o.hdr.layer) then .error St.formatPairInvalid
        else
          match extra with
          | some st => .error st
          | none =>
            if !s.stage6 c o mode vs ranks then .error St.beyondBound
            else if rp.isNone && !(s.ctx c).train.fillOk d.readIdx d.writeIdx then .error St.beyondBound
            else if o.hdr.layer != 0xFFFF && (kvGet (s.ctx c).num.layers o.hdr.layer.toNat).isNone then
              .error St.beyondBound
            else .ok (some vs)

/-! ### Starting -/

/-- What a starting operation holds. -/
def RunData.new (vs : List (Nat × TView)) (cores : List Nat) (seed : U64) (mode : U8) (staleFault : Bool)
    (count : U64) : RunData :=
  { views := vs, tr := 0, tc := 0, bands := 1, cores := cores, nextUnit := 0, reissue := [], ended := [],
    left := 0, held := [], bandsDone := [], tagged := [], stale := [], staleFault := staleFault,
    seed := seed, mode := mode, fault := none, invalid := false, counted := [], regs := [],
    staleLogged := false, acks := [], coll := none, waitFrom := count,
    line := 0 }

/-- The seed and mode fixed for an operation's step (R139). (open points: DEDUCED, log entry 33) -/
def CtxNum.seedOf (x : CtxNum) (step : U64) : U64 × U8 :=
  let a := x.stepAcc step
  (a.seed, a.mode)

/-- An operation that passed its start check begins: `run` is set, the journal and the stash take note. -/
def State.beginOp (s : State) (c : Slot) (o : OpRec) (vs : List (Nat × TView)) : State :=
  let x := s.ctx c
  let (seed, mode) := x.num.seedOf o.step
  let run := RunData.new vs (s.participants c o.desc.groupMask) seed mode (x.num.stale.getLsbD 0) s.mer.count
  let run := { run with line := x.servingDie.getD 0 }
  let pos := ((x.stream.lists.find? (fun l => l.id == o.list)).map (·.jpos)).getD 0
  let s := s.modOp c o.n (fun y => { y with st := .running, run := some run })
  (s.stashStart c o.desc true).journalOp c o.step pos o.desc

/-- Bytes of the side list of a view (R105). -/
def TView.sideBytes (v : TView) : Nat :=
  match v.side with
  | none => 0
  | some (_, cap) => 8 * cap * ceilDiv v.rows 128 * ceilDiv v.cols 128

/-- Words of the device range that an operation reads or writes beside its tensors. -/
def Desc.word? : Desc → Option Nat
  | .mark d => if d.mflags.getLsbD 0 || d.mflags.getLsbD 1 then some d.address.toNat else none
  | .wait d => if 2 ≤ d.wkind.toNat then some d.address.toNat else none
  | _ => none

/-- An operation waits for flash that cannot be reached: a page of its tensors, of their side lists or of its word lies
there (R287). (open points: DESIGN CHOICE, log entry 49) -/
def State.opWaits (s : State) (c : Slot) (d : Desc) (vs : List (Nat × TView)) : Bool :=
  vs.any (fun p => s.flashWaits c p.2.base (64 * p.2.bound) ||
    p.2.side.any (fun q => s.flashWaits c q.1 p.2.sideBytes)) ||
    d.word?.any (fun a => s.flashWaits c a 8)

/-- A running operation's work waits: its start would (R287). (open points: DESIGN CHOICE, log entry 49) -/
def State.workWaits (s : State) (c : Slot) (n : Nat) : Bool :=
  match s.op? c n with
  | none => false
  | some o => o.run.any (fun r => s.opWaits c o.desc r.views)

/-- A row of the operation table, once the flash its tensors lie in can be reached (R287): it starts operation `n` of
the slot's stream, when that is the row's and may start. `go` is the work that begins with it. -/
def State.startOp (s : State) (c : Slot) (n : Nat) (mine : Desc → Bool) (ranks : Nat) (extra : Option U16)
    (go : State → OpRec → OpCtx → List (Nat × TView) → State) : State :=
  match s.op? c n with
  | none => s
  | some o =>
    if mine o.desc && s.mayStart c o then
      let (seed, mode) := (s.ctx c).num.seedOf o.step
      match s.startCheck c none o mode.toNat ranks extra with
      | .error st => s.finishOp c o st false
      | .ok none => s.finishOp c o St.ok false
      | .ok (some vs) =>
        if s.opWaits c o.desc vs then s
        else go (s.beginOp c o vs) o (o.ctx c seed mode) vs
    else s

/-! ### Walking a list (R187 to R190) -/

/-- The descriptors of a list, or the status and OP_ID that refuse it: `left` descriptors, `room` bytes.
(open points: DEDUCED, log entry 22) -/
def State.walkDescs (s : State) (c : Slot) : Nat → Nat → Nat → Except (U16 × U32) (List (DescHdr × Desc))
  | 0, _, _ => .ok []
  | left + 1, a, room =>
    if room < 64 then .error (St.beyondBound, (DescHdr.parse (s.bytes c a 64)).opId)
    else
      let head := s.bytes c a 64
      let h := DescHdr.parse head
      match descSize (field head 0 1) with
      | none => .error (St.formatPairInvalid, h.opId)
      | some sz =>
        if room < sz then .error (St.beyondBound, h.opId)
        else
          match Desc.parse (s.bytes c a sz) with
          | none => .error (St.formatPairInvalid, h.opId)
          | some d =>
            match s.walkDescs c left (a + sz) (room - sz) with
            | .error e => .error e
            | .ok ds => .ok ((h, d) :: ds)

/-- A list as walked. -/
structure Walked where
  programId : U32
  count : U32
  step : U64
  descs : List (DescHdr × Desc)
  deriving DecidableEq, Repr

/-- COUNT and SIZE under R12: a descriptor takes a plate or more, so SIZE bounds COUNT, unless it is 0 and the list is
empty. (open points: DEDUCED, log entry 22) -/
def listLengths (count size : Nat) : Option U16 :=
  (lengthCheck 32 count (if size = 0 then 2 ^ 32 else size)).orElse (fun _ => lengthCheck 32 size 65536)

/-- The walk (R188), with STEP as the list holds it; a list extends beyond the device range where it is not allocated
(R239; DEDUCED). (open points: DEDUCED, log entry 22) -/
def State.walkList (s : State) (c : Slot) (a : Nat) : Except (U16 × U32) Walked :=
  let h := s.bytes c a 64
  let count := field h 8 4
  let size := field h 12 4
  if !s.allocated c a 64 then .error (St.beyondBound, 0)
  else if field h 0 1 != 0 then .error (St.formatPairInvalid, 0)
  else
    match listLengths count size with
    | some st => .error (st, 0)
    | none =>
      if !s.allocated c a (64 + 64 * size) then .error (St.beyondBound, 0)
      else
        match s.walkDescs c (if size = 0 then 0 else count) (a + 64) (64 * size) with
        | .error e => .error e
        | .ok ds => .ok { programId := fieldBv 32 h 4 4, count := BitVec.ofNat 32 count,
                          step := fieldBv 64 h 16 8, descs := ds }

/-- A list completion for a submission entry that runs no operation. -/
def State.postList (s : State) (c : Slot) (tag : U32) (status : U16) (opId : U32) (step : U64) : State :=
  s.postCtx c { late := false, kind := 2, status := status, tag := tag, opId := opId, context := s.ctxId c,
                ekind := 0, count := s.meridianField, arg := step }

/-- A list refused by its walk completes at once (R188, R212). -/
def State.refuseList (s : State) (c : Slot) (tag : U32) (status : U16) (opId : U32) (step : U64) : State :=
  (s.modStream c (fun x => { x with listsCompleted := x.listsCompleted + 1, lastStatus := status })).postList
    c tag status opId step

/-- A walked list joins the stream (R188 to R190). -/
def State.acceptList (s : State) (c : Slot) (e : SubEntry) (w : Walked) : State :=
  let x := (s.ctx c).stream
  let step := if w.step = 0xFFFFFFFFFFFFFFFF then x.openStep else w.step
  if step < x.openStep then
    (s.refuseList c e.tag St.eventMissed 0 step).raiseStatus sevNotice St.eventMissed
      { Event.blank with context := s.ctxId c, step := step, address := e.list }
  else
    let (s, jpos) := s.journalList c step { programId := w.programId, count := w.count, addr := e.list }
    let l : ListRec :=
      { id := x.nextList, tag := e.tag, programId := w.programId, count := w.count, addr := e.list,
        step := step, endedAt := none, decided := none, silent := false, jpos := jpos }
    let ops := (List.range w.descs.length).filterMap (fun i =>
      (w.descs[i]?).map (fun (h, d) =>
        ({ n := x.nextOp + i, list := l.id, hdr := h, desc := d, step := step, st := .waiting, run := none,
           silent := false } : OpRec)))
    let s := s.modStream c (fun x =>
      { x with lists := x.lists ++ [l], ops := x.ops ++ ops, nextOp := x.nextOp + w.descs.length,
               nextList := x.nextList + 1 })
    s.completeLists c

/-- The walk of an entry's list waits: a page of it lies in the flash of a die out of service (R287). -/
def State.listWaits (s : State) (c : Slot) (e : SubEntry) : Bool :=
  !e.nop && s.flashWaits c e.list.toNat (64 + 64 * field (s.bytes c e.list.toNat 64) 12 4)

/-- The lead sequencer walks the next list taken in, while the slot holds a context that is not draining to
its release; a NOP whose turn comes completes with OK (R302, R303). -/
def execListWalk (c : Slot) (s : State) : Host.Outcome State Fault Refusal :=
  match (s.ctx c).stream.subQueue with
  | [] => .next s
  | e :: rest =>
    if !(s.ctx c).st.holds || s.boot.life != .ready || s.listWaits c e then .next s
    else
      let s := s.modStream c (fun x => { x with subQueue := rest })
      if e.nop then .next (s.postList c e.tag St.ok 0 (s.ctx c).stream.openStep)
      else
      match s.walkList c e.list.toNat with
      | .error (st, id) =>
        .next (s.refuseList c e.tag st id (fieldBv 64 (s.bytes c e.list.toNat 64) 16 8))
      | .ok w => .next (s.acceptList c e w)

/-! ### OPERATION_COMPLETE (R199) -/

/-- Array `k` of a core holds a tile that waits for its drain, by 4n + k. -/
def Arrays.undrained (a : Arrays) (key : Nat) : Bool := (kvGetD a.drains (key / 4) []).contains (key % 4)

/-- Nothing of the operation is left on a core or on its way. -/
def Arrays.clear (a : Arrays) (c : Slot) (n : Nat) : Bool :=
  a.queues.all (fun q => q.2.all (fun p => !(p.c == c && p.n == n))) &&
    a.shadows.all (fun q => !(q.2.pass.c == c && q.2.pass.n == n && a.undrained q.1)) &&
    a.adds.all (fun h => !(h.c == c && h.n == n))

/-- Work of the operation remains to be assigned: reissued units, or claims of a weight gradient (R179, R180).
-/
def RunData.claimsOpen (r : RunData) : Bool :=
  r.fault.isNone && (!r.reissue.isEmpty || 0 < r.left)

/-- The work of a running operation is done. WAITs end by their own rows; a collective when it has sent,
received and been acknowledged. A product does not wait for its Blink checks to be compared: their events have counted
with the sampled tiles (R124, R199; DEDUCED, log entry 27). -/
def State.workDone (s : State) (c : Slot) (o : OpRec) (r : RunData) : Bool :=
  match o.desc with
  | .product _ => s.arrays.clear c o.n && !r.claimsOpen
  | .wait _ => false
  | .copy _ => r.acks.isEmpty || r.fault.isSome
  | .mark _ => r.acks.isEmpty || r.fault.isSome
  | .coll _ => r.fault.isSome || (r.left = 0 && r.acks.isEmpty)
  | _ => true

/-- An operation whose work is done completes (R199, R433). (open points: DESIGN CHOICE, log entry 23) -/
def execOperationComplete (c : Slot) (n : Nat) (s : State) : Host.Outcome State Fault Refusal :=
  match s.op? c n with
  | none => .next s
  | some o =>
    match o.run with
    | none => .next s
    | some r =>
      if o.st == .running && s.workDone c o r then .next (s.finishOp c o r.status true)
      else .next s

end Sys2Proof.Machine
end

