-- ==== Sys2Proof/Machine/Fabric.lean ====
section
/-! DEFINITION. The Lamunem fabric: ports and their link layer, routes, and the packets of remote writes
(chapter 16). -/

namespace Sys2Proof.Machine

/-- The slot an endpoint is bound to (R275, R277). (open points: DEDUCED, log entry 69) -/
def State.ownerOf (s : State) (d e : Nat) : Option Slot :=
  slots.find? (fun c => (s.ctx c).st != .free && (s.ctx c).endpoints.toNat.testBit (16 * d + e))


/-! ### Results at the source (R324, R330) -/

/-- The running operation a tag names: slot, operation, and whether the tag is of a packet that awaits its
ACK. -/
def State.opOfTag (s : State) (tag : U32) : Option (Slot × OpRec × Bool) :=
  slots.findSome? (fun c => (s.ctx c).stream.ops.findSome? (fun o =>
    match o.run with
    | none => none
    | some r =>
      if r.acks.contains tag then some (c, o, true)
      else match r.coll with
        | some k => if k.tags.contains tag then some (c, o, false) else none
        | none => none))

def OpRec.ctxOf (o : OpRec) (c : Slot) : OpCtx :=
  match o.run with
  | some r => o.ctx c r.seed r.mode
  | none => o.ctx c 0 0

/-- The result of a packet reaches the operation that sent it: OK releases it, anything else ends it
(R211, R324, R330). (open points: DEDUCED, log entry 69) -/
def State.resultOf (s : State) (tag : U32) (status : U16) : State :=
  match s.opOfTag tag with
  | none => s.countDropped
  | some (c, o, acked) =>
    let s := s.modRun c o.n (fun r => { r with acks := r.acks.filter (· != tag) })
    if status = St.ok then (if acked then s else s.countDropped) else s.faultOp (o.ctxOf c) status 0 0 []

/-- Die `d` tells a packet's source that it was lost there, where the LOSS has a route; an ACK, LOSS or MGMT packet is
not answered (R330). The flag: it was told. (open points: DEDUCED, log entry 70) -/
def State.tellLoss (s : State) (d : Nat) (p : Packet) (status : U16) : State × Bool :=
  if p.kind = kindAck || p.kind = kindLoss || p.kind = 0x40 then (s, false)
  else s.route (p.reply kindLoss (s.endpointAddr d 0) status)

def State.tell (s : State) (d : Nat) (p : Packet) (status : U16) : State := (s.tellLoss d p status).1

/-- A packet is lost at die `d` of this module; one whose source cannot be told is counted. -/
def State.lose (s : State) (d : Nat) (p : Packet) (status : U16) : State :=
  let (s', told) := s.tellLoss d p status
  if told then s' else s.countDropped

/-- A packet made here is lost: its operation ends with LINK_DOWN; an ACK, LOSS or MGMT packet has none (R330). -/
def State.ownLost (s : State) (p : Packet) : State :=
  if p.kind = kindAck || p.kind = kindLoss || p.kind = 0x40 then s.countDropped else s.resultOf p.opTag St.linkDown

/-- A packet made here leaves; with no route it is lost (R330). -/
def State.sendPacket (s : State) (p : Packet) : State :=
  let (s', ok) := s.route p
  if ok then s' else s.ownLost p

/-- A fresh OP_TAG. -/
def State.freshTag (s : State) : State × U32 :=
  ({ s with fab := { s.fab with nextTag := s.fab.nextTag + 1 } }, s.fab.nextTag)

/-- The endpoint a context sends from: its lowest bound one. (open points: DEDUCED, log entry 70) -/
def State.sourceEndpoint (s : State) (c : Slot) : BitVec 24 :=
  match bitsOf (s.ctx c).endpoints.toNat 128 with
  | [] => s.endpointAddr 0 0
  | k :: _ => s.endpointAddr (k / 16) (k % 16)

/-- Sends a packet whose ACK the operation waits for. -/
def State.sendFor (s : State) (c : Slot) (n : Nat) (p : Packet) : State :=
  let (s, tag) := s.freshTag
  let s := s.modRun c n (fun r => { r with acks := r.acks ++ [tag] })
  s.sendPacket { p with opTag := tag, src := if p.src = 0 then s.sourceEndpoint c else p.src, srcContext := s.ctxId c }

/-! ### The link layer (R313 to R317) -/

/-- An acknowledgement of the codewords received falls due, and goes out as soon as a codeword may (R314 to R316). -/
def State.acknowledge (s : State) (n : Nat) (nak : Bool) : State :=
  (s.modPort n (fun p => { p with ctrlDue := some (nak || p.ctrlDue == some true), nakSent := p.nakSent || nak })).putCtrl n

/-- The link retrains (R317). (open points: DEDUCED, log entry 71) -/
def State.retrain (s : State) (n : Nat) : State :=
  s.modPort n (fun p => { p with state := 1, stuck := 0 })

/-- The unacknowledged codewords go out again (R315). -/
def State.replayAll (s : State) (n : Nat) : State :=
  (s.port n).replay.foldl (fun s w => s.putWord n w) s

/-- A replay; after the eighth without progress the link retrains. -/
def State.replayFrom (s : State) (n : Nat) : State :=
  let s := s.modPort n (fun p => { p with replays := p.replays + 1, stuck := p.stuck + 1 })
  let s := s.replayAll n
  if 8 ≤ (s.port n).stuck then s.retrain n else s

/-- A NAK, once until the expected codeword comes (R315). -/
def State.nak (s : State) (n : Nat) : State := if (s.port n).nakSent then s else s.acknowledge n true

/-- A codeword of a live link (R313 to R315); a BSLOT above 9 is a framing error whatever BEACON is. Its packets, LINK_CTRL slots and beacon slot have then arrived. -/
def State.receiveCodeword (s : State) (port : Fin 32) (cw : Codeword) : State :=
  let n := port.val
  let s := s.modPort n (fun p => { p with corrected := p.corrected + BitVec.ofNat 64 cw.corrected })
  let p := s.port n
  if cw.uncorrectable then
    (s.setPort n { p with uncorrectable := p.uncorrectable + 1 }).nak n
  else if cw.llane.toNat != p.rxNumber cw.seq % p.width.toNat || 10 ≤ cw.bslot.toNat then s.retrain n
  else if cw.seq != p.rxSeq then s.nak n
  else
    let body := if cw.beacon then cw.slots.eraseIdx cw.bslot.toNat else cw.slots
    let stream := p.partialSlots ++ body
    let run := takeSlots (stream.length + 1) stream
    if run.bad then s.retrain n
    else
      let q := nextSeq p.rxSeq p.rxWraps
      let s := s.setPort n { p with rxSeq := q.1, rxWraps := q.2, sinceAck := p.sinceAck + 1, nakSent := false,
                                    partialSlots := run.left }
      let s := { s with fab := { s.fab with
        arrived := s.fab.arrived ++ run.packets.map (fun pk => (some n, pk))
        ctrls := s.fab.ctrls ++ run.ctrls.map (fun c => (port, c))
        beacons := s.fab.beacons ++
          (if cw.beacon then [Beacon.parse port (cw.slots.getD cw.bslot.toNat [])] else []) } }
      if 256 ≤ (s.port n).sinceAck then s.acknowledge n false else s

def execCodewordReceive (port : Fin 32) (cw : Codeword) (s : State) : Host.Outcome State Fault Refusal :=
  if s.sku.ports ≤ port.val then .fault .noSuchUnit
  else if (s.port port.val).state = 2 then .next (s.receiveCodeword port cw)
  else .next s

/-- Codewords up to and with ACK_SEQ are released, when it is one of them. -/
def Port.release (p : Port) (ack : BitVec 12) : Port :=
  match p.replay.findIdx? (fun w => w.seq == ack) with
  | none => p
  | some i =>
    let gone := (p.replay.take (i + 1)).map (·.seq)
    { p with replay := p.replay.drop (i + 1), stuck := 0,
             inFlight := p.inFlight.filter (fun f => !gone.contains f.1) }

/-- Acknowledgement, credits, replay request (R314 to R316). One that a codeword brought has then acted. -/
def execLinkCtrl (port : Fin 32) (ctl : LinkCtrl) (s : State) : Host.Outcome State Fault Refusal :=
  let n := port.val
  if s.sku.ports ≤ n then .fault .noSuchUnit
  else if (s.port n).state != 2 then .next s
  else
    let s := { s with fab := { s.fab with ctrls := s.fab.ctrls.erase (port, ctl) } }
    let s := s.modPort n (fun p =>
      let p := p.release ctl.ackSeq
      { p with credit0 := p.credit0 + ctl.credit0.toNat, credit1 := p.credit1 + ctl.credit1.toNat,
               credit2 := p.credit2 + ctl.credit2.toNat })
    let s := if ctl.nak && !(s.port n).replay.isEmpty then s.replayFrom n else s
    .next (s.pumpPort n)

/-- 100 µs without an acknowledgement that advances (R315). -/
def execAckTimeoutReplay (port : Fin 32) (s : State) : Host.Outcome State Fault Refusal :=
  let n := port.val
  if s.sku.ports ≤ n then .fault .noSuchUnit
  else if (s.port n).state = 2 && !(s.port n).replay.isEmpty then .next (s.replayFrom n)
  else .next s

/-- The 1 µs acknowledgement interval runs out (R315). -/
def execLinkAcknowledgement (port : Fin 32) (s : State) : Host.Outcome State Fault Refusal :=
  let n := port.val
  if s.sku.ports ≤ n then .fault .noSuchUnit
  else
    let p := s.port n
    if p.state = 2 && (p.sinceAck != 0 || p.owed0 + p.owed1 + p.owed2 != 0) then .next (s.acknowledge n false)
    else .next s

/-! ### Training (R312, R317, R318) -/

/-- A training that succeeded. A port that carried no link before starts its link layer anew, as the far end does.
(open points: DEDUCED, log entry 71) -/
def Port.trained (p : Port) (t : Training) : Port :=
  let live := p.live &&& t.locked
  let fresh := p.width == 0
  let p := { p with state := 2, live := live, width := BitVec.ofNat 8 (popCount live.toNat 8), peer := t.peer,
                    delayNs := t.delayNs, fails := 0, stuck := 0, nakSent := false }
  if fresh then
    { p with txSeq := 0, rxSeq := 0, txWraps := 0, rxWraps := 0, replay := [], inFlight := [], sinceAck := 0, partialSlots := []
             credit0 := 128, credit1 := 24576, credit2 := 2048, owed0 := 0, owed1 := 0, owed2 := 0
             beacon := none, beaconDue := 0, ctrlDue := none }
  else p

/-- A port stops carrying traffic: its unacknowledged packets are lost, and those that still wait take another
route or are lost (R317, R330). (open points: DEDUCED, log entry 71) -/
def State.portStops (s : State) (n : Nat) (state : U8) : State :=
  let p := s.port n
  let s := s.setPort n { p with state := state, width := 0, inFlight := [], replay := [], waiting := [],
                                partialSlots := [], beacon := none, beaconDue := 0, ctrlDue := none }
  let gone := fun (s : State) (pk : Packet) =>
    if s.isMine pk.src then s.ownLost pk else s.lose (n / 4) pk St.linkDown
  let s := p.inFlight.foldl (fun s f => gone s f.2) s
  p.waiting.foldl (fun s pk => let (s', ok) := s.route pk; if ok then s' else gone s pk) s

/-- A port goes down, with the Logbook fault of R317. (open points: DEDUCED, log entry 71) -/
def State.portDown (s : State) (n : Nat) : State :=
  (s.raiseStatus sevFault St.linkDown { Event.blank with unit := BitVec.ofNat 16 n }).portStops n 0

/-! ### Beacons of a boundary (R258, R260, R318) -/

/-- A root stands at a boundary at which a new tick code takes effect (R258). -/
def Meridian.changing (m : Meridian) : Bool := m.role == 1 && m.count.toNat % 65536 == 0 && m.nextCode.isSome

/-- The code a root's beacon carries: at such a boundary the new one, so that every follower changes there too. -/
def Meridian.beaconCode (m : Meridian) : U8 := if m.changing then m.nextCode.getD m.tickCode else m.tickCode

/-- Ports that are up. -/
def State.upPorts (s : State) : List Nat := (List.range s.sku.ports).filter (fun n => (s.port n).state == 2)

/-- The address a root sends as its own: die 0 of the module (R15, R318). -/
def State.rootAddress (s : State) : U32 := 8 * s.fab.moduleNumber

/-- The beacon of a boundary on a port: one slot on each of its live lanes; a better beacon of the boundary goes out on
the lanes that have had none (R318). -/
def State.sendBeacon (s : State) (n : Nat) (b : Beacon) : State :=
  (s.modPort n (fun p => { p with
    beacon := some { b with port := none }
    beaconDue := if p.beacon.any (fun x => x.root == b.root && x.count == b.count) then p.beaconDue
      else p.width.toNat })).pumpPort n

/-- The beacon that a root sends (R318). -/
def State.ownBeacon (s : State) : Beacon :=
  { port := none, tickCode := s.mer.beaconCode.setWidth 3, hops := 0, root := s.rootAddress, count := s.mer.count, agePs := 0 }

/-- The beacon of the boundary just passed that a port has to send: a root's own, or the one a follower has used since
then and forwards on its other ports (R318). -/
def State.beaconNow (s : State) (n : Nat) : Option Beacon :=
  if s.mer.role = 1 then (if s.mer.state = 1 then some s.ownBeacon else none)
  else (s.mer.followed.filter (fun b => s.mer.heard.contains b && b.port.all (fun p => p.val != n))).map (fun b =>
    { b with hops := b.hops + 1 })

/-- A port that comes up after the boundary sends its beacon too (R318). -/
def State.lateBeacon (s : State) (n : Nat) : State :=
  match s.beaconNow n with
  | some b => s.sendBeacon n b
  | none => s.pumpPort n

/-- One training of a port and its end; the die tells the far end its address (R322). `count`: it is one after bring-up
(R331). (open points: DEDUCED, log entry 71) -/
def State.train (s : State) (n : Nat) (t : Training) (count : Bool) : State :=
  let p := s.port n
  let live := p.live &&& t.locked
  let s := (s.setPort n { p with retrains := if count then p.retrains + 1 else p.retrains }).emit
    (.training n (s.dieAddr (n / 4)))
  let p := s.port n
  if t.ok && live != 0 then
    ((s.setPort n (p.trained t)).replayAll n).lateBeacon n
  else if p.state = 0 then s.setPort n { p with live := live }
  else
    let s := s.setPort n { p with live := live, fails := p.fails + 1 }
    if 3 ≤ p.fails + 1 || live = 0 then s.portDown n else s

/-- A port that carried no link begins to train; one without a live lane is down (R317). -/
def State.beginTraining (s : State) (n : Nat) : State :=
  let s := s.modPort n (fun p => { p with state := 1, fails := 0 })
  if (s.port n).live = 0 then s.portDown n else s

/-- Open points: DEDUCED, log entry 71. -/
def execLinkTraining (port : Fin 32) (t : Training) (s : State) : Host.Outcome State Fault Refusal :=
  let n := port.val
  if s.sku.ports ≤ n then .fault .noSuchUnit
  else if s.boot.life.hasLink && (s.port n).state = 1 && s.dieRuns (n / 4) then .next (s.train n t true)
  else .next s

/-- A down port tries to train once per second (R317). (open points: DEDUCED, log entry 71) -/
def execDownPortRetry (port : Fin 32) (t : Training) (s : State) : Host.Outcome State Fault Refusal :=
  let n := port.val
  if s.sku.ports ≤ n then .fault .noSuchUnit
  else if s.boot.life.hasLink && (s.port n).state = 0 && s.dieRuns (n / 4) then .next (s.train n t true)
  else .next s

/-! ### A packet is acted on (R316, R330) -/

/-- A packet that arrived is acted on: it no longer waits, and its slots are owed to its port as credits. One that
came over a bridge takes no port's buffer. (open points: DEDUCED, log entry 69) -/
def State.takeArrived (s : State) (p : Packet) : State :=
  match s.fab.arrived.findIdx? (fun a => a.2 == p) with
  | none => s
  | some i =>
    match s.fab.arrived[i]? with
    | none => s
    | some (port, _) =>
      let s := { s with fab := { s.fab with arrived := s.fab.arrived.eraseIdx i } }
      match port with
      | none => s
      | some n =>
        s.modPort n (fun q =>
          match vcOf p.kind with
          | 0 => { q with owed0 := q.owed0 + p.slots }
          | 1 => { q with owed1 := q.owed1 + p.slots }
          | _ => { q with owed2 := q.owed2 + p.slots })

/-- A drop at an endpoint of a slot: counted for the module and for the slot (R330, R331). -/
def State.countDropAt (s : State) (c : Option Slot) : State :=
  let s := s.countDropped
  match c with
  | none => s
  | some c => s.modCtx c (fun x => { x with fab := { x.fab with dropped := x.fab.dropped + 1 } })

/-- A packet for a context that is no longer there: dropped, and counted as stale, for the endpoint's owner, else for
the slot its context id names (R280, R330). (open points: DEDUCED, log entry 70) -/
def State.dropStale (s : State) (p : Packet) : State :=
  let owner := s.ownerOf (destDie p.dest) (destEndpoint p.dest)
  (s.countDropAt owner).modCtx (owner.getD (Fin.ofNat 16 (p.destContext.toNat % 16))) (fun x =>
    { x with staleDiscards := x.staleDiscards + 1 })

/-- The ACK of a packet from the endpoint it was sent to. -/
def State.ackPacket (s : State) (p : Packet) (status : U16) : State :=
  s.sendPacket (p.reply kindAck p.dest status)

/-- A packet that arrives for an endpoint of this module: forwarded after a rebinding, dropped when its
context is no longer there, or given to the slot it names (R285, R330). `acks`: the kind is answered.
(open points: DEDUCED, log entry 69) -/
def State.deliver (s : State) (p : Packet) (acks : Bool) (act : State → Slot → State) : State :=
  if !s.isMine p.dest then s
  else
    let s := s.takeArrived p
    let d := destDie p.dest
    let e := destEndpoint p.dest
    if 63 < p.hops.toNat then (s.countDropAt (s.ownerOf d e)).tell d p St.latePacketDropped
    else
      let stale := fun (s : State) =>
        match s.res.forwards.find? (fun f => f.die == d && f.endpoint == e && f.context == p.destContext) with
        | some f => (s.route { p with dest := s.endpointAddr f.toDie f.toEndpoint }).1
        | none =>
          let s := s.dropStale p
          if acks then s.ackPacket p St.latePacketDropped else s
      match s.ownerOf d e with
      | none => stale s
      | some c => if p.destContext = s.ctxId c then act s c else stale s

/-! ### Remote writes and adds (R324, R330) -/

/-- A packet of slot `c` comes too late, or to a page that is not allocated (R330). (open points: DEDUCED, log entry
70) -/
def State.dropLate (s : State) (c : Slot) (p : Packet) : State :=
  (s.countDropAt (some c)).ackPacket p St.latePacketDropped

/-- A packet for a context of this module waits: the flash it goes to cannot be reached (R287).
(open points: DESIGN CHOICE, log entry 49) -/
def State.packetWaits (s : State) (p : Packet) (a n : Nat) : Bool :=
  s.isMine p.dest && (s.ownerOf (destDie p.dest) (destEndpoint p.dest)).any (fun c =>
    p.destContext == s.ctxId c && s.flashWaits c a n)

/-- No byte of a stopped module is stored: a packet for one comes too late (R330, R369). (open points: DEDUCED, log
entries 60 and 69) -/
def execWritePacket (p : Packet) (s : State) : Host.Outcome State Fault Refusal :=
  if p.kind != 0x10 || s.packetWaits p p.address.toNat p.payload.length then .next s
  else
    .next (s.deliver p true (fun s c =>
      let a := p.address.toNat
      let b := p.payload
      if s.boot.life.dead || !s.allocated c a b.length || (p.isWord && s.poisoned c a) then s.dropLate c p
      else (s.store c a b).ackPacket p St.ok))

/-- An ADD acts atomically at the word's home, modulo 2^64. (open points: DEDUCED, log entries 60 and 69) -/
def execAddPacket (p : Packet) (s : State) : Host.Outcome State Fault Refusal :=
  if p.kind != 0x11 || s.packetWaits p p.address.toNat 8 then .next s
  else
    .next (s.deliver p true (fun s c =>
      let a := p.address.toNat
      let s := s.touch c a 8
      if s.boot.life.dead || !s.allocated c a 8 || s.poisoned c a then s.dropLate c p
      else
        let v : U64 := BitVec.ofNat 64 (s.num c a 8) + p.value
        (s.store c a (bvLe 8 v)).ackPacket p St.ok))

/-- The result of one WRITE, ADD or COLL_DATA reaches its source (R324, R330). (open points: DEDUCED, log entry 69) -/
def execAck (p : Packet) (s : State) : Host.Outcome State Fault Refusal :=
  if p.kind != kindAck then .next s
  else .next (s.deliver p false (fun s _ => s.resultOf p.opTag p.status))

/-- A source learns that its packet was lost (R330). (open points: DEDUCED, log entry 69) -/
def execLoss (p : Packet) (s : State) : Host.Outcome State Fault Refusal :=
  if p.kind != kindLoss then .next s
  else .next (s.deliver p false (fun s _ => s.resultOf p.opTag p.status))

/-- A packet for another module or die goes on: over the bridges, or by the route table with HOPS advanced
(R320, R321, R330). (open points: DEDUCED, log entry 69) -/
def execPacketForward (port : Fin 32) (p : Packet) (s : State) : Host.Outcome State Fault Refusal :=
  if s.sku.ports ≤ port.val then .fault .noSuchUnit
  else
    let s := s.takeArrived p
    if s.isMine p.dest then .next (s.route p).1
    else
      let q := { p with hops := p.hops + 1 }
      if 63 ≤ p.hops.toNat then .next (s.countDropped.tell (port.val / 4) p St.latePacketDropped)
      else
        match s.route q with
        | (s', true) => .next s'
        | (_, false) => .next (s.lose (port.val / 4) q St.linkDown)

/-- The old die stops forwarding to a moved endpoint (R285). -/
def execEndpointForwardExpiry (die : Fin 8) (endpoint : Fin 16) (s : State) :
    Host.Outcome State Fault Refusal :=
  if s.sku.dies ≤ die.val then .fault .noSuchUnit
  else
    .next { s with res := { s.res with forwards := s.res.forwards.filter (fun f =>
      !(f.die == die.val && f.endpoint == endpoint.val)) } }

end Sys2Proof.Machine
end

