-- ==== Sys2Proof/Machine/Ephemeris.lean ====
section
/-! DEFINITION. The tick boundary: Ephemeris and submission rings, firing, and the actions of Ephemeris
entries (chapters 13, 15; R214, R218). -/

namespace Sys2Proof.Machine

/-! ### Entries (R267) -/

def EphEntry.parse (b : Bytes) : EphEntry :=
  { target := fieldBv 64 b 0 8, kind := fieldBv 8 b 8 1, eflags := fieldBv 8 b 9 1, tag := fieldBv 32 b 12 4,
    args := (List.range 6).map (fun w => fieldBv 64 b (16 + 8 * w) 8) }

/-- Argument word `w`. -/
def EphEntry.arg (e : EphEntry) (w : Nat) : U64 := e.args.getD w 0

def EphEntry.dropIfMissed (e : EphEntry) : Bool := e.eflags.getLsbD 0
def EphEntry.posts (e : EphEntry) : Bool := e.eflags.getLsbD 1

/-- MARK with word 0 = 1 (R214). -/
def EphEntry.isPhase (e : EphEntry) : Bool := e.kind == 7 && e.arg 0 == 1

def allOnes64 : U64 := 0xFFFFFFFFFFFFFFFF

/-- The step after START_STEP `e`, where `open_` was open before it (R268). -/
def EphEntry.stepAfter (e : EphEntry) (open_ : U64) : U64 := if e.arg 0 = allOnes64 then open_ + 1 else e.arg 0

/-! ### Arrival (R268) -/

/-- The step that will be open once every START_STEP of the ring that has arrived has acted. -/
def State.stepAhead (s : State) (c : Slot) : U64 :=
  let due := (s.due.filter (fun d => d.ring == .ctx c && d.entry.kind == 1)).map (·.entry)
  let pend := ((s.ctx c).eph.pending.filter (fun p => p.discard == St.ok && p.entry.kind == 1)).map (·.entry)
  (due ++ pend).foldl (fun t e => e.stepAfter t) (s.ctx c).stream.openStep

/-- The kinds a ring accepts, and the blocks a RAMP may name on it (R268, R357, R363).
(open points: DEDUCED, log entry 21) -/
def State.ringAccepts (s : State) (r : Ring) (e : EphEntry) : Bool :=
  let kindOk := match r, e.kind.toNat with
    | .module, 3 => true | .module, 5 => true | .module, 6 => true | .module, 7 => !e.isPhase | .module, _ => false
    | .ctx _, 5 => false | .ctx _, _ => true
  kindOk && (e.kind != 3 || e.arg 0 == allOnes64 ||
    (match r with
     | .module => (s.sku.blockKind (e.arg 0).toNat).isSome
     | .ctx c => s.bindsBlock c (e.arg 0).toNat))

/-- The checks of an arriving entry, in order: OK, or the status with which it is discarded. -/
def State.checkEntry (s : State) (r : Ring) (e : EphEntry) : U16 :=
  let k := e.kind.toNat
  let a := (e.arg 0).toNat
  if k = 0 || 8 ≤ k || e.eflags.toNat / 4 != 0 || (k = 7 && 1 < a) then St.formatPairInvalid
  else if !s.ringAccepts r e then St.accessDenied
  else
    match r with
    | .module => St.ok
    | .ctx c =>
      if (k = 2 && a % 8 != 0) || (k = 6 && a % 64 != 0) then St.misaligned
      else if (k = 2 && !s.allocated c a 8) || (k = 6 && !s.allocated c a 64) then St.beyondBound
      else if k = 1 && e.arg 0 ≤ s.stepAhead c then St.valueOutOfRange
      else St.ok

/-- A record of an entry discarded or missed (R268, R270, R438). -/
def State.entryNotice (s : State) (r : Ring) (e : EphEntry) (pos : U32) (status : U16) (late : Nat) : State :=
  let ev : Event := { Event.blank with
    args := [e.target, e.kind.setWidth 64, e.tag.setWidth 64, pos.setWidth 64, BitVec.ofNat 64 late] }
  s.raiseStatus sevNotice status
    (match r with
     | .module => ev
     | .ctx c => { ev with context := s.ctxId c, step := (s.ctx c).stream.openStep })

def State.modEph (s : State) (c : Slot) (f : EphRing → EphRing) : State :=
  s.modCtx c (fun x => { x with eph := f x.eph })

def State.modModRing (s : State) (f : ModuleRing → ModuleRing) : State := { s with modRing := f s.modRing }

/-- An entry arrives on a ring; one that fails its checks is discarded with a notice (R268). -/
def State.arrive (s : State) (r : Ring) (pos : U32) (e : EphEntry) : State :=
  let st := s.checkEntry r e
  let p : EphPending := { pos := pos, entry := e, discard := st }
  let n := if st = St.ok then 0 else 1
  let s := match r with
    | .module => s.modModRing (fun x => { x with pending := x.pending ++ [p], discarded := x.discarded + n })
    | .ctx c => s.modEph c (fun x => { x with pending := x.pending ++ [p], discarded := x.discarded + n })
  if st = St.ok then s else s.entryNotice r e pos st 0

/-! ### Taking in (R265, R271, R303) -/

/-- A ring value that is ignored; noticed once for each distinct one (R265). -/
def State.beyondNotice (s : State) (c : Slot) (v : U32) : State :=
  s.raiseStatus sevNotice St.beyondBound { Event.blank with context := s.ctxId c, args := [v.setWidth 64] }

/-- A new ring base takes over: pending entries go without a record, HEAD is read afresh (R271).
(open points: DEDUCED, log entry 21) -/
def State.swapRing (s : State) (c : Slot) : State :=
  let x := (s.ctx c).eph
  if !x.fresh then s
  else
    let h := fieldBv 32 (s.ringBytes c x.base.toNat 64) 4 4
    s.modEph c (fun x => { x with baseInUse := x.base, fresh := false, head := h, pos := h, ignored := [],
                                  pending := [], barrier := none })

/-- The ring lies in flash that cannot be reached (R287). (open points: DESIGN CHOICE, log entry 49) -/
def State.ringWaits (s : State) (c : Slot) : Bool :=
  let x := (s.ctx c).eph
  let b := if x.fresh then x.base else x.baseInUse
  b != 0 && s.flashWaits c b.toNat (64 + 64 * 256)

/-- The entries between the read position and TAIL arrive (R264, R265). (open points: DEDUCED, log entry 21) -/
def State.takeEph (s : State) (c : Slot) : State :=
  if s.ringWaits c then s
  else
  let s := s.swapRing c
  let x := (s.ctx c).eph
  let b := x.baseInUse.toNat
  if b = 0 then s
  else
    let tail := fieldBv 32 (s.ringBytes c b 64) 0 4
    let span := (tail - x.head).toNat
    if 256 < span then
      if x.ignored.contains tail then s
      else (s.modEph c (fun x => { x with ignored := x.ignored ++ [tail] })).beyondNotice c tail
    else
      let have_ := (x.pos - x.head).toNat
      let s := (List.range (span - have_)).foldl (fun s i =>
        let n := x.pos + BitVec.ofNat 32 i
        s.arrive (.ctx c) n (EphEntry.parse (s.ringBytes c (b + 64 + 64 * (n.toNat % 256)) 64))) s
      s.modEph c (fun y => if span < have_ then y else { y with pos := tail })

def State.modSub (s : State) (c : Slot) (f : SubRing → SubRing) : State :=
  s.modCtx c (fun x => { x with sub := f x.sub })

/-- The device's words of a submission ring header (R301). -/
def State.writeSubHeader (s : State) (c : Slot) : State :=
  let x := s.ctx c
  let b := x.sub.base.toNat
  if b != 0 && s.allocated c b 64 then
    (s.store c (b + 4) (bvLe 4 x.sub.head)).store c (b + 12) (bvLe 4 x.ring.cmpTail ++ bvLe 4 x.sub.discards)
  else s

/-- The completion of a submission entry that names no list to run (R302, R303). -/
def State.postEntry (s : State) (c : Slot) (tag : U32) (status : U16) : State :=
  s.postCtx c { late := false, kind := 2, status := status, tag := tag, opId := 0, context := s.ctxId c,
                ekind := 0, count := s.meridianField, arg := (s.ctx c).stream.openStep }

/-- One submission entry: checked, then discarded or joined to the stream (R302, R303).
(open points: DEDUCED, log entry 21) -/
def State.takeSubEntry (s : State) (c : Slot) (b : Bytes) : State :=
  let s := s.modSub c (fun x => { x with head := x.head + 1 })
  let kind := field b 0 1
  let tag := fieldBv 32 b 4 4
  let list := field b 8 8
  let discard := fun (s : State) => s.modSub c (fun x => { x with discards := x.discards + 1 })
  if fieldBv 16 b 2 2 != s.ctxId c then
    (discard s).modCtx c (fun x => { x with staleDiscards := x.staleDiscards + 1 })
  else if kind != 1 && kind != 2 then (discard s).postEntry c tag St.formatPairInvalid
  else if list % 64 != 0 then (discard s).postEntry c tag St.misaligned
  else if !s.allocated c list 64 then (discard s).postEntry c tag St.beyondBound
  else s.modStream c (fun x => { x with subQueue := x.subQueue ++
    [{ tag := tag, list := BitVec.ofNat 64 list, nop := kind == 2 }] })

/-- CMP_HEAD as the header holds it, when it lies in the ring (R303, R306). (open points: DEDUCED, log entry 21) -/
def State.takeCmpHead (s : State) (c : Slot) (v : U32) : State :=
  let x := s.ctx c
  if (x.ring.cmpTail - v).toNat ≤ x.ring.entries.toNat then
    s.modCtx c (fun x => { x with ring := { x.ring with cmpHead := v } })
  else if x.sub.ignoredHead.contains v then s
  else (s.modSub c (fun x => { x with ignoredHead := x.ignoredHead ++ [v] })).beyondNotice c v

/-- The submission ring of a slot is read, unless it lies in flash that cannot be reached (R287, R303). -/
def State.takeSub (s : State) (c : Slot) : State :=
  let b := (s.ctx c).sub.base.toNat
  if b = 0 || s.flashWaits c b (64 + 64 * (s.ctx c).sub.entries.toNat) then s
  else
    let h := s.ringBytes c b 64
    let s := s.takeCmpHead c (fieldBv 32 h 8 4)
    if (s.ctx c).train.restoring.isSome then s
    else
      let x := (s.ctx c).sub
      let tail := fieldBv 32 h 0 4
      let span := (tail - x.head).toNat
      if x.entries.toNat < span then
        if x.ignored.contains tail then s
        else (s.modSub c (fun x => { x with ignored := x.ignored ++ [tail] })).beyondNotice c tail
      else if span = 0 then s
      else
        let s := (List.range span).foldl (fun s i =>
          let n := (x.head + BitVec.ofNat 32 i).toNat % x.entries.toNat
          s.takeSubEntry c (s.ringBytes c (b + 64 + 64 * n) 64)) s
        s.writeSubHeader c

/-! ### Firing (R269, R270) -/

/-- The device's words of an Ephemeris ring header; LAST_COUNT only when an entry fired (R264). -/
def State.writeEphHeader (s : State) (c : Slot) (tag : U32) (status : U16) (count : Option U64) : State :=
  let x := (s.ctx c).eph
  let b := x.baseInUse.toNat
  if b != 0 && s.allocated c b 64 then
    let s := s.store c (b + 4) (bvLe 4 x.head)
    let s := match count with | some n => s.store c (b + 8) (bvLe 8 n) | none => s
    s.store c (b + 16) (bvLe 4 tag ++ bvLe 2 status)
  else s

/-- The head of a ring has been fired or discarded. -/
def State.headMoves (s : State) (r : Ring) (e : EphEntry) (status : U16) (count : Option U64) : State :=
  match r with
  | .module => s
  | .ctx c => (s.modEph c (fun x => { x with head := x.head + 1 })).writeEphHeader c e.tag status count

/-- An entry is missed: the ring's counter, the module's, and one notice (R270). (open points: DEDUCED, log entry 35) -/
def State.miss (s : State) (r : Ring) (e : EphEntry) (pos : U32) (late : Nat) : State :=
  let s := match r with
    | .module => s.modModRing (fun x => { x with missed := x.missed + 1 })
    | .ctx c => s.modEph c (fun x => { x with missed := x.missed + 1 })
  ({ s with mer := { s.mer with missed := s.mer.missed + 1 } }).entryNotice r e pos St.eventMissed late

/-- The POST completion of an entry (R267, R304, R305). -/
def State.postEph (s : State) (r : Ring) (e : EphEntry) (status : U16) (late : Bool) (count : U64) : State :=
  if !e.posts then s
  else
    let k : Cmpl := { late := late, kind := 3, status := status, tag := e.tag, opId := 0, context := 0xFFFF,
                      ekind := e.kind, count := count, arg := 0 }
    match r with
    | .module => s.post .module k
    | .ctx c => s.postCtx c { k with context := s.ctxId c }

def State.ringTolerance (s : State) (r : Ring) : Nat :=
  match r with
  | .module => s.modRing.tolerance.toNat
  | .ctx c => (s.ctx c).eph.tolerance.toNat

def State.countFired (s : State) (r : Ring) (late : Bool) : State :=
  let n : U64 := if late then 1 else 0
  match r with
  | .module => s.modModRing (fun x => { x with fired := x.fired + 1, late := x.late + n })
  | .ctx c => s.modEph c (fun x => { x with fired := x.fired + 1, late := x.late + n })

def State.setPending (s : State) (r : Ring) (l : List EphPending) : State :=
  match r with
  | .module => s.modModRing (fun x => { x with pending := l })
  | .ctx c => s.modEph c (fun x => { x with pending := l })

/-- The word of a BARRIER has reached its value (R268). -/
def State.barrierMet (s : State) (c : Slot) (e : EphEntry) : Bool :=
  e.arg 1 ≤ BitVec.ofNat 64 (s.num c (e.arg 0).toNat 8)

/-- A BARRIER holds its ring: its word has not reached its value, or lies in flash that cannot be reached (R268, R287).
(open points: DESIGN CHOICE, log entry 49) -/
def State.barrierHolds (s : State) (c : Slot) (e : EphEntry) : Bool :=
  s.flashWaits c (e.arg 0).toNat 8 || !s.barrierMet c e

/-- Blocks that a RAMP names as it fires, with their power in the last complete window (R363). -/
def State.rampBlocks (s : State) (r : Ring) (e : EphEntry) : List (Nat × U32) :=
  let a := (e.arg 0).toNat
  let bs := if e.kind != 3 then []
    else match r with
      | .module => if e.arg 0 == allOnes64 then s.sku.blocks else [a]
      | .ctx c => if e.arg 0 == allOnes64 then (s.ctx c).groupList.map groupBlock
          else if s.bindsBlock c a then [a] else []
  bs.map (fun b => (b, (s.block b).power))

/-- A due entry fires: judged, counted, and queued for its action. -/
def State.fireEntry (s : State) (r : Ring) (p : EphPending) (late : Nat) (missed : Bool) : State :=
  let s := s.countFired r (0 < late)
  let s := s.headMoves r p.entry (if missed then St.eventMissed else St.ok) (some s.mer.count)
  { s with due := s.due ++ [{ ring := r, pos := p.pos, entry := p.entry, at_ := s.mer.count, lateness := late,
                              missed := missed, blocks := s.rampBlocks r p.entry
                              ms := s.ident.operatingMs.toNat
                              energy := match r with | .module => 0 | .ctx c => (s.ctx c).energy.energyUj
                              seed := match r with | .module => 0 | .ctx c => (s.ctx c).num.seed
                              mode := match r with | .module => 0 | .ctx c => (s.ctx c).num.mode }] }

/-- Entries fire from the head of a ring while they are due (R268 to R270). -/
def State.fireList (s : State) (r : Ring) : List EphPending → State
  | [] => s.setPending r []
  | p :: rest =>
    let e := p.entry
    if p.discard != St.ok then (s.headMoves r e p.discard none).fireList r rest
    else if s.mer.count < e.target then s.setPending r (p :: rest)
    else
      let late := (s.mer.count - e.target).toNat
      let missed := s.ringTolerance r < late
      let s := if missed then s.miss r e p.pos late else s
      if missed && e.dropIfMissed && e.kind != 1 && !e.isPhase then
        ((s.headMoves r e St.eventMissed none).postEph r e St.eventMissed true s.mer.count).fireList r rest
      else
        let s := s.fireEntry r p late missed
        match r with
        | .module => s.fireList r rest
        | .ctx c =>
          if e.kind = 2 && s.barrierHolds c e then
            (s.setPending r rest).modEph c (fun x =>
              { x with barrier := some { entry := e, pos := p.pos, lateness := late, missed := missed,
                                         since := s.mer.count, began := false } })
          else s.fireList r rest

/-- The status of an entry that acted (R270). -/
def missedStatus (missed : Bool) : U16 := if missed then St.eventMissed else St.ok

/-- A context ring at a boundary: a BARRIER is re-read, and the ring continues behind it (R268). One that lies in flash that
cannot be reached waits (R287). -/
def State.fireCtx (s : State) (c : Slot) : State :=
  let x := (s.ctx c).eph
  if s.ringWaits c then s
  else
  match x.barrier with
  | none => s.fireList (.ctx c) x.pending
  | some b =>
    if s.barrierHolds c b.entry then s
    else
      let s := s.modEph c (fun x => { x with barrier := none })
      let s := if b.began then
          s.postEph (.ctx c) b.entry (missedStatus b.missed) (0 < b.lateness) b.since
        else s
      s.fireList (.ctx c) x.pending

/-! ### TICK_BOUNDARY (R257, R269) -/

/-- Quarters of a microsecond in a tick (R258). -/
def tickQuarters (code : U8) : Nat := 2 ^ code.toNat

/-- The count after a boundary, and whether it advanced: a follower in SYNCHRONISED goes forward to its
root's count, or holds until the root has reached it (R257, R263). -/
def Meridian.next (m : Meridian) : U64 × Bool :=
  if m.state = 1 && m.role != 1 then
    match m.domain with
    | some d => if m.count < d + 1 then (d + 1, true) else (m.count, false)
    | none => (m.count + 1, true)
  else (m.count + 1, true)

/-- No beacon has come for a whole tick. -/
def Meridian.silent (m : Meridian) : Bool := m.heard.isEmpty && m.heardBefore.isEmpty

/-- The root a follower hears is heard no more once a whole tick has brought no beacon, but for one that is SYNCHRONISED,
which waits for its timeout (R259, R261). (open points: DEDUCED, log entry 37) -/
def Meridian.forgets (m : Meridian) : Bool := m.role != 1 && (m.state == 0 || m.state == 3) && m.silent

def Meridian.advance (m : Meridian) : Meridian :=
  { m with count := m.next.1, domain := m.domain.map (· + 1), heard := [],
           root := if m.forgets then 0xFFFFFFFF else m.root
           followed := if m.forgets then none else m.followed
           heardBefore := m.heard,
           tickCode := if m.changing then m.nextCode.getD m.tickCode else m.tickCode
           nextCode := if m.laterCode.isSome then m.laterCode else if m.changing then none else m.nextCode
           laterCode := none
           holdover := if m.state = 2 then m.holdover + tickQuarters m.tickCode else m.holdover }

/-- After every boundary a root sends its beacon on every port (R260, R318). -/
def State.rootBeacons (s : State) : State :=
  if s.mer.role = 1 && s.mer.state = 1 then
    s.upPorts.foldl (fun s n => s.sendBeacon n s.ownBeacon) s
  else s

/-- Slots whose rings are read: those that hold a context. -/
def State.ringSlots (s : State) : List Slot := slots.filter (fun c => (s.ctx c).st.holds)

/-- New entries of every ring arrive (R265, R269); none of a context that waits for a restore (R228).
(open points: DEDUCED, log entry 35) -/
def State.takeIn (s : State) : State :=
  s.ringSlots.foldl (fun s c => if (s.ctx c).train.restoring.isSome then s else s.takeEph c) s

/-- Due entries fire: the module ring first, unless die 0 is out of service, then the context rings in
ascending slot order (R269, R271, R287). (open points: DEDUCED, log entry 35) -/
def State.fireAll (s : State) : State :=
  let s := if s.dieRuns 0 then s.fireList .module s.modRing.pending else s
  s.ringSlots.foldl (fun s c => s.fireCtx c) s

/-- A tick boundary of a running module; `advanced`: the count did not hold (R263, R269, R303).
(open points: DEDUCED, log entry 35) -/
def State.boundary (s : State) (advanced : Bool) : State :=
  let s := s.takeIn
  let s := if advanced && s.mer.held then s.fireAll else s
  s.ringSlots.foldl (fun s c => s.takeSub c) s

/-- Open points: DESIGN CHOICE, log entries 4 and 77; DEDUCED, log entry 35. -/
def execTickBoundary (s : State) : Host.Outcome State Fault Refusal :=
  match s.boot.life with
  | .ready =>
    let adv := s.mer.next.2
    .next ((({ s with mer := s.mer.advance }).rootBeacons).boundary adv)
  | .acquiring => .next ({ s with mer := s.mer.advance }).rootBeacons
  | .stopped => .next ({ s with mer := s.mer.advance }).rootBeacons
  | .cut true => .next ({ s with mer := s.mer.advance }).rootBeacons
  | .cut false => .next s
  | .off => .next s
  | .held => .next s
  | .recovery => .next s

/-! ### Actions (R268, R269) -/

/-- LAST_STATUS of a ring header, while the entry is still the last one fired (R264). -/
def State.lastStatus (s : State) (d : DueEntry) (st : U16) : State :=
  match d.ring with
  | .module => s
  | .ctx c =>
    let x := (s.ctx c).eph
    let b := x.baseInUse.toNat
    if b != 0 && x.head == d.pos + 1 && s.allocated c b 64 then s.store c (b + 20) (bvLe 2 st) else s

/-- What a due entry writes cannot be reached: a START_STEP's journal, a SAMPLE's record or a phase record lies in flash
that is out (R287), or the module is stopped, where a SNAPSHOT waits too (R369). (open points: DESIGN CHOICE, log entry
49; DEDUCED, log entry 60) -/
def State.dueWaits (s : State) (d : DueEntry) : Bool :=
  match d.ring with
  | .module => false
  | .ctx c =>
    let t := (s.ctx c).train.inForce
    if s.boot.life.dead && (d.entry.kind == 1 || d.entry.kind == 4 || d.entry.kind == 6 || d.entry.isPhase) then true
    else if d.entry.kind = 1 then
      t.journalBase != 0 && s.flashWaits c t.journalBase.toNat (t.depth.toNat * t.entryBytes.toNat)
    else if d.entry.kind = 6 then s.flashWaits c (d.entry.arg 0).toNat 64
    else d.entry.isPhase && t.phaseBase != 0 && s.flashWaits c t.phaseBase.toNat 64

/-- The first of some due entries that neither waits nor stands behind one of its ring that does, and the others. -/
def firstDue (waits : DueEntry → Bool) : List DueEntry → List DueEntry → Option (DueEntry × List DueEntry)
  | _, [] => none
  | held, d :: rest =>
    if waits d || held.any (fun e => e.ring == d.ring) then firstDue waits (held ++ [d]) rest
    else some (d, held ++ rest)

/-- The next due entry that can act. -/
def State.nextDue (s : State) : Option (DueEntry × List DueEntry) := firstDue s.dueWaits [] s.due

/-- The next due entry acts, when it is of the row's kind; its completion follows (R267, R287). -/
def State.actDue (s : State) (mine : DueEntry → Bool) (act : State → DueEntry → State × U16) : State :=
  match s.nextDue with
  | none => s
  | some (d, rest) =>
    if mine d then
      let (s, st) := act { s with due := rest } d
      s.postEph d.ring d.entry (if st = St.ok then missedStatus d.missed else st) (0 < d.lateness) d.at_
    else s

/-- The nearest FP32 value of a quotient, 0 when either side is. (open points: DESIGN CHOICE, log entry 38) -/
def quotF (a b : Nat) : F32 :=
  if a = 0 || b = 0 then 0
  else (roundF true false (a * 2 ^ 96 / b) (-96) (a * 2 ^ 96 % b != 0)).1

/-- Tokens per MWh (R366). (open points: DESIGN CHOICE, log entry 38) -/
def tokensPerMwh (tokens mj : Nat) : F32 := quotF (tokens * 3600000000000) mj

/-- A step period ends and the next begins, at the boundary at which the slot's energy was `at_` (R366).
(open points: DESIGN CHOICE, log entry 38) -/
def CtxEnergy.nextPeriod (e : CtxEnergy) (at_ : Nat) (step tokens : U64) : CtxEnergy :=
  let e' := match e.periodFrom with
    | none => e
    | some (from_, tok, st) =>
      let uj := at_ - from_
      let be := e.bindEnergy + uj
      let bt := e.bindTokens + tok.toNat
      { e with stepEnergy := BitVec.ofNat 64 (uj / 1000), stepTokens := tok,
               stepPerMwh := tokensPerMwh tok.toNat (uj / 1000), accountStep := st,
               bindEnergy := be, bindTokens := bt, bindPerMwh := tokensPerMwh bt (be / 1000) }
  { e' with tokens := e'.tokens + tokens, periodFrom := some (at_, tokens, step) }

/-- The journal header of a step, with the lists already walked for it (R218, R219).
(open points: DESIGN CHOICE, log entry 42) -/
def State.openJournal (s : State) (c : Slot) (step seed : U64) (mode : U8) (count : U64) : State :=
  let t := (s.ctx c).train.inForce
  let base := t.journalBase.toNat
  if base = 0 then s
  else
    let addr := base + t.entryBytes.toNat * (step.toNat % t.depth.toNat)
    let e : JEntry :=
      { step := step, meridian := count, seed := seed, mode := mode, context := s.ctxId c, addr := addr,
        room := t.entryBytes.toNat, closed := false, truncated := false, lists := [], scales := [],
        inputs := [], written := [] }
    let s := (s.modTrain c (fun t => { t with journal := t.journal.filter (fun x => x.addr != addr) ++ [e] })
      ).journalWrite c e
    ((s.ctx c).stream.lists.filter (fun l => l.step == step)).foldl (fun s l =>
      let (s, k) := s.journalList c step { programId := l.programId, count := l.count, addr := l.addr }
      s.modStream c (fun x => { x with
        lists := x.lists.map (fun y => if y.id == l.id then { y with jpos := k } else y) })) s

/-- START_STEP opens its step: seed and mode are fixed, the close of the step before becomes due, the energy period
and the journal entry begin (R139, R189, R98, R218, R228, R366). `num`: the seed and the mode as they stood when the
entry fired, at `count`. -/
def State.startStep (s : State) (c : Slot) (step tokens count : U64) (energy : Nat) (num : U64 × U8) : State :=
  let x := s.ctx c
  let (seed, mode) := x.train.restored.getD num
  let s := s.modStream c (fun y => { y with
    openStep := step, stepOpened := true,
    closing := if x.train.restored.isSome then y.closing else y.closing ++ [y.openStep] })
  let s := s.modTrain c (fun t => { t with restored := none })
  let s := s.modNum c (fun n => { n.modStep step (fun a => { a with seed := seed, mode := mode }) with
    seedInForce := seed, modeInForce := mode })
  let s := s.modCtx c (fun y => { y with energy := y.energy.nextPeriod energy step tokens })
  s.openJournal c step seed mode count

/-- Open points: DEDUCED, log entry 33. -/
def actStartStep (s : State) (d : DueEntry) : State × U16 :=
  match d.ring with
  | .module => (s, St.ok)
  | .ctx c => (s.startStep c (d.entry.stepAfter (s.ctx c).stream.openStep) (d.entry.arg 1) d.at_ d.energy
      (d.seed, d.mode), St.ok)

def execStartStep (s : State) : Host.Outcome State Fault Refusal :=
  .next (s.actDue (fun d => d.entry.kind == 1) actStartStep)

/-- BARRIER begins: its ring is held from its firing; one already met completes (R268). -/
def execBarrier (s : State) : Host.Outcome State Fault Refusal :=
  match s.nextDue with
  | none => .next s
  | some (d, rest) =>
    match d.ring with
    | .module => .next s
    | .ctx c =>
      if d.entry.kind != 2 then .next s
      else
        let s := { s with due := rest }
        match (s.ctx c).eph.barrier with
        | some b =>
          if b.pos == d.pos then .next (s.modEph c (fun x => { x with barrier := some { b with began := true } }))
          else .next (s.postEph d.ring d.entry (missedStatus d.missed) (0 < d.lateness) d.at_)
        | none => .next (s.postEph d.ring d.entry (missedStatus d.missed) (0 < d.lateness) d.at_)

/-- A BARRIER whose timeout has passed completes with EVENT_MISSED, and its ring continues (R270).
(open points: DEDUCED, log entry 35) -/
def execBarrierTimeout (c : Slot) (s : State) : Host.Outcome State Fault Refusal :=
  match (s.ctx c).eph.barrier with
  | none => .next s
  | some b =>
    let limit := b.entry.arg 2
    if b.began && limit != 0 && s.mer.held && limit ≤ s.mer.count - b.since && s.barrierHolds c b.entry then
      let s := s.modEph c (fun x => { x with barrier := none })
      let s := s.miss (.ctx c) b.entry b.pos b.lateness
      let s := s.writeEphHeader c b.entry.tag St.eventMissed none
      let s := s.postEph (.ctx c) b.entry St.eventMissed (0 < b.lateness) b.since
      .next (s.fireList (.ctx c) (s.ctx c).eph.pending)
    else .next s

/-! ### RAMP (R272, R363) -/

/-- The ramp limit an entry sets on a block; its rate as a U32 where it fits one.
(open points: DESIGN CHOICE, log entry 34) -/
def rampLimit (e : EphEntry) (power : U32) (windows : Nat) (free : U64) : RampLimit :=
  let rate := (e.arg 1).toNat
  { rate := rate, shown := if rate < 2 ^ 32 then BitVec.ofNat 32 rate else free.setWidth 32,
    endCount := e.arg 2, base := power.toNat, windows := windows, frac := (free.toNat >>> 32) % 65536 + 1 }

/-- The limit is set on the blocks named at firing, over their power before it, bounds the window of the firing
boundary too, and has grown over the windows that ended since. A core group that has left the context since is not limited
(R272, R363). (open points: DESIGN CHOICE, log entry 34) -/
def actRamp (s : State) (d : DueEntry) : State × U16 :=
  let (s, free) := s.draw
  (d.blocks.foldl (fun s q =>
    let l := some (rampLimit d.entry q.2 (s.ident.operatingMs.toNat - d.ms) free)
    if (match d.ring with | .module => false | .ctx c => !s.bindsBlock c q.1) then s
    else (s.modBlock q.1 (fun x => match d.ring with
      | .module => { x with rampModule := l }
      | .ctx _ => { x with rampContext := l })).lowerLimit q.1) s, St.ok)

def execRamp (s : State) : Host.Outcome State Fault Refusal :=
  .next (s.actDue (fun d => d.entry.kind == 3) actRamp)

/-- A limit has reached its end count, at a boundary at which the count is held (R272). -/
def State.rampOver (s : State) (l : Option RampLimit) : Bool :=
  match l with
  | some r => s.mer.held && r.endCount != allOnes64 && r.endCount ≤ s.mer.count
  | none => false

def execRampEnd (b : Nat) (fromModule : Bool) (s : State) : Host.Outcome State Fault Refusal :=
  if (s.sku.blockKind b).isNone then .fault .noSuchUnit
  else
    let x := s.block b
    if fromModule then
      if s.rampOver x.rampModule then .next (s.setBlock b { x with rampModule := none }) else .next s
    else if s.rampOver x.rampContext then .next (s.setBlock b { x with rampContext := none })
    else .next s

/-! ### SAMPLE (R273) -/

/-- Open points: DESIGN CHOICE, log entry 34. -/
def State.sampleRecord (s : State) (d : DueEntry) : Bytes :=
  let (uj, tokens, step) : Nat × Nat × U64 := match d.ring with
    | .module => (s.moduleUj, sumNat (fun c => (s.ctx c).energy.tokens.toNat) slots, 0)
    | .ctx c => ((s.ctx c).energy.energyUj, (s.ctx c).energy.tokens.toNat, (s.ctx c).stream.openStep)
  bvLe 8 d.at_ ++ bvLe 8 d.entry.target ++ natLe 8 (uj / 1000) ++ natLe 8 tokens ++ bvLe 8 step ++
    natLe 1 ((if 0 < d.lateness then 1 else 0) + (if s.mer.state = 2 then 2 else 0)) ++ zeros 23

/-- Open points: DESIGN CHOICE, log entry 34. -/
def actSample (s : State) (d : DueEntry) : State × U16 :=
  match d.ring with
  | .module => (s.modModRing (fun x => { x with sample := s.sampleRecord d }), St.ok)
  | .ctx c =>
    let a := (d.entry.arg 0).toNat
    (if s.allocated c a 64 then s.store c a (s.sampleRecord d) else s, St.ok)

def execSample (s : State) : Host.Outcome State Fault Refusal :=
  .next (s.actDue (fun d => d.entry.kind == 6) actSample)

/-! ### MARK and phase entries (R268, R214) -/

def actMark (s : State) (d : DueEntry) : State × U16 :=
  match d.ring with
  | .module => (s.raise { Event.blank with event := 0x800B, args := [d.entry.tag.setWidth 64] }, St.ok)
  | .ctx _ => (s, St.ok)

def execEphemerisMark (s : State) : Host.Outcome State Fault Refusal :=
  .next (s.actDue (fun d => d.entry.kind == 7 && !d.entry.isPhase) actMark)

/-- The phase record an entry writes over `old`. (open points: DEDUCED, log entry 36) -/
def phaseRecord (old : Bytes) (d : DueEntry) (seq : U64) : Bytes :=
  natLe 8 (Nat.max (field old 0 8) (d.entry.arg 1).toNat) ++ natLe 8 (Nat.max (field old 8 8) (d.entry.arg 2).toNat) ++
    bvLe 8 seq ++ bvLe 8 d.at_ ++ bvLe 8 d.entry.target ++ natLe 1 (if 0 < d.lateness then 1 else 0) ++ zeros 23

/-- Open points: DEDUCED, log entry 36. -/
def actPhase (s : State) (d : DueEntry) : State × U16 :=
  match d.ring with
  | .module => (s, St.ok)
  | .ctx c =>
    let s := s.modTrain c (fun t => { t with phaseSeq := t.phaseSeq + 1 })
    let t := (s.ctx c).train
    let a := t.inForce.phaseBase.toNat
    if a != 0 && s.allocated c a 64 then (s.store c a (phaseRecord (s.bytes c a 64) d t.phaseSeq), St.ok)
    else (s, St.ok)

def execPhaseEntry (s : State) : Host.Outcome State Fault Refusal :=
  .next (s.actDue (fun d => d.entry.isPhase) actPhase)

/-! ### Appending to the module ring (R266) -/

/-- A write of `module_entry`. -/
def State.appendModuleEntry (s : State) (b : Bytes) : State × U16 :=
  if 256 ≤ s.modRing.pending.length then (s, St.valueOutOfRange)
  else
    let n := s.modRing.next
    ((s.modModRing (fun x => { x with next := x.next + 1 })).arrive .module n (EphEntry.parse b), St.ok)

end Sys2Proof.Machine
end

