-- ==== Sys2Proof/Machine/Mover.lean ====
section
/-! DEFINITION. COPY, WAIT and MARK (R206, R208, R209, R234, R324). -/

namespace Sys2Proof.Machine

/-! ### COPY -/

/-- One plate copied within the module, its mark with it (R206, R234). -/
def State.copyPlate (s : State) (c : Slot) (src dst : Nat) : State :=
  let s := s.touch c src 64
  let b := s.bytes c src 64
  let bad := s.poisoned c src
  let s := s.meet c src
  let s := s.store c dst b
  if bad && !s.readOnly c dst then s.setPoison c dst else s

/-- Plates copied in ascending order, up to one in flash whose read fails every retry: that ends the operation
(R237). -/
def State.copyPlates (s : State) (o : OpCtx) (h : U32) (src dst n : Nat) : State :=
  let bad := (List.range n).find? (fun k => s.flashBad o.c (src + 64 * k))
  let s := (List.range (bad.getD n)).foldl (fun s k => s.copyPlate o.c (src + 64 * k) (dst + 64 * k)) s
  match bad with
  | none => s
  | some k => s.faultOp o St.pageUncorrectable h (src + 64 * k) []

/-- One WRITE packet of `m` plates from plate `k` on, cut short where a poisoned plate ends the operation (R234, R324).
(open points: DESIGN CHOICE, log entry 10) -/
def State.sendBatch (s : State) (o : OpCtx) (h : U32) (src dst k m : Nat) : State :=
  let a := src + 64 * k
  let clean := (List.range m).takeWhile (fun i => !s.poisoned o.c (a + 64 * i))
  let s := s.touch o.c a (64 * m)
  let s :=
    match (s.ctx o.c).apertureAt (dst + 64 * k), clean with
    | some (target, cx, remote), _ :: _ =>
      s.sendFor o.c o.n { Packet.blank with
        kind := 0x10, dest := target.setWidth 24, destContext := cx, address := BitVec.ofNat 64 remote
        data := clean.map (fun i => s.bytes o.c (a + 64 * i) 64) }
    | _, _ => s
  if clean.length < m then s.faultOp o St.pageUncorrectable h (a + 64 * clean.length) [] else s

/-- WRITE packets of up to 16 plates of one aperture page, from plate `k` of `n` on, until a poisoned plate or a packet
that finds no way ends the operation (R324, R330, R431). `fuel`: packets. -/
def State.sendPlates (s : State) (o : OpCtx) (h : U32) (src dst n : Nat) : Nat → Nat → State
  | 0, _ => s
  | fuel + 1, k =>
    if n ≤ k then s
    else
      let m := Nat.min (Nat.min 16 ((pageBytes - (dst + 64 * k) % pageBytes) / 64)) (n - k)
      let s := s.sendBatch o h src dst k m
      if s.faulted o then s else s.sendPlates o h src dst n fuel (k + m)

/-- The data movers do a COPY (R206, R324). (open points: DESIGN CHOICE, log entry 23) -/
def beginCopy (s : State) (o : OpRec) (oc : OpCtx) (vs : List (Nat × TView)) : State :=
  match o.desc, viewAt vs 16, viewAt vs 20 with
  | .copy d, some a, some b =>
    let n := d.count.toNat
    let src := a.base + d.srcOffset.toNat
    let dst := b.base + d.dstOffset.toNat
    if s.inAperture oc.c dst (64 * n) then s.sendPlates oc a.handle src dst n n 0
    else s.copyPlates oc a.handle src dst n
  | _, _, _ => s

def execCopy (c : Slot) (n : Nat) (s : State) : Host.Outcome State Fault Refusal :=
  .next (s.startOp c n (fun d => match d with | .copy _ => true | _ => false) 0 none beginCopy)

/-! ### WAIT -/

/-- A WAIT begins by waiting. -/
def beginWait (s : State) (_ : OpRec) (_ : OpCtx) (_ : List (Nat × TView)) : State := s

def isWaitOf (k : Nat → Bool) : Desc → Bool
  | .wait d => k d.wkind.toNat
  | _ => false

/-- WAIT DRAIN; a WKIND that is none is refused here (R208, R210). -/
def execWaitDrain (c : Slot) (n : Nat) (s : State) : Host.Outcome State Fault Refusal :=
  .next (s.startOp c n (isWaitOf (fun k => k == 0 || 3 < k)) 0 none beginWait)

def execWaitMeridian (c : Slot) (n : Nat) (s : State) : Host.Outcome State Fault Refusal :=
  .next (s.startOp c n (isWaitOf (fun k => k == 1)) 0 none beginWait)

def execWordGe (c : Slot) (n : Nat) (s : State) : Host.Outcome State Fault Refusal :=
  .next (s.startOp c n (isWaitOf (fun k => k == 2)) 0 none beginWait)

def execWordEq (c : Slot) (n : Nat) (s : State) : Host.Outcome State Fault Refusal :=
  .next (s.startOp c n (isWaitOf (fun k => k == 3)) 0 none beginWait)

/-- A running WAIT of the stream. -/
def State.waitOf (s : State) (c : Slot) (n : Nat) : Option (OpRec × WaitD × OpCtx) :=
  match s.op? c n with
  | none => none
  | some o =>
    match o.desc, o.run with
    | .wait d, some r => if o.st == .running then some (o, d, o.ctx c r.seed r.mode) else none
    | _, _ => none

/-- Ends a WAIT with a status that it met. (open points: DEDUCED, log entry 24) -/
def State.endWait (s : State) (c : Slot) (o : OpRec) (status : U16) : State := s.finishOp c o status true

/-- A wait for the Meridian ends: the module holds no count (R208, R262). (open points: DEDUCED, log entry 24) -/
def State.waitLost (s : State) (c : Slot) (o : OpRec) : State :=
  (s.endWait c o St.meridianLost).raiseStatus sevFault St.meridianLost
    { Event.blank with context := s.ctxId c, opId := o.hdr.opId, step := o.step }

/-- The WAIT is for the Meridian, and the module holds no count. -/
def WaitD.lost (d : WaitD) (s : State) : Bool := d.wkind == 1 && !s.mer.held

/-- Losing the Meridian ends every running wait for it (R208, R262). (open points: DEDUCED, log entry 24) -/
def State.loseWaits (s : State) : State :=
  slots.foldl (fun s c =>
    ((s.ctx c).stream.ops.filter (fun o => o.st == .running &&
      (match o.desc with | .wait d => d.lost s | _ => false))).foldl (fun s o => s.waitLost c o) s) s

/-- A WAIT is checked: it completes when its condition holds, with MERIDIAN_LOST while the module is
unsynchronised, and with PAGE_UNCORRECTABLE when its word is poisoned (R208, R234).
(open points: DEDUCED, log entry 24) -/
def execWaitSatisfied (c : Slot) (n : Nat) (s : State) : Host.Outcome State Fault Refusal :=
  match s.waitOf c n with
  | none => .next s
  | some (o, d, oc) =>
    let a := d.address.toNat
    match d.wkind.toNat with
    | 0 =>
      if ((s.ctx c).stream.ops.filter (fun e => e.n < n)).all OpRec.finished then .next (s.endWait c o St.ok)
      else .next s
    | 1 =>
      if !s.mer.held then
        .next (s.waitLost c o)
      else if d.value ≤ s.mer.count then .next (s.endWait c o St.ok)
      else .next s
    | k =>
      if s.flashWaits c a 8 then .next s
      else
      let s := s.touch c a 8
      if s.poisoned c a then .next ((s.faultOp oc St.pageUncorrectable 0 a []).endWait c o (s.badStatus c a))
      else
        let v : U64 := BitVec.ofNat 64 (s.num c a 8)
        if (k = 2 && d.value ≤ v) || (k = 3 && v = d.value) then .next (s.endWait c o St.ok) else .next s

/-- TIMEOUT elapses first, unless the Meridian is lost that it waits for (R208, R432). (open points: DEDUCED, log entry 24) -/
def execWaitTimeout (c : Slot) (n : Nat) (s : State) : Host.Outcome State Fault Refusal :=
  match s.waitOf c n with
  | none => .next s
  | some (o, d, _) =>
    if d.timeout = 0 then .next s
    else if d.lost s then .next (s.waitLost c o)
    else
      .next ((s.endWait c o St.eventMissed).raiseStatus sevNotice St.eventMissed
        { Event.blank with context := s.ctxId c, opId := o.hdr.opId, step := o.step })

/-! ### MARK -/

/-- The word at an address takes a new value, here or through the aperture; merging it into a poisoned plate
ends the operation (R209, R234, R324). -/
def beginMark (s : State) (o : OpRec) (oc : OpCtx) (_ : List (Nat × TView)) : State :=
  match o.desc with
  | .mark d =>
    let a := d.address.toNat
    let write := d.mflags.getLsbD 0
    if !(write || d.mflags.getLsbD 1) then s
    else
      match (s.ctx oc.c).apertureAt a with
      | some (target, cx, remote) =>
        let p : Packet := { Packet.blank with
          dest := target.setWidth 24, destContext := cx, address := BitVec.ofNat 64 remote }
        if write then s.sendFor oc.c oc.n { p with kind := 0x10, count := 8, data := [padTo 64 (bvLe 8 d.value)] }
        else s.sendFor oc.c oc.n { p with kind := 0x11, value := d.value }
      | none =>
        let s := s.touch oc.c a 8
        if s.poisoned oc.c a then s.faultOp oc St.pageUncorrectable 0 a []
        else
          let v : U64 := if write then d.value else BitVec.ofNat 64 (s.num oc.c a 8) + d.value
          s.store oc.c a (bvLe 8 v)
  | _ => s

def isMarkOf (f : U8 → Bool) : Desc → Bool
  | .mark d => f d.mflags
  | _ => false

/-- MARK with WRITE; WRITE with ADD is refused here (R209, R210). -/
def execMarkWrite (c : Slot) (n : Nat) (s : State) : Host.Outcome State Fault Refusal :=
  .next (s.startOp c n (isMarkOf (fun m => m.getLsbD 0)) 0 none beginMark)

def execMarkAdd (c : Slot) (n : Nat) (s : State) : Host.Outcome State Fault Refusal :=
  .next (s.startOp c n (isMarkOf (fun m => m.getLsbD 1 && !m.getLsbD 0)) 0 none beginMark)

/-- MARK that neither writes nor adds: with POST its completion is posted (R209). -/
def execMarkPost (c : Slot) (n : Nat) (s : State) : Host.Outcome State Fault Refusal :=
  .next (s.startOp c n (isMarkOf (fun m => !m.getLsbD 0 && !m.getLsbD 1)) 0 none beginMark)

end Sys2Proof.Machine
end

