-- ==== Sys2Proof/Machine/Meridian.lean ====
section
/-! DEFINITION. The Meridian's distribution and its states (R258 to R263, R318). -/

namespace Sys2Proof.Machine

/-! ### States (R261, R262) -/

def State.modMer (s : State) (f : Meridian → Meridian) : State := { s with mer := f s.mer }

/-- A transition. (open points: DEDUCED, log entry 37) -/
def Meridian.to (m : Meridian) (st : U8) : Meridian :=
  if m.state = st then m else { m with state := st, changes := m.changes + 1 }

/-- No root is heard. (open points: DEDUCED, log entry 37) -/
def Meridian.deaf (m : Meridian) : Meridian :=
  { m with heard := [], heardBefore := [], followed := none, domain := none, root := 0xFFFFFFFF }

/-- The status of a transition goes to every slot's ring that holds a context; the module ring has it with
the record (R262, R305). -/
def State.noticeSlots (s : State) (status : U16) (seq : U64) : State :=
  s.ringSlots.foldl (fun s c => s.postCtx c
    { late := false, kind := 5, status := status, tag := 0, opId := 0, context := s.ctxId c, ekind := 0,
      count := s.meridianField, arg := seq }) s

/-- No beacon any more: the local oscillator carries on (R261, R262). -/
def State.enterHoldover (s : State) : State :=
  let s := s.modMer (fun m => { m.deaf.to 2 with holdover := 0 })
  let seq := s.log.nextSeq
  (s.raiseStatus sevNotice St.meridianHoldover Event.blank).noticeSlots St.meridianHoldover seq

/-- The count is lost, and waits for it end (R208, R261, R262). -/
def State.enterLost (s : State) : State :=
  let s := s.modMer (fun m => { m.deaf.to 3 with holdover := 200000 })
  let seq := s.log.nextSeq
  ((s.raiseStatus sevFault St.meridianLost Event.blank).noticeSlots St.meridianLost seq).loseWaits

/-! ### Beacons (R258, R260, R318) -/

/-- ROOT of the host adapter, above every die address. -/
def hostRoot : U32 := 0x00100000

/-- HOPS above 63 are dropped, and code 7 is reserved. -/
def beaconValid (b : Beacon) : Bool := b.hops ≤ 63 && b.tickCode != 7

/-- Least HOPS first, then the lowest port; the host link counts as the last one.
(open points: DEDUCED, log entry 37) -/
def beaconRank (b : Beacon) : Nat := 64 * b.hops.toNat + (match b.port with | some p => p.val | none => 32)

/-- The lowest root heard (R260). -/
def lowestRoot : List Beacon → Option U32
  | [] => none
  | b :: rest =>
    match lowestRoot rest with
    | none => some b.root
    | some r => some (if b.root < r then b.root else r)

/-- The beacon a follower uses: the best of its root's. (open points: DEDUCED, log entry 37) -/
def bestBeacon (root : U32) : List Beacon → Option Beacon
  | [] => none
  | b :: rest =>
    let m := bestBeacon root rest
    if b.root != root then m
    else match m with
      | none => some b
      | some x => if beaconRank b ≤ beaconRank x then some b else some x

/-- The root's count now: its boundary lies the age of the beacon and the delay of its link back (R318). -/
def beaconCount (b : Beacon) (delayNs : U32) : U64 :=
  b.count + BitVec.ofNat 64 ((b.agePs.toNat + 1000 * delayNs.toNat) / (250000 * 2 ^ b.tickCode.toNat))

/-- Two roots are heard: one fault for each pair (R260). (open points: DEDUCED, log entry 37) -/
def State.noteRoots (s : State) (root : U32) : State :=
  match (s.mer.heard ++ s.mer.heardBefore).find? (fun b => b.root != root) with
  | none => s
  | some b =>
    if s.mer.twoRoots = some (root, b.root) then s
    else
      (s.modMer (fun m => { m with twoRoots := some (root, b.root) })).raise
        { Event.blank with severity := sevFault, event := 0x8008, args := [root.setWidth 64, b.root.setWidth 64] }

/-- The beacon goes on to the other ports with one hop more. -/
def State.forwardBeacon (s : State) (b : Beacon) : State :=
  (s.upPorts.filter (fun n => match b.port with | some p => p.val != n | none => true)).foldl
    (fun s n => s.sendBeacon n { b with hops := b.hops + 1 }) s

/-- The beacon used: its root, code and boundary are taken over, and it is forwarded.
(open points: DEDUCED, log entry 37) -/
def State.useBeacon (s : State) (b : Beacon) : State :=
  let delay := match b.port with | some p => (s.port p.val).delayNs | none => 0
  let s := s.modMer (fun m => { m with
    followed := some b, tickCode := b.tickCode.setWidth 8, domain := some (beaconCount b delay),
    root := if b.root = hostRoot then 0xFFFFFFFF else b.root })
  s.forwardBeacon b

/-- A follower listens to its fabric ports, and to the host link only in role 2 (R259). -/
def State.listens (s : State) (b : Beacon) : Bool :=
  s.mer.role != 1 && (b.port.isSome || s.mer.role == 2) && beaconValid b

/-- The beacon names a port the SKU lacks. -/
def State.noSuchPort (s : State) (b : Beacon) : Bool :=
  match b.port with
  | some p => s.sku.ports ≤ p.val
  | none => false

def execBeaconReceive (b : Beacon) (s : State) : Host.Outcome State Fault Refusal :=
  let s := { s with fab := { s.fab with beacons := s.fab.beacons.erase b } }
  if s.noSuchPort b then .fault .noSuchUnit
  else if !s.listens b then .next s
  else
    let s := s.modMer (fun m => { m with heard := m.heard ++ [b] })
    match lowestRoot (s.mer.heard ++ s.mer.heardBefore) with
    | none => .next s
    | some root =>
      let s := s.noteRoots root
      if bestBeacon root s.mer.heard == some b then .next (s.useBeacon b) else .next s

def execBeaconTimeout (s : State) : Host.Outcome State Fault Refusal :=
  if s.mer.role != 1 && s.mer.state == 1 && s.mer.silent then .next s.enterHoldover else .next s

def execHoldoverExpiry (s : State) : Host.Outcome State Fault Refusal :=
  if s.mer.role != 1 && s.mer.state == 2 then .next s.enterLost else .next s

def execLostBeaconReturn (s : State) : Host.Outcome State Fault Refusal :=
  if s.mer.role != 1 && s.mer.state == 3 && s.mer.followed.isSome then .next (s.modMer (fun m => m.to 0))
  else .next s

/-- A root's new tick code takes effect at a multiple of 65,536 (R258). -/
def execTickCodeChange (s : State) : Host.Outcome State Fault Refusal :=
  match s.mer.nextCode with
  | none => .next s
  | some k =>
    if s.mer.role = 1 && s.mer.count.toNat % 65536 = 0 then
      .next (s.modMer (fun m => { m with tickCode := k, nextCode := none }))
    else .next s

/-- MERIDIAN_RESYNC: the return to SYNCHRONISED, with :07 and :05 (R262). -/
def State.raiseResync (s : State) : State :=
  s.raise { Event.blank with
    event := 0x8007, args := [s.mer.lastCorrection.setWidth 64, BitVec.ofNat 64 (s.mer.holdover / 4)] }

/-! ### Writes of the Meridian's entries (R258, R259, R261) -/

/-- `meridian_role`: a root is SYNCHRONISED; a module that was root begins to acquire. `start`: the count
begins at `meridian_start`, as it does for a module that has not been SYNCHRONISED since bring-up, unless it has passed
that already, since it never decreases (R257). One that was SYNCHRONISED before and is not returns to it with an info
record (R262). (open points: DEDUCED, log entry 37) -/
def State.setRole (s : State) (role : U8) (start : Bool) : State :=
  let old := s.mer
  let s := s.modMer (fun m => { m with
    role := role
    nextCode := if role = 1 then m.nextCode else none
    laterCode := if role = 1 then m.laterCode else none })
  if role = 1 then
    let s := s.modMer (fun m => { m.deaf.to 1 with wasSync := true, root := s.rootAddress,
                                                   count := if start && m.count < m.start then m.start else m.count })
    if old.wasSync && old.state != 1 then s.raiseResync else s
  else if old.role = 1 then (s.modMer (fun m => m.deaf.to 0)).loseWaits
  else s

end Sys2Proof.Machine
end

