-- ==== Sys2Proof/Machine/Ledger.lean ====
section
/-! DEFINITION. The stash ledger at a step close, and the training tables (R213, R215, R217, R245). -/

namespace Sys2Proof.Machine

/-- A ring record as software left it (R215). -/
structure RingRec where
  idx : Nat
  first : U32
  depth : U8
  reads : U8
  valid : Bool
  reset : Bool
  deriving DecidableEq, Repr

/-- Open points: DEDUCED, log entry 41. -/
def RingRec.parse (idx : Nat) (b : Bytes) : RingRec :=
  { idx := idx, first := fieldBv 32 b 0 4, depth := fieldBv 8 b 4 1, reads := fieldBv 8 b 5 1,
    valid := (field b 6 1) % 2 = 1, reset := (field b 6 1) / 2 % 2 = 1 }

def RingRec.lo (r : RingRec) : Nat := r.first.toNat
def RingRec.hi (r : RingRec) : Nat := r.first.toNat + r.depth.toNat

/-- An index has a VALID tensor table entry. -/
def State.hasEntry (s : State) (c : Slot) (i : Nat) : Bool :=
  let st := (s.ctx c).stream
  i != 0 && i < st.tblEntries.toNat && st.tblBase != 0 && (s.entryAt c i).valid

/-- DEPTH, READS, overlap and entries (R215). -/
def State.ringOk (s : State) (c : Slot) (all : List RingRec) (r : RingRec) : Bool :=
  1 ≤ r.depth.toNat && r.depth.toNat ≤ 64 && 1 ≤ r.reads.toNat && r.reads.toNat ≤ 15 &&
    !(all.any (fun q => q.idx != r.idx && q.lo < r.hi && r.lo < q.hi)) &&
    (List.range r.depth.toNat).all (fun k => s.hasEntry c (r.lo + k))

/-- A ring as first registered: every slot empty. -/
def StashRing.fresh (r : RingRec) : StashRing :=
  { idx := r.idx, first := r.first, depth := r.depth, reads := r.reads, fills := 0, consumed := 0,
    highWater := 0, status := St.ok, readsLeft := List.replicate 64 0, started := List.replicate 64 0 }

def StashRing.emptied (r : StashRing) : StashRing := { r with readsLeft := List.replicate 64 0 }

/-- A ring that stays as it was registered, or registers (R215). (open points: DEDUCED, log entry 41) -/
def CtxTrain.register (t : CtxTrain) (r : RingRec) : StashRing :=
  match t.ring r.idx with
  | some q =>
    if q.inForce && q.first == r.first && q.depth == r.depth && q.reads == r.reads then
      (if r.reset then q.emptied else q)
    else StashRing.fresh r
  | none => StashRing.fresh r

/-- Pages of the tensors of a ring's slots, in both their forms (R217). -/
def State.ringPages (s : State) (c : Slot) (r : RingRec) : List Nat :=
  ((List.range r.depth.toNat).flatMap (fun k =>
    let e := s.entryAt c (r.lo + k)
    pagesOf e.base (64 * e.bound) ++ (if e.baseWide = 0 then [] else pagesOf e.baseWide (64 * e.boundWide)))).dedup.filter
      (fun p => ((s.ctx c).page p).isSome)

/-- A page with the ledger's pin, or without it (R217, R240). -/
def Page.pin (g : Page) (on : Bool) : Page :=
  { g with ledgerPin := if on then some (g.ledgerPin.getD g.cls) else none }

/-- Pins without the moves they call for, for the admission test of R245. -/
def State.pinned (s : State) (c : Slot) (ps : List Nat) : State :=
  s.modCtx c (fun x => ps.foldl (fun x p => x.modPage p (fun g => g.pin true)) x)

/-- Rings admitted one after another: with the pages pinned so far, the rings with their STATUS. -/
structure Admit where
  s : State
  pages : List Nat
  rings : List StashRing
  deriving DecidableEq, Repr

/-- A ring whose pins are admitted enters force as `q`; one whose pins are not has POOL_EXHAUSTED in its STATUS (R245). -/
def Admit.pin (c : Slot) (a : Admit) (r : RingRec) (q : StashRing) : Admit :=
  let ps := a.s.ringPages c r
  let s' := a.s.pinned c ps
  if !s'.pinsOk then { a with rings := a.rings ++ [{ StashRing.fresh r with status := St.poolExhausted }] }
  else { s := s', pages := (a.pages ++ ps).dedup, rings := a.rings ++ [q] }

def Admit.step (c : Slot) (t : CtxTrain) (all : List RingRec) (a : Admit) (r : RingRec) : Admit :=
  if !a.s.ringOk c all r then
    { a with rings := a.rings ++ [{ StashRing.fresh r with status := St.valueOutOfRange }] }
  else a.pin c r (t.register r)

/-- The rings that stand first, so that they stay in force. -/
def CtxTrain.standing (t : CtxTrain) (r : RingRec) : Nat :=
  match t.ring r.idx with
  | some q => if q.inForce then 0 else 1
  | none => 1

/-- The ledger's pins follow the rings in force; a page whose pin changes may have to move (R217, R240).
(open points: DEDUCED, log entry 41) -/
def State.movePins (s : State) (c : Slot) (ps : List Nat) : State :=
  ((s.ctx c).pool.pages.map (·.1)).foldl (fun s p =>
    match (s.ctx c).page p with
    | none => s
    | some g =>
      let on := ps.contains p
      if g.ledgerPin.isSome == on then s else s.reclass c p (fun g => g.pin on)) s

/-- A ring record's RO fields, and RESET cleared (R215). -/
def State.writeRing (s : State) (c : Slot) (r : StashRing) (rec_ : RingRec) : State :=
  let a := (s.ctx c).train.inForce.ledgerBase.toNat + 64 * r.idx
  let s := s.stashWrite c r
  if rec_.reset then
    let b := field (s.bytes c (a + 6) 1) 0 1
    s.store c (a + 6) (natLe 1 (b - 2 * (b / 2 % 2)))
  else s

/-- The admission of rings begins with no page pinned by the ledger. -/
def State.unpinned (s : State) (c : Slot) : Admit :=
  { s := s.modCtx c (fun x => { x with pool := { x.pool with pages := x.pool.pages.map (fun p => (p.1, p.2.pin false)) } })
    pages := [], rings := [] }

/-- Stash rings are registered, re-registered, emptied or dropped (R215, R217). (open points: DEDUCED, log entry 41) -/
def State.closeLedger (s : State) (c : Slot) : State :=
  let t := (s.ctx c).train
  let n := if t.inForce.ledgerBase = 0 then 0 else t.inForce.rings.toNat
  let recs := (List.range n).map (fun r => RingRec.parse r (s.bytes c (t.inForce.ledgerBase.toNat + 64 * r) 64))
  let valid := recs.filter (·.valid)
  let a := (sortBy (fun r => 512 * t.standing r + r.idx) valid).foldl (Admit.step c t valid) (s.unpinned c)
  let s := s.modTrain c (fun t => { t with rings := sortBy (fun r => r.idx) a.rings })
  let s := s.movePins c a.pages
  valid.foldl (fun s r =>
    match (s.ctx c).train.ring r.idx with
    | some q => s.writeRing c q r
    | none => s) s

/-! ### Tables of 0x6150 (R213) -/

/-- A table that lies partly outside the range is ignored until the next close, with a notice.
(open points: DEDUCED, log entry 39) -/
def State.tableCheck (s : State) (c : Slot) (base bytes : Nat) : State × Bool :=
  if base = 0 || bytes = 0 || s.allocated c base bytes then (s, true)
  else
    (s.raiseStatus sevNotice St.beyondBound
      { Event.blank with context := s.ctxId c, address := BitVec.ofNat 64 base }, false)

/-- Pages allocated inside a slot tensor of a ring in force are pinned from their first moment (R217), where R245
admits the pins; the rest wait for the next close. (open points: DEDUCED, log entry 41) -/
def State.pinNew (s : State) (c : Slot) : State :=
  let ps := ((s.ctx c).train.rings.filter (·.inForce)).flatMap (fun r => s.ringPages c
    { idx := r.idx, first := r.first, depth := r.depth, reads := r.reads, valid := true, reset := false })
  let s' := s.pinned c ps
  if s'.pinsOk then s' else s

/-- 0x6150+c:01 to :07 take effect, and the manifest's place is checked with the other tables' (R213). -/
def State.newTraining (s : State) (c : Slot) : State :=
  let w := (s.ctx c).train.set
  let (s, p) := s.tableCheck c w.phaseBase.toNat 64
  let (s, l) := s.tableCheck c w.ledgerBase.toNat (64 * w.rings.toNat)
  let (s, j) := s.tableCheck c w.journalBase.toNat (w.depth.toNat * w.entryBytes.toNat)
  let t := (s.ctx c).train
  let (s, _) := s.tableCheck c t.manifestBase.toNat (4 * t.manifestCount.toNat)
  s.modTrain c (fun t => { t with inForce :=
    { w with phaseBase := if p then w.phaseBase else 0, ledgerBase := if l then w.ledgerBase else 0,
             rings := if l then w.rings else 0, journalBase := if j then w.journalBase else 0 } })

/-- 0x6150+c:04: 64 × BOUND over the tensors of full slots (R213). -/
def State.stashHeld (s : State) (c : Slot) : Nat :=
  sumNat (fun (r : StashRing) => if r.inForce then
      sumNat (fun k => if natAt r.readsLeft k = 0 then 0
        else 64 * (s.entryAt c (r.first.toNat + k)).bound) (List.range r.depth.toNat)
    else 0) (s.ctx c).train.rings

end Sys2Proof.Machine
end

