-- ==== Sys2Proof/Machine/Numerics.lean ====
section
/-! DEFINITION. The numerics table at a step close: registration, history, promotion, demotion and scales
(R92 to R115, R252). -/

namespace Sys2Proof.Machine

/-! ### Records in memory (R93, R94) -/

/-- A tensor record as at a first registration, with step fields clear. -/
def TRec.ofBytes (b : Bytes) : TRec :=
  { handle := fieldBv 32 b 0 4, layer := fieldBv 16 b 4 2, fmtW := BitVec.ofNat 3 (field b 6 1 / 16),
    fmtR := fieldBv 3 b 6 1, flags := fieldBv 8 b 7 1 &&& 0xFE, histLen := fieldBv 8 b 8 1,
    headroom := fieldBv 8 b 9 1, histFill := 0, histPos := 0, genW := fieldBv 16 b 12 2,
    genR := fieldBv 16 b 14 2, scaleW := fieldBv 32 b 16 4, scaleR := fieldBv 32 b 20 4, stepMax := 0,
    stepFlags := 0, cleanSteps := 0, crush := fieldBv 32 b 32 4, sideCap := fieldBv 16 b 36 2, status := St.ok,
    sideBase := fieldBv 64 b 40 8, elements := 0, overflows := 0, s8Sat := 0, lostBlocks := 0, sideUsed := 0,
    crushed := 0, sideOvf := 0, blinkDiv := 0, history := List.replicate 16 0, effHist := 0,
    pendingDy := false, grantBytes := 0, grantPages := [], demoting := false, fullLogged := false }

/-- The RW fields of a registered record as read at a close (R96). -/
def TRec.refresh (r : TRec) (b : Bytes) : TRec :=
  let n := TRec.ofBytes b
  { r with handle := n.handle, layer := n.layer, flags := n.flags ||| (r.flags &&& 1), histLen := n.histLen,
           headroom := n.headroom, crush := n.crush, sideCap := n.sideCap, sideBase := n.sideBase }

/-- The record over its bytes as read: the RO fields take the device's values (R93, R99 step 7). -/
def TRec.write (r : TRec) (b : Bytes) : Bytes :=
  let b := patch b 6 (natLe 1 (16 * r.fmtW.toNat + r.fmtR.toNat) ++ bvLe 1 r.flags)
  let b := patch b 10 (bvLe 1 r.histFill ++ bvLe 1 r.histPos ++ bvLe 2 r.genW ++ bvLe 2 r.genR ++
    bvLe 4 r.scaleW ++ bvLe 4 r.scaleR ++ bvLe 4 r.stepMax ++ bvLe 1 r.stepFlags)
  let b := patch b 30 (bvLe 2 r.cleanSteps)
  let b := patch b 38 (bvLe 2 r.status)
  let b := patch b 48 (bvLe 4 r.elements ++ bvLe 4 r.overflows ++ bvLe 4 r.s8Sat ++ bvLe 4 r.lostBlocks ++
    bvLe 4 r.sideUsed ++ bvLe 4 r.crushed ++ bvLe 4 r.sideOvf ++ bvLe 4 r.blinkDiv)
  patch b 96 (r.history.flatMap (bvLe 2))

/-- The step fields cleared (R99 step 7). -/
def TRec.cleared (r : TRec) : TRec :=
  { r with stepMax := 0, stepFlags := 0, elements := 0, overflows := 0, s8Sat := 0, lostBlocks := 0,
           sideUsed := 0, crushed := 0, sideOvf := 0, blinkDiv := 0, fullLogged := false }

def LRec.ofBytes (b : Bytes) : LRec :=
  { rank := fieldBv 16 b 0 2, lflags := fieldBv 8 b 2 1, wRec := fieldBv 16 b 4 2, xRec := fieldBv 16 b 6 2,
    dyRec := fieldBv 16 b 8 2, demoteSteps := fieldBv 16 b 10 2, thOverflow := fieldBv 32 b 12 4,
    thCrush := fieldBv 16 b 16 2, thSideOvf := fieldBv 16 b 18 2, thBlink := fieldBv 16 b 20 2,
    lastCost := fieldBv 64 b 24 8 }

def LRec.enabled (l : LRec) : Bool := l.lflags.getLsbD 0 && !l.lflags.getLsbD 1

def TRec.written (r : TRec) : Bool := r.stepFlags.getLsbD 0
def TRec.infSeen (r : TRec) : Bool := r.stepFlags.getLsbD 1

/-- Effective H (R99). -/
def CtxNum.histOf (x : CtxNum) (r : TRec) : U8 := if r.histLen = 0 then x.inForce.history else r.histLen

/-! ### The table (R92) -/

def NumSet.tensors (n : NumSet) : Nat := n.tblCounts.toNat % 65536
def NumSet.layers (n : NumSet) : Nat := n.tblCounts.toNat / 65536
def NumSet.bytes (n : NumSet) : Nat := 128 * n.tensors + 64 * n.layers
def NumSet.recAddr (n : NumSet) (i : Nat) : Nat := n.tblBase.toNat + 128 * i
def NumSet.layerAddr (n : NumSet) (j : Nat) : Nat := n.tblBase.toNat + 128 * n.tensors + 64 * j

def CtxNum.modRec (x : CtxNum) (i : Nat) (f : TRec → TRec) : CtxNum :=
  { x with recs := x.recs.map (fun p => if p.1 == i then (p.1, f p.2) else p) }

/-- The budget bytes and pages of a record's promotion return (R115, R252). -/
def State.releaseRec (s : State) (c : Slot) (i : Nat) : State :=
  match kvGet (s.ctx c).num.recs i with
  | none => s
  | some r =>
    let s := s.freePages c (r.grantPages.filter (fun p => ((s.ctx c).page p).isSome))
    s.modNum c (fun x =>
      { x.modRec i (fun r => { r with flags := r.flags &&& 0xFE, cleanSteps := 0, grantBytes := 0,
                                      grantPages := [], pendingDy := false, demoting := false }) with
        inUse := x.inUse - r.grantBytes })

/-- PROMOTED and CLEAN_STEPS of a record of the table are cleared, where its page is still allocated (R95). -/
def State.clearPromoted (s : State) (c : Slot) (i : Nat) : State :=
  let a := (s.ctx c).num.inForce.recAddr i
  let b := s.bytes c a 128
  if !s.allocated c a 128 then s
  else (s.store c (a + 7) (natLe 1 (field b 7 1 / 2 * 2))).store c (a + 30) (zeros 2)

/-- A record is no longer tracked: its promotion is released, PROMOTED and CLEAN_STEPS of the table's record
clear, and the device writes none of its fields from then on (R95). -/
def State.dropRec (s : State) (c : Slot) (i : Nat) : State :=
  ((s.releaseRec c i).clearPromoted c i).modNum c (fun x => { x with recs := kvErase x.recs i })

def State.dropAllRecs (s : State) (c : Slot) : State :=
  ((s.ctx c).num.recs.map (·.1)).foldl (fun s i => s.dropRec c i) s

/-- All promotions are released, and nothing of the table is written (R92, R115). -/
def State.releaseAll (s : State) (c : Slot) : State :=
  ((s.ctx c).num.recs.map (·.1)).foldl (fun s i => s.releaseRec c i) s

/-- STATUS of a record that is not tracked (R95). -/
def State.recStatus (s : State) (c : Slot) (i : Nat) (st : U16) : State :=
  s.store c ((s.ctx c).num.inForce.recAddr i + 38) (bvLe 2 st)

/-- CRUSH_RATIO: +0.0, or 2.0 to 65,536 (R93). -/
def crushOk (x : F32) : Bool := x == 0 || (leF 0x40000000 x && leF x 0x47800000)

/-- The checks of a record that holds TRACK = 1, in order (R95). FORMAT is checked before registration. The
range of a side list is the 2^48 bytes of R239, and NO_SIDE = 1 does not exempt it (DEDUCED, log entry 39). -/
def State.checkRec (s : State) (c : Slot) (b : Bytes) (registered : Bool) : U16 :=
  let x := (s.ctx c).num
  let r := TRec.ofBytes b
  let e := s.entryAt c (handleIdx r.handle)
  let st := (s.ctx c).stream
  let found := handleIdx r.handle != 0 && handleIdx r.handle < st.tblEntries.toNat && st.tblBase != 0 && e.usable
  if r.sideBase.toNat % 64 != 0 then St.misaligned
  else if x.inForce.layers ≤ r.layer.toNat || 16 < r.histLen.toNat || 1024 < r.sideCap.toNat ||
      !crushOk r.crush || (!registered && (3 < r.fmtW.toNat || 3 < r.fmtR.toNat)) then St.valueOutOfRange
  else if !inRange r.sideBase.toNat
      (if found then 8 * x.sideCap r * ceilDiv e.rows 128 * ceilDiv e.cols 128 else 0) then
    St.beyondBound
  else if !found then St.beyondBound
  else if e.gen != handleGen r.handle then St.staleGeneration
  else St.ok

/-- A first registration (R95). -/
def CtxNum.register (x : CtxNum) (i : Nat) (b : Bytes) : CtxNum :=
  let r := TRec.ofBytes b
  let sc : F32 := if r.grad then x.inForce.gradScale else 0x3F800000
  let r := if r.scaleW = 0 then { r with scaleW := sc, scaleR := sc } else r
  { x with recs := kvSet x.recs i { r with effHist := x.histOf r } }

/-- One record of the table is read (R95, R96). -/
def State.loadRec (s : State) (c : Slot) (i : Nat) : State :=
  let b := s.bytes c ((s.ctx c).num.inForce.recAddr i) 128
  let held := (kvGet (s.ctx c).num.recs i).isSome
  if (field b 7 1) / 128 = 0 then (if held then (s.dropRec c i).recStatus c i St.ok else s)
  else
    let st := s.checkRec c b held
    if st != St.ok then (if held then s.dropRec c i else s).recStatus c i st
    else if held then s.modNum c (fun x => x.modRec i (fun r => r.refresh b))
    else s.modNum c (fun x => x.register i b)

/-- The layer records as read. -/
def State.loadLayers (s : State) (c : Slot) : State :=
  let n := (s.ctx c).num.inForce
  s.modNum c (fun x => { x with layers := (List.range n.layers).map (fun j =>
    (j, LRec.ofBytes (s.bytes c (n.layerAddr j) 64))) })

/-- The settings written take effect; a new table takes nothing over, and nothing more is written to the old one
(R92). (open points: DEDUCED, log entry 39) -/
def State.newSettings (s : State) (c : Slot) : State :=
  let x := (s.ctx c).num
  if x.set.tblBase == x.inForce.tblBase && x.set.tblCounts == x.inForce.tblCounts then
    s.modNum c (fun x => { x with inForce := x.set })
  else
    (s.releaseAll c).modNum c (fun x =>
      { x with inForce := x.set, inUse := 0, recs := [], layers := [], layerWatch := [] })

/-- The table is read: registration, and the layers. Nothing is tracked while it is not in the range of 2^48 bytes (R92,
R239), which a notice says, nor while a page of it is not allocated, which none does.
(open points: DEDUCED, log entry 39) -/
def State.loadTable (s : State) (c : Slot) : State :=
  let n := (s.ctx c).num.inForce
  if n.tblBase = 0 then s
  else if !s.allocated c n.tblBase.toNat (Nat.max 1 n.bytes) then
    let s := (s.dropAllRecs c).modNum c (fun x => { x with layers := [] })
    if inRange n.tblBase.toNat n.bytes then s
    else s.raiseStatus sevNotice St.beyondBound { Event.blank with context := s.ctxId c, address := n.tblBase }
  else (List.range n.tensors).foldl (fun s i => s.loadRec c i) (s.loadLayers c)

/-! ### Fold and shift (R99 steps 1 and 2) -/

/-- The read side of a CARRIED record follows the write side. -/
def TRec.shift (r : TRec) : TRec :=
  if r.carried then { r with fmtR := r.fmtW, scaleR := r.scaleW, genR := r.genW } else r

/-- Steps 1 and 2 for one record. A record registers before them, and step 2 moves values 'that held during
step t': a record that registers at this close keeps the read side software gave it (DEDUCED, log entry 39).
`old`: it was tracked during the step. -/
def CtxNum.fold1 (x : CtxNum) (old : Bool) (r : TRec) : TRec :=
  let h := x.histOf r
  let r := if r.effHist = h then r
    else { r with effHist := h, history := List.replicate 16 0, histFill := 0, histPos := 0 }
  let r := if r.written then
      { r with history := r.history.set r.histPos.toNat (BitVec.ofNat 16 (bf16Up r.stepMax))
               histPos := BitVec.ofNat 8 ((r.histPos.toNat + 1) % h.toNat)
               histFill := BitVec.ofNat 8 (Nat.min (r.histFill.toNat + 1) h.toNat) }
    else r
  if old then r.shift else r

def CtxNum.mapRecs (x : CtxNum) (f : TRec → TRec) : CtxNum :=
  { x with recs := x.recs.map (fun p => (p.1, f p.2)) }

/-! ### Demotion (R99 step 3, R115) -/

/-- The narrow format of a pair. -/
def narrowOf (f : BitVec 3) : BitVec 3 := f &&& 2
def wideOf (f : BitVec 3) : BitVec 3 := f ||| 1

/-- Records that a gradient in B8, or pending, keeps wide. A DY_REC that is not tracked keeps none (DEDUCED, log
entry 39). -/
def CtxNum.heldWide (x : CtxNum) : List Nat :=
  x.layers.flatMap (fun l =>
    match kvGet x.recs l.2.dyRec.toNat with
    | some d => if d.fmtW == 3 || d.pendingDy then [l.2.wRec.toNat, l.2.xRec.toNat] else []
    | none => [])

/-- Clean closes that demote a record. -/
def CtxNum.demoteAfter (x : CtxNum) (r : TRec) : Nat :=
  match kvGet x.layers r.layer.toNat with
  | some l => if l.demoteSteps = 0 then x.inForce.cleanSteps.toNat else l.demoteSteps.toNat
  | none => x.inForce.cleanSteps.toNat

/-- One record at step 3: a demoted CARRIED record whose reads have turned narrow is released; a clean one
demotes. -/
def State.demote1 (s : State) (c : Slot) (wide : List Nat) (i : Nat) : State :=
  match kvGet (s.ctx c).num.recs i with
  | none => s
  | some r =>
    if r.demoting && !wideCode r.fmtR then s.releaseRec c i
    else if !r.promoted || r.demoting || wide.contains i ||
        r.cleanSteps.toNat < (s.ctx c).num.demoteAfter r then s
    else if r.pendingDy then s.releaseRec c i
    else if r.carried then
      s.modNum c (fun x => x.modRec i (fun r => { r with fmtW := narrowOf r.fmtW, demoting := true }))
    else
      (s.modNum c (fun x => x.modRec i (fun r =>
        { r with fmtW := narrowOf r.fmtW, fmtR := narrowOf r.fmtW }))).releaseRec c i

/-! ### Triggers (R99 step 4, R109, R145) -/

/-- Some threshold of a layer is reached. `mode`: of the step closed. -/
def LRec.reached (l : LRec) (r : TRec) (mode : U8) : Bool :=
  let th := fun (v off dflt : Nat) => if v = off then none else some (if v = 0 then dflt else v)
  let at_ := fun (t : Option Nat) (v : Nat) => match t with | some t => t ≤ v | none => false
  at_ (th l.thOverflow.toNat 0xFFFFFFFF 64) (r.overflows.toNat + r.s8Sat.toNat) ||
  (match th l.thCrush.toNat 0xFFFF 64 with
   | some t => r.elements != 0 && t * r.elements.toNat ≤ r.crushed.toNat * 65536
   | none => false) ||
  at_ (th l.thSideOvf.toNat 0xFFFF 16) r.sideOvf.toNat ||
  (mode != 0 && at_ (th l.thBlink.toNat 0xFFFF 1) r.blinkDiv.toNat)

def CtxNum.hits (x : CtxNum) (r : TRec) (mode : U8) : Bool :=
  match kvGet x.layers r.layer.toNat with
  | some l => l.enabled && l.reached r mode
  | none => false

/-- A record triggers (R109, R194); `wideBase`: BASE_WIDE of its entry. -/
def CtxNum.triggers (x : CtxNum) (r : TRec) (mode : U8) (wideBase : Nat) : Bool :=
  !r.promoted && r.fmtW == (if r.grad then 2 else 0) && wideBase != 0 && x.hits r mode

/-- Clean closes of promoted records (R109). (open points: DEDUCED, log entry 39) -/
def CtxNum.countClean (x : CtxNum) (mode : U8) : CtxNum :=
  x.mapRecs (fun r => if r.promoted then
      { r with cleanSteps := if x.hits r mode then 0
          else BitVec.ofNat 16 (Nat.min (r.cleanSteps.toNat + 1) 0xFFFF) }
    else r)

/-! ### Requests and grants (R110 to R114, R252) -/

/-- Extra bytes of the wide form of a record; none while its promotion is still held.
(open points: DESIGN CHOICE, log entry 40) -/
def State.extraBytes (s : State) (c : Slot) (r : TRec) : Nat :=
  if r.promoted then 0
  else
    let e := s.entryAt c (handleIdx r.handle)
    let n := (Fmt.ofCode (narrowOf r.fmtW).toNat).getD .f4
    let w := (Fmt.ofCode (wideOf r.fmtW).toNat).getD .f8
    e.rows * 64 * (w.platesPerRow e.cols - n.platesPerRow e.cols)

/-- A layer's request: rank, layer, records. -/
structure Req where
  rank : Nat
  layer : Nat
  recs : List Nat
  deriving DecidableEq, Repr

/-- The records of layer `j`'s request (R110). (open points: DEDUCED, log entry 39) -/
def CtxNum.requestOf (x : CtxNum) (trig : List Nat) (j : Nat) (l : LRec) : List Nat :=
  let own := [l.wRec.toNat, l.xRec.toNat, l.dyRec.toNat].filter (fun i =>
    trig.contains i && (match kvGet x.recs i with | some r => r.layer.toNat == j | none => false))
  let more := if own.contains l.dyRec.toNat then
      [l.wRec.toNat, l.xRec.toNat].filter (fun i =>
        match kvGet x.recs i with | some r => r.fmtW == 0 | none => false)
    else []
  (own ++ more).dedup

/-- Bytes a request costs now. (open points: DEDUCED, log entry 39) -/
def State.costOf (s : State) (c : Slot) (is : List Nat) : Nat :=
  sumNat (fun i => match kvGet (s.ctx c).num.recs i with | some r => s.extraBytes c r | none => 0) is

/-- `pool_reserve` of a request: every record's wide form, or nothing. -/
def State.reserveAll (s : State) (c : Slot) : List Nat → State × Except U16 (List (Nat × List Nat))
  | [] => (s, .ok [])
  | i :: rest =>
    match kvGet (s.ctx c).num.recs i with
    | none => s.reserveAll c rest
    | some r =>
      let e := s.entryAt c (handleIdx r.handle)
      match (if r.promoted then (s, Except.ok []) else s.poolReserve c e.baseWide e.boundWide) with
      | (_, .error st) => (s, .error st)
      | (s', .ok ps) =>
        match s'.reserveAll c rest with
        | (_, .error st) => (s, .error st)
        | (s'', .ok l) => (s'', .ok ((i, ps) :: l))

/-- A granted record (R114). A 'DY record' is any record with GRAD = 1, also one that its layer names as W_REC or X_REC: it
is held pending; one with GRAD = 0 that DY_REC names takes its wide format at once (DESIGN CHOICE, log entry 40). -/
def TRec.grant (r : TRec) (bytes : Nat) (pages : List Nat) : TRec :=
  let r := { r with flags := r.flags ||| 1, grantBytes := r.grantBytes + BitVec.ofNat 64 bytes,
                    grantPages := r.grantPages ++ pages, demoting := false, cleanSteps := 0 }
  if r.grad then { r with pendingDy := true }
  else if r.carried then { r with fmtW := 1 }
  else { r with fmtW := 1, fmtR := 1 }

/-- The grant loop: the state and what it has left, the records granted, and the refusals (R111). -/
structure Grants where
  s : State
  avail : Nat
  granted : List Nat
  refused : List (Req × U16)
  deriving DecidableEq, Repr

/-- Open points: DESIGN CHOICE, log entry 40. -/
def Grants.step (c : Slot) (g : Grants) (q : Req) : Grants :=
  let todo := q.recs.filter (fun i => !g.granted.contains i)
  let cost := g.s.costOf c todo
  if !g.refused.isEmpty || g.avail < cost then { g with refused := g.refused ++ [(q, 0)] }
  else
    match g.s.reserveAll c todo with
    | (_, .error st) => { g with refused := g.refused ++ [(q, st)] }
    | (s', .ok ps) =>
      let s'' := ps.foldl (fun (s : State) (p : Nat × List Nat) =>
        s.modNum c (fun x => x.modRec p.1 (fun r => r.grant (g.s.extraBytes c r) p.2))) s'
      let s'' := s''.modNum c (fun x => { x with inUse := x.inUse + BitVec.ofNat 64 cost })
      { g with s := s'', avail := g.avail - cost, granted := g.granted ++ todo }

/-- The alarm of a close that refuses requests, or its absence (R112, R438). -/
def State.alarmOf (s : State) (c : Slot) (step : U64) (refused : List (Req × U16)) : State :=
  let n := refused.length
  let s := s.modNum c (fun x => { x with
    alarm := if n = 0 then St.ok else St.promotionDenied, refused := BitVec.ofNat 32 n,
    layers := x.layers.map (fun l => (l.1, { l.2 with lflags := (l.2.lflags &&& 0x7F) |||
      (if refused.any (fun q => q.1.layer == l.1) then 0x80 else 0) })) })
  match refused with
  | [] => s
  | (q, cause) :: _ =>
    let cost := ((kvGet (s.ctx c).num.layers q.layer).map (·.lastCost)).getD 0
    (s.noteStep c step 2).raiseStatus sevFault St.promotionDenied
      { Event.blank with
        context := s.ctxId c, unit := BitVec.ofNat 16 q.layer, step := step
        args := [BitVec.ofNat 64 q.rank, cause.setWidth 64, BitVec.ofNat 64 n, cost] }

/-- Step 4: triggers, requests, grants, alarm. (open points: DESIGN CHOICE, log entry 40) -/
def State.grantStep (s : State) (c : Slot) (step : U64) (mode : U8) : State :=
  let x := (s.ctx c).num
  let trig := (x.recs.filter (fun p =>
    x.triggers p.2 mode (s.entryAt c (handleIdx p.2.handle)).baseWide)).map (·.1)
  let s := s.modNum c (fun x => x.countClean mode)
  let s := s.modNum c (fun x => { x with layers := x.layers.map (fun l =>
    (l.1, { l.2 with lastCost := BitVec.ofNat 64 (s.costOf c (x.requestOf trig l.1 l.2)) })) })
  let x := (s.ctx c).num
  let reqs := (x.layers.map (fun l =>
    ({ rank := l.2.rank.toNat, layer := l.1, recs := x.requestOf trig l.1 l.2 } : Req))).filter (fun q =>
      !q.recs.isEmpty)
  let reqs := sortBy (fun q => q.rank * 65536 + q.layer) reqs
  let use := x.inUse.toNat
  let g := reqs.foldl (Grants.step c)
    { s := s, avail := x.inForce.budget.toNat - use, granted := [], refused := [] }
  g.s.alarmOf c step g.refused

/-! ### Pending gradient switches (R99 step 5, R114) -/

/-- W_REC or X_REC lets a gradient switch. -/
def CtxNum.readsF8 (x : CtxNum) (i : U16) : Bool :=
  i == 0xFFFF || (match kvGet x.recs i.toNat with | some r => r.fmtR == 1 | none => false)

def CtxNum.switchDy (x : CtxNum) : CtxNum :=
  x.mapRecs (fun r => if r.pendingDy then
      (match kvGet x.layers r.layer.toNat with
       | some l => if x.readsF8 l.wRec && x.readsF8 l.xRec then
           { r with pendingDy := false, fmtW := 3, fmtR := 3 } else r
       | none => r)
    else r)

/-! ### Scales (R99 step 6, R100 to R103) -/

/-- The largest history entry. -/
def TRec.histMax (r : TRec) : F32 :=
  (r.history.take r.histFill.toNat).foldl (fun m h => maxF m (bf16To32 h.toNat)) 0

def CtxNum.headroomOf (x : CtxNum) (r : TRec) : Nat :=
  if r.headroom.getLsbD 7 then r.headroom.toNat % 4 else x.inForce.headroom.toNat

/-- The scale hangs on a vmax that R100 does not give: the record's format is neither F4 nor F8, and neither an infinity
nor the want of a history settles the scale without it. (open points: DEDUCED, log entry 39) -/
def TRec.scaleOpen (r : TRec) : Bool := 1 < r.fmtW.toNat && !r.infSeen && !isZero r.histMax

/-- The scale for writes after this close. `mem`: SCALE_W as software left it, which a GRAD or FROZEN record takes up
where it is positive and finite, and keeps its scale where it is not (DESIGN CHOICE); `free`: where it hangs on a vmax
that R100 does not give. (open points: DEDUCED, log entry 39) -/
def CtxNum.newScale (x : CtxNum) (r : TRec) (fmtChanged : Bool) (mem : F32) (free : U64) : F32 :=
  if r.grad || r.frozen then (if posF mem && isFinite mem then mem else r.scaleW)
  else if r.written || fmtChanged then
    (if r.scaleOpen then free.setWidth 32
     else nextScale r.scaleW r.histMax r.infSeen (x.headroomOf r) (if r.fmtW = 0 then 0x45340000 else 0x48520000))
  else r.scaleW

/-- One record at step 6; `fmt0`: its FMT_W before the close. CORRECTED is for a scale the Photometer raises: a
GRAD or FROZEN record whose SCALE_W software raised gets neither CORRECTED nor the record of R102 (DEDUCED, log
entry 39). -/
def State.scale1 (s : State) (c : Slot) (i : Nat) (fmt0 : BitVec 3) : State :=
  match kvGet (s.ctx c).num.recs i with
  | none => s
  | some r =>
    let x := (s.ctx c).num
    let changed := r.fmtW != fmt0
    let open_ := !r.grad && !r.frozen && r.scaleOpen && (r.written || changed)
    let (s, free) := if open_ then s.draw else (s, 0)
    let sc := x.newScale r changed (fieldBv 32 (s.bytes c (x.inForce.recAddr i + 16) 4) 0 4) free
    let moved := sc != r.scaleW || changed
    let gen := if moved then r.genW + 1 else r.genW
    let corrected := !r.grad && !r.frozen && ltF r.scaleW sc && (r.overflows != 0 || r.s8Sat != 0 || r.infSeen)
    let r' := { r with scaleW := sc, genW := gen,
                       stepFlags := if corrected then r.stepFlags ||| 4 else r.stepFlags }
    let r' := if r.carried || !moved then r' else { r' with scaleR := sc, fmtR := r.fmtW, genR := gen }
    let s := s.modNum c (fun x => { x with recs := kvSet x.recs i r' })
    if corrected then
      s.raise { Event.blank with
        event := 0x8001, handle := r.handle
        args := [r.scaleW.setWidth 64, sc.setWidth 64, r.stepMax.setWidth 64] }
    else s

/-! ### Write-back (R99 step 7) -/

/-- What the seeing report takes from the records (R127). -/
structure CloseSums where
  s8Sat : Nat
  lost : Nat
  sideOvf : Nat
  corrected : Nat
  deriving DecidableEq, Repr

def CtxNum.sums (x : CtxNum) : CloseSums :=
  { s8Sat := sumNat (fun p => p.2.s8Sat.toNat) x.recs, lost := sumNat (fun p => p.2.lostBlocks.toNat) x.recs,
    sideOvf := sumNat (fun p => p.2.sideOvf.toNat) x.recs,
    corrected := (x.recs.filter (fun p => p.2.stepFlags.getLsbD 2)).length }

def State.writeRecs (s : State) (c : Slot) : State :=
  let x := (s.ctx c).num
  let s := x.recs.foldl (fun s p =>
    let a := x.inForce.recAddr p.1
    s.store c a (p.2.write (s.bytes c a 128))) s
  let s := x.layers.foldl (fun s l =>
    let a := x.inForce.layerAddr l.1
    s.store c a (patch (patch (s.bytes c a 64) 2 (bvLe 1 l.2.lflags)) 24 (bvLe 8 l.2.lastCost))) s
  s.modNum c (fun x => x.mapRecs TRec.cleared)

/-- The numerics of a close, in the order of R99; what the report takes from it. (open points: DEDUCED, log entry 39) -/
def State.closeNumerics (s : State) (c : Slot) (step : U64) : State × CloseSums :=
  let mode := ((s.ctx c).num.stepAcc step).mode
  let s := s.newSettings c
  let old := (s.ctx c).num.recs.map (·.1)
  let s := s.loadTable c
  let fmt0 := (s.ctx c).num.recs.map (fun p => (p.1, p.2.fmtW))
  let s := s.modNum c (fun x => { x with recs := x.recs.map (fun p => (p.1, x.fold1 (old.contains p.1) p.2)) })
  let wide := (s.ctx c).num.heldWide
  let s := fmt0.foldl (fun s p => s.demote1 c wide p.1) s
  let s := s.grantStep c step mode
  let s := s.modNum c CtxNum.switchDy
  let s := fmt0.foldl (fun s p => s.scale1 c p.1 p.2) s
  let sums := (s.ctx c).num.sums
  (s.writeRecs c, sums)

end Sys2Proof.Machine
end

