-- ==== Sys2Proof/Machine/Drain.lean ====
section
/-! DEFINITION. The drain quantiser and the convert stage: FP32 tiles to plates, block scales, tags, side
lists, and what the Photometer is told (R58 to R63, R83, R97, R104 to R108, R133, R140, R153). -/

namespace Sys2Proof.Machine

/-- An output element on its way to a plate: y, u and the flags so far; `pre`: flags its engine has already
counted for it. -/
structure Cell where
  y : F32
  u : F32
  fl : Fl
  pre : Fl := Fl.none
  deriving DecidableEq, Repr

/-- What forming a factor sets: invalid, a flush or an excess. Rounding alone sets nothing, since R63 names only a, y, u
and the codes for it. (open points: DEDUCED, log entry 28) -/
def Fl.ofFactor (fl : Fl) : Fl := { fl with inx := fl.inx && (fl.unf || fl.ovf.isSome) }

/-- T_inv of R34, the reciprocal of T for a block-scaled output, with the flags of reading T and of forming it; none
otherwise. (open points: DEDUCED, log entry 28) -/
def TView.tInv (v : TView) : Option (F32 × Fl) :=
  if v.fmt.scaled then
    let (t, fl) := rcpF v.scale
    some (t, (readFl v.scale).or fl.ofFactor)
  else none

/-- u = y × T_inv with the flags of both (R34, R58). -/
def scaledU (y : F32) (tinv : Option (F32 × Fl)) : F32 × Fl :=
  match tinv with
  | none => (y, Fl.none)
  | some t => let (u, f) := mulF false y t.1; (u, t.2.or f)

/-- R58 steps 1, 2 and 4 with the drain's flushing; `d`: D with the flags of forming it. -/
def drainCell (acc corr : F32) (d : F32 × Fl) (tinv : Option (F32 × Fl)) : Cell :=
  let (a, f1) := if isZero corr then (acc, Fl.none) else addF false acc corr
  let (y, f2) := mulF false a d.1
  let (u, f3) := scaledU y tinv
  { y := y, u := u, fl := (d.2.or (f1.or f2)).or f3 }

/-- The convert stage takes a finished y (R153); `pre`: the flags its element has already counted (R170). -/
def convertCell (y : F32) (pre : Fl) (tinv : Option (F32 × Fl)) : Cell :=
  let (u, f) := scaledU y tinv
  { y := y, u := u, fl := f, pre := pre }

/-- What a writer needs to know of its output operand. -/
structure WCfg where
  c : Slot
  v : TView
  /-- what stochastic rounding draws from; none: to nearest -/
  draw : Option Draw
  /-- 3 drain quantiser, 4 vector engine (R116) -/
  kind : Nat
  /-- row of the tile at which the rows begin: that of a wide sub-tile (R65, R121) -/
  row0 : Nat := 0
  deriving DecidableEq, Repr

/-- The rounding a descriptor selects (R36, R165, R200): default, nearest, stochastic. -/
def roundSel (f : Fmt) (round : U8) : Bool :=
  if round = 0 then f.grad else round = 2

/-- What a writer has done in one operation or tile. -/
structure WStat where
  s : State
  /-- entries written per region -/
  regs : List (Nat × Nat)
  /-- plates whose tag this operation has written -/
  tagged : List Nat
  /-- events with their cycles -/
  evs : List (Nat × FEv)
  stepMax : F32
  inf : Bool
  elements : Nat
  overflows : Nat
  s8sat : Nat
  lost : Nat
  sideUsed : Nat
  crushed : Nat
  sideOvf : Nat
  fullReg : Option Nat
  /-- plates of an FP32 gradient written, and whether one held a non-zero element (R133) -/
  wgPlates : Nat
  wgNonZero : Bool
  fault : Option (U16 × Nat)
  deriving DecidableEq, Repr

def WStat.new (s : State) (tagged : List Nat) : WStat :=
  { s := s, regs := [], tagged := tagged, evs := [], stepMax := 0, inf := false, elements := 0,
    overflows := 0, s8sat := 0, lost := 0, sideUsed := 0, crushed := 0, sideOvf := 0, fullReg := none,
    wgPlates := 0, wgNonZero := false, fault := none }

/-- The Photometer register takes an element (R58 step 3, R97). -/
def WStat.see (w : WStat) (y : F32) : WStat :=
  match fval y with
  | .nan => w
  | .inf _ => { w with inf := true }
  | .fin _ _ _ => if ltF w.stepMax (absF y) then { w with stepMax := absF y } else w

/-- Writes bytes; merging into a poisoned plate ends the operation (R234). -/
def WStat.put (w : WStat) (cfg : WCfg) (a : Nat) (b : Bytes) (full : Bool) : WStat :=
  if w.fault.isSome then w
  else if !full && (w.s.firstPoison cfg.c a b.length).isSome then
    { w with fault := some (St.pageUncorrectable, (w.s.firstPoison cfg.c a b.length).getD a) }
  else { w with s := w.s.store cfg.c a b }

/-- A block as it goes to its plate. -/
structure OutBlock where
  plate : Nat
  blk : Nat
  scale : Nat
  codes : List Nat
  outlier : Bool
  deriving DecidableEq, Repr

/-- The entry of a removed element (R106). (open points: DEDUCED, log entry 29) -/
def sideEntry (row col : Nat) (u : F32) (reg : Nat) : Bytes × Bool :=
  let (v, fl) := toBf16 u none
  (natLe 4 ((row % 128) * 128 + col % 128) ++ natLe 2 v ++ natLe 2 (32768 + reg % 32768), fl.ovf.isSome)

/-- Encodes one block of tensor row `tr` from column `b` on: crush test, side list, block encoding and
counters (R34, R35, R63, R97, R104 to R108). A flag counts once for the block, and not where each element that raises it
has already counted it (R63, R170). A block that meets the S8 saturation records CAUSE 4, also where a, y, u or a side
VALUE overflowed in it (DESIGN CHOICE, log entry 28); of other causes the lowest. -/
def WStat.block (w : WStat) (cfg : WCfg) (mk : Nat → Nat → Nat × FEv) (tr b : Nat) (cells : List (Option Cell)) :
    WStat × OutBlock :=
  let v := cfg.v
  let f := v.fmt
  let w := cells.foldl (fun w x => match x with | some e => w.see e.y | none => w) w
  let u := cells.map (fun x => x.map (·.u))
  let r12 := (List.range u.length).map (fun i =>
    match cfg.draw, u[i]? with
    | some d, some (some x) => some (d.bits (tr * v.cols + b + i) x)
    | _, _ => none)
  let pick := if v.track.isSome && v.side.isSome then crushPick u v.crush else none
  let (base, cap) := v.side.getD (0, 0)
  let reg := (tr / 128) * ceilDiv v.cols 128 + b / 128
  let used := kvGetD w.regs reg 0
  let real := (cells.filter (·.isSome)).length
  let finish := fun (w : WStat) (u : List (Option F32)) (outl : Bool) (extra : Option Nat) (kept : Option Nat) =>
    let e := encodeBlock f u r12
    let all := (List.range cells.length).map (fun i =>
      match cells.getD i none with
      | none => (Fl.none, Fl.none)
      | some x =>
        let fl := x.fl.or (e.fls.getD i Fl.none)
        let fl := if extra == some i then fl.or (Fl.overflow 2) else fl
        let fl := if e.s8sat && fl.ovf.isSome then { fl with ovf := some 4 } else fl
        (fl, fl.minus x.pre))
    let fl := all.foldl (fun a x => a.or x.1) Fl.none
    let counted := all.foldl (fun a x => a.or x.2) Fl.none
    let crushedN := match kept with
      | none => 0
      | some k => ((List.range u.length).filter (fun i => i != k &&
          (match u[i]?, e.codes[i]? with
           | some (some x), some cd => !isZero x && cd % f.signBit == 0
           | _, _ => false))).length
    ({ w with evs := w.evs ++ flEvents counted mk, elements := w.elements + real,
              overflows := if fl.ovf.isSome then w.overflows + 1 else w.overflows,
              s8sat := if e.s8sat then w.s8sat + 1 else w.s8sat,
              lost := if e.lost then w.lost + 1 else w.lost,
              crushed := w.crushed + crushedN },
     ({ plate := b / f.per, blk := (b % f.per) / f.block, scale := e.scale, codes := e.codes,
        outlier := outl } : OutBlock))
  match pick with
  | none => finish w u false none none
  | some k =>
    if used < cap then
      let x := (u.getD k none).getD 0
      let (ent, ovf) := sideEntry tr (b + k) x reg
      let w := w.put cfg (base + 8 * (cap * reg + used)) ent false
      let w := { w with regs := kvSet w.regs reg (used + 1), sideUsed := w.sideUsed + 1 }
      finish w (u.set k (some 0)) true (if ovf then some k else none) none
    else
      let w := { w with sideOvf := w.sideOvf + 1, fullReg := w.fullReg.orElse (fun _ => some reg) }
      finish w u false none (some k)

/-- The blocks of a row into one plate: byte enables over their own scale and element bytes, the tag merged
at the plate's home (R59, R60). (open points: DEDUCED, log entry 29) -/
def WStat.plate (w : WStat) (cfg : WCfg) (tr j : Nat) (bs : List OutBlock) : WStat :=
  let v := cfg.v
  let f := v.fmt
  let a := v.addr tr j
  let old := w.s.num cfg.c a 64
  let keepOut := w.tagged.contains a && tagOutlier old
  let outl := keepOut || bs.any (·.outlier)
  let p := bs.foldl (fun p b =>
    let p := setPlateScale p b.blk b.scale
    (List.range b.codes.length).foldl (fun p i =>
      setPlateCode f p (b.blk * f.block + i) (b.codes.getD i 0)) p) old
  let p := if f == .f8 then setBits p 416 96 0 else p
  let p := setBits p 0 8 (makeTag f v.epoch outl)
  let full := bs.length = f.per / f.block
  let w := w.put cfg a (natLe 64 p) full
  { w with tagged := if w.tagged.contains a then w.tagged else insertNat w.tagged a }

/-- One row of a block-scaled output: cells of columns from `c0` on (R39, R58, R60). -/
def WStat.scaledRow (w : WStat) (cfg : WCfg) (mk : Nat → Nat → Nat → Nat × FEv) (tr c0 : Nat)
    (cells : List (Option Cell)) : WStat :=
  let v := cfg.v
  let f := v.fmt
  let real := Nat.min (c0 + cells.length) v.cols
  let stop := if real = v.cols then v.ppr * f.per else real
  let starts := (List.range ((stop - c0) / f.block)).map (fun i => c0 + f.block * i)
  let (w, bs) := starts.foldl (fun (acc : WStat × List OutBlock) b =>
    if real ≤ b then
      (acc.1, acc.2 ++ [{ plate := b / f.per, blk := (b % f.per) / f.block, scale := 0,
                          codes := List.replicate f.block 0, outlier := false }])
    else
      let cs := (List.range f.block).map (fun i =>
        if b + i < real then cells.getD (b + i - c0) none else none)
      let (w, ob) := acc.1.block cfg (mk (b - c0)) tr b cs
      (w, acc.2 ++ [ob])) (w, [])
  let js := (bs.map (·.plate)).dedup
  js.foldl (fun w j => w.plate cfg tr j (bs.filter (fun b => b.plate == j))) w

/-- The code of an element of a BF16 or FP32 output at tensor row `tr` and column `col`, and its flags (R58 step 6,
R63). -/
def WCfg.wideCode (cfg : WCfg) (tr col : Nat) (u : F32) : Nat × Fl :=
  if cfg.v.fmt == .bf16 then
    toBf16 u (if isFinite u then cfg.draw.map (fun d => d.bits (tr * cfg.v.cols + col) u) else none)
  else ((if isNan u then nan32 else u).toNat, Fl.none)

/-- One row of a BF16 or FP32 output (R58 step 6, R63); `dark`: its plates are gradient plates (R133). -/
def WStat.wideRow (w : WStat) (cfg : WCfg) (mk : Nat → Nat → Nat → Nat × FEv) (dark : Bool) (tr c0 : Nat)
    (cells : List (Option Cell)) : WStat :=
  let v := cfg.v
  let f := v.fmt
  let real := Nat.min (c0 + cells.length) v.cols
  let stop := if real = v.cols then v.ppr * f.per else real
  let (w, codes) := (List.range (stop - c0)).foldl (fun (acc : WStat × List Nat) i =>
    match (if c0 + i < real then cells.getD i none else none) with
    | none => (acc.1, acc.2 ++ [0])
    | some e =>
      let (code, fl) := cfg.wideCode tr (c0 + i) e.u
      let fl := e.fl.or fl
      let w := acc.1.see e.y
      ({ w with evs := w.evs ++ flEvents (fl.minus e.pre) (mk i), elements := w.elements + 1,
                overflows := if fl.ovf.isSome then w.overflows + 1 else w.overflows }, acc.2 ++ [code]))
    (w, [])
  let j0 := c0 / f.per
  (List.range (ceilDiv (stop - c0) f.per)).foldl (fun w k =>
    let cs := (codes.drop (f.per * k)).take f.per
    let a := v.addr tr (j0 + k)
    let full := cs.length = f.per
    let old := if full then 0 else w.s.num cfg.c a 64
    let p := (List.range cs.length).foldl (fun p i => setPlateCode f p i (cs.getD i 0)) old
    let w := w.put cfg a (natLe 64 p) full
    if dark then
      { w with wgPlates := w.wgPlates + 1,
               wgNonZero := w.wgNonZero || cs.any (fun x => x % 2 ^ 31 != 0) }
    else w) w

/-- One row of a mask output: bits of columns from `c0` on, padding 0 (R38, R39, R143). -/
def WStat.maskRow (w : WStat) (cfg : WCfg) (tr c0 : Nat) (bits : List Bool) : WStat :=
  let v := cfg.v
  let real := Nat.min (c0 + bits.length) v.cols
  let stop := if real = v.cols then v.ppr * 512 else real
  let j0 := c0 / 512
  let j1 := (stop - 1) / 512
  if stop ≤ c0 then w
  else
    (List.range (j1 + 1 - j0)).foldl (fun w k =>
      let j := j0 + k
      let lo := Nat.max c0 (512 * j)
      let hi := Nat.min stop (512 * j + 512)
      let a := v.addr tr j
      let old := w.s.num cfg.c a 64
      let p := (List.range (hi - lo)).foldl (fun p i =>
        let col := lo + i
        let bit := if col < real then bits.getD (col - c0) false else false
        setPlateCode .mask p (col % 512) (if bit then 1 else 0)) old
      w.put cfg a (natLe 64 p) (hi - lo = 512)) w

/-- Regions of the tile that hold fewer than C entries end with an entry of VALID = 0 (R107). -/
def WStat.endRegions (w : WStat) (cfg : WCfg) (tr0 c0 width : Nat) : WStat :=
  match cfg.v.side with
  | none => w
  | some (base, cap) =>
    if cfg.v.track.isNone || !cfg.v.fmt.scaled then w
    else
      let ncr := ceilDiv cfg.v.cols 128
      (List.range (ceilDiv (Nat.min (c0 + width) cfg.v.cols - c0) 128)).foldl (fun w k =>
        let reg := (tr0 / 128) * ncr + c0 / 128 + k
        let used := kvGetD w.regs reg 0
        if used < cap then
          w.put cfg (base + 8 * (cap * reg + used)) (zeros 6 ++ natLe 2 (reg % 32768)) false
        else w) w

/-- Rows of cells of a tile, `none` for a row that is not written (R87). `tr0`: the tensor row of the first. -/
def WStat.tileRows (w : WStat) (cfg : WCfg) (tileR tileC : Nat) (dark : Bool) (tr0 c0 : Nat)
    (rows : List (Option (List (Option Cell)))) : WStat :=
  (List.range rows.length).foldl (fun w i =>
    if w.fault.isSome then w
    else
      match rows.getD i none with
      | none => w
      | some cells =>
        let mk := fun (j flag cause : Nat) =>
          (cycleKey 128 i (c0 + j) flag,
           ({ flag := flag, cause := cause, tr := tileR, tc := tileC, band := 0xFFFF,
              offset := if cfg.kind = 3 then cfg.row0 + i else 0xFFFF, handle := cfg.v.handle } : FEv))
        if cfg.v.fmt.scaled then w.scaledRow cfg mk (tr0 + i) c0 cells
        else w.wideRow cfg mk dark (tr0 + i) c0 cells) w

/-- A whole tile of an output, with its side-list regions. -/
def WStat.tile (w : WStat) (cfg : WCfg) (tileR tileC : Nat) (dark : Bool) (tr0 c0 width : Nat)
    (rows : List (Option (List (Option Cell)))) : WStat :=
  (w.tileRows cfg tileR tileC dark tr0 c0 rows).endRegions cfg tr0 c0 width

/-- The writer's report reaches the tensor's record (R97), and the first overflowing region of the tensor in
the step its notice (R108, R438). (open points: DEDUCED, log entry 26) -/
def WStat.report (w : WStat) (o : OpCtx) (cfg : WCfg) : State :=
  let s := w.s
  match cfg.v.track with
  | none => s
  | some i =>
    if o.quiet then s
    else
      match kvGet (s.ctx o.c).num.recs i with
      | none => s
      | some r =>
        let wr := r.stepFlags ||| 1 ||| (if w.inf then 2 else 0)
        let r' := { r with
          stepMax := if ltF r.stepMax w.stepMax then w.stepMax else r.stepMax
          stepFlags := wr
          elements := satAdd32 r.elements w.elements
          overflows := satAdd32 r.overflows w.overflows
          s8Sat := satAdd32 r.s8Sat w.s8sat
          lostBlocks := satAdd32 r.lostBlocks w.lost
          sideUsed := satAdd32 r.sideUsed w.sideUsed
          crushed := satAdd32 r.crushed w.crushed
          sideOvf := satAdd32 r.sideOvf w.sideOvf
          fullLogged := r.fullLogged || w.fullReg.isSome }
        let s := s.modNum o.c (fun x => { x with recs := kvSet x.recs i r' })
        match w.fullReg with
        | none => s
        | some reg =>
          let s := s.noteStep o.c o.step 1
          if r.fullLogged then s
          else
            let (base, cap) := cfg.v.side.getD (0, 0)
            s.raiseStatus sevNotice St.coronagraphFull
              { Event.blank with
                context := s.ctxId o.c, opId := o.opId, handle := cfg.v.handle, step := o.step,
                address := BitVec.ofNat 64 (base + 8 * cap * reg), args := [BitVec.ofNat 64 reg] }

end Sys2Proof.Machine
end

