-- ==== Sys2Proof/Machine/Arrays.lean ====
section
/-! DEFINITION. The arithmetic of the three arrays and the Coronagraph unit over one pass (chapters 03, 04):
what an accumulator becomes, and the events of the pass in the order the engine meets them. -/

namespace Sys2Proof.Machine

/-! ### Products and accumulation -/

/-- The exact product of two expanded elements (R48, R75): class by class. -/
def elMul (a b : El) : El :=
  match a, b with
  | .nan c h, .nan c' h' => if c ≤ c' then .nan c h else .nan c' h'
  | .nan c h, _ => .nan c h
  | _, .nan c h => .nan c h
  | .inf _, .zero => .nan 5 0
  | .zero, .inf _ => .nan 5 0
  | .inf n, .inf n' => .inf (n != n')
  | .inf n, .fin m _ => .inf (n != decide (m < 0))
  | .fin m _, .inf n => .inf (n != decide (m < 0))
  | .zero, _ => .zero
  | _, .zero => .zero
  | .fin m e, .fin m' e' => .fin (m * m') (e + e')

/-- The exact sum of two elements of a run (R48 step 1); infinities do not occur in forward formats. -/
def elSum (a b : El) : El :=
  match a, b with
  | .nan c h, .nan c' h' => if c ≤ c' then .nan c h else .nan c' h'
  | .nan c h, _ => .nan c h
  | _, .nan c h => .nan c h
  | .zero, x => x
  | x, .zero => x
  | .inf n, _ => .inf n
  | _, .inf n => .inf n
  | .fin m e, .fin m' e' =>
    let (n, q) := dyAdd m e m' e'
    if n = 0 then .zero else .fin n q

/-- acc + p, formed exactly and rounded once, a subnormal flushed (R48 step 4, R50, R76, R78). An exactly
zero p leaves acc as it is. -/
def accAdd (acc : F32) (p : El) : F32 × Fl :=
  match p, fval acc with
  | .zero, _ => (acc, Fl.none)
  | .nan c _, _ => (nan32, Fl.invalid c)
  | _, .nan => (nan32, Fl.none)
  | .inf n, .inf m => if n = m then (acc, Fl.none) else (nan32, Fl.invalid 9)
  | .inf n, .fin _ _ _ => (inf32 n, Fl.none)
  | .fin _ _, .inf _ => (acc, Fl.none)
  | .fin n q, .fin neg m e =>
    let (x, y) := dyAdd (signed neg m) e n q
    roundInt false x y

/-- An FP32 or BF16 value as an element, subnormals kept (R56, R84). -/
def elExact (x : F32) (h : U32) : El :=
  match fval x with
  | .nan => .nan 6 h
  | .inf n => .inf n
  | .fin n m e => if m = 0 then .zero else .fin (signed n m) e

/-- The handle of the tensor behind a NaN. -/
def elHandle : El → U32
  | .nan _ h => h
  | _ => 0

/-! ### Events of one output element in one pass (R50, R78, R436) -/

/-- The first time and reduction index of each flag; for invalid the lowest CAUSE with its handle. -/
structure Seen where
  /-- with its CAUSE -/
  inx : Option (Nat × Nat × Nat)
  unf : Option (Nat × Nat)
  ovf : Option (Nat × Nat)
  inv : Option (Nat × Nat × Nat × U32)
  deriving DecidableEq, Repr

def Seen.none : Seen := { inx := .none, unf := .none, ovf := .none, inv := .none }

def Seen.note (s : Seen) (fl : Fl) (t k : Nat) (h : U32) : Seen :=
  let keep := fun (b : Bool) (o : Option (Nat × Nat)) => if b && o.isNone then some (t, k) else o
  { inx := if fl.inx && s.inx.isNone then some (t, k, fl.inxCause) else s.inx
    unf := keep fl.unf s.unf
    ovf := keep fl.ovf.isSome s.ovf
    inv := match fl.inv, s.inv with
      | .none, o => o
      | some c, .none => some (t, k, c, h)
      | some c, some (t0, k0, c0, h0) => if c < c0 then some (t0, k0, c, h) else some (t0, k0, c0, h0) }

/-- An event with the time it is met at and its place in the pass. -/
structure PEv where
  t : Nat
  flag : Nat
  cause : Nat
  k : Nat
  i : Nat
  j : Nat
  handle : U32
  deriving DecidableEq, Repr

/-- Open points: DEDUCED, log entry 25. -/
def Seen.events (s : Seen) (i j : Nat) (out : U32) : List PEv :=
  let one := fun (o : Option (Nat × Nat)) (flag cause : Nat) =>
    match o with
    | some (t, k) => [({ t := t, flag := flag, cause := cause, k := k, i := i, j := j, handle := out } : PEv)]
    | .none => []
  (match s.inv with
   | some (t, k, c, h) =>
     [({ t := t, flag := 3, cause := c, k := k, i := i, j := j, handle := if h = 0 then out else h } : PEv)]
   | .none => []) ++ one s.ovf 2 2 ++ one s.unf 1 1 ++
  (match s.inx with
   | some (t, k, c) => [({ t := t, flag := 0, cause := c, k := k, i := i, j := j, handle := out } : PEv)]
   | .none => [])

/-- The processing order of an engine (R123): time, then invalid before overflow before underflow before
inexact, then reduction index, row and column. -/
def PEv.key (e : PEv) : Nat :=
  (((e.t * 4 + (3 - e.flag)) * 1048576 + e.k) * 128 + e.i) * 256 + e.j

def orderEvents (es : List PEv) : List PEv := sortBy PEv.key es

/-- As a watch event of the tile (R121): BAND and OFFSET from the reduction index.
(open points: DEDUCED, log entry 25) -/
def PEv.toFEv (tr tc k0 : Nat) (e : PEv) : FEv :=
  { flag := e.flag, cause := e.cause, tr := tr, tc := tc, band := (k0 + e.k) / 2048,
    offset := (k0 + e.k) % 2048, handle := e.handle }

/-! ### The forward array (R47 to R53) -/

/-- The cycle at which each reduction step leaves the buffer: steps in groups of `g`, `rate` cycles a step,
none for a skipped group (R47, R51 to R53, R79, R80). (open points: DESIGN CHOICE, log entry 77) -/
def passCycles (g rate : Nat) : List Bool → Nat → Nat → List Nat
  | [], _, _ => []
  | skip :: rest, t, k =>
    -- one entry per group: the cycle of its first step
    t :: passCycles g rate rest (if skip then t else t + g * rate) (k + 1)

/-- Groups of `g` reduction steps that are skipped: zero blocks along one whole edge, and nothing on either that bars it
(R52, R80). An element of an edge: whether it stands in a zero block, and whether it bars a skip. -/
def skippedGroups (g n : Nat) (a b : List (List (Bool × Bool))) : List Bool :=
  (List.range (ceilDiv n g)).map (fun r =>
    let sl := fun (x : List (Bool × Bool)) => (x.drop (g * r)).take g
    (a.all (fun x => (sl x).all (fun e => !e.2)) && b.all (fun x => (sl x).all (fun e => !e.2))) &&
      (a.all (fun x => (sl x).all (·.1)) || b.all (fun x => (sl x).all (·.1))))

/-- An accumulator with what it has seen. -/
structure Acc where
  v : F32
  seen : Seen
  deriving DecidableEq, Repr

/-- The start of an accumulator: +0, or the initial tensor's element as the first addend (R49, R77, R436).
(open points: DEDUCED, log entry 28) -/
def accStart (init : Option F32) (h : U32) (t : Nat) : Acc :=
  match init with
  | none => { v := 0, seen := .none }
  | some x =>
    if isZero x then { v := x, seen := .none }
    else
      let (v, fl) := accAdd 0 (elExact x h)
      { v := v, seen := Seen.none.note fl t 0 h }

/-- One addition into an accumulator; after a NaN only further causes count (R50, R436).
(open points: DEDUCED, log entry 28) -/
def Acc.add (a : Acc) (p : El) (t k : Nat) : Acc :=
  let (v, fl) := accAdd a.v p
  { v := v, seen := a.seen.note fl t k (elHandle p) }

/-- The runs of a cell: per run the exact sum of sixteen products, and the index of its first NaN or of its
first element (R48, R49). The rounding, overflow, flush or inf − inf event of a run takes the place of its first
element, 16r, which no rule names (DEDUCED, log entry 25). -/
def runOf (r : Nat) (a b : List El) : El × Nat :=
  let ps := List.zipWith elMul ((a.drop (16 * r)).take 16) ((b.drop (16 * r)).take 16)
  let k := match (List.range ps.length).find? (fun i =>
      match ps[i]? with | some (.nan _ _) => true | _ => false) with
    | some i => 16 * r + i
    | none => 16 * r
  (ps.foldl elSum .zero, k)

/-- A forward accumulator over its runs in ascending order of k; a skipped run changes nothing (R48, R49, R52). `cyc`:
cycle of each run. (open points: DEDUCED, log entry 28) -/
def fwdCell (rate : Nat) (cyc : List Nat) (skip : List Bool) (a b : List El) (ij : Nat) (start : Acc) : Acc :=
  (List.range cyc.length).foldl (fun acc r =>
    if skip.getD r false then acc
    else
      let (p, k) := runOf r a b
      acc.add p (natAt cyc r + rate * (k - 16 * r) + ij) k) start

/-- A backward accumulator over its products in ascending order of the reduction index (R76, R77).
(open points: DEDUCED, log entry 28) -/
def bwdCell (rate : Nat) (cyc : List Nat) (a b : List El) (ij : Nat) (start : Acc) : Acc :=
  let ps := List.zipWith elMul a b
  (List.range ps.length).foldl (fun acc k =>
    acc.add (ps.getD k .zero) (natAt cyc (k / 8) + rate * (k % 8) + ij) k) start

/-! ### The wide array (R65, R66) -/

/-- One step of a wide cell: acc + a × b, rounded once and flushed; a NaN input is invalid with CAUSE 6. -/
def wideStep (acc : Acc) (a b : F32) (ha hb : U32) (t k : Nat) : Acc :=
  if isNan a || isNan b then
    { v := nan32, seen := acc.seen.note (Fl.invalid 6) t k (if isNan a then ha else hb) }
  else
    let (v, fl) := fmaF false (flushIn a) (flushIn b) acc.v
    { v := v, seen := acc.seen.note fl t k 0 }

/-- Cycle of step k at cell (i, j) of a tile `per` sub-tiles wide: sub-tiles of 32×32 in row-major order, each over all
of K (R65). -/
def wideTime (rate n per i j k : Nat) : Nat :=
  ((i / 32) * per + j / 32) * (n * rate) + rate * k + i % 32 + j % 32

/-- Open points: DEDUCED, log entry 28. -/
def wideCell (rate n per : Nat) (a b : List F32) (ha hb : U32) (i j : Nat) (start : Acc) : Acc :=
  let ps := List.zip a b
  (List.range ps.length).foldl (fun acc k =>
    let (x, y) := ps.getD k (0, 0)
    wideStep acc x y ha hb (wideTime rate n per i j k) k) start

/-- The start of a wide accumulator: a subnormal initial element reads as zero (R66). -/
def wideStart (init : Option F32) (h : U32) (t : Nat) : Acc :=
  accStart (init.map flushIn) h t

/-! ### A tile of accumulators -/

/-- The cells of a tile of `r` rows and `c` columns, and the pass's events in order. -/
def tileOf (r c : Nat) (out : U32) (cell : Nat → Nat → Acc) : List (List F32) × List PEv :=
  let cells := (List.range r).map (fun i => (List.range c).map (fun j => cell i j))
  (cells.map (fun row => row.map (·.v)),
   orderEvents ((List.range r).flatMap (fun i => (List.range c).flatMap (fun j =>
     (((cells.getD i []).getD j { v := 0, seen := .none }).seen.events i j out)))))

def matAt {α : Type} (m : List (List α)) (i j : Nat) (d : α) : α := (m.getD i []).getD j d

def forwardTile (rate : Nat) (a b : List (List El)) (skip : List Bool) (init : Option (List (List F32)))
    (hi out : U32) : List (List F32) × List PEv :=
  let cyc := passCycles 16 rate skip 0 0
  tileOf a.length b.length out (fun i j =>
    fwdCell rate cyc skip (a.getD i []) (b.getD j []) (i + j)
      (accStart (init.map (fun m => matAt m i j 0)) hi (i + j)))

def backwardTile (rate : Nat) (g f : List (List El)) (skip : List Bool) (init : Option (List (List F32)))
    (hi out : U32) : List (List F32) × List PEv :=
  let cyc := passCycles 8 rate skip 0 0
  tileOf g.length f.length out (fun i j =>
    bwdCell rate cyc (g.getD i []) (f.getD j []) (i + j)
      (accStart (init.map (fun m => matAt m i j 0)) hi (i + j)))

def wideTile (rate n : Nat) (a b : List (List F32)) (ha hb : U32) (init : Option (List (List F32)))
    (hi out : U32) : List (List F32) × List PEv :=
  let per := Nat.max 1 (ceilDiv b.length 32)
  tileOf a.length b.length out (fun i j =>
    wideCell rate n per (a.getD i []) (b.getD j []) ha hb i j
      (wideStart (init.map (fun m => matAt m i j 0)) hi (wideTime rate n per i j 0)))

/-! ### Corrections (R56, R84) -/

/-- A side-list entry as applied: lane (tile row or tile column), reduction index, value. -/
structure Entry where
  lane : Nat
  k : Nat
  o : F32
  deriving DecidableEq, Repr

/-- One term into a correction: flags of the Coronagraph unit for its own arithmetic. `os`: the VALUEs of
the term. -/
def corrTerm (a : Acc) (term : El) (os : List F32) (t k : Nat) (h : U32) : Acc :=
  let (v, fl) := accAdd a.v term
  let nanV := os.any isNan
  let infV := os.any isInf
  -- an infinite VALUE sets overflow whatever its term gives (R56)
  -- a NaN of the other operand's plate was flagged by its array
  let inv := if nanV then some 6
    else match fl.inv with
      | some 5 => some 5
      | some 9 => some 9
      | _ => none
  let ovf := if infV then some 2 else fl.ovf
  let fl' : Fl := { fl with inv := inv, ovf := ovf }
  { v := v, seen := a.seen.note fl' t k h }

/-- The corrections of a tile and their events: A entries in ascending index, then B entries; where both
operands hold an entry for one output the A entry adds oA × oB. `a`, `b`: plate elements by lane. -/
def corrections (a b : List (List El)) (ea eb : List Entry) (ha hb out : U32) :
    List (List F32) × List PEv :=
  let r := a.length
  let c := b.length
  let na := ea.length
  let (x, ev) := tileOf r c out (fun i j =>
    let mine := (List.range na).filterMap (fun t =>
      match ea[t]? with | some e => if e.lane = i then some (t, e) else none | none => none)
    let yours := (List.range eb.length).filterMap (fun t =>
      match eb[t]? with | some e => if e.lane = j then some (na + t, e) else none | none => none)
    let acc := mine.foldl (fun acc (t, e) =>
      match (yours.find? (fun y => y.2.k == e.k)) with
      | some (_, y) => corrTerm acc (elMul (elExact e.o ha) (elExact y.o hb)) [e.o, y.o] t e.k ha
      | none => corrTerm acc (elMul (elExact e.o ha) (matAt b j e.k .zero)) [e.o] t e.k ha)
      ({ v := 0, seen := .none } : Acc)
    yours.foldl (fun acc (t, e) =>
      corrTerm acc (elMul (matAt a i e.k .zero) (elExact e.o hb)) [e.o] t e.k hb) acc)
  (x, ev)

/-! ### The Blink check (R69, R91, R130) -/

/-- The FP32 value of an expanded element with a side-list value at its position: below the normal range
±0, above it ±inf. (open points: DEDUCED, log entry 27) -/
def blinkVal (e : El) : F32 :=
  match e with
  | .zero => 0
  | .nan _ _ => nan32
  | .inf n => inf32 n
  | .fin n q => (roundF false (n < 0) n.natAbs q false).1

/-- The error of R130. (open points: DEDUCED, log entry 27) -/
def blinkErr (yn yr fl : F32) : F32 :=
  if isNan yn || isNan yr then (if isNan yn && isNan yr then 0 else inf32 false)
  else if eqF yn yr then 0
  else if isInf yn || isInf yr then inf32 false
  else
    let d := absF (addF true yn (negF yr)).1
    let a := absF yr
    let den := if ltF a fl then fl else a
    if isZero den then inf32 false else (divF true d den).1

/-- The histogram bin of an error (R130). -/
def blinkBin (e : F32) : Nat :=
  if isZero e then 0
  else if !(ltF e 0x3F800000) then 15
  else
    let ef := (e.toNat / 2 ^ 23) % 256
    if ef < 101 then 1 else (ef - 101) / 2 + 2

end Sys2Proof.Machine
end

