-- ==== Sys2Proof/Machine/Products.lean ====
section
/-! DEFINITION. Products: their passes, drains, the combination of K-bands and the Blink checks (chapters 03,
04, 06, 09). -/

namespace Sys2Proof.Machine

/-! ### A product at work -/

/-- A product with its resolved operands. -/
structure PWork where
  o : OpCtx
  d : ProductD
  arr : ArrayKind
  a : TView
  b : TView
  out : TView
  init : Option TView
  inMask : Option TView
  outMask : Option TView
  keep : Option TView
  partials : Option TView
  deriving DecidableEq, Repr

def PWork.of (o : OpCtx) (d : ProductD) (vs : List (Nat × TView)) : Option PWork :=
  match viewAt vs 32, viewAt vs 48, viewAt vs 64 with
  | some a, some b, some out =>
    (productArray d.pkind.toNat a.fmt b.fmt).map (fun arr =>
      { o := o, d := d, arr := arr, a := a, b := b, out := out, init := viewAt vs 80,
        inMask := viewAt vs 96, outMask := viewAt vs 112, keep := viewAt vs 136, partials := viewAt vs 152 })
  | _, _, _ => none

def PWork.pk (w : PWork) : Nat := w.d.pkind.toNat
/-- Output rows, columns and reduction length (R201). -/
def PWork.rows (w : PWork) : Nat := if w.pk = 2 then w.d.n.toNat else w.d.m.toNat
def PWork.cols (w : PWork) : Nat := if w.pk = 0 then w.d.n.toNat else w.d.k.toNat
def PWork.red (w : PWork) : Nat :=
  match w.pk with | 0 => w.d.k.toNat | 1 => w.d.n.toNat | _ => w.d.m.toNat
/-- Tile columns (R171). -/
def PWork.tw (w : PWork) : Nat := if w.arr = .backward then 256 else 128
def PWork.tr (w : PWork) : Nat := t128 w.rows
def PWork.tc (w : PWork) : Nat := ceilDiv w.cols w.tw
/-- A weight gradient on the backward array is cut into K-bands (R171, R177). -/
def PWork.claims (w : PWork) : Bool := w.pk = 2 && w.arr = .backward
def PWork.bands (w : PWork) : Nat := if w.claims then ceilDiv w.red 2048 else 1
/-- Array cycles per step: F4 × F4 or B6 one, F8, mixed or B8 two, FP32 wide four (R51, R65, R79).
(open points: DESIGN CHOICE, log entry 77) -/
def PWork.rate (w : PWork) : Nat :=
  match w.arr with
  | .forward => if w.a.fmt = .f4 && w.b.fmt = .f4 then 1 else 2
  | .backward => if w.a.fmt = .b8 then 2 else 1
  | .wide => if w.a.fmt = .fp32 then 4 else 1

/-- The kind code of an array (R116). -/
def arrCode : ArrayKind → Nat
  | .forward => 0 | .backward => 1 | .wide => 2

/-- The real rows, columns and reduction steps of a pass (R172). -/
structure Box where
  r0 : Nat
  r1 : Nat
  c0 : Nat
  c1 : Nat
  k0 : Nat
  k1 : Nat
  deriving DecidableEq, Repr

def PWork.box (w : PWork) (tr tc band : Nat) : Box :=
  { r0 := 128 * tr, r1 := Nat.min w.rows (128 * tr + 128), c0 := w.tw * tc,
    c1 := Nat.min w.cols (w.tw * tc + w.tw), k0 := if w.claims then 2048 * band else 0,
    k1 := if w.claims then Nat.min w.red (2048 * band + 2048) else w.red }

/-- Sub-tiles of a tile in each direction: 32 × 32 of the wide array, else the tile itself (R65). -/
def PWork.subRows (w : PWork) (x : Box) : Nat := if w.arr = .wide then ceilDiv (x.r1 - x.r0) 32 else 1
def PWork.subCols (w : PWork) (x : Box) : Nat := if w.arr = .wide then ceilDiv (x.c1 - x.c0) 32 else 1

/-- The tile of a pass. -/
def PWork.tileBox (w : PWork) (ps : Pass) : Box := w.box ps.tr ps.tc ps.band

/-- The sub-tile of a pass, in row-major order over its tile (R65). -/
def PWork.passBox (w : PWork) (ps : Pass) : Box :=
  let x := w.tileBox ps
  if w.arr = .wide then
    let r0 := x.r0 + 32 * (ps.sub / w.subCols x)
    let c0 := x.c0 + 32 * (ps.sub % w.subCols x)
    { x with r0 := r0, r1 := Nat.min x.r1 (r0 + 32), c0 := c0, c1 := Nat.min x.c1 (c0 + 32) }
  else x

/-- A pass has a sub-tile after this one. -/
def PWork.moreSubs (w : PWork) (ps : Pass) : Bool :=
  let x := w.tileBox ps
  ps.sub + 1 < w.subRows x * w.subCols x

/-- A window over operand rows [r0, r1) (R195). -/
def State.opWindow (s : State) (c : Slot) (v : TView) (r0 r1 c0 c1 : Nat) : Window :=
  s.readWindow c v (v.rowFirst + r0) (v.rowFirst + r1) c0 c1

/-- The window of A, and of a mask on A: rows of A by the product (R71). -/
def PWork.winA (w : PWork) (s : State) (v : TView) (x : Box) : Window :=
  if w.pk = 2 then s.opWindow w.o.c v x.k0 x.k1 x.r0 x.r1 else s.opWindow w.o.c v x.r0 x.r1 x.k0 x.k1
def PWork.winB (w : PWork) (s : State) (x : Box) : Window :=
  if w.pk = 0 then s.opWindow w.o.c w.b x.c0 x.c1 x.k0 x.k1 else s.opWindow w.o.c w.b x.k0 x.k1 x.c0 x.c1

/-- Columns of a matrix of `n` columns as rows: a column read (R71). -/
def transposed {α : Type} (n : Nat) (d : α) (m : List (List α)) : List (List α) :=
  (List.range n).map (fun j => m.map (fun row => row.getD j d))

/-- The lanes of an edge: row reads as they stand, column reads across rows. -/
def lanes {α : Type} (col : Bool) (n : Nat) (d : α) (m : List (List α)) : List (List α) :=
  if col then transposed n d m else m

/-- The applied side-list entries of an edge, in ascending index (R56). -/
def laneEntries (col : Bool) (win : Window) : List Entry :=
  win.side.map (fun e =>
    if col then { lane := e.2.1 - win.c0, k := e.1 - win.r0, o := e.2.2 }
    else { lane := e.1 - win.r0, k := e.2.1 - win.c0, o := e.2.2 })

/-- What a pass reads. -/
structure PassIn where
  x : Box
  wa : Window
  wb : Window
  wm : Option Window
  wi : Option Window
  wo : Option Window
  wk : Option Window
  deriving DecidableEq, Repr

/-- Throughput mode adds every partial to an output that holds the initial values itself (R185). INIT is taken to be the
output tensor where the two have one BASE, whatever their handles, ROW_FIRST and ROW_STRIDE.
(open points: DESIGN CHOICE, log entry 30) -/
def PWork.addsToOut (w : PWork) : Bool :=
  w.claims && w.o.mode != 0 && (match w.init with | some i => i.base == w.out.base | none => false)

/-- The initial tensor enters a pass: band 0, and not where throughput mode adds to the output itself (R185).
-/
def PWork.startsFrom (w : PWork) (band : Nat) : Option TView :=
  if band != 0 || w.addsToOut then none else w.init

def PWork.read (w : PWork) (s : State) (ps : Pass) : PassIn :=
  let x := w.passBox ps
  let band := ps.band
  { x := x, wa := w.winA s w.a x, wb := w.winB s x, wm := w.inMask.map (fun m => w.winA s m x),
    wi := (w.startsFrom band).map (fun v => s.opWindow w.o.c v x.r0 x.r1 x.c0 x.c1),
    wo := w.outMask.map (fun v => s.opWindow w.o.c v x.r0 x.r1 x.c0 x.c1),
    wk := w.keep.map (fun v => s.opWindow w.o.c v 0 1 x.r0 x.r1) }

def PassIn.windows (p : PassIn) : List (Nat × Window) :=
  [(32, p.wa), (48, p.wb)] ++ (p.wi.map (80, ·)).toList ++ (p.wm.map (96, ·)).toList ++
    (p.wo.map (112, ·)).toList ++ (p.wk.map (136, ·)).toList

/-- Mask bits of an edge, lane by lane. -/
def maskLanes (col : Bool) (n : Nat) (m : Option Window) : Option (List (List Bool)) :=
  m.map (fun w => lanes col n false w.bits)

/-- Elements with a mask bit of 0 removed (R85). -/
def masked {α : Type} (z : α) (m : Option (List (List Bool))) (x : List (List α)) : List (List α) :=
  match m with
  | none => x
  | some b => (List.range x.length).map (fun i =>
      let row := x.getD i []
      (List.range row.length).map (fun k => if matAt b i k false then row.getD k z else z))

/-- What a pass leaves: accumulators, corrections, events of its array and of the Coronagraph unit. -/
structure PassOut where
  acc : List (List F32)
  corr : List (List F32)
  evs : List FEv
  cevs : List FEv
  deriving DecidableEq, Repr

/-- The edges of a pass of a narrow array: elements by lane, masked, and the entries applied. -/
structure Edges where
  a : List (List El)
  b : List (List El)
  ea : List Entry
  eb : List Entry
  deriving DecidableEq, Repr

def PWork.edges (w : PWork) (p : PassIn) : Edges :=
  let nr := p.x.r1 - p.x.r0
  let nc := p.x.c1 - p.x.c0
  let m := maskLanes (w.pk = 2) nr p.wm
  let ra := lanes (w.pk = 2) nr .zero p.wa.els
  { a := masked .zero m ra, b := lanes (w.pk != 0) nc .zero p.wb.els
    ea := (laneEntries (w.pk = 2) p.wa).filter (fun e =>
      match m with | none => true | some b => matAt b e.lane e.k false)
    eb := laneEntries (w.pk != 0) p.wb }

/-- The groups of reduction steps a pass skips: runs of 16 on the forward array, groups of 8 on the backward array,
which an input mask does not change (R52, R80). -/
def PWork.skips (w : PWork) (p : PassIn) : List Bool :=
  let back := w.arr == .backward
  skippedGroups (if back then 8 else 16) (p.x.k1 - p.x.k0)
    (lanes (w.pk = 2) (p.x.r1 - p.x.r0) (true, false) (p.wa.skipMarks back))
    (lanes (w.pk != 0) (p.x.c1 - p.x.c0) (true, false) (p.wb.skipMarks back))

/-- A region mismatch met by the reader: one invalid event of the Coronagraph unit (R56, R107).
(open points: DEDUCED, log entry 25) -/
def mismatchEvs (tr tc : Nat) (w : Window) : List FEv :=
  w.bad.map (fun _ => { flag := 3, cause := 10, tr := tr, tc := tc, band := 0xFFFF, offset := 0xFFFF,
                        handle := w.v.handle })

def PWork.compute (w : PWork) (p : PassIn) (tr tc : Nat) : PassOut :=
  let nr := p.x.r1 - p.x.r0
  let nc := p.x.c1 - p.x.c0
  let n := p.x.k1 - p.x.k0
  let init := p.wi.map (·.patterns)
  let hi := (w.init.map (·.handle)).getD 0
  let out := w.out.handle
  match w.arr with
  | .wide =>
    let m := maskLanes (w.pk = 2) nr p.wm
    let a := masked 0 m (lanes (w.pk = 2) nr 0 p.wa.patterns)
    let b := lanes (w.pk != 0) nc 0 p.wb.patterns
    let (acc, ev) := wideTile w.rate n a b w.a.handle w.b.handle init hi out
    { acc := acc, corr := acc.map (fun r => r.map (fun _ => 0)), evs := ev.map (PEv.toFEv tr tc p.x.k0),
      cevs := [] }
  | arr =>
    let e := w.edges p
    let (acc, ev) := match arr with
      | .forward => forwardTile w.rate e.a e.b (w.skips p) init hi out
      | _ => backwardTile w.rate e.a e.b (w.skips p) init hi out
    let (corr, cev) := corrections e.a e.b e.ea e.eb w.a.handle w.b.handle out
    { acc := acc, corr := corr, evs := ev.map (PEv.toFEv tr tc p.x.k0)
      cevs := mismatchEvs tr tc p.wa ++ mismatchEvs tr tc p.wb ++ cev.map (PEv.toFEv tr tc p.x.k0) }

/-! ### Scales and output factors (R58, R83, R86) -/

/-- A factor of the output with what forming it set: invalid for a NaN scale or factor and for zero times infinity,
underflow and inexact for a flush, overflow for an excess (R46, R436), which each element that takes it counts.
(open points: DEDUCED, log entry 28) -/
def factorMul (a b : F32 × Fl) : F32 × Fl :=
  let (v, fl) := mulF false a.1 b.1
  (v, a.2.or (b.2.or fl.ofFactor))

/-- An FP32 operand of a descriptor as read (R436). -/
def factorOf (x : F32) : F32 × Fl := (x, readFl x)

/-- D = Ta × Tb (R58, R83). -/
def PWork.scaleD (w : PWork) : F32 × Fl := factorMul (factorOf w.a.scale) (factorOf w.b.scale)

/-- D of an element: D itself, D1 or D0 by its mask bit; none: f0 is zero and the bit is 0. -/
def PWork.dAt (w : PWork) (bits : Option (List (List Bool))) (i j : Nat) : Option (F32 × Fl) :=
  match bits with
  | none => some w.scaleD
  | some b =>
    if matAt b i j false then some (factorMul w.scaleD (factorOf w.d.f1))
    else if isZero w.d.f0 then none
    else some (factorMul w.scaleD (factorOf w.d.f0))

/-- A finished element of the tile (R58, R86). -/
def PWork.cell (w : PWork) (bits : Option (List (List Bool))) (acc corr : List (List F32)) (i j : Nat) : Cell :=
  match w.dAt bits i j with
  | none => { y := 0, u := 0, fl := Fl.none }
  | some d => drainCell (matAt acc i j 0) (matAt corr i j 0) d w.out.tInv

/-- The cells of a tile by rows. -/
def PWork.cells (w : PWork) (bits : Option (List (List Bool))) (acc corr : List (List F32)) :
    List (List Cell) :=
  (List.range acc.length).map (fun i =>
    (List.range (acc.getD i []).length).map (fun j => w.cell bits acc corr i j))

/-! ### Blink (R69, R91, R129, R130) -/

/-- A tile, or a tile and band, is sampled. -/
def PWork.sampled (w : PWork) (s : State) (tr tc band : Nat) : Bool :=
  let n := (s.ctx w.o.c).num
  !w.o.quiet && !w.d.noBlink && w.arr != .wide &&
    (ditherHash 3 w.o.seed (handleIdx w.out.handle) w.o.step ((tr * w.tc + tc) * w.bands + band) 0).toNat % 65536
      < n.watchInForce.blinkRate.toNat

/-- An edge as FP32 values, each side-list value added at its position (R69, R91). -/
def blinkLanes (x : List (List El)) (es : List Entry) : List (List F32) :=
  es.foldl (fun m e => m.modify e.lane (fun row => row.modify e.k (fun v => (addF true v e.o).1)))
    (x.map (fun row => row.map blinkVal))

/-- The FP32 reference y_r of a tile and the events of its check on the wide array.
(open points: DEDUCED, log entry 27) -/
def PWork.blinkRef (w : PWork) (p : PassIn) (bits : Option (List (List Bool))) (tr tc : Nat) :
    List (List F32) × List FEv :=
  let e := w.edges p
  let (acc, ev) := wideTile 4 (p.x.k1 - p.x.k0) (blinkLanes e.a e.ea) (blinkLanes e.b e.eb) w.a.handle
    w.b.handle (p.wi.map (·.patterns)) ((w.init.map (·.handle)).getD 0) w.out.handle
  ((List.range acc.length).map (fun i => (List.range (acc.getD i []).length).map (fun j =>
      match w.dAt bits i j with
      | none => 0
      | some d => (mulF true (matAt acc i j 0) d.1).1)),
   ev.map (PEv.toFEv tr tc p.x.k0))

/-! ### A pass (R54, R64) -/

/-- When a plate of a product's operand is met: with its first reduction step; INIT before and what the drain reads after
the rest. (open points: DEDUCED, log entry 32) -/
def PWork.plateTime (w : PWork) (off i j : Nat) : Nat :=
  if off = 48 then (if w.pk = 0 then j else i)
  else if off = 32 || off = 96 then (if w.pk = 2 then i else j)
  else if off = 80 then 0
  else w.red

/-- The state as a reader finds it that goes on past uncorrectable plates of its slot: their bytes are free values.
(open points: DEDUCED, log entry 32) -/
def State.pastPoison (s : State) (c : Slot) : State :=
  (s.badKeys.filter (fun k => memKey c 0 ≤ k && k < memKey c rangeBytes)).foldl
    (fun s k => s.undefine c (k - memKey c 0) 64) s

/-- A pass, or a sub-tile of the wide array's, ends: the operands are read, the events raised, and the accumulators move
to the shadow. A pass that meets a stale plate under the fault action completes all the same; so does one that meets an
uncorrectable plate, whose accumulators never move (R64, R65, R211, R433). The wide-array events of a sampled tile's
Blink check count with the tile, whether or not the check is dropped later: the report's counts are no matter of which
checks ran (R116, R125, R146; DEDUCED, log entry 27). The events of a unit issued again were counted where it first ran
(R146). -/
def PWork.runPass (w : PWork) (s : State) (core : Nat) (ps : Pass) : State × Option Shadow :=
  let p := w.read s ps
  let lost := p.windows.any (fun x => x.2.poison.isSome)
  let u := if lost then s.pastPoison w.o.c else s
  let q := if lost then w.read u ps else p
  let (s, bad) := State.noteWindows { s with freeCtr := u.freeCtr } w.o w.plateTime p.windows
  let r := w.compute q ps.tr ps.tc
  let again := ((s.run? w.o.c w.o.n).map (fun x => x.counted.contains (ps.unit, ps.sub))).getD false
  let s := if again then s
    else (s.events w.o core (arrCode w.arr) r.evs).events w.o core 6 r.cevs
  if lost then (s, none)
  else
    let blink := if !bad && w.sampled s ps.tr ps.tc ps.band then
        some (w.blinkRef p (p.wo.map (·.bits)) ps.tr ps.tc) else none
    let s := match blink with
      | some (_, evs) => if again then s else s.events w.o core 2 evs
      | none => s
    (s, some { pass := ps, acc := r.acc, corr := r.corr, blink := blink.map (·.1) })

/-! ### Writing a tile (R58 to R60, R87, R133) -/

/-- Rounding draws of a writer (R36, R140, R141). -/
def drawOf (o : OpCtx) (v : TView) (round : U8) : Option Draw :=
  if roundSel v.fmt round && (v.fmt.scaled || v.fmt == .bf16) then
    some { seed := o.seed, tensor := handleIdx v.handle, step := o.step }
  else none

/-- A layer's figures with nothing seen (R132). -/
def LayerWatch.reset : LayerWatch :=
  { hist := List.replicate 16 0, darkSteps := 0, blinkTiles := 0, blinkDivTiles := 0, blinkWorst := 0,
    wgPlates := 0, wgNonZero := false, blinkLogged := false, darkRaised := false }

/-- The key of a layer's figures of one step; the bare layer number is that of its dark count. -/
def layerKey (step : U64) (layer : Nat) : Nat := 65536 * (step.toNat + 1) + layer

/-- The layer figures take the plates of a weight gradient; the close of the step tells whether they are kept
(R126, R132 to R134; DEDUCED). (open points: DEDUCED, log entry 26) -/
def State.reportDark (s : State) (o : OpCtx) (plates : Nat) (nonZero : Bool) : State :=
  if o.quiet || o.layer = 0xFFFF || plates = 0 then s
  else
    s.modNum o.c (fun x =>
      { x with
        layerWatch := kvMod x.layerWatch (layerKey o.step o.layer.toNat) .reset (fun l =>
          { l with wgPlates := satAdd32 l.wgPlates plates, wgNonZero := l.wgNonZero || nonZero }) })

/-- What a writer leaves when it has written a tile or an output: events, report, dark plates, fault. -/
def State.closeWriter (o : OpCtx) (cfg : WCfg) (unit : Nat) (w : WStat) : State :=
  let s := w.report o cfg
  let s := s.events o unit cfg.kind (inCycles w.evs)
  let s := s.reportDark o w.wgPlates w.wgNonZero
  let s := s.modRun o.c o.n (fun r => { r with tagged := w.tagged, regs := w.regs })
  match w.fault with
  | some (st, a) => s.faultOp o st cfg.v.handle a []
  | none => s

def State.taggedOf (s : State) (o : OpCtx) : List Nat := ((s.run? o.c o.n).map (·.tagged)).getD []

/-- Rows of the tile that KEEP_ROWS discards (R87). -/
def PWork.rowKept (s : State) (w : PWork) (x : Box) (i : Nat) : Bool :=
  match w.keep with
  | none => true
  | some v => ((s.opWindow w.o.c v 0 1 (x.r0 + i) (x.r0 + i + 1)).bits.getD 0 []).getD 0 false

/-- Side-list regions of the output that a tile fills. -/
def PWork.tileRegs (w : PWork) (x : Box) : List Nat :=
  (w.out.regions (w.out.rowFirst + x.r0) (w.out.rowFirst + x.r1) x.c0 x.c1).map (·.reg)

/-- Writes rows of finished cells to the tile, or sub-tile `x`, of the output: the first begins the tile's side-list
regions and the last ends them (R65, R105, R107). The sub-tiles of a wide tile fill the slots of a region in the order in
which they drain, not by INDEX over the whole tile, where R107 names both orders (DEDUCED, log entry 29). -/
def PWork.put (w : PWork) (s : State) (core : Nat) (x : Box) (ps : Pass) (dark : Bool)
    (rows : List (Option (List Cell))) : State :=
  let t := w.tileBox ps
  let cfg : WCfg := { c := w.o.c, v := w.out, draw := drawOf w.o w.out w.d.round, kind := 3, row0 := x.r0 - t.r0 }
  let old := ((s.run? w.o.c w.o.n).map (·.regs)).getD []
  let own := w.tileRegs t
  let regs := if ps.sub = 0 then old.filter (fun q => !own.contains q.1) else old
  let st := { WStat.new s (s.taggedOf w.o) with regs := regs }
  let st := st.tileRows cfg ps.tr ps.tc dark (w.out.rowFirst + x.r0) x.c0
    (rows.map (fun r => r.map (fun cs => cs.map some)))
  let st := if w.moreSubs ps then st else st.endRegions cfg (w.out.rowFirst + t.r0) t.c0 w.tw
  State.closeWriter w.o cfg core st

/-- A plain value as a finished cell. -/
def Cell.plain (v : F32) : Cell := { y := v, u := v, fl := Fl.none }

/-! ### Combining K-bands (R181 to R186) -/

/-- A tile's place in the partial buffer: the address of its slot (R181). (open points: DESIGN CHOICE, log entry 30) -/
def PWork.slotAddr (w : PWork) (rank : Nat) : Nat :=
  match w.partials with
  | none => 0
  | some p =>
    let sz := partialSlot w.bands w.o.mode.toNat
    p.base + sz * (rank % Nat.max 1 (partialSlots p w.bands w.o.mode.toNat))

def PWork.planeAddr (w : PWork) (rank p i : Nat) : Nat := w.slotAddr rank + 64 + (p - 1) * 131072 + 1024 * i

/-- A partial: rows of values, none for a discarded row. -/
abbrev Band := List (Option (List F32))

/-- Some element of a partial is not zero. -/
def bandNonZero (v : Band) : Bool :=
  v.any (fun r => match r with | none => false | some cs => cs.any (fun x => !isZero x))

def bandPlates (v : Band) : Nat :=
  sumNat (fun r => match r with | none => 0 | some cs => ceilDiv cs.length 16) v

/-- A plane written: plane 0 is the output tile (R181, R186). The drain reports each plate it writes (R83, R133).
(open points: DESIGN CHOICE, log entry 30) -/
def PWork.writePlane (w : PWork) (s : State) (core : Nat) (x : Box) (ps : Pass) (rank p : Nat) (v : Band) : State :=
  if p = 0 then w.put s core x ps true (v.map (fun r => r.map (fun cs => cs.map Cell.plain)))
  else
    ((List.range v.length).foldl (fun s i =>
      match v.getD i none with
      | none => s
      | some row => s.store w.o.c (w.planeAddr rank p i)
          (padTo 1024 (row.flatMap (bvLe 4)))) s).reportDark w.o (bandPlates v) (bandNonZero v)

/-- A plane as read, row by row, and its first poisoned plate. (open points: DESIGN CHOICE, log entry 30) -/
def PWork.readPlane (w : PWork) (s : State) (x : Box) (rank p : Nat) : List (List F32) × Option Nat :=
  let nc := x.c1 - x.c0
  if p = 0 then
    let win := s.opWindow w.o.c w.out x.r0 x.r1 x.c0 x.c1
    (win.patterns, win.poison)
  else
    ((List.range (x.r1 - x.r0)).map (fun i =>
        let b := s.bytes w.o.c (w.planeAddr rank p i) 1024
        (List.range nc).map (fun j => fieldBv 32 b (4 * j) 4)),
     (List.range (x.r1 - x.r0)).findSome? (fun i => s.firstPoison w.o.c (w.planeAddr rank p i) (4 * nc)))

/-- FP32 addition of partials: flushed; a NaN partial is invalid with CAUSE 6 (R182, R186, R436). -/
def combineAdd (a b : F32) : F32 × Fl :=
  if isNan a || isNan b then (nan32, Fl.invalid 6) else addF false a b

/-- The sum of two partials of a tile and the flags of the drain quantiser (R186). -/
def combineBands (v : Band) (q : List (List F32)) (mk : Nat → Nat → FEv) : Band × List FEv :=
  let rows := (List.range v.length).map (fun i =>
    (v.getD i none).map (fun r => (List.range r.length).map (fun j => combineAdd (r.getD j 0) (matAt q i j 0))))
  (rows.map (fun r => r.map (fun cs => cs.map (·.1))),
   inCycles (rowEvents 128 (rows.map (fun r => match r with | none => [] | some cs => cs.map (·.2)))
     (fun _ _ flag cause => mk flag cause)))

/-- The state plate's bit is set by an atomic OR at its home; the bits as they were, or none where the plate is poisoned
and the merge ends the operation (R183, R233, R234). -/
def PWork.fetchOr (w : PWork) (s : State) (rank bit : Nat) : State × Option Nat :=
  let a := w.slotAddr rank
  let s := s.touch w.o.c a 64
  if s.poisoned w.o.c a then (s.faultOp w.o St.pageUncorrectable ((w.partials.map (·.handle)).getD 0) a [], none)
  else
    let old := s.num w.o.c a 64
    (s.store w.o.c a (natLe 64 (old ||| 2 ^ bit)), some old)

/-- The engine reads a plane: its pages are touched (R247). -/
def PWork.touchPlane (w : PWork) (s : State) (x : Box) (rank p : Nat) : State :=
  (List.range (x.r1 - x.r0)).foldl (fun s i =>
    if p = 0 then s.touch w.o.c (w.out.addr (w.out.rowFirst + x.r0 + i) (x.c0 / 16)) (4 * (x.c1 - x.c0))
    else s.touch w.o.c (w.planeAddr rank p i) (4 * (x.c1 - x.c0))) s

/-- complete_band of R183: `l`, `i`, `n` as there, for at most `fuel` levels. -/
def PWork.completeBand (w : PWork) (core : Nat) (x : Box) (ps : Pass) (rank : Nat) :
    Nat → State → Nat → Nat → Nat → Band → State
  | 0, s, _, _, _, v => w.writePlane s core x ps rank 0 v
  | fuel + 1, s, l, i, n, v =>
    if n ≤ 1 then w.writePlane s core x ps rank 0 v
    else
      let sib := i ^^^ 1
      if sib < n then
        let s := w.writePlane s core x ps rank (i <<< l) v
        match w.fetchOr s rank (nodeBit l i w.bands 0) with
        | (s, none) => s
        | (s, some old) =>
        if !old.testBit (nodeBit l sib w.bands 0) then s
        else
          let s := w.touchPlane s x rank (sib <<< l)
          let (q, poison) := w.readPlane s x rank (sib <<< l)
          match poison with
          | some a => s.faultOp w.o St.pageUncorrectable ((w.partials.map (·.handle)).getD 0) a []
          | none =>
            let mk := fun flag cause =>
              ({ flag := flag, cause := cause, tr := ps.tr, tc := ps.tc, band := 0xFFFF, offset := 0xFFFF,
                 handle := w.out.handle } : FEv)
            let (v, evs) := combineBands v q mk
            let s := s.events w.o core 3 evs
            w.completeBand core x ps rank fuel s (l + 1) (i / 2) ((n + 1) / 2) v
      else w.completeBand core x ps rank fuel s (l + 1) (i / 2) ((n + 1) / 2) v

/-- In throughput mode the plates of a partial go to their homes as adds (R184). -/
def PWork.sendAdds (w : PWork) (s : State) (core : Nat) (x : Box) (ps : Pass) (v : Band) : State :=
  let adds := (List.range v.length).flatMap (fun i =>
    match v.getD i none with
    | none => []
    | some row => (List.range (ceilDiv row.length 16)).map (fun k =>
        ({ c := w.o.c, n := w.o.n, core := core, unit := ps.unit,
           key := w.out.addr (w.out.rowFirst + x.r0 + i) ((x.c0 + 16 * k) / 16),
           vals := (row.drop (16 * k)).take 16, tr := ps.tr, tc := ps.tc } : HomeAdd)))
  { s with arrays := { s.arrays with adds := s.arrays.adds ++ adds } }

/-- A finished band partial is combined (R183, R184, R185). -/
def PWork.sinkBand (w : PWork) (s : State) (core : Nat) (x : Box) (ps : Pass) (v : Band) : State :=
  let rank := ps.unit / w.bands
  if w.o.mode = 0 then w.completeBand core x ps rank 16 s 0 ps.band w.bands v
  else
    -- with one band there is no state plate (R181)
    match (if w.bands ≤ 1 then (s, some 0) else w.fetchOr s rank ps.band) with
    | (s, none) => s
    | (s, some old) =>
      if old % 2 ^ w.bands = 0 && !w.addsToOut then w.writePlane s core x ps rank 0 v
      else w.sendAdds s core x ps v

/-! ### Draining a shadow (R58, R62, R83, R86, R87) -/

/-- The array a key of `queues` and `shadows` names. -/
def arrKey (core : Nat) (a : ArrayKind) : Nat := 4 * core + arrCode a

/-- The drain reads the tile of a shadow. -/
def PWork.drain (w : PWork) (s : State) (core : Nat) (sh : Shadow) : State :=
  let ps := sh.pass
  let x := w.passBox ps
  let wo := w.outMask.map (fun v => s.opWindow w.o.c v x.r0 x.r1 x.c0 x.c1)
  let cells := w.cells (wo.map (·.bits)) sh.acc sh.corr
  let rows := (List.range cells.length).map (fun i =>
    if w.rowKept s x i then some (cells.getD i []) else none)
  let s := match sh.blink with
    | none => s
    | some ref =>
      let recs := ([w.a.track, w.b.track].filterMap id).dedup
      let chk : BlinkCheck := { op := w.o, key := arrKey core w.arr, lin := ps.tr * w.tc + ps.tc, band := ps.band,
                                narrow := cells.map (fun r => r.map (·.y)), ref := ref,
                                recs := recs, handle := w.out.handle }
      { s with arrays := { s.arrays with blinks := kvMod s.arrays.blinks core [] (· ++ [chk]) } }
  if w.bands ≤ 1 && !w.addsToOut then w.put s core x ps (w.pk = 2) rows
  else
    let evs := rowEvents 128 (rows.map (fun r => match r with | none => [] | some cs => cs.map (·.fl)))
      (fun i _ flag cause =>
        { flag := flag, cause := cause, tr := ps.tr, tc := ps.tc, band := 0xFFFF, offset := i,
          handle := w.out.handle })
    let s := s.events w.o core 3 (inCycles evs)
    w.sinkBand s core x ps (rows.map (fun r => r.map (fun cs => cs.map (·.u))))

/-! ### The rows -/

/-- Open points: DESIGN CHOICE, log entry 23. -/
def Arrays.push (a : Arrays) (key : Nat) (ps : List Pass) : Arrays :=
  if ps.isEmpty then a else { a with queues := kvMod a.queues key [] (· ++ ps) }

/-- The tiler splits a product, or opens it to claims (R171, R174 to R177). -/
def beginProduct (s : State) (o : OpRec) (oc : OpCtx) (vs : List (Nat × TView)) : State :=
  match o.desc with
  | .product d =>
    match PWork.of oc d vs with
    | none => s
    | some w =>
      let cores := s.participants oc.c d.groupMask
      let s := s.modRun oc.c oc.n (fun r =>
        { r with tr := w.tr, tc := w.tc, bands := w.bands,
                 left := if w.claims then w.tr * w.tc * w.bands else 0 })
      if w.claims then s
      else
        (List.range cores.length).foldl (fun s i =>
          let ps := (coreTiles w.tr w.tc cores.length i).map (fun t =>
            ({ c := oc.c, n := oc.n, tr := t.1, tc := t.2, band := 0, unit := t.1 * w.tc + t.2 } : Pass))
          { s with arrays := s.arrays.push (arrKey (cores.getD i 0) w.arr) ps }) s
  | _ => s

def isProduct (pk : U8 → Bool) : Desc → Bool
  | .product d => pk d.pkind
  | _ => false

/-- FORWARD; a PKIND that is no product is refused here (R200, R210). (open points: DESIGN CHOICE, log entry 23) -/
def execForward (c : Slot) (n : Nat) (s : State) : Host.Outcome State Fault Refusal :=
  .next (s.startOp c n (isProduct (fun p => p != 1 && p != 2)) 0 none beginProduct)

def execDataGrad (c : Slot) (n : Nat) (s : State) : Host.Outcome State Fault Refusal :=
  .next (s.startOp c n (isProduct (fun p => p == 1)) 0 none beginProduct)

def execWeightGrad (c : Slot) (n : Nat) (s : State) : Host.Outcome State Fault Refusal :=
  .next (s.startOp c n (isProduct (fun p => p == 2)) 0 none beginProduct)

/-- The running product a pass belongs to. -/
def State.workOf (s : State) (c : Slot) (n : Nat) : Option PWork :=
  match s.op? c n with
  | none => none
  | some o =>
    match o.desc, o.run with
    | .product d, some r => PWork.of (o.ctx c r.seed r.mode) d r.views
    | _, _ => none

/-- An array at a pass boundary takes its group's performance point (R359). -/
def State.passBoundary (s : State) (core key : Nat) : State :=
  let b := groupBlock (core / 8)
  if (s.block b).taking.contains key then s.modBlock b (fun x => { x with taking := x.taking.erase key }) else s

/-- An array goes on: with the next sub-tile of the pass at the front of its queue, or past that pass (R54, R65). -/
def State.nextPass (s : State) (core key : Nat) (more : Bool) : State :=
  let q := kvGetD s.arrays.queues key []
  if more then
    { s with arrays := { s.arrays with queues := kvSet s.arrays.queues key (q.modify 0 (fun p => { p with sub := p.sub + 1 })) } }
  else State.passBoundary { s with arrays := { s.arrays with queues := kvSet s.arrays.queues key (q.drop 1) } } core key

/-- A tile waits in the shadow of its array for the core's drain (R54, R62). -/
def State.holdShadow (s : State) (core : Nat) (a : ArrayKind) (sh : Shadow) : State :=
  { s with arrays := { s.arrays with
    shadows := kvSet s.arrays.shadows (arrKey core a) sh
    drains := kvMod s.arrays.drains core [] (· ++ [arrCode a]) } }

/-- An array of a core ends the pass at the front of its queue, or a sub-tile of it, once its shadow is free (R54, R65).
The pass stands at the front until it has ended, so that a fault it meets drops none but those behind it, and the
sub-tiles left of a wide tile pass on (R64, R211). A core of a die that is out of service runs nothing (R287).
(open points: DESIGN CHOICE, log entry 23) -/
def execArrayPassEnd (core : Fin 512) (a : ArrayKind) (s : State) : Host.Outcome State Fault Refusal :=
  if s.sku.cores ≤ core.val then .fault .noSuchUnit
  else
    let key := arrKey core.val a
    match kvGetD s.arrays.queues key [] with
    | [] => .next s
    | ps :: _ =>
      if (kvGet s.arrays.shadows key).isSome || !s.dieRuns (core.val / 64) || s.workWaits ps.c ps.n then .next s
      else
        match s.workOf ps.c ps.n with
        | none => .next (s.nextPass core.val key false)
        | some w =>
          match w.runPass s core.val ps with
          | (s, none) => .next (s.nextPass core.val key (w.moreSubs ps))
          | (s, some sh) => .next ((s.nextPass core.val key (w.moreSubs ps)).holdShadow core.val a sh)

/-- A tile that was the last of its slot to be combined gives the slot back (R179). -/
def State.unitDone (s : State) (w : PWork) (ps : Pass) : State :=
  if !w.claims then s
  else
    let rank := ps.unit / w.bands
    s.modRun w.o.c w.o.n (fun r =>
      let done := kvMod r.bandsDone rank [] (fun l => insertNat l ps.band)
      let full := (kvGetD done rank []).length = w.bands
      let waiting := s.arrays.adds.any (fun h => h.c == w.o.c && h.n == w.o.n && h.unit / w.bands == rank)
      { r with left := r.left - 1, bandsDone := done
               held := if full && !waiting then r.held.filter (fun h => h.2 != rank) else r.held })

/-- A shadow is free again. -/
def State.freeShadow (s : State) (key : Nat) : State :=
  { s with arrays := { s.arrays with shadows := kvErase s.arrays.shadows key } }

/-- The drain quantiser of a core drains the tile that waits longest; of an operation that has met a fault it writes no
plate (R62, R64). A sampled tile stays in its shadow until its check has read it (R69). A core of a die that is out of
service runs nothing (R287).
(open points: DESIGN CHOICE, log entry 23) -/
def execTileDrain (core : Fin 512) (s : State) : Host.Outcome State Fault Refusal :=
  if s.sku.cores ≤ core.val then .fault .noSuchUnit
  else
    match kvGetD s.arrays.drains core.val [] with
    | [] => .next s
    | k :: rest =>
      let key := 4 * core.val + k
      match kvGet s.arrays.shadows key with
      | none => .next { s with arrays := { s.arrays with drains := kvSet s.arrays.drains core.val rest } }
      | some sh =>
        if !s.dieRuns (core.val / 64) || s.workWaits sh.pass.c sh.pass.n then .next s
        else
          let s := { s with arrays := { s.arrays with drains := kvSet s.arrays.drains core.val rest } }
          match s.workOf sh.pass.c sh.pass.n with
          | none => .next (s.freeShadow key)
          | some w =>
            if s.faulted w.o then .next (s.freeShadow key)
            else
              let s := (w.drain s core.val sh).unitDone w sh.pass
              .next (if sh.blink.isSome then s else s.freeShadow key)

/-- A plate of FP32 values as stored. -/
def plateOfVals (old : Nat) (vals : List F32) : Nat :=
  (List.range vals.length).foldl (fun p i => setPlateCode .fp32 p i (vals.getD i 0).toNat) old

/-- The home adds a plate of a partial (R184, R186, R233). Its flags count in the kind 3 record of the core that sent the
add: the spec names no core for them (DESIGN CHOICE, log entry 30). -/
def PWork.homeAdd (w : PWork) (s : State) (h : HomeAdd) : State :=
  let s := s.touch h.c h.key 64
  if s.poisoned h.c h.key then s.faultOp w.o St.pageUncorrectable w.out.handle h.key []
  else
    let old := s.num h.c h.key 64
    let sums := (List.range h.vals.length).map (fun i =>
      combineAdd (BitVec.ofNat 32 (plateCode .fp32 old i)) (h.vals.getD i 0))
    let mk := fun flag cause =>
      ({ flag := flag, cause := cause, tr := h.tr, tc := h.tc, band := 0xFFFF, offset := 0xFFFF,
         handle := w.out.handle } : FEv)
    let s := s.store h.c h.key (natLe 64 (plateOfVals old (sums.map (·.1))))
    let s := s.events w.o h.core 3 (inCycles (rowEvents 128 [sums.map (·.2)] (fun _ _ flag cause => mk flag cause)))
    s.reportDark w.o 1 (sums.any (fun x => !isZero x.1))

/-- Add `k` of those on their way lands at its home; with the last of its tile, the tile's slot is free (R179, R184). -/
def State.landAdd (s : State) (k : Nat) : State :=
  match s.arrays.adds[k]? with
  | none => s
  | some h =>
    let s := { s with arrays := { s.arrays with adds := s.arrays.adds.eraseIdx k } }
    match s.workOf h.c h.n with
    | none => s
    | some w =>
      let s := w.homeAdd s h
      let rank := h.unit / w.bands
      s.modRun h.c h.n (fun r =>
        let full := (kvGetD r.bandsDone rank []).length = w.bands
        let waiting := s.arrays.adds.any (fun a => a.c == h.c && a.n == h.n && a.unit / w.bands == rank)
        { r with held := if full && !waiting then r.held.filter (fun x => x.2 != rank) else r.held })

/-- The adds that a core has sent land, `fuel` of them at most (R119, R290). (open points: DEDUCED, log entry 47) -/
def State.landAddsOf (s : State) (core : Nat) : Nat → State
  | 0 => s
  | fuel + 1 =>
    match s.arrays.adds.findIdx? (fun h => h.core == core) with
    | none => s
    | some k => (s.landAdd k).landAddsOf core fuel

/-- One plate operation at a home, which waits for the flash its operation waits for (R287). -/
def execPlateHomeAdd (k : Nat) (s : State) : Host.Outcome State Fault Refusal :=
  .next (if (s.arrays.adds[k]?).any (fun h => s.workWaits h.c h.n) then s else s.landAdd k)

/-- A core may claim for an operation: it holds no pass of it, or one whose pass has started (R179). -/
def Arrays.mayClaim (a : Arrays) (key : Nat) (c : Slot) (n : Nat) : Bool :=
  (kvGetD a.queues key []).tail.all (fun p => !(p.c == c && p.n == n))

/-- A core takes its next unit: from the reissue list first, then from the claim counter; the first unit of a
tile waits for the tile's slot, whose state plate the tiler clears (R177 to R181, R287).
(open points: DESIGN CHOICE, log entry 75) -/
def execClaimUnit (c : Slot) (n : Nat) (core : Fin 512) (s : State) : Host.Outcome State Fault Refusal :=
  if s.sku.cores ≤ core.val then .fault .noSuchUnit
  else
    match s.workOf c n, s.run? c n with
    | some w, some r =>
      let key := arrKey core.val w.arr
      if r.fault.isSome || !s.dieRuns (core.val / 64) || s.workWaits c n || !r.cores.contains core.val || !s.arrays.mayClaim key c n ||
          (r.reissue.isEmpty && (!w.claims || r.ended.contains core.val)) then .next s
      else
        let give := fun (s : State) (u sub : Nat) =>
          match (if w.claims then unitTile w.tr w.tc w.bands u else some (u / w.tc, u % w.tc, 0)) with
          | none => s
          | some (tr, tc, band) =>
            { s with arrays := s.arrays.push key [{ c := c, n := n, tr := tr, tc := tc, band := band, unit := u, sub := sub }] }
        match r.reissue with
        | u :: rest => .next (give (s.modRun c n (fun r => { r with reissue := rest })) u.1 u.2)
        | [] =>
          let u := r.nextUnit
          if w.tr * w.tc * w.bands ≤ u then
            .next (s.modRun c n (fun r => { r with ended := insertNat r.ended core.val }))
          else if u % w.bands = 0 && 1 < w.bands then
            let rank := u / w.bands
            let slots := (w.partials.map (fun p => partialSlots p w.bands w.o.mode.toNat)).getD 1
            let slot := rank % Nat.max 1 slots
            if r.held.any (fun h => h.1 == slot) then .next s
            else
              let s := s.store c (w.slotAddr rank) (zeros 64)
              let s := s.modRun c n (fun r => { r with nextUnit := u + 1, held := r.held ++ [(slot, rank)] })
              .next (give s u 0)
          else .next (give (s.modRun c n (fun r => { r with nextUnit := u + 1 })) u 0)
    | _, _ => .next s

/-! ### The Blink check (R70, R130, R131) -/

/-- A layer's figures with one compared tile (R130 to R132). (open points: DEDUCED, log entry 26) -/
def LayerWatch.blink (l : LayerWatch) (errs : List F32) (diverged : Bool) : LayerWatch :=
  { l with hist := errs.foldl (fun h e => let b := blinkBin e; h.set b (satAdd32 (h.getD b 0) 1)) l.hist
           blinkTiles := satAdd32 l.blinkTiles 1
           blinkDivTiles := if diverged then satAdd32 l.blinkDivTiles 1 else l.blinkDivTiles
           blinkWorst := errs.foldl (fun w e =>
             let e := if blinkBin e = 15 then inf32 false else e
             if ltF w e then e else w) l.blinkWorst }

/-- The errors of a check's elements. -/
def BlinkCheck.errs (b : BlinkCheck) : List F32 :=
  let yr := b.ref.flatMap id
  let tmax := yr.foldl (fun a x => if isFinite x && ltF a (absF x) then absF x else a) 0
  let fl := (mulF true tmax (pow2F 111)).1
  List.zipWith (fun yn yr => blinkErr yn yr fl) (b.narrow.flatMap id) yr

/-- A check compares its tile and reports (R127, R131). -/
def State.blinkCompare (s : State) (b : BlinkCheck) : State :=
  let n := (s.ctx b.op.c).num
  let errs := b.errs
  let worst := errs.foldl (fun w e => if ltF w e then e else w) (0 : F32)
  let div := errs.any (fun e => ltF n.watchInForce.blinkThr e)
  let keep := b.op.layer != 0xFFFF
  let l := layerKey b.op.step b.op.layer.toNat
  let s := s.modNum b.op.c (fun x => if keep then
      { x with layerWatch := kvMod x.layerWatch l .reset (fun w => w.blink errs div) } else x)
  let s := s.modStepAcc b.op.c b.op.step (fun a =>
    { a with blinkChecked := satAdd32 a.blinkChecked 1
             blinkDivergent := if div then satAdd32 a.blinkDivergent 1 else a.blinkDivergent
             blinkFirstLayer := if div && b.op.layer.toNat < a.blinkFirstLayer.toNat then b.op.layer
               else a.blinkFirstLayer
             notices := if div then a.notices ||| 16 else a.notices })
  if !div then s
  else
    let s := s.modNum b.op.c (fun x => { x with recs := x.recs.map (fun r =>
      if b.recs.contains r.1 then (r.1, { r.2 with blinkDiv := satAdd32 r.2.blinkDiv 1 }) else r) })
    let logged := ((kvGet n.layerWatch l).map (·.blinkLogged)).getD false
    if logged then s
    else
      let s := s.modNum b.op.c (fun x => { x with
        layerWatch := kvMod x.layerWatch l .reset (fun w => { w with blinkLogged := true }) })
      s.raiseStatus sevNotice St.blinkDivergence
        { Event.blank with
          context := s.ctxId b.op.c, unit := b.op.layer, opId := b.op.opId, handle := b.handle, step := b.op.step
          args := [BitVec.ofNat 64 b.lin, BitVec.ofNat 64 b.band, worst.setWidth 64] }

/-- Checks waiting on a core that are dropped: each counts in its step's report and frees the shadow it held (R70).
(open points: DEDUCED, log entry 27) -/
def State.dropChecks (s : State) (late : Nat → BlinkCheck → Bool) : State :=
  let gone := s.arrays.blinks.flatMap (fun q => q.2.filter (late q.1))
  let s := { s with arrays := { s.arrays with
    blinks := s.arrays.blinks.map (fun q => (q.1, q.2.filter (fun b => !late q.1 b)))
    shadows := s.arrays.shadows.filter (fun q => !gone.any (fun b => b.key == q.1)) } }
  gone.foldl (fun s b => s.modStepAcc b.op.c b.op.step (fun a =>
    { a with blinkDropped := satAdd32 a.blinkDropped 1 })) s

/-- A Blink check runs when no wide product waits on its core (R70), and its die runs (R287). -/
def execBlinkCheck (core : Fin 512) (s : State) : Host.Outcome State Fault Refusal :=
  if s.sku.cores ≤ core.val then .fault .noSuchUnit
  else
    match kvGetD s.arrays.blinks core.val [] with
    | [] => .next s
    | b :: rest =>
      if !(kvGetD s.arrays.queues (arrKey core.val .wide) []).isEmpty || s.res.coresFailed.contains core.val ||
          !s.dieRuns (core.val / 64) then .next s
      else
        let s := { s with arrays := { s.arrays with blinks := kvSet s.arrays.blinks core.val rest } }
        .next ((s.freeShadow b.key).blinkCompare b)

end Sys2Proof.Machine
end

