-- ==== Sys2Proof/Machine/Snapshot.lean ====
section
/-! DEFINITION. Snapshots: taking, capturing, restoring, mapping and importing images (R225 to R229, R253). -/

namespace Sys2Proof.Machine

/-- The lowest release that a die or the supervisor runs (R2). -/
def State.firmwareRelease (s : State) : U32 :=
  BitVec.ofNat 32 ((((List.range s.sku.dies).map (fun d => (kvGetD s.sec.fw d .reset).running.toNat)).filter
    (· != 0)).foldl Nat.min s.boot.supervisorRelease.toNat)

/-! ### Settings of a slot (R225) -/

/-- Index (of slot 0), subindex and value of every entry an image holds, as step `next` finds them; `held`:
`stash_bytes_held`. (open points: DESIGN CHOICE, log entry 12) -/
def Ctx.settings (x : Ctx) (next : U64) (held : Nat) : List (Nat × Nat × Nat) :=
  let n := x.num.set
  let w := x.num.watchSet
  let t := x.train.set
  [(0x4010, 1, x.num.stale.toNat),
   (0x4120, 1, n.headroom.toNat), (0x4120, 2, n.gradScale.toNat), (0x4120, 3, n.history.toNat),
   (0x4120, 4, n.crush.toNat), (0x4120, 5, n.divisor.toNat), (0x4120, 6, n.budget.toNat),
   (0x4120, 7, n.cleanSteps.toNat), (0x4120, 8, n.tblBase.toNat), (0x4120, 9, n.tblCounts.toNat),
   (0x4120, 10, x.num.alarm.toNat), (0x4120, 11, x.num.inUse.toNat), (0x4120, 12, x.num.refused.toNat),
   (0x4130, 1, w.ringBase.toNat), (0x4130, 2, w.ringEntries.toNat), (0x4130, 3, x.num.reports.toNat),
   (0x4130, 4, w.mask.toNat), (0x4130, 5, w.layerBase.toNat), (0x4130, 6, w.blinkRate.toNat),
   (0x4130, 7, w.blinkThr.toNat), (0x4130, 8, w.darkThr.toNat), (0x4130, 9, x.num.lastNotices.toNat),
   (0x4140, 1, x.num.seed.toNat), (0x4140, 2, x.num.mode.toNat),
   (0x4140, 3, (x.num.stepAcc next).seed.toNat), (0x4140, 4, (x.num.stepAcc next).mode.toNat),
   (0x6140, 1, x.stream.tblBase.toNat), (0x6140, 2, x.stream.tblEntries.toNat),
   (0x6140, 3, x.stream.listsCompleted.toNat), (0x6140, 4, x.stream.lastStatus.toNat),
   (0x6140, 5, next.toNat),
   (0x6150, 1, t.phaseBase.toNat), (0x6150, 2, t.ledgerBase.toNat), (0x6150, 3, t.rings.toNat),
   (0x6150, 4, held), (0x6150, 5, t.journalBase.toNat), (0x6150, 6, t.depth.toNat), (0x6150, 7, t.entryBytes.toNat),
   (0x6150, 10, x.train.manifestBase.toNat), (0x6150, 11, x.train.manifestCount.toNat)]

def Ctx.modSet (x : Ctx) (f : NumSet → NumSet) : Ctx := { x with num := { x.num with set := f x.num.set } }
def Ctx.modWatch (x : Ctx) (f : WatchSet → WatchSet) : Ctx :=
  { x with num := { x.num with watchSet := f x.num.watchSet } }
def Ctx.modTrainSet (x : Ctx) (f : TrainSet → TrainSet) : Ctx :=
  { x with train := { x.train with set := f x.train.set } }

/-- One entry takes an image's value. What R228 sets from the header or leaves empty (`open_step`, seed and mode in
force, the bytes of full slots) is not taken from here. -/
def Ctx.setting (x : Ctx) (base sub v : Nat) : Ctx :=
  match base, sub with
  | 0x4010, _ => { x with num := { x.num with stale := BitVec.ofNat 8 v } }
  | 0x4120, 1 => x.modSet (fun n => { n with headroom := BitVec.ofNat 8 v })
  | 0x4120, 2 => x.modSet (fun n => { n with gradScale := BitVec.ofNat 32 v })
  | 0x4120, 3 => x.modSet (fun n => { n with history := BitVec.ofNat 8 v })
  | 0x4120, 4 => x.modSet (fun n => { n with crush := BitVec.ofNat 32 v })
  | 0x4120, 5 => x.modSet (fun n => { n with divisor := BitVec.ofNat 16 v })
  | 0x4120, 6 => x.modSet (fun n => { n with budget := BitVec.ofNat 64 v })
  | 0x4120, 7 => x.modSet (fun n => { n with cleanSteps := BitVec.ofNat 16 v })
  | 0x4120, 8 => x.modSet (fun n => { n with tblBase := BitVec.ofNat 64 v })
  | 0x4120, 9 => x.modSet (fun n => { n with tblCounts := BitVec.ofNat 32 v })
  | 0x4120, 10 => { x with num := { x.num with alarm := BitVec.ofNat 16 v } }
  | 0x4120, 11 => { x with num := { x.num with inUse := BitVec.ofNat 64 v } }
  | 0x4120, 12 => { x with num := { x.num with refused := BitVec.ofNat 32 v } }
  | 0x4130, 1 => x.modWatch (fun w => { w with ringBase := BitVec.ofNat 64 v })
  | 0x4130, 2 => x.modWatch (fun w => { w with ringEntries := BitVec.ofNat 16 v })
  | 0x4130, 3 => { x with num := { x.num with reports := BitVec.ofNat 64 v } }
  | 0x4130, 4 => x.modWatch (fun w => { w with mask := BitVec.ofNat 8 v })
  | 0x4130, 5 => x.modWatch (fun w => { w with layerBase := BitVec.ofNat 64 v })
  | 0x4130, 6 => x.modWatch (fun w => { w with blinkRate := BitVec.ofNat 16 v })
  | 0x4130, 7 => x.modWatch (fun w => { w with blinkThr := BitVec.ofNat 32 v })
  | 0x4130, 8 => x.modWatch (fun w => { w with darkThr := BitVec.ofNat 16 v })
  | 0x4130, 9 => { x with num := { x.num with lastNotices := BitVec.ofNat 16 v } }
  | 0x4140, 1 => { x with num := { x.num with seed := BitVec.ofNat 64 v } }
  | 0x4140, 2 => { x with num := { x.num with mode := BitVec.ofNat 8 v } }
  | 0x6140, 1 => { x with stream := { x.stream with tblBase := BitVec.ofNat 64 v } }
  | 0x6140, 2 => { x with stream := { x.stream with tblEntries := BitVec.ofNat 32 v } }
  | 0x6140, 3 => { x with stream := { x.stream with listsCompleted := BitVec.ofNat 64 v } }
  | 0x6140, 4 => { x with stream := { x.stream with lastStatus := BitVec.ofNat 16 v } }
  | 0x6150, 1 => x.modTrainSet (fun t => { t with phaseBase := BitVec.ofNat 64 v })
  | 0x6150, 2 => x.modTrainSet (fun t => { t with ledgerBase := BitVec.ofNat 64 v })
  | 0x6150, 3 => x.modTrainSet (fun t => { t with rings := BitVec.ofNat 16 v })
  | 0x6150, 5 => x.modTrainSet (fun t => { t with journalBase := BitVec.ofNat 64 v })
  | 0x6150, 6 => x.modTrainSet (fun t => { t with depth := BitVec.ofNat 8 v })
  | 0x6150, 7 => x.modTrainSet (fun t => { t with entryBytes := BitVec.ofNat 32 v })
  | 0x6150, 10 => { x with train := { x.train with manifestBase := BitVec.ofNat 64 v } }
  | 0x6150, 11 => { x with train := { x.train with manifestCount := BitVec.ofNat 32 v } }
  | _, _ => x

/-- A pair as an image carries it, for slot `c`: 16 bytes (log entry 12). -/
def settingBytes (c : Nat) (p : Nat × Nat × Nat) : Bytes :=
  let (i, sub) := if p.1 = 0x4010 then (0x4010, c + 1) else (p.1 + c, p.2.1)
  natLe 2 i ++ natLe 1 sub ++ zeros 5 ++ natLe 8 p.2.2

/-- The pair in 16 bytes of an image taken on slot `c`. (open points: DESIGN CHOICE, log entry 12) -/
def settingOf (c : Nat) (b : Bytes) : Nat × Nat × Nat :=
  let i := field b 0 2
  (if i = 0x4010 then (i, 1, field b 8 8) else (i - c, field b 2 1, field b 8 8))

/-! ### Sections (R225, R227) -/

/-- The bytes a range of an image holds. -/
def Image.bytesAt (img : Image) (off n : Nat) : Bytes := (List.range n).map (fun i => memGet img.data (off + i))

def alignUp (n : Nat) : Nat := ceilDiv n 64 * 64

/-- Sections in order get their offsets. -/
def placeSections : Nat → List Section → List Section
  | _, [] => []
  | off, x :: rest => { x with offset := off } :: placeSections (alignUp (off + x.length)) rest

def Section.mk' (kind form : Nat) (h : U32) (len count src : Nat) : Section :=
  { kind := BitVec.ofNat 8 kind, form := BitVec.ofNat 8 form, handle := h, offset := 0, length := len,
    count := BitVec.ofNat 32 count, src := src }

/-- The handle of an index, with its entry's generation. -/
def TEntry.handle (e : TEntry) (i : Nat) : U32 := BitVec.ofNat 32 (i + 2 ^ 24 * (e.gen % 256))

/-- Base and entries per region of a tensor's side list, as the context sees it. -/
def State.sideListOf (s : State) (c : Slot) (i : Nat) : Option (Nat × Nat) :=
  let e := s.entryAt c i
  let x := (s.ctx c).num
  match x.track (e.handle i) with
  | some (_, r) => if r.noSide then none else some (r.sideBase.toNat, x.sideCap r)
  | none => if e.side != 0 && e.format ≤ 3 then some (e.side, 16384 / x.inForce.divisor.toNat) else none

/-- The sections of one manifest index: narrow, wide while a format is, and the side list; a ledger slot has
no contents. -/
def State.tensorSections (s : State) (c : Slot) (i : Nat) : List Section :=
  let e := s.entryAt c i
  let h := e.handle i
  let x := s.ctx c
  if (x.train.slotOf i).isSome then [Section.mk' 3 0 h 0 0 0]
  else
    let wide := match x.num.track h with
      | some (_, r) => e.baseWide != 0 && (wideCode r.fmtR || wideCode r.fmtW)
      | none => false
    let side := match s.sideListOf c i with
      | some (a, cap) =>
        let regs := ceilDiv e.rows 128 * ceilDiv e.cols 128
        [Section.mk' 4 0 h (8 * cap * regs) (cap * regs) a]
      | none => []
    Section.mk' 3 0 h (64 * e.bound) e.bound e.base ::
      ((if wide then [Section.mk' 3 1 h (64 * e.boundWide) e.boundWide e.baseWide] else []) ++ side)

/-- The indices of the manifest that have a table entry. -/
def State.manifest (s : State) (c : Slot) : List Nat :=
  let t := (s.ctx c).train
  let a := t.manifestBase.toNat
  if a = 0 || !s.allocated c a (4 * t.manifestCount.toNat) then []
  else ((List.range t.manifestCount.toNat).map (fun k => s.num c (a + 4 * k) 4)).filter (s.hasEntry c)

/-- The settings section's pairs. -/
def State.settingsOf (s : State) (c : Slot) (next : U64) : List (Nat × Nat × Nat) :=
  (s.ctx c).settings next (s.stashHeld c)

/-- All sections of an image of a slot, placed (R225). (open points: DEDUCED, log entry 43) -/
def State.sectionsOf (s : State) (c : Slot) (next : U64) : List Section :=
  let x := s.ctx c
  let n := x.num.inForce
  let w := x.num.watchInForce
  let t := x.train.inForce
  let m := s.manifest c
  let some_ := fun (b : Bool) (q : Section) => if b then [q] else []
  let set := (s.settingsOf c next).length
  let secs := [Section.mk' 1 0 0 (16 * set) set 0, Section.mk' 2 0 0 (64 * m.length) m.length 0] ++
    m.flatMap (s.tensorSections c) ++
    some_ (n.tblBase != 0) (Section.mk' 5 0 0 n.bytes (n.tensors + n.layers) n.tblBase.toNat) ++
    some_ (w.layerBase != 0) (Section.mk' 6 0 0 (128 * n.layers) n.layers w.layerBase.toNat) ++
    some_ (t.journalBase != 0)
      (Section.mk' 7 0 0 (t.depth.toNat * t.entryBytes.toNat) t.depth.toNat t.journalBase.toNat) ++
    some_ (w.ringBase != 0 && x.num.reports != 0)
      (Section.mk' 8 0 0 256 1 (w.ringBase.toNat + 256 * ((x.num.reports - 1).toNat % w.ringEntries.toNat))) ++
    some_ (t.ledgerBase != 0) (Section.mk' 9 0 0 (64 * t.rings.toNat) t.rings.toNat t.ledgerBase.toNat)
  placeSections (alignUp (64 + 32 * secs.length)) secs

def Section.bytes (q : Section) : Bytes :=
  bvLe 1 q.kind ++ bvLe 1 q.form ++ zeros 2 ++ bvLe 4 q.handle ++ natLe 8 q.offset ++ natLe 8 q.length ++
    bvLe 4 q.count ++ zeros 4

def Section.parse (b : Bytes) : Section :=
  { kind := fieldBv 8 b 0 1, form := fieldBv 8 b 1 1, handle := fieldBv 32 b 4 4, offset := field b 8 8,
    length := field b 16 8, count := fieldBv 32 b 24 4, src := 0 }

/-- The header (R227). -/
def Image.header (i : Image) : Bytes :=
  natLe 4 0x4E534B44 ++ natLe 2 1 ++ natLe 2 i.sections.length ++ bvLe 4 i.id ++ bvLe 2 i.owner ++
    bvLe 1 i.dies ++ bvLe 1 i.mode ++ bvLe 8 i.step ++ bvLe 8 i.seed ++ bvLe 8 i.meridian ++
    natLe 8 i.bytes ++ bvLe 4 i.firmware ++ zeros 12

/-! ### Taking an image (R225, R226) -/

def State.image? (s : State) (id : U32) : Option Image := s.images.find? (fun i => i.id == id)

/-- An image of this id exists, or a TAKE of it is pending (R229). -/
def State.idTaken (s : State) (id : U32) : Bool :=
  (s.image? id).isSome || slots.any (fun c => (s.ctx c).train.takeAt == some id)

/-- A capture of the slot is running, or asked for. -/
def State.capturing (s : State) (c : Slot) : Bool :=
  (s.ctx c).train.takeAt.isSome || s.images.any (fun i => !i.committed && i.owner == s.ctxId c)

/-- A TAKE, or a SNAPSHOT entry: refused while a capture runs, and for an id that exists (R226, R229).
(open points: DEDUCED, log entry 43) -/
def State.take (s : State) (c : Slot) (id : U32) : State × U16 :=
  if s.idTaken id || s.capturing c then (s, St.valueOutOfRange)
  else
    (s.modTrain c (fun t => { t with
      takeAt := some id, snap := { SnapStatus.reset with imageId := id, state := 1 } }), St.ok)

/-- The image at the snapshot point, with what it holds from that instant: seed and mode are those of the step after
the closed one, also when a later step has opened (R227). (open points: DEDUCED, log entry 43) -/
def State.newImage (s : State) (c : Slot) (id : U32) (step next : U64) : Image :=
  let x := s.ctx c
  let secs := s.sectionsOf c next
  let bytes := secs.foldl (fun m q => Nat.max m (q.offset + q.length)) (64 + 32 * secs.length)
  let entries := (s.manifest c).flatMap (fun i => s.bytes c (x.stream.tblBase.toNat + 64 * i) 64)
  let fixed := secs.foldl (fun m q =>
    if q.kind = 1 then memWrite m q.offset ((s.settingsOf c next).flatMap (settingBytes c.val))
    else if q.kind = 2 then memWrite m q.offset entries
    else m) []
  { id := id, owner := s.ctxId c, dies := BitVec.ofNat 8 s.sku.dies, mode := (x.num.stepAcc next).mode, step := step,
    seed := (x.num.stepAcc next).seed, meridian := s.meridianField, bytes := bytes, firmware := s.firmwareRelease,
    committed := false, pages := ceilDiv bytes pageBytes, sections := secs, data := fixed, bad := none
    left := ((secs.filter (fun q => q.src != 0)).flatMap (fun q => pagesOf q.src q.length)).dedup.filter
      (fun p => (x.page p).isSome) }

/-- The snapshot point of a close (R226). -/
def State.snapshotPoint (s : State) (c : Slot) (step next : U64) : State :=
  match (s.ctx c).train.takeAt with
  | none => s
  | some id =>
    let img := s.newImage c id step next
    let s := s.modTrain c (fun t => { t with takeAt := none })
    let s' := { s with images := s.images ++ [img] }
    let snap : SnapStatus := { imageId := id, state := 2, status := St.ok, step := step, bytes := BitVec.ofNat 64 img.bytes }
    if s'.poolOk then s'.modTrain c (fun t => { t with snap := snap })
    else
      (s.modTrain c (fun t => { t with snap := { snap with state := 4, status := St.poolExhausted } })).raiseStatus
        sevFault St.poolExhausted { Event.blank with context := s.ctxId c, step := step }

/-- An image whose pages are all captured is committed: its directory and its header are on flash
(R226, R227). -/
def State.commitImage (s : State) (c : Slot) (img : Image) : State :=
  let d := memWrite (memWrite img.data 64 (img.sections.flatMap Section.bytes)) 0 img.header
  let img' := { img with committed := true, data := d }
  let s := { s with images := s.images.map (fun (i : Image) => if i.id == img.id then img' else i) }
  s.modTrain c (fun t => if t.snap.imageId == img.id && t.snap.state == 2 then
    { t with snap := { t.snap with state := 3 } } else t)

/-- The pages of an image are all in the flash of dies that can be reached (R228, R238, R246, R287). -/
def State.imageReadable (s : State) (i : Image) : Bool :=
  (List.range (Nat.min i.pages s.sku.dies)).all (fun k => s.flashUp (k % s.sku.dies))

/-- The image of a slot that its capture still fills. -/
def State.openImage (s : State) (c : Slot) : Option Image :=
  s.images.find? (fun i => !i.committed && i.owner == s.ctxId c)

/-- Capture of page `p` into an image waits: the page, or a page of the image, lies in flash that cannot be reached
(R226, R238, R287). (open points: DESIGN CHOICE, log entry 49) -/
def State.captureWaits (s : State) (c : Slot) (img : Image) (p : Option Nat) : Bool :=
  !s.imageReadable img || p.any (s.lostPage c)

/-- Background capture takes the next page; the header is written when none is left (R226, R287). -/
def execSnapshotCapturePage (c : Slot) (s : State) : Host.Outcome State Fault Refusal :=
  match s.openImage c with
  | none => .next s
  | some img =>
    if s.captureWaits c img img.left.head? then .next s
    else
      let s := match img.left with
        | [] => s
        | p :: _ => s.captureFirst c p
      match s.image? img.id with
      | none => .next s
      | some i => if i.left.isEmpty then .next (s.commitImage c i) else .next s

/-- A page that a write demands is captured ahead of the rest (R226, R287). -/
def execSnapshotDemandCapture (c : Slot) (page : Nat) (s : State) : Host.Outcome State Fault Refusal :=
  if (s.openImage c).any (fun img => s.captureWaits c img (some page)) then .next s
  else .next (s.captureFirst c page)

/-- The SNAPSHOT entry (R225, R226, R268). -/
def actSnapshot (s : State) (d : DueEntry) : State × U16 :=
  match d.ring with
  | .module => (s, St.ok)
  | .ctx c =>
    let (s, st) := s.take c ((d.entry.arg 0).setWidth 32)
    if st = St.ok then (s, st) else ((s.entryNotice d.ring d.entry d.pos st 0).lastStatus d st, st)

def execSnapshot (s : State) : Host.Outcome State Fault Refusal :=
  .next (s.actDue (fun d => d.entry.kind == 4) actSnapshot)

/-! ### snapshot_request (R229) -/

/-- The image an action other than TAKE and IMPORT acts on, and whether the writer may. `vf`: the slot of the
virtual function that writes. -/
def State.imageFor (s : State) (vf : Option Slot) (id : U32) : Except U16 Image :=
  match s.image? id with
  | none => .error St.valueOutOfRange
  | some i =>
    if !i.committed then .error St.valueOutOfRange
    else match vf with
      | some v => if i.owner == s.ctxId v then .ok i else .error St.accessDenied
      | none => .ok i

/-- Pages of the slot that show an image leave its range. -/
def Ctx.unmap (x : Ctx) (id : U32) : List Nat :=
  (x.pool.pages.filter (fun p => match p.2.mapped with | some m => m.1 == id | none => false)).map (·.1)

/-- DELETE, with the status record of the slot that asks: the action's image, which no longer exists (R229).
(open points: DEDUCED, log entry 43) -/
def State.deleteImage (s : State) (c : Slot) (img : Image) : State :=
  let s := slots.foldl (fun s c => s.freePages c ((s.ctx c).unmap img.id)) s
  ({ s with images := s.images.filter (fun i => i.id != img.id) } : State).modTrain c (fun t => { t with
    snap := { imageId := img.id, state := 0, status := St.ok, step := img.step, bytes := BitVec.ofNat 64 img.bytes } })

/-- A range of whole pages a context has not allocated: the refusal, if any (R229, R239, R241). -/
def State.freeRange (s : State) (c : Slot) (a n : Nat) : Option U16 :=
  if a % pageBytes != 0 then some St.misaligned
  else if !inRange a (n * pageBytes) then some St.beyondBound
  else if ((List.range n).map (a / pageBytes + ·)).any (fun p =>
      p = 0 || ((s.ctx c).page p).isSome || (s.ctx c).aperturePage p) then some St.valueOutOfRange
  else none

/-- MAP: the pages of the image appear read-only, without frames of their own (R229, R253).
(open points: DEDUCED, log entry 43) -/
def State.mapImage (s : State) (c : Slot) (img : Image) (a : Nat) : State × U16 :=
  match s.freeRange c a img.pages with
  | some st => (s, st)
  | none =>
    let s := s.modCtx c (fun x => (List.range img.pages).foldl (fun x k =>
      x.setPage (a / pageBytes + k)
        { Page.fresh .auto 0xFF with mapped := some (img.id, k), tier := .flash (k % s.sku.dies) }) x)
    (({ s with mem := img.data.foldl (fun m (x : Host.Cell) => memSet m (memKey c a + x.1) x.2) s.mem }).modTrain c
      (fun t => { t with
        snap := { imageId := img.id, state := 3, status := St.ok, step := img.step, bytes := BitVec.ofNat 64 img.bytes } }),
      St.ok)

/-- The image that bytes spell, when MAGIC, VERSION and the sections are good (R227, R229).
(open points: DEDUCED, log entry 43) -/
def parseImage (id : U32) (b : Bytes) : Option Image :=
  let n := field b 6 2
  let secs := (List.range n).map (fun i => Section.parse (slice b (64 + 32 * i) 32))
  if field b 0 4 = 0x4E534B44 && field b 4 2 = 1 && 64 + 32 * n ≤ b.length &&
      secs.all (fun q => q.offset + q.length ≤ b.length) then
    some { id := id, owner := fieldBv 16 b 12 2, dies := fieldBv 8 b 14 1, mode := fieldBv 8 b 15 1,
           step := fieldBv 64 b 16 8, seed := fieldBv 64 b 24 8, meridian := fieldBv 64 b 32 8,
           bytes := b.length, firmware := fieldBv 32 b 48 4, committed := true,
           pages := ceilDiv b.length pageBytes, sections := secs, data := memWrite [] 0 b, left := [], bad := none }
  else none

/-- IMPORT; an empty one does nothing (R12), and a virtual function may import only an image of its own context.
(open points: DEDUCED, log entry 43) -/
def State.importImage (s : State) (c : Slot) (vf : Option Slot) (id : U32) (a : Nat) (len : U64) : State × U16 :=
  if s.idTaken id then (s, St.valueOutOfRange)
  else if a % pageBytes != 0 then (s, St.misaligned)
  else
    match lengthCheck 64 len.toNat (rangeBytes - Nat.min a rangeBytes) with
    | some st => (s, st)
    | none =>
      if len = 0 then (s, St.ok)
      else
      match (if s.allocated c a len.toNat then parseImage id (s.bytes c a len.toNat) else none) with
      | none => (s, St.valueOutOfRange)
      | some img =>
        let s' := { s with images := s.images ++ [img] }
        if vf.any (fun v => img.owner != s.ctxId v) then (s, St.accessDenied)
        else if !s'.poolOk then (s, St.poolExhausted)
        else (s'.modTrain c (fun t => { t with
          snap := { imageId := id, state := 3, status := St.ok, step := img.step, bytes := len } }), St.ok)

/-- `snapshot_request`; a stopped module's flash and DDR5 are off, and it is denied (R369).
(open points: DEDUCED, log entry 60) -/
def State.snapshotRequest (s : State) (c : Slot) (vf : Option Slot) (b : Bytes) : State × U16 :=
  if s.boot.life.dead then (s, St.accessDenied) else
  let id := fieldBv 32 b 4 4
  let a := field b 8 8
  match field b 0 1 with
  | 1 => s.take c id
  | 2 =>
    match s.imageFor vf id with
    | .error st => (s, st)
    | .ok img =>
      (s.modTrain c (fun t => { t with
        restoring := some id
        snap := { imageId := id, state := 5, status := St.ok, step := img.step, bytes := BitVec.ofNat 64 img.bytes } }),
       St.ok)
  | 3 =>
    match s.imageFor vf id with
    | .error st => (s, st)
    | .ok img => (s.deleteImage c img, St.ok)
  | 4 =>
    match s.imageFor vf id with
    | .error st => (s, st)
    | .ok img => s.mapImage c img a
  | 5 => s.importImage c vf id a (fieldBv 64 b 16 8)
  | _ => (s, St.valueOutOfRange)

/-! ### Restore (R228, R271) -/

def Image.sectionsOf (i : Image) (kind : Nat) : List Section := i.sections.filter (fun q => q.kind.toNat == kind)

def Image.sectionBytes (i : Image) (q : Section) : Bytes := i.bytesAt q.offset q.length

/-- The pairs of the settings section. -/
def Image.pairs (i : Image) : List (Nat × Nat × Nat) :=
  (i.sectionsOf 1).flatMap (fun q => (List.range (q.length / 16)).map (fun k =>
    settingOf (i.owner.toNat % 16) (i.bytesAt (q.offset + 16 * k) 16)))

/-- Table entries of the manifest, with their indices: in the order of the narrow sections. -/
def Image.entries (i : Image) : List (Nat × Bytes) :=
  let hs := (i.sections.filter (fun q => q.kind == 3 && q.form == 0)).map (fun q => handleIdx q.handle)
  match i.sectionsOf 2 with
  | [] => []
  | q :: _ => (List.range hs.length).filterMap (fun k =>
      (hs[k]?).map (fun h => (h, i.bytesAt (q.offset + 64 * k) 64)))

/-- The context with an image's settings, all in force at once. -/
def Ctx.withSettings (x : Ctx) (ps : List (Nat × Nat × Nat)) : Ctx :=
  let x := ps.foldl (fun x p => x.setting p.1 p.2.1 p.2.2) x
  { x with num := { x.num with inForce := x.num.set, watchInForce := x.num.watchSet },
           train := { x.train with inForce := x.train.set } }

/-- The tensor records of the image's numerics table that are tracked, as the device held them. -/
def restoreRec (b : Bytes) : Option TRec :=
  if (field b 7 1) / 128 = 0 || field b 38 2 != 0 then none
  else
    let r := TRec.ofBytes b
    let prom := (field b 7 1) % 2 = 1
    some { r with
      flags := fieldBv 8 b 7 1, histFill := fieldBv 8 b 10 1, histPos := fieldBv 8 b 11 1,
      cleanSteps := fieldBv 16 b 30 2,
      history := (List.range 16).map (fun k => fieldBv 16 b (96 + 2 * k) 2),
      pendingDy := prom && r.grad && !wideCode r.fmtW && !wideCode r.fmtR,
      demoting := prom && !wideCode r.fmtW && wideCode r.fmtR }

/-- Where a tensor or side-list section lies in the range of the context that restores. `x`: the context with
the image's settings and records. -/
def Image.place (i : Image) (x : Ctx) (q : Section) : Option Nat :=
  let e := (i.entries.find? (fun p => p.1 == handleIdx q.handle)).map (fun p => TEntry.parse p.2)
  match e with
  | none => none
  | some e =>
    if q.kind = 3 then some (if q.form = 0 then e.base else e.baseWide)
    else match x.num.track q.handle with
      | some (_, r) => some r.sideBase.toNat
      | none => some e.side

/-- Where any section goes. -/
def Image.target (i : Image) (x : Ctx) (q : Section) : Option Nat :=
  match q.kind.toNat with
  | 3 => i.place x q
  | 4 => i.place x q
  | 5 => some x.num.inForce.tblBase.toNat
  | 6 => some x.num.watchInForce.layerBase.toNat
  | 7 => some x.train.inForce.journalBase.toNat
  | 8 => some (x.num.watchInForce.ringBase.toNat +
      256 * ((x.num.reports - 1).toNat % x.num.watchInForce.ringEntries.toNat))
  | 9 => some x.train.inForce.ledgerBase.toNat
  | _ => none

/-- A journal entry as it lies in memory (R218). -/
def JEntry.ofBytes (b : Bytes) (addr room : Nat) : JEntry :=
  let fl := field b 25 1
  { step := fieldBv 64 b 0 8, meridian := fieldBv 64 b 8 8, seed := fieldBv 64 b 16 8, mode := fieldBv 8 b 24 1,
    context := fieldBv 16 b 26 2, addr := addr, room := room, closed := fl % 2 = 1, truncated := fl / 2 % 2 = 1,
    lists := (List.range (field b 28 4)).map (fun k =>
      let o := field b 40 4 + 16 * k
      { programId := fieldBv 32 b o 4, count := fieldBv 32 b (o + 4) 4, addr := fieldBv 64 b (o + 8) 8 }),
    scales := (List.range (field b 32 4)).map (fun k =>
      let o := field b 44 4 + 32 * k
      { handle := fieldBv 32 b o 4, scaleR := fieldBv 32 b (o + 4) 4, scaleW := fieldBv 32 b (o + 8) 4,
        genR := fieldBv 16 b (o + 12) 2, genW := fieldBv 16 b (o + 14) 2, format := fieldBv 8 b (o + 16) 1,
        flags := fieldBv 8 b (o + 17) 1 }),
    inputs := (List.range (field b 36 4)).map (fun k =>
      let o := field b 48 4 + 8 * k
      let f := field b (o + 6) 1
      { handle := fieldBv 32 b o 4, list := fieldBv 16 b (o + 4) 2, modified := f % 2 = 1, fabric := f / 2 % 2 = 1 }),
    written := [] }

/-- The journal entries of the image: those of closed steps. -/
def Image.journal (i : Image) (x : Ctx) : List JEntry :=
  let t := x.train.inForce
  match i.sectionsOf 7 with
  | [] => []
  | q :: _ => ((List.range t.depth.toNat).map (fun k =>
      let n := t.entryBytes.toNat
      JEntry.ofBytes (i.bytesAt (q.offset + n * k) n) (t.journalBase.toNat + n * k) n)).filter (·.closed)

/-- The stash rings of the image that were in force, every slot empty (R225, R228). -/
def Image.ringsOf (i : Image) : List StashRing :=
  match i.sectionsOf 9 with
  | [] => []
  | q :: _ => (List.range (q.length / 64)).filterMap (fun k =>
      let b := i.bytesAt (q.offset + 64 * k) 64
      let r := RingRec.parse k b
      if r.valid && field b 18 2 = 0 then
        some { StashRing.fresh r with fills := fieldBv 32 b 8 4, consumed := fieldBv 32 b 12 4,
                                      highWater := fieldBv 16 b 16 2 }
      else none)

/-- The context after the switch, before memory: settings, records, rings, step (R228 steps 3 and 4). No section says
that DARK_LAYER was raised: a restored layer may raise it once more (DEDUCED, log entry 43). -/
def Image.context (i : Image) (x : Ctx) : Ctx :=
  let x := x.withSettings i.pairs
  let n := x.num.inForce
  let tab := match i.sectionsOf 5 with
    | [] => []
    | q :: _ => i.sectionBytes q
  let recs := (List.range n.tensors).filterMap (fun k => (restoreRec (slice tab (128 * k) 128)).map (k, ·))
  let layers := if tab.isEmpty then [] else (List.range n.layers).map (fun j =>
    (j, LRec.ofBytes (slice tab (128 * n.tensors + 64 * j) 64)))
  let watch := match i.sectionsOf 6 with
    | [] => []
    | q :: _ => (List.range (q.length / 128)).map (fun j =>
        (j, { LayerWatch.reset with darkSteps := fieldBv 32 (i.bytesAt (q.offset + 128 * j + 64) 4) 0 4 }))
  { x with
    num := { x.num with
      recs := recs.map (fun p => (p.1, { p.2 with effHist := x.num.histOf p.2 })), layers := layers,
      layerWatch := watch, steps := [], seedInForce := i.seed, modeInForce := i.mode }
    stream := { x.stream with openStep := i.step, stepOpened := true, closing := [] }
    train := { x.train with journal := i.journal x, rings := i.ringsOf, restoring := none,
                            restored := some (i.seed, i.mode),
                            snap := { imageId := i.id, state := 6, status := St.ok, step := i.step,
                                      bytes := BitVec.ofNat 64 i.bytes } } }

/-- The Ephemeris ring starts again at the TAIL it finds (R271). -/
def State.restartRing (s : State) (c : Slot) : State :=
  let b := (s.ctx c).eph.base.toNat
  let tail := if b = 0 then 0 else fieldBv 32 (s.ringBytes c b 64) 0 4
  let s := s.modEph c (fun x => { x with baseInUse := x.base, fresh := false, head := tail, pos := tail, ignored := [],
                                         pending := [], barrier := none })
  if b != 0 && s.allocated c b 64 then s.store c (b + 4) (bvLe 4 tail) else s

/-- RESIDENT pages left out of the plate store by a restore or a rebinding (R19, R375). -/
def State.noteResident (s : State) (c : Slot) : State :=
  let n := (s.ctx c).residentWaiting.length
  if n = 0 then s
  else s.raise { Event.blank with severity := sevNotice, event := 0x8002, context := s.ctxId c,
                                  args := [BitVec.ofNat 64 n] }

/-- The promoted records hold the bytes of their wide forms. -/
def State.chargeRestored (s : State) (c : Slot) : State :=
  s.modNum c (fun x => x.mapRecs (fun r => if r.promoted then
    { r with grantBytes := BitVec.ofNat 64 (s.extraBytes c { r with flags := 0 }) } else r))

/-- Pages the tensor and side-list sections cover. -/
def Image.covers (i : Image) (x : Ctx) : List Nat :=
  ((i.sections.filter (fun q => q.kind == 3 || q.kind == 4)).flatMap (fun q =>
    match i.place x q with
    | some a => pagesOf a q.length
    | none => [])).dedup

/-- The pages of weight tensors among them: those of the records that a layer names as W_REC. -/
def Image.weights (i : Image) (x : Ctx) : List Nat :=
  ((i.sections.filter (fun q => q.kind == 3)).flatMap (fun q =>
    match x.num.track q.handle, i.place x q with
    | some (k, _), some a => if x.num.layers.any (fun l => l.2.wRec.toNat == k) then pagesOf a q.length else []
    | _, _ => [])).dedup

/-- The pool can hold the pages of a restore beside those the context has (R228, R244). -/
def State.restoreAdmitted (s : State) (c : Slot) (n : Nat) : Bool :=
  let a := (s.ctx c).allocatedPages
  let f := (s.ctx c).floorSum
  s.admitted - Nat.max a f + Nat.max (a + n) f ≤ s.ddrPool + s.flashPool

/-- A restore that cannot allocate ends, and nothing else changes. -/
def State.restoreFails (s : State) (c : Slot) (st : U16) : State :=
  s.modTrain c (fun t => { t with restoring := none, snap := { t.snap with state := 4, status := st } })

/-- A read of an image that fails every retry (R228, R237). (open points: DEDUCED, log entry 43) -/
def State.imageReadFail (s : State) (c : Slot) (d : Nat) : State :=
  let x := s.flashDie d
  let s := { s with tiers := { s.tiers with flash := kvSet s.tiers.flash d { x with readFails := x.readFails + 1 } } }
  (s.raiseStatus sevFault St.flashReadFail { Event.blank with context := s.ctxId c }).restoreFails c St.flashReadFail

/-- The rings of a restored image enter force one after another, as at a close (R217, R245). -/
def State.restoreRings (s : State) (c : Slot) : State :=
  let a := (s.ctx c).train.rings.foldl (fun (a : Admit) q => a.pin c
    { idx := q.idx, first := q.first, depth := q.depth, reads := q.reads, valid := true, reset := false } q) (s.unpinned c)
  let s := s.modTrain c (fun t => { t with rings := a.rings })
  (a.rings.foldl (fun s r => s.stashWrite c r) s).movePins c a.pages

/-- The restore of an image (R228). Pages it allocates for weights are RESIDENT, and those that find no slice frame
stay in DDR5 with a notice (R19); its other new pages are AUTO. (open points: DEDUCED, log entry 43) -/
def State.restoreImage (s : State) (c : Slot) (i : Image) : State :=
  let x := i.context (s.ctx c)
  let ps := i.covers x
  if ps.any (fun p => p = 0 || pageCount ≤ p) || !s.restoreAdmitted c ps.length then
    s.restoreFails c St.poolExhausted
  else if let some d := i.bad then s.imageReadFail c d
  else
    let ws := i.weights x
    let s := s.setCtx c x
    let s := s.modCtx c (fun x => (ps.filter (fun p => (x.page p).isNone)).foldl (fun x p =>
      x.setPage p (Page.fresh (if ws.contains p then .resident else .auto) 0xFF)) x)
    let put := fun (s : State) (a : Nat) (b : Bytes) => if s.allocated c a b.length then s.store c a b else s
    let s := i.entries.foldl (fun s e => put s (x.stream.tblBase.toNat + 64 * e.1) e.2) s
    let s := i.sections.foldl (fun s q =>
      match i.target x q with
      | some a => put s a (i.sectionBytes q)
      | none => s) s
    let s := s.chargeRestored c
    ((s.restoreRings c).restartRing c).noteResident c

/-- A restore runs once the context has no incomplete list and every die that holds the image is in service.
-/
def execRestoreExecute (c : Slot) (s : State) : Host.Outcome State Fault Refusal :=
  match (s.ctx c).train.restoring with
  | none => .next s
  | some id =>
    let x := (s.ctx c).stream
    if !x.lists.isEmpty || !x.subQueue.isEmpty || s.boot.life.dead then .next s
    else
      match s.image? id with
      | none => .next (s.restoreFails c St.valueOutOfRange)
      | some i => if s.imageReadable i then .next (s.restoreImage c i) else .next s

end Sys2Proof.Machine
end

