-- ==== Sys2Proof/Machine/Firmware.lean ====
section
/-! DEFINITION. Firmware images, the slots of the dies, measurement registers and the Almanac's effective values
(R339 to R341, R387 to R393, R412). -/

namespace Sys2Proof.Machine

/-! ### Images (R388, R389) -/

def imageRelease (b : Bytes) : U32 := fieldBv 32 b 8 4
def imageSvn (b : Bytes) : U32 := fieldBv 32 b 12 4
/-- SHAKE256 of manifest and signature (R390). -/
def imageDigest (b : Bytes) : BitVec 512 := Config.shake256 (slice b 0 30816)
/-- MAJOR and MINOR of a release (R2). -/
def majorOf (r : U32) : Nat := r.toNat / 2 ^ 24
def minorOf (r : U32) : Nat := (r.toNat / 2 ^ 16) % 256

/-- Sections of a manifest: offset, length, digest. -/
def imageSections (b : Bytes) : List (Nat × Nat × Nat) :=
  (List.range (field b 20 2)).map (fun i =>
    (field b (64 + 80 * i) 4, field b (68 + 80 * i) 4, field b (80 + 80 * i) 64))

def apart : List (Nat × Nat × Nat) → Bool
  | [] => true
  | a :: rest => rest.all (fun b => a.1 + a.2.1 ≤ b.1 || b.1 + b.2.1 ≤ a.1) && apart rest

/-- The first check of R389. (open points: DEDUCED, log entry 50) -/
def imageShape (b : Bytes) : Bool :=
  let n := field b 16 4
  let secs := imageSections b
  32768 ≤ n && n ≤ 67108864 && n == b.length && field b 0 4 == 0x4D574648 && field b 4 2 == 1 &&
    field b 6 1 ≤ 1 && 1 ≤ secs.length && secs.length ≤ 12 &&
    secs.all (fun x => 32768 ≤ x.1 && x.1 % 4096 == 0 && x.1 + x.2.1 ≤ n) && apart secs

/-- Verification of an image against a rollback counter. -/
def verifyImage (rollback : U32) (b : Bytes) : U16 :=
  if !imageShape b then St.signatureInvalid
  else if field b 7 1 != 0xB0 then St.signatureInvalid
  else if !Config.slhVerify "HLW-FW" (bvLe 64 (Config.firmwareKey (field b 6 1 == 1))) (b.take 1024)
      (slice b 1024 29792) then St.signatureInvalid
  else if !(imageSections b).all (fun x =>
      Config.shake256 (slice b x.1 x.2.1) == BitVec.ofNat 512 x.2.2) then St.signatureInvalid
  else if imageSvn b < rollback then St.rollbackRefused
  else St.ok

/-! ### Slots of a die (R390, R391) -/

def State.fwSlots (s : State) (d : Nat) : FwSlots := kvGetD s.sec.fw d .reset
def State.modFw (s : State) (d : Nat) (f : FwSlots → FwSlots) : State :=
  { s with sec := { s.sec with fw := kvSet s.sec.fw d (f (s.fwSlots d)) } }

def FwSlots.image (x : FwSlots) (slot : Bool) : Bytes := if slot then x.imageB else x.imageA
def FwSlots.state (x : FwSlots) (slot : Bool) : U8 := if slot then x.stateB else x.stateA
def FwSlots.setState (x : FwSlots) (slot : Bool) (v : U8) : FwSlots :=
  if slot then { x with stateB := v } else { x with stateA := v }
/-- An image written to a slot, with the outcome of its verification. (open points: DEDUCED, log entry 50) -/
def FwSlots.put (x : FwSlots) (slot : Bool) (b : Bytes) (ok : Bool) : FwSlots :=
  let v : U8 := if ok then 1 else 2
  if slot then { x with imageB := b, stateB := v } else { x with imageA := b, stateA := v }

def FwSlots.digest (x : FwSlots) (slot : Bool) : Bytes :=
  if (x.image slot).isEmpty then zeros 64 else bvLe 64 (imageDigest (x.image slot))

/-- The record `fw_slots`. -/
def FwSlots.bytes (x : FwSlots) : Bytes :=
  let f : Bool → Nat := fun b => if b then 1 else 0
  natLe 1 (f x.active) ++ natLe 1 (f x.next) ++ bvLe 1 x.stateA ++ bvLe 1 x.stateB ++
    bvLe 4 (imageRelease x.imageA) ++ bvLe 4 (imageRelease x.imageB) ++ bvLe 4 (imageSvn x.imageA) ++
    bvLe 4 (imageSvn x.imageB) ++ zeros 12 ++ x.digest false ++ x.digest true

/-! ### The staging area (R400, R412) -/

/-- Open points: DEDUCED, log entry 50. -/
def StageStatus.of (seq : U32) (state : U8) (status : U16) (img : Option Bytes) : StageStatus :=
  match img with
  | none => { seq := seq, state := state, status := status, release := 0, svn := 0, digest := 0 }
  | some b => { seq := seq, state := state, status := status, release := imageRelease b, svn := imageSvn b,
                digest := (imageDigest b).setWidth 64 }

def StageStatus.bytes (x : StageStatus) : Bytes :=
  bvLe 4 x.seq ++ bvLe 1 x.state ++ [0] ++ bvLe 2 x.status ++ bvLe 4 x.release ++ bvLe 4 x.svn ++
    bvLe 8 x.digest ++ zeros 8

/-- What the staging area holds, and the status of the request. (open points: DEDUCED, log entry 50) -/
def State.setStage (s : State) (seq : U32) (state : U8) (status : U16) (img : Option Bytes) : State :=
  { s with boot := { s.boot with staged := img, stageStatus := .of seq state status img } }

/-- A copied image is verified: FW_STAGED when it passes (R389, R417). -/
def State.noteStaged (s : State) (img : Bytes) : State :=
  if verifyImage s.sec.rollback img = St.ok then
    s.raise { Event.blank with
      event := 0x8186
      args := [(imageRelease img).setWidth 64, (imageSvn img).setWidth 64, (imageDigest img).setWidth 64] }
  else s

/-- The Keccak engine takes the copied images that wait, oldest first; the last is staged when it verifies, the others
having been replaced (R389, R400, R412). (open points: DEDUCED, log entry 50) -/
def State.verifyStaged (s : State) : State :=
  match s.boot.verifying.getLast? with
  | none => s
  | some img =>
    let seq := s.boot.stageStatus.seq
    let st := verifyImage s.sec.rollback img
    let s := s.boot.verifying.foldl State.noteStaged { s with boot := { s.boot with verifying := [] } }
    if st = St.ok then s.setStage seq 2 St.ok (some img) else s.setStage seq 3 st none

/-! ### Measurements (R393) -/

/-- Register `r` is extended with a digest, after a copied image that waits for the engine (R400).
(open points: DEDUCED, log entry 51) -/
def State.extend (s : State) (r : Nat) (d : BitVec 512) : State :=
  let s := s.verifyStaged
  let m := bvLe 64 (Config.shake256 (s.sec.measurements.getD r (zeros 64) ++ bvLe 64 d))
  let s := { s with sec := { s.sec with measurements := s.sec.measurements.set r m, events := s.sec.events + 1 } }
  s.raise { Event.blank with
    event := 0x8104
    args := BitVec.ofNat 64 r :: (List.range 4).map (fun w => fieldBv 64 m (8 * w) 8) }

/-! ### The Almanac and its user corrections (R339 to R341) -/

/-- Almanac entries of a SKU: index, and whether the type is F32. -/
def Sku.almanac (k : Sku) : List (Nat × Bool) :=
  [(0x2000, false)] ++ (List.range k.dies).map (fun d => (0x2001 + d, false)) ++
    k.blocks.map (fun b => (0x2010 + b, true)) ++ [(0x2100, true)]

/-- Its stored value: subindex 1 is the only one (R341). -/
def almanacOf (i : Nat) : U32 := Config.almanac (256 * i + 1)

def Correction.none : Correction := { mode := 0, value := 0, written := 0 }
def State.correction (s : State) (i : Nat) : Correction := kvGetD s.cat.corrections (256 * i + 1) .none

def Correction.bytes (x : Correction) : Bytes := bvLe 1 x.mode ++ zeros 7 ++ bvLe 4 x.value ++ bvLe 4 x.written

/-- What a correction makes of an Almanac value. The sum of integers is exact: an effective value outside the
entry's range, which a sum outside 32 bits always is, is refused. (open points: DEDUCED, log entry 65) -/
def corrected (f32 : Bool) (a : U32) (x : Correction) : Int ⊕ F32 :=
  let v := x.value
  if f32 then
    .inr (match x.mode.toNat with | 0 => a | 1 => v | 2 => (addF true a v).1 | _ => (mulF true a v).1)
  else
    .inl (match x.mode.toNat with | 0 => a.toInt | 1 => v.toInt | _ => a.toInt + v.toInt)

/-- The effective value of an Almanac entry. (open points: DEDUCED, log entry 65) -/
def State.effective (s : State) (i : Nat) : U32 :=
  match corrected (s.sku.almanac.any (fun p => p.1 == i && p.2)) (almanacOf i) (s.correction i) with
  | .inl v => BitVec.ofInt 32 v
  | .inr v => v

/-- Learned results: indices 0x2C10+p, 0x2C40+n and 0x2C60, and their sizes (R411). -/
def learnedSizes : List (Nat × Nat) :=
  [(0x2C01, 32)] ++ (List.range 40).map (fun p => (0x2C10 + p, 4096)) ++
    (List.range 32).map (fun n => (0x2C40 + n, 256)) ++ [(0x2C60, 256)]

def State.learnedEntry (s : State) (i n : Nat) : Bytes := padTo n (kvGetD s.cat.learned i [])

/-- Registers 2 to 5 and what they measure. (open points: DEDUCED, log entry 51) -/
def State.extendAlmanac (s : State) : State :=
  s.extend 2 (Config.shake256 (s.sku.almanac.flatMap (fun p => bvLe 4 (almanacOf p.1))))
/-- Open points: DEDUCED, log entry 51. -/
def State.extendSecurity (s : State) : State :=
  s.extend 3 (Config.shake256 (bvLe 4 s.sec.rollback ++
    (List.range 4).flatMap (fun i => padTo 64 (s.sec.authority.getD i [])) ++
    natLe 1 (if s.sec.serviceEnabled then 1 else 0) ++ bvLe 8 s.sec.revokedBelow))
/-- Open points: DEDUCED, log entry 51. -/
def State.extendUser (s : State) : State :=
  s.extend 4 (Config.shake256 (s.sku.almanac.flatMap (fun p => (s.correction p.1).bytes)))
/-- Open points: DEDUCED, log entry 51. -/
def State.extendLearned (s : State) : State :=
  s.extend 5 (Config.shake256 (learnedSizes.flatMap (fun p => s.learnedEntry p.1 p.2)))

/-! ### A slot is chosen at a start (R391) -/

/-- Verification of a slot at a start; a slot that fails is marked invalid. An empty or revoked slot fails too.
(open points: DEDUCED, log entry 50) -/
def State.tryFw (s : State) (d : Nat) (slot : Bool) : State × U16 :=
  let x := s.fwSlots d
  let st := verifyImage s.sec.rollback (x.image slot)
  if st = St.ok then (s.modFw d (fun y => y.setState slot 1), st)
  else ((if (x.image slot).isEmpty then s else s.modFw d (fun y => y.setState slot 2)), st)

/-- A die loads its slot NEXT, else the other; the status of the last check. NEXT itself stands.
(open points: DEDUCED, log entry 50) -/
def State.loadDie (s : State) (d : Nat) : State × U16 :=
  let slot := (s.fwSlots d).next
  let run := fun (s : State) (b : Bool) =>
    s.modFw d (fun y => { y with active := b, running := imageRelease (y.image b) })
  match s.tryFw d slot with
  | (s, 0x0000) => (run s slot, St.ok)
  | (s, st) =>
    match s.tryFw d (!slot) with
    | (s, 0x0000) =>
      ((run s (!slot)).raise { Event.blank with
        severity := sevFault, event := 0x8101, status := st, unit := BitVec.ofNat 16 d
        args := [if slot then 1 else 0] }, St.ok)
    | (s, st') => (s.modFw d (fun y => { y with running := 0 }), st')

/-! ### Staging (R412) -/

/-- Dies in service. -/
def State.diesIn (s : State) : List Nat := (List.range s.sku.dies).filter s.dieRuns

/-- STAGE: LENGTH bytes are copied, in place of any image staged before, and wait behind those copied before for the Keccak engine to
verify them; a LENGTH of 0 copies nothing (R12). (open points: DEDUCED, log entry 50) -/
def State.stageImage (s : State) (b : Bytes) : State × U16 :=
  let seq := fieldBv 32 b 4 4
  let a := field b 8 8
  let n := field b 16 4
  let no := fun (st : U16) => (s.setStage seq 3 st s.boot.staged, st)
  if h : field b 1 1 < 16 then
    let c : Slot := ⟨field b 1 1, h⟩
    match lengthCheck 32 n 67108864 with
    | some st => no st
    | none =>
      if n = 0 then
        let state : U8 := if !s.boot.verifying.isEmpty then 1 else if s.boot.staged.isSome then 2 else 0
        (s.setStage seq state St.ok s.boot.staged, St.ok)
      else if a % 64 != 0 then no St.misaligned
      else if !s.allocated c a n then no St.beyondBound
      else
        let s := ({ s with boot := { s.boot with verifying := s.boot.verifying ++ [s.bytes c a n] } }).touch c a n
        (s.setStage seq 1 St.ok none, St.ok)
  else no St.valueOutOfRange

/-- INSTALL_ALL: every die in service takes the staged image into its other slot; when every copy has verified,
NEXT is switched on all of them. (open points: DEDUCED, log entry 50) -/
def State.installAll (s : State) (b : Bytes) : State × U16 :=
  let seq := fieldBv 32 b 4 4
  match s.boot.staged with
  | none => (s.setStage seq 3 St.valueOutOfRange none, St.valueOutOfRange)
  | some img =>
    let st := verifyImage s.sec.rollback img
    let s := s.diesIn.foldl (fun s d => s.modFw d (fun x => x.put (!x.active) img (st == St.ok))) s
    if st = St.ok then
      let s := s.diesIn.foldl (fun s d => s.modFw d (fun x => { x with next := !x.active })) s
      ((s.setStage seq 5 St.ok (some img)).raise { Event.blank with
        event := 0x818A
        args := [(imageRelease img).setWidth 64, BitVec.ofNat 64 (ofBits s.diesIn)] }, St.ok)
    else (s.setStage seq 3 st (some img), St.ok)

/-- DISCARD. -/
def State.discardImage (s : State) (b : Bytes) : State × U16 :=
  let seq := fieldBv 32 b 4 4
  match s.boot.staged with
  | none => (s.setStage seq 3 St.valueOutOfRange none, St.valueOutOfRange)
  | some _ => (s.setStage seq 0 St.ok none, St.ok)

/-- A write of `fw_stage_request`; the flash of a stopped module takes none (R369).
(open points: DEDUCED, log entry 60) -/
def State.stageRequest (s : State) (b : Bytes) : State × U16 :=
  if s.boot.life.dead then (s, St.accessDenied) else
  match field b 0 1 with
  | 1 => s.stageImage b
  | 2 => s.installAll b
  | 3 => s.discardImage b
  | _ => (s.setStage (fieldBv 32 b 4 4) 3 St.valueOutOfRange s.boot.staged, St.valueOutOfRange)

/-! ### The rollback counter (R392) -/

/-- Slots below the new value become invalid. -/
def FwSlots.revoke (x : FwSlots) (v : U32) : FwSlots :=
  let f := fun (b : Bool) (y : FwSlots) =>
    if !(y.image b).isEmpty && imageSvn (y.image b) < v then y.setState b 2 else y
  f true (f false x)

/-- A write of `rollback_raise`; an accepted one is what a read of it returns (R9). -/
def State.raiseRollback (s : State) (v : U32) : State × U16 :=
  let set := fun (s : State) => { s with sec := { s.sec with raiseValue := v } }
  if v < s.sec.rollback then (s, St.rollbackRefused)
  else if v = s.sec.rollback then (set s, St.ok)
  else if (List.range s.sku.dies).any (fun d =>
      let x := s.fwSlots d
      x.running != 0 && imageSvn (x.image x.active) < v) then (s, St.valueOutOfRange)
  else
    let old := s.sec.rollback
    let s := { s with sec := { s.sec with rollback := v } }
    let s := (List.range s.sku.dies).foldl (fun s d => s.modFw d (fun x => x.revoke v)) s
    let s := s.raise { Event.blank with event := 0x8106, args := [old.setWidth 64, v.setWidth 64] }
    ((set s).extendSecurity, St.ok)

end Sys2Proof.Machine
end

