-- ==== Sys2Proof/Machine/Security.lean ====
section
/-! DEFINITION. Channels, authorisation tokens and attestation (R336, R347 to R350, R376, R394 to R398). -/

namespace Sys2Proof.Machine

/-! ### What a channel holds -/

/-- A channel as it begins, and as its reset leaves it. -/
def ChanState.new (ch : Channel) : ChanState :=
  { ch := ch, staged := none, auth := none, refusedAt := none, readFrom := 0, readSeverity := 3 }

def State.chan (s : State) (ch : Channel) : ChanState :=
  (s.cat.chans.find? (fun x => x.ch == ch)).getD (ChanState.new ch)

def putChan (x : ChanState) : List ChanState → List ChanState
  | [] => [x]
  | y :: rest => if y.ch = x.ch then x :: rest else y :: putChan x rest

def State.modCat (s : State) (f : CatState → CatState) : State := { s with cat := f s.cat }

def State.modChan (s : State) (ch : Channel) (f : ChanState → ChanState) : State :=
  s.modCat (fun k => { k with chans := putChan (f (s.chan ch)) k.chans })

/-- A channel resets: staged bytes, authorisation and its Logbook cursor go (R347, R349, R381); the time of its
last refusal notice stands. (open points: DEDUCED, log entry 52) -/
def State.resetChan (s : State) (ch : Channel) : State :=
  s.modChan ch (fun x => { ChanState.new ch with refusedAt := x.refusedAt })

def isMailbox : Channel → Bool
  | .pf => true
  | .vf _ => true
  | _ => false

def isFabric : Channel → Bool
  | .fabric _ => true
  | _ => false

/-- Channel code (R376). -/
def chanCode : Channel → Nat
  | .pf => 0
  | .vf c => c.val + 1
  | .mgmt _ _ => 17
  | .fabric _ => 18

/-- The bytes of an IPv6 address in transmission order. -/
def ipBytes (a : BitVec 128) : Bytes := (bvLe 16 a).reverse

/-- Words 2 and 3 of a record that names a channel (R376). (open points: DEDUCED, log entry 52) -/
def chanSource : Channel → List U64
  | .mgmt a _ => [fieldBv 64 (ipBytes a) 0 8, fieldBv 64 (ipBytes a) 8 8]
  | .fabric d => [d.setWidth 64, 0]
  | _ => [0, 0]

/-- ARGS of a record with a channel: word 0 the channel, word 1 `w1`, words 2 and 3 the source, then `rest`. -/
def chanArgs (ch : Channel) (w1 : U64) (rest : List U64) : List U64 :=
  [BitVec.ofNat 64 (chanCode ch), w1] ++ (chanSource ch) ++ rest

/-! ### Tokens (R396, R397) -/

def tokenId (b : Bytes) : U64 := if b.length < 64 then 0 else fieldBv 64 b 48 8

def tokenScopes (b : Bytes) : List (U16 × U16) :=
  (List.range (field b 6 2)).map (fun i => (fieldBv 16 b (64 + 8 * i) 2, fieldBv 16 b (66 + 8 * i) 2))

def tokenShape (b : Bytes) : Bool :=
  let n := field b 6 2
  let dur := field b 40 4
  b.length == 64 + 8 * n + 29792 && field b 0 4 == 0x4B544148 && field b 4 2 == 1 && 1 ≤ n && n ≤ 64 &&
    1 ≤ dur && dur ≤ 86400 && (tokenScopes b).all (fun x => x.1 ≤ x.2)

/-- The public key of a token key slot, when it serves. -/
def Security.tokenKey (x : Security) (k : Nat) : Option Bytes :=
  if k = 0 then (if x.serviceEnabled then some (bvLe 64 Config.serviceKey) else none)
  else if k ≤ 4 then
    let b := padTo 64 (x.authority.getD (k - 1) [])
    if b = zeros 64 then none else some b
  else none

/-- The reason number of the first failing check of R397, or 0. (open points: DEDUCED, log entry 52) -/
def State.tokenReason (s : State) (b : Bytes) : Nat :=
  let n := field b 6 2
  let na := field b 32 8
  if !tokenShape b then 1
  else
    match s.sec.tokenKey (field b 44 1) with
    | none => 2
    | some key =>
      if !(slice b 8 16 == zeros 16 || slice b 8 16 == bvLe 16 Config.serial) then 3
      else if !(field b 24 4 ≤ s.ident.powerCycles.toNat && s.ident.powerCycles.toNat ≤ field b 28 4) then 4
      else if na != 2 ^ 64 - 1 && na < s.ident.operatingMs.toNat then 5
      else if tokenId b < s.sec.revokedBelow then 6
      else if !Config.slhVerify "HLW-TOKEN" key (b.take (64 + 8 * n)) (slice b (64 + 8 * n) 29792) then 7
      else 0

/-- The authorisation of a token that passed. -/
def State.authOf (s : State) (b : Bytes) : Auth :=
  { tokenId := tokenId b, scopes := tokenScopes b, keySlot := fieldBv 8 b 44 1, notAfter := fieldBv 64 b 32 8,
    expires := s.ident.operatingMs.toNat + 1000 * field b 40 4, token := b }

/-- `operating_ms` at which an authorisation ends (R397). (open points: DEDUCED, log entry 52) -/
def Auth.ends (a : Auth) : Nat :=
  if a.notAfter = 0xFFFFFFFFFFFFFFFF then a.expires else Nat.min a.expires (a.notAfter.toNat + 1)

/-- A channel's authorisation, while it is valid. (open points: DEDUCED, log entry 52) -/
def State.authFor (s : State) (ch : Channel) : Option Auth :=
  match (s.chan ch).auth with
  | some a => if s.ident.operatingMs.toNat < a.ends then some a else none
  | none => none

/-- The authorisation that covers an index (R350). -/
def State.authIn (s : State) (ch : Channel) (index : U16) : Option Auth :=
  match s.authFor ch with
  | some a => if a.scopes.any (fun x => x.1 ≤ index && index ≤ x.2) then some a else none
  | none => none

/-- The last segment of AUTHORISE: the old authorisation ends, and the token is verified (R349, R397).
(open points: DEDUCED, log entry 52) -/
def State.authorise (s : State) (ch : Channel) (b : Bytes) : State × U16 :=
  let s := s.modChan ch (fun x => { x with auth := none })
  let why := s.tokenReason b
  if why = 0 then
    let a := s.authOf b
    ((s.modChan ch (fun x => { x with auth := some a })).raise { Event.blank with
      event := 0x8103, args := chanArgs ch a.tokenId [BitVec.ofNat 64 a.ends] }, St.ok)
  else
    (s.raise { Event.blank with
      severity := sevNotice, event := 0x8102, args := chanArgs ch (tokenId b) [BitVec.ofNat 64 why] }, St.signatureInvalid)

/-- Authorisations that would now fail end (R398). (open points: DEDUCED, log entry 52) -/
def State.cullAuths (s : State) : State :=
  s.modCat (fun k => { k with chans := k.chans.map (fun (x : ChanState) =>
    match x.auth with
    | some a => if s.tokenReason a.token = 0 then x else { x with auth := none }
    | none => x) })

def State.authsHeld (s : State) : Nat := (s.cat.chans.filter (fun x => (s.authFor x.ch).isSome)).length

/-! ### Token-key entries (R398) -/

/-- A write of 0xA040:`sub` with its whole value. -/
def State.writeTokenKey (s : State) (sub : Nat) (v : Bytes) : State × U16 :=
  let put := fun (x : Security) => ((({ s with sec := x }).cullAuths).extendSecurity, St.ok)
  match sub with
  | 6 =>
    if field v 0 1 ≤ 1 then put { s.sec with serviceEnabled := field v 0 1 == 1 } else (s, St.valueOutOfRange)
  | 7 =>
    if fieldBv 64 v 0 8 < s.sec.revokedBelow then (s, St.valueOutOfRange)
    else put { s.sec with revokedBelow := fieldBv 64 v 0 8 }
  | k => put { s.sec with authority := s.sec.authority.set (k - 1) (padTo 64 v) }

/-- No operator key is installed: then the first is installed without a token. -/
def Security.keyless (x : Security) : Bool := (List.range 4).all (fun i => padTo 64 (x.authority.getD i []) == zeros 64)

/-! ### Attestation (R394) -/

/-- Bytes 0 to 639 of a report, at the execution of the write. (open points: DEDUCED, log entry 51) -/
def State.reportBody (s : State) (nonce : Bytes) (mask : U8) : Bytes :=
  natLe 4 0x54414448 ++ natLe 2 1 ++ bvLe 1 mask ++ [0] ++ bvLe 16 Config.serial ++ bvLe 4 s.firmwareRelease ++
    bvLe 4 s.sec.rollback ++ bvLe 4 s.ident.powerCycles ++ bvLe 4 s.sec.events ++ natLe 8 s.ident.operatingMs.toNat ++
    bvLe 8 s.meridianField ++ zeros 8 ++ padTo 64 nonce ++
    (List.range 8).flatMap (fun i => if mask.getLsbD i then padTo 64 (s.sec.measurements.getD i []) else zeros 64)

/-- A write of `attest_request`. -/
def State.attestRequest (s : State) (ch : Channel) (v : Bytes) : State × U16 :=
  if s.sec.attest.signing.isSome then (s, St.valueOutOfRange)
  else
    let mask := fieldBv 8 v 64 1
    let nonce := slice v 0 64
    ({ s with sec := { s.sec with attest := { s.sec.attest with
        state := 1, status := St.ok, nonce := nonce, signing := some (s.reportBody nonce mask, ch, mask) } } }, St.ok)

def Attest.bytes (a : Attest) : Bytes :=
  bvLe 1 a.state ++ [0] ++ bvLe 2 a.status ++ slice a.nonce 0 8 ++ zeros 4

/-- The signature is done, after a copied image that waits for the engine (R400), and the report becomes readable. -/
def execAttestSignComplete (s : State) : Host.Outcome State Fault Refusal :=
  let s := s.verifyStaged
  match s.sec.attest.signing with
  | none => .next s
  | some (body, ch, mask) =>
    let s := { s with sec := { s.sec with attest := { s.sec.attest with
      state := 2, signing := none, report := body ++ natLe 49856 (Config.identitySign body) } } }
    .next (s.raise { Event.blank with
      event := 0x8105, args := chanArgs ch (mask.setWidth 64) [fieldBv 64 s.sec.attest.nonce 0 8] })

/-! ### Ends of what a channel holds (R347, R349, R397) -/

/-- 1 s after the last staged segment. (open points: DESIGN CHOICE, log entry 4) -/
def execStagedTransferExpiry (ch : Channel) (s : State) : Host.Outcome State Fault Refusal :=
  if (s.chan ch).staged.isSome then .next (s.modChan ch (fun x => { x with staged := none })) else .next s

/-- DURATION_S, or NOT_AFTER_MS, has passed. -/
def execAuthorisationExpiry (ch : Channel) (s : State) : Host.Outcome State Fault Refusal :=
  if (s.chan ch).auth.isSome && (s.authFor ch).isNone then
    .next (s.modChan ch (fun x => { x with auth := none }))
  else .next s

/-- 600 s without a request from a management-port or fabric source. (open points: DESIGN CHOICE, log entry 4) -/
def execChannelIdleExpiry (ch : Channel) (s : State) : Host.Outcome State Fault Refusal :=
  if isMailbox ch then .next s else .next (s.resetChan ch)

end Sys2Proof.Machine
end

