-- ==== Sys2Proof/Machine/HostLink.lean ====
section
/-! DEFINITION. The host link: interrupts, backlogs, the BAR2 window, function resets and the link itself
(R293 to R299, R306 to R308, R349, R354). -/

namespace Sys2Proof.Machine

def State.modHost (s : State) (f : HostLink → HostLink) : State := { s with host := f s.host }

/-- A function answers on the link: the link is up, and a VF is enabled (R295). -/
def State.hasFunc (s : State) (f : Func) : Bool :=
  s.host.up && (match f with | .pf => true | .vf c => s.host.serves c == .vf c)

/-! ### Interrupts and backlogs (R306, R308) -/

/-- moderation_time has passed since the first unsignalled entry. -/
def execModerationTimeout (r : Ring) (s : State) : Host.Outcome State Fault Refusal :=
  let x := s.ringOf r
  if x.p != 0 && x.modTime != 0 then .next (s.ringMessage r) else .next s

/-- The mask bit of a vector is written; unmasking sends the message its PBA bit holds (R308). -/
def State.maskVector (s : State) (f : Func) (v : Nat) (mask : Bool) : State :=
  let x := s.msixVec f v
  if mask then s.setMsix f v { x with masked := true }
  else
    let s := s.setMsix f v { x with masked := false, pending := false }
    if x.pending then s.emit (.msix f (BitVec.ofNat 8 v)) else s

/-- A vector the table lacks is reserved space (R297). -/
def execMsixUnmask (f : Func) (v : Fin 64) (s : State) : Host.Outcome State Fault Refusal :=
  if !s.hasFunc f || funcVectors f ≤ v.val then .next s else .next (s.maskVector f v.val false)

/-- Waiting entries are written in order while the ring has room; one of a generation since released is counted.
(open points: DEDUCED, log entry 57) -/
def State.drainBacklog (s : State) (r : Ring) : List Cmpl → State
  | [] => s
  | e :: rest =>
    if !s.ringRoom r then s
    else
      let s := s.setRing r { s.ringOf r with backlog := rest }
      let s := match r with
        | .module => s.writeCmpl r e
        | .ctx c =>
          if e.context == s.ctxId c then s.writeCmpl r e
          else s.modCtx c (fun x => { x with staleDiscards := x.staleDiscards + 1 })
      s.drainBacklog r rest

def execCompletionBacklogDrain (r : Ring) (s : State) : Host.Outcome State Fault Refusal :=
  .next (s.drainBacklog r (s.ringOf r).backlog)

/-! ### The BAR2 window (R298, R299) -/

/-- The size of BAR2, of the PF or of every VF, as the Resizable BAR setting has it (R295). -/
def State.bar2Size (s : State) (vf : Bool) : Nat := 2 ^ (30 + (if vf then s.host.barVf else s.host.barPf).val)

/-- The slot a function's window covers, and the window's base. (open points: DESIGN CHOICE, log entry 53) -/
def State.window (s : State) (f : Func) : Slot × Nat :=
  match f with
  | .vf c => (c, (s.ctx c).sub.window.toNat)
  | .pf => (Fin.ofNat 16 s.host.windowSlot.toNat, s.host.windowBase.toNat)

/-- The part of an access that falls in one page: page, first address, bytes.
(open points: DESIGN CHOICE, log entry 53) -/
def pageParts (a n : Nat) : List (Nat × Nat × Nat) :=
  (pagesOf a n).map (fun p =>
    let lo := Nat.max a (p * pageBytes)
    (p, lo, Nat.min (a + n) ((p + 1) * pageBytes) - lo))

/-- Open points: DEDUCED, log entry 54. -/
def State.countUnmapped (s : State) (c : Slot) : State :=
  s.modCtx c (fun x => { x with pool := { x.pool with unmapped := x.pool.unmapped + 1 } })

/-- Open points: DEDUCED, log entry 54. -/
def State.countRefused (s : State) : State := s.modHost (fun h => { h with bar2Refused := h.bar2Refused + 1 })

/-- A poisoned read is counted in its position's record; one that met a plate in flash whose read fails is reported
(R234, R237). (open points: DEDUCED, log entry 54) -/
def State.countPoison (s : State) (c : Slot) (a n : Nat) : State :=
  let hits := (List.range ((a + n + 63) / 64 - a / 64)).filter (fun i => s.poisoned c ((a / 64 + i) * 64))
  hits.foldl (fun s i =>
    let k := (a / 64 + i) * 64
    if s.flashBad c k then (s.meet c k).raiseStatus sevFault St.flashReadFail
      { Event.blank with context := s.ctxId c, address := BitVec.ofNat 64 k }
    else if kvGet s.tiers.latent (memKey c k) == some .hard then s.meet c k
    else s.modPosition (s.positionOf c k) (fun x => { x with uncorrectable := x.uncorrectable + 1 })) s

/-- The read of one part: its bytes, and the EP bit. (open points: DEDUCED, log entry 54) -/
def State.readPart (s : State) (c : Slot) (x : Nat × Nat × Nat) : State × Bytes × Bool :=
  let (p, a, n) := x
  if !(s.ctx c).usable p || s.boot.life.dead then (s.countUnmapped c, zeros n, false)
  else if s.lostPage c p then (s.countRefused, zeros n, true)
  else
    let ep := (s.firstPoison c (a / 64 * 64) (a + n - a / 64 * 64)).isSome
    let s := s.touch c a n
    (if ep then s.countPoison c a n else s, s.bytes c a n, ep)

/-- The largest read request BAR2 accepts, and the Max Payload Size of a write (R295). -/
def maxRead : Nat := 4096
def maxPayload : Nat := 512

/-- The access is inside BAR2 of a function that answers, and no longer than `most`.
(open points: DESIGN CHOICE, log entry 53) -/
def State.bar2Ok (s : State) (f : Func) (off n most : Nat) : Bool :=
  s.hasFunc f && n ≤ most && off + n ≤ s.bar2Size (match f with | .pf => false | .vf _ => true)

/-- The PF's window covers a FREE slot. -/
def State.windowFree (s : State) (f : Func) : Bool := f == .pf && (s.ctx (s.window f).1).st == .free

/-- Open points: DESIGN CHOICE, log entry 55. -/
def execBar2Read (f : Func) (off len : Nat) (s : State) : Host.Outcome State Fault Refusal :=
  if !s.bar2Ok f off len maxRead then .next s
  else if s.windowFree f then .next (s.emit (.unsupported f))
  else
    let (c, base) := s.window f
    let (s, b, ep) := (pageParts (base + off) len).foldl (fun (x : State × Bytes × Bool) q =>
      let (s, b, ep) := x.1.readPart c q
      (s, x.2.1 ++ b, x.2.2 || ep)) (s, [], false)
    .next (s.emit (.bar2 f b ep))

/-- The write of one part. (open points: DEDUCED, log entry 54) -/
def State.writePart (s : State) (c : Slot) (x : Nat × Nat × Nat) (b : Bytes) : State :=
  let (p, a, _) := x
  if !(s.ctx c).usable p || s.boot.life.dead then s.countUnmapped c
  else if s.lostPage c p then
    let key := c.val * pageCount + p
    let s := s.countRefused
    if s.host.refusedPages.contains key then s
    else
      (s.modHost (fun h => { h with refusedPages := insertNat h.refusedPages key })).raise { Event.blank with
        severity := sevNotice, event := 0x8013, context := s.ctxId c, address := BitVec.ofNat 64 (p * pageBytes) }
  else s.store c a b

/-- Open points: DEDUCED, log entry 54. -/
def execBar2Write (f : Func) (off : Nat) (data : Bytes) (s : State) : Host.Outcome State Fault Refusal :=
  if !s.bar2Ok f off data.length maxPayload then .next s
  else if s.windowFree f then .next (s.emit (.unsupported f))
  else
    let (c, base) := s.window f
    let a := base + off
    .next ((pageParts a data.length).foldl (fun s q =>
      s.writePart c q (slice data (q.2.1 - a) q.2.2)) s)

/-! ### Function resets (R296, R349, R354) -/

/-- A mailbox as it begins. (open points: DEDUCED, log entry 16) -/
def Mailbox.reset : Mailbox := { request := [], response := [], doneSeq := 0, busy := false }

def State.mailbox (s : State) (f : Func) : Mailbox := kvGetD s.host.mailboxes (funcNum f) .reset

def State.modMailbox (s : State) (f : Func) (g : Mailbox → Mailbox) : State :=
  s.modHost (fun h => { h with mailboxes := kvMod h.mailboxes (funcNum f) .reset g })

/-- The mailbox of a function is idle: an unanswered request is discarded (R354), and its channel resets (R349). -/
def State.resetMailbox (s : State) (f : Func) : State :=
  let ch : Channel := match f with | .pf => .pf | .vf c => .vf c
  let n := funcNum f
  let s := s.modHost (fun h => { h with mailboxes := h.mailboxes.map (fun q =>
    if q.1 = n then (q.1, { q.2 with busy := false }) else q) })
  (s.modCat (fun k => { k with requests := k.requests.filter (fun r => r.ch != ch) })).resetChan ch

/-- The MSI-X table of a function as it begins. (open points: PRESUMED, log entry 7) -/
def State.resetMsix (s : State) (f : Func) : State :=
  s.modHost (fun h => { h with msix := h.msix.filter (fun q => q.1 / 64 != funcNum f) })

/-- A slot as an FLR leaves its stream: nothing new starts, lists not started are dropped, and what runs posts
nothing. (open points: DEDUCED, log entry 56) -/
def CtxStream.flr (x : CtxStream) : CtxStream :=
  let begun := fun (l : ListRec) =>
    x.ops.any (fun o => o.list == l.id && (match o.st with | .running => true | .done _ => true | _ => false))
  { x with
    subQueue := []
    lists := (x.lists.filter begun).map (fun l => { l with silent := true })
    ops := (x.ops.filter (fun o => x.lists.any (fun l => l.id == o.list && begun l))).map (fun o =>
      { o with silent := true, st := if o.st == .waiting then .dropped else o.st }) }

/-- The slot of a function that is reset. (open points: DEDUCED, log entry 56) -/
def State.flrSlot (s : State) (c : Slot) : State :=
  (s.modCtx c (fun x => { x with
    stream := x.stream.flr
    sub := { x.sub with base := 0 }
    ring := { x.ring with base := 0, backlog := [], posted := 0 } })).completeLists c

/-- FLR of the PF: every slot, every function, VF Enable, and the PF's ring and window. -/
def State.flrPf (s : State) : State :=
  let s := slots.foldl (fun s c => s.flrSlot c) s
  let fs := Func.pf :: slots.map Func.vf
  let s := fs.foldl (fun s f => (s.resetMailbox f).resetMsix f) s
  s.modHost (fun h => { h with
    vfEnable := false, windowBase := 0, ring := { h.ring with base := 0, posted := 0 } })

/-- Until Ready a configuration request is to be retried (R410). (open points: DEDUCED, log entry 56) -/
def execFlrVf (c : Slot) (s : State) : Host.Outcome State Fault Refusal :=
  if s.hasFunc (.vf c) && s.boot.life.open then .next (((s.flrSlot c).resetMailbox (.vf c)).resetMsix (.vf c)) else .next s

/-- Until Ready a configuration request is to be retried (R410). (open points: DEDUCED, log entry 56) -/
def execFlrPf (s : State) : Host.Outcome State Fault Refusal :=
  if s.hasFunc .pf && s.boot.life.open then .next s.flrPf else .next s

/-! ### The link (R293, R294) -/

/-- The PCIe state of every function resets: mailboxes, MSI-X tables, VF Enable, ring bases, the PF's window.
(open points: DEDUCED, log entry 56) -/
def State.resetPcie (s : State) : State :=
  let fs := Func.pf :: slots.map Func.vf
  let s := fs.foldl (fun s f => (s.resetMailbox f).resetMsix f) s
  let s := slots.foldl (fun s c => s.modCtx c (fun x => { x with
    sub := { x.sub with base := 0 }, ring := { x.ring with base := 0, posted := 0 } })) s
  s.modHost (fun h => { h with
    vfEnable := false, windowBase := 0, ring := { h.ring with base := 0, posted := 0 } })

/-- The link is gone: the PCIe state resets, contexts and their operations go on and their completions wait, with the
fault that names the host link; the module that follows the HA-8 enters holdover. (open points: DEDUCED, log entry 56) -/
def State.linkDown (s : State) : State :=
  let s := s.resetPcie.modHost (fun h => { h with
    up := false, rate := 0, width := 0, ltssm := 0, downs := h.downs + 1 })
  let s := s.raiseStatus sevFault St.linkDown Event.blank
  if s.mer.role = 2 && s.mer.state = 1 then s.enterHoldover else s

/-- Open points: DEDUCED, log entry 56. -/
def execHostLinkDown (s : State) : Host.Outcome State Fault Refusal :=
  if s.host.up then .next (s.linkDown) else .next s

/-- Rates in 0.1 GT/s, and widths. -/
def linkRates : List U16 := [320, 160, 80, 50, 25]
def linkWidths : List U8 := [8, 4, 1]

/-- Open points: DESIGN CHOICE, log entries 53 and 78. -/
def execHostLinkUp (rate : U16) (width : U8) (link : LinkSetting) (s : State) :
    Host.Outcome State Fault Refusal :=
  if s.host.up || !s.boot.life.hasLink || !linkRates.contains rate || !linkWidths.contains width then .next s
  else .next (s.modHost (fun h => { h with
    up := true, rate := rate, width := width, ltssm := link.ltssm
    correctable := h.correctable + link.corrected.setWidth 64, barPf := link.barPf, barVf := link.barVf }))

/-- VF Enable and NumVFs (R295); until Ready a configuration request is to be retried (R410). -/
def execVfEnableChange (enable : Bool) (numVfs : Fin 17) (s : State) : Host.Outcome State Fault Refusal :=
  if s.host.up && s.boot.life.open then .next (s.modHost (fun h => { h with vfEnable := enable, numVfs := numVfs })) else .next s

end Sys2Proof.Machine
end

