-- ==== Sys2Proof/Machine/Background.lean ====
section
/-! DEFINITION. The work beneath all traffic: page moves, patrol scrub, refresh, retraining and the flash's own work
(R232 to R238, R249 to R251). -/

namespace Sys2Proof.Machine

/-! ### Page moves (R249 to R251) -/

/-- A page that waits for one of its die's four moves starts first (R249). No page switches out of flash that cannot be
reached, nor into it (R238, R287). (open points: DESIGN CHOICE, log entry 58) -/
def execPageMoveSwitch (c : Slot) (page : Nat) (s : State) : Host.Outcome State Fault Refusal :=
  let s := if s.lostPage c page then s else s.startMove c page
  match (s.ctx c).page page with
  | none => .next s
  | some pg =>
    match pg.moving with
    | none => .next s
    | some t => if s.lostPage c page || s.flashLost t then .next s else .next (s.switchPage c page pg t)

/-- The waiting page with the lowest address that a free frame of the slot's slices takes.
(open points: DESIGN CHOICE, log entry 58) -/
def State.moveIn? (s : State) (c : Slot) : Option (Nat × Nat × Nat) :=
  ((s.ctx c).residentWaiting).findSome? (fun p =>
    match (s.ctx c).page p with
    | none => none
    | some pg =>
      if pg.moving.isSome || pg.freePending || !pg.owns || s.lostPage c p then none
      else (s.sliceFrame c (homeOf s.sku.dies p pg)).map (fun f => (p, f.1, f.2)))

/-- The page moves into the plate store, with a shadow frame in DDR5 (R231).
(open points: DESIGN CHOICE, log entry 58) -/
def State.moveIn (s : State) (c : Slot) (p d sl : Nat) : State :=
  match (s.ctx c).page p with
  | none => s
  | some pg =>
    match pg.tier with
    | .ddr x => s.switchPage c p pg (.plate d sl x)
    | _ =>
      match s.ddrFrame (homeOf s.sku.dies p pg) with
      | (s, some x) => s.switchPage c p pg (.plate d sl x)
      | (_, none) => s

/-- A frame of the slices of a bound context is free: the next waiting page takes it. -/
def execResidentMoveIn (c : Slot) (s : State) : Host.Outcome State Fault Refusal :=
  let x := s.ctx c
  if x.st == .bound && !x.pausing then
    match s.moveIn? c with
    | some (p, d, sl) => .next (s.moveIn c p d sl)
    | none => .next s
  else .next s

/-! ### Patrol scrub (R233 to R235) -/

/-- A plate in DDR5 or in the plate store: what holds errors of this kind. -/
def State.inRam (s : State) (c : Slot) (a : Nat) : Bool :=
  match (s.ctx c).page (a / pageBytes) with
  | some g => g.tier.isDdr
  | none => false

/-- Scrub has found an uncorrectable plate: it is counted and reported (R234). -/
def State.badFound (s : State) (c : Slot) (a : Nat) : State :=
  (s.countBad c a).raiseStatus sevFault St.pageUncorrectable
    { Event.blank with context := s.ctxId c, address := BitVec.ofNat 64 (a / 64 * 64) }

/-- A plate with an uncorrectable error is marked, counted and reported; one marked before is left (R231, R234).
(open points: DEDUCED, log entry 59) -/
def State.scrubBad (s : State) (q : Slot × Nat) : State :=
  let (c, a) := q
  if s.inRam c a && !s.poisoned c a then (s.setPoison c a).badFound c a else s

/-- An error in a plate that waits for its first reader. -/
def State.addLatent (s : State) (e : Latent) (q : Slot × Nat) : State :=
  let (c, a) := q
  if s.inRam c a && !s.poisoned c a then
    { s with tiers := { s.tiers with latent := kvSet s.tiers.latent (memKey c (a / 64 * 64)) e } }
  else s

/-- An error that scrub has found in its period. -/
def State.scrubFound (s : State) (x : Nat × Latent) : State :=
  let c : Slot := Fin.ofNat 16 (x.1 / rangeBytes)
  let a := x.1 - memKey c 0
  match x.2 with
  | .soft => s.scrubCorrected (c, a)
  | .hard => s.badFound c a
  | _ => s

def Latent.isFlash : Latent → Bool
  | .flash _ => true
  | _ => false

/-- At its end a period has found every error of DDR5 and the plate store that stood through it (R235): one that no
reader met is corrected or marked now; the mark of one that was met stays. (open points: DEDUCED, log entry 59) -/
def State.endPeriod (s : State) : State :=
  let l := s.tiers.latent.filter (fun x => !x.2.isFlash)
  let s : State := { s with
    poison := (l.filter (fun x => x.2 != .soft)).foldl (fun ps x => insertNat ps x.1) s.poison
    tiers := { s.tiers with latent := s.tiers.latent.filter (fun x => x.2.isFlash) } }
  l.foldl State.scrubFound s

/-- A patrol period begins; the one before it, if any, is complete. What the period's scrub and its readers find comes
with the command: plates the scrub corrects, plates it finds uncorrectable, and plates whose error, of either kind, is met
by another reader first. (open points: DESIGN CHOICE, log entry 4; DEDUCED, log entry 59) -/
def execScrubPeriodStart (corrected : List (Slot × Nat)) (uncorrectable : BadPlates) (s : State) :
    Host.Outcome State Fault Refusal :=
  if s.boot.life != .ready then .next s
  else
    let s := s.endPeriod
    let s := { s with tiers := { s.tiers with
      scrubPasses := if s.tiers.scrubbing then s.tiers.scrubPasses + 1 else s.tiers.scrubPasses
      scrubbing := true } }
    let s := corrected.foldl (fun s q => s.scrubCorrected q) s
    let s := uncorrectable.scrubbed.foldl (fun s q => s.scrubBad q) s
    let s := uncorrectable.latent.foldl (fun s q => s.addLatent .hard q) s
    .next (uncorrectable.soft.foldl (fun s q => s.addLatent .soft q) s)

/-- Retraining of a channel changes no bit of data and ends no operation. -/
def execDdrRetrain (p : Fin 40) (s : State) : Host.Outcome State Fault Refusal :=
  if s.sku.positions ≤ p.val then .fault .noSuchUnit else .next s

/-- So does refresh. -/
def execDramRefresh (p : Fin 40) (s : State) : Host.Outcome State Fault Refusal :=
  if s.sku.positions ≤ p.val then .fault .noSuchUnit else .next s

/-! ### Flash (R237, R238, R255) -/

/-- A plate that lies in the flash of a die. -/
def State.inFlash (s : State) (d : Nat) (c : Slot) (a : Nat) : Bool :=
  match (s.ctx c).page (a / pageBytes) with | some g => g.tier == .flash d | none => false

/-- A read of the flash's own work that failed every retry: the plate is poisoned and counted, and one fault is written
(R237). (open points: DEDUCED, log entry 59) -/
def State.flashFail (s : State) (d : Nat) (q : Slot × Nat) : State :=
  let (c, a) := q
  if s.inFlash d c a && !s.poisoned c a then
    (s.flashPoison d c a).raiseStatus sevFault St.flashReadFail
      { Event.blank with context := s.ctxId c, address := BitVec.ofNat 64 (a / 64 * 64) }
  else s

/-- A plate whose next reader is to find that: an operation that reads it, or its side list or word, ends with
FLASH_READ_FAIL, also where the read comes with a move up (R237). (open points: DEDUCED, log entry 59) -/
def State.flashLatent (s : State) (d : Nat) (q : Slot × Nat) : State :=
  let (c, a) := q
  if s.inFlash d c a && !s.poisoned c a then
    { s with tiers := { s.tiers with latent := kvSet s.tiers.latent (memKey c (a / 64 * 64)) (.flash d) } }
  else s

/-- A round of a die's own flash work, which moves no data a reader can see. (open points: DEDUCED, log entry 59) -/
def execFlashBackgroundWork (d : Fin 8) (w : FlashWork) (s : State) : Host.Outcome State Fault Refusal :=
  if s.sku.dies ≤ d.val then .fault .noSuchUnit
  else if s.boot.life != .ready || !s.dieRuns d.val then .next s
  else
    let x := s.flashDie d.val
    let s := { s with tiers := { s.tiers with flash := kvSet s.tiers.flash d.val { x with
      sparePct := w.sparePct
      wearPct := w.wearPct
      readRetries := x.readRetries + BitVec.ofNat 64 w.retries
      bytesWritten := x.bytesWritten + BitVec.ofNat 64 w.bytesWritten } } }
    let s := w.failed.foldl (fun s q => s.flashFail d.val q) s
    let s := w.latent.foldl (fun s q => s.flashLatent d.val q) s
    let s := { s with images := s.images.map (fun (i : Image) =>
      if w.failedImages.contains i.id then { i with bad := some d.val } else i) }
    if w.sparePct < 2 && 2 ≤ x.sparePct then
      .next (s.raise { Event.blank with
        severity := sevFault, event := 0x800E, unit := BitVec.ofNat 16 d.val, args := [w.sparePct.setWidth 64] })
    else .next s

end Sys2Proof.Machine
end

