-- ==== Sys2Proof/Machine/Logbook.lean ====
section
/-! DEFINITION. The Logbook's stores: committing, mirroring, reading and clearing (R371 to R386). -/

namespace Sys2Proof.Machine

/-! ### Stores (R371, R377) -/

/-- The least slot from `n` on that is not listed in a rising table. -/
def firstGap {α : Type} (n : Nat) : List (Nat × α) → Nat
  | [] => n
  | (k, _) :: rest => if k < n then firstGap n rest else if k = n then firstGap (n + 1) rest else n

/-- The slots a record may take in a store whose fatal quarter has `q` slots. -/
def LogRec.region (r : LogRec) (q : Nat) : Nat × Nat :=
  if r.severity = 0 || r.clearRec then (0, q) else (q, 4 * q)

/-- The older of two records. -/
def older (a b : Nat × LogRec) : Nat × LogRec := if b.2.seq < a.2.seq then b else a

def oldestOf : List (Nat × LogRec) → Option (Nat × LogRec)
  | [] => none
  | x :: rest => match oldestOf rest with | none => some x | some y => some (older x y)

/-- The slot a record takes, and the record it overwrites: a free slot of its region, else that of the oldest
record it may overwrite (R377). (open points: DEDUCED, log entry 63) -/
def placeOf (store : List (Nat × LogRec)) (q : Nat) (r : LogRec) : Option (Nat × Option LogRec) :=
  let (lo, hi) := r.region q
  let free := firstGap lo store
  if free < hi then some (free, none)
  else
    (oldestOf (store.filter (fun x => lo ≤ x.1 && x.1 < hi && (lo = 0 || r.severity ≤ x.2.severity)))).map
      (fun x => (x.1, some x.2))

/-- Fatal quarters of the primary store and of the mirror. -/
def primaryQuarter : Nat := 32768
def mirrorQuarter : Nat := 524288

/-- A record that a clear covers (R384). -/
def Logbook.cleared (l : Logbook) (r : LogRec) : Bool :=
  !r.clearRec && r.seq ≤ l.watermarks.getD r.severity.toNat 0

def State.modLog (s : State) (f : Logbook → Logbook) : State := { s with log := f s.log }

/-! ### LOGBOOK_COMMIT (R372, R373, R377, R386) -/

/-- A record overwritten before the mirror has it is lost to the mirror (R378). -/
def Logbook.overwrite (l : Logbook) (r : LogRec) : Logbook :=
  if l.mirrorQueue.any (fun x => x.seq == r.seq) then
    { l with mirrorQueue := l.mirrorQueue.filter (fun x => x.seq != r.seq), mirrorLost := l.mirrorLost + 1 }
  else l

/-- The commit of a record that has a place. (open points: DEDUCED, log entry 63) -/
def Logbook.put (l : Logbook) (r : LogRec) (slot : Nat) (old : Option LogRec) : Logbook :=
  let l := match old with | some x => l.overwrite x | none => l
  { l with primary := kvSet l.primary slot r, mirrorQueue := l.mirrorQueue ++ [r] }

def Logbook.countWritten (l : Logbook) (sev : BitVec 2) : Logbook :=
  { l with written := l.written.set sev.toNat (l.written.getD sev.toNat 0 + 1) }

/-- A record is committed, or dropped for want of a place; one that a clear already covers takes no slot.
`notices`: its notices go out. (open points: DEDUCED, log entry 63) -/
def State.commitRecord (s : State) (r : LogRec) (notices : Bool) : State :=
  let done := fun (f : Logbook → Logbook) =>
    let s := s.modLog (fun l => (f l).countWritten r.severity)
    if notices then (s.noticeMessages r).noticeCompletions r else s
  if s.log.cleared r then done id
  else
    match placeOf s.log.primary primaryQuarter r with
    | none => if notices then s.dropRecord r else s.modLog (fun l => l.countDrop r.severity)
    | some (slot, old) => done (fun l => l.put r slot old)

/-- The oldest queued record is committed; during hold-up no notice leaves (R379). (open points: DEDUCED, log entry 63) -/
def execLogbookCommit (s : State) : Host.Outcome State Fault Refusal :=
  match s.log.queue with
  | [] => .next s
  | r :: rest =>
    if s.boot.life == .off && !s.log.holdup then .next s
    else .next ((s.modLog (fun l => { l with queue := rest })).commitRecord r (s.boot.life != .off))

/-! ### MIRROR_WRITE (R378) -/

/-- The next committed record goes to the mirror; one that a clear covers takes no slot (R386).
(open points: DEDUCED, log entry 63) -/
def execMirrorWrite (s : State) : Host.Outcome State Fault Refusal :=
  match s.log.mirrorQueue with
  | [] => .next s
  | r :: rest =>
    if s.boot.life == .off || !s.flashUp 0 then .next s
    else
      .next (s.modLog (fun l =>
        let l := { l with mirrorQueue := rest }
        if l.cleared r then l
        else match placeOf l.mirror mirrorQuarter r with
          | some (slot, _) => { l with mirror := kvSet l.mirror slot r }
          | none => l))

/-! ### Reading (R381, R382) -/

/-- Every readable record, each once. -/
def Logbook.readable (l : Logbook) : List LogRec :=
  l.primary.map (·.2) ++ (l.mirror.map (·.2)).filter (fun r => !l.primary.any (fun x => x.2.seq == r.seq))

/-- The records a read returns: from `from_` on, of severity code at most `sev`, at most `n`. -/
def Logbook.readRecords (l : Logbook) (from_ : U64) (sev : U8) (n : Nat) : List LogRec :=
  (sortBy (fun (r : LogRec) => r.seq.toNat)
    (l.readable.filter (fun r => from_ ≤ r.seq && r.severity.toNat ≤ sev.toNat))).take n

/-- 0x9000:04. -/
def Logbook.oldest (l : Logbook) : U64 :=
  match (l.readRecords 0 3 1).head? with | some r => r.seq | none => l.nextSeq

/-! ### Clearing (R383 to R385) -/

/-- A write of `logbook_clear`; `auth`: the authorisation identifier. A mask that clears nothing is refused first, also while
die 0 is out of service (R383). (open points: DEDUCED, log entries 15 and 63) -/
def State.clearLog (s : State) (ch : Channel) (auth : U64) (mask : U8) : State × U16 :=
  if mask = 0 || 15 < mask.toNat then (s, St.valueOutOfRange)
  else if !s.dieRuns 0 then (s, St.accessDenied)
  else
    let top := s.log.nextSeq - 1
    let s := s.modLog (fun l =>
      let l := { l with
        clearMask := mask
        watermarks := (List.range 4).map (fun i => if mask.getLsbD i then top else l.watermarks.getD i 0) }
      { l with
        primary := l.primary.filter (fun x => !l.cleared x.2)
        mirror := l.mirror.filter (fun x => !l.cleared x.2)
        mirrorQueue := l.mirrorQueue.filter (fun x => !l.cleared x) })
    (s.raise { Event.blank with
      event := 0x800C, clearRec := true, args := chanArgs ch auth [mask.setWidth 64, top] }, St.ok)

/-! ### Hold-up (R379) -/

/-- The capacitors have charged. -/
def execHoldupReady (s : State) : Host.Outcome State Fault Refusal :=
  if s.boot.life == .off then .next s else .next (s.modLog (fun l => { l with holdupReady := true }))

/-- Records pending at a loss of main power are committed in SEQ order while the energy lasts: `n` of them. No
notice leaves the module. With the energy of 20 ms, records raised after it are committed as they arrive, until power
returns. (open points: DEDUCED, log entry 63) -/
def State.commitOnHoldup (s : State) (n : Nat) : State :=
  let s := (s.log.queue.take n).foldl (fun s r => s.commitRecord r false) s
  s.modLog (fun l => { l with queue := [], holdupReady := false, holdup := l.holdupReady })

end Sys2Proof.Machine
end

