-- ==== Sys2Proof/Machine/Power.lean ====
section
/-! DEFINITION. Power windows, limits, the energy meter and the cooling conditions (R358 to R370, R426). -/

namespace Sys2Proof.Machine

/-! ### Envelopes and the cap (R360, R361) -/

def State.envelopeOf (s : State) (b : Nat) : Nat := (s.block b).envelopeOf (s.blockMax b)

/-- 0x3000:03. -/
def State.envelopeSum (s : State) : Nat := sumNat s.envelopeOf s.sku.blocks
/-- 0x3000:02; by default the sum of the maximum envelopes. -/
def State.capOf (s : State) : Nat :=
  match s.power.cap with | some v => v.toNat | none => sumNat s.blockMax s.sku.blocks

/-! ### Performance points (R359) -/

/-- The point a block is to run at: its own, or P3 under a fault hold. -/
def Block.target (x : Block) : U8 := if x.held then 3 else x.point

/-- Arrays still in a pass begun before the last change. (open points: DEDUCED, log entry 62) -/
def State.stillTaking (s : State) (x : Block) : List Nat :=
  x.taking.filter (fun k => !(kvGetD s.arrays.queues k []).isEmpty)

/-- 0x3100+b:03. (open points: DEDUCED, log entry 62) -/
def State.pointInForce (s : State) (b : Nat) : U8 :=
  let x := s.block b
  if (s.stillTaking x).isEmpty then x.target else x.inForce

/-- Arrays of a group with a pass running. -/
def State.groupPasses (s : State) (g : Nat) : List Nat :=
  (List.range 32).filterMap (fun i =>
    let k := 32 * g + i
    if (kvGetD s.arrays.queues k []).isEmpty then none else some k)

/-- A change of point: each array takes it at its next pass boundary. -/
def State.changePoint (s : State) (b : Nat) (f : Block → Block) : State :=
  let now := s.pointInForce b
  s.modBlock b (fun x => { f x with inForce := now, taking := s.groupPasses (blockGroup b) })

/-! ### Writes of the power entries (R359 to R361) -/

def State.writePoint (s : State) (b : Nat) (v : U8) : State × U16 :=
  if s.sku.blockKind b != some 0 then (s, St.accessDenied)
  else if 3 < v.toNat then (s, St.valueOutOfRange)
  else (s.changePoint b (fun x => { x with point := v }), St.ok)

def State.writeEnvelope (s : State) (b : Nat) (v : U32) : State × U16 :=
  if s.sku.blockKind b != some 0 then (s, St.accessDenied)
  else if v.toNat < 15000 || 100000 < v.toNat then (s, St.valueOutOfRange)
  else
    let t := s.modBlock b (fun x => { x with envelope := some v })
    if t.envelopeSum ≤ t.capOf then (t, St.ok) else (s, St.envelopeLimit)

def State.writeCap (s : State) (v : U32) : State × U16 :=
  if s.envelopeSum ≤ v.toNat then ({ s with power := { s.power with cap := some v } }, St.ok)
  else (s, St.envelopeLimit)

/-! ### The meter (R364, R365) -/

/-- A reading times a gain, to an integer next to the exact product; which one is free, and so is the value under
a gain that is no positive number. (open points: DESIGN CHOICE, log entry 61) -/
def State.gained (s : State) (n : Nat) (gain : F32) : State × Nat :=
  match fval gain with
  | .fin false m e =>
    if 0 ≤ e then (s, n * m * 2 ^ e.toNat)
    else
      let d := 2 ^ (-e).toNat
      if n * m % d = 0 then (s, n * m / d)
      else
        let q := s.draw
        (q.1, n * m / d + q.2.toNat % 2)
  | _ => let q := s.draw; (q.1, q.2.toNat)

/-- Contexts that share a block, with their number of groups (R365). -/
def State.sharers (s : State) (b : Nat) : List (Slot × Nat) :=
  let count := fun (c : Slot) =>
    if b = 192 then (s.ctx c).groupList.length
    else if s.sku.blockKind b = some 0 then (if (s.ctx c).groups.getLsbD (blockGroup b) then 1 else 0)
    else ((s.ctx c).groupList.filter (fun g => g / 8 == b / 24)).length
  (slots.map (fun c => (c, count c))).filter (fun q => 0 < q.2)

/-- A block's energy goes to its sharers; what truncation leaves goes to the unbound account.
(open points: DESIGN CHOICE, log entry 61) -/
def State.apportion (s : State) (b e : Nat) : State :=
  let l := s.sharers b
  let n := sumNat (fun (q : Slot × Nat) => q.2) l
  let s := l.foldl (fun s q => s.modCtx q.1 (fun x => { x with energy := { x.energy with
    energyUj := x.energy.energyUj + e * q.2 / n } })) s
  { s with power := { s.power with
    unboundUj := s.power.unboundUj + (e - sumNat (fun (q : Slot × Nat) => e * q.2 / n) l) } }

/-- Ten windows in a row above the limit: one fault, and the hold of R362; a block of kind 4 or 5 is recorded only.
(open points: DESIGN CHOICE, log entry 61) -/
def State.overLimit (s : State) (b : Nat) : State :=
  let kind := (s.sku.blockKind b).getD 5
  let s := (s.modBlock b (fun x => { x with overRun := 0 })).raiseStatus sevFault St.envelopeLimit
    { Event.blank with unit := BitVec.ofNat 16 b }
  if kind = 0 then (if (s.block b).held then s else s.changePoint b (fun x => { x with held := true }))
  else if kind ≤ 3 then s.modBlock b (fun x => { x with held := true })
  else s

/-- One more window of a ramp. (open points: DESIGN CHOICE, log entry 34) -/
def RampLimit.tick (r : RampLimit) : RampLimit := { r with windows := r.windows + 1 }

/-- A block's window ends (R358, R360, R362, R366). (open points: DESIGN CHOICE, log entry 61) -/
def State.blockWindow (s : State) (r : WindowReadings) (b : Nat) : State :=
  let raw := sumNat (fun (q : Nat × Nat) => q.2) (r.energy.filter (fun q => q.1 == b))
  let (s, e) := s.gained raw (s.effective (0x2010 + b))
  let high := e + 5000 < 100 * (e - s.limitNow b)
  let kind := (s.sku.blockKind b).getD 5
  let cause := if r.withheld.contains b && kind ≤ 3 then (s.block b).limCauses else 0
  let s := s.modBlock b (fun x => { x with
    energyUj := x.energyUj + e
    power := BitVec.ofNat 32 e
    peak := if x.peak.toNat < e then BitVec.ofNat 32 e else x.peak
    cause := cause
    limitedMs := if cause = 0 then x.limitedMs else x.limitedMs + 1
    overRun := if high then x.overRun + 1 else 0
    rampModule := x.rampModule.map RampLimit.tick
    rampContext := x.rampContext.map RampLimit.tick })
  let s := s.apportion b e
  let s := if 10 ≤ (s.block b).overRun then s.overLimit b else s
  s.setLimit b

/-- The sensors, after their corrections (R341, R366, R368). -/
def State.readSensors (s : State) (r : WindowReadings) : State :=
  let (s, flow) := s.gained r.flowMl.toNat (s.effective 0x2100)
  { s with power := { s.power with
      busbarMv := r.busbarMv, inletMc := r.inletMc, outletMc := r.outletMc, flowMl := BitVec.ofNat 32 flow,
      dpPa := r.dpPa, dieMc := (List.range 8).map (fun d => r.dieMc.getD d 0 + s.effective (0x2001 + d))
      busbarHigh := s.power.busbarHigh && 58000 < r.busbarMv.toNat } }

/-- RETIRE_LIMIT records due (R234). (open points: DEDUCED, log entry 59) -/
def State.retireLimits (s : State) : State :=
  s.tiers.limitDue.foldl (fun s p => s.raise { Event.blank with
      severity := sevFault, event := 0x800D, unit := BitVec.ofNat 16 p })
    { s with tiers := { s.tiers with limitDue := [] } }

/-- Open points: DEDUCED, log entry 62. -/
def execPowerWindowEnd (r : WindowReadings) (s : State) : Host.Outcome State Fault Refusal :=
  if s.boot.life == .off then .next s
  else
    let s := { s with ident := { s.ident with operatingMs := s.ident.operatingMs + 1 } }
    let s := s.sku.blocks.foldl (fun s b => s.blockWindow r b) s
    let s := { s with power := { s.power with
      modulePower := BitVec.ofNat 32 (sumNat (fun b => (s.block b).power.toNat) s.sku.blocks) } }
    .next ((s.readSensors r).retireLimits).verifyStaged

/-! ### Caps (R368) -/

/-- The command's condition can only arise in a module with main power, or in hold-up, whose records the Logbook still
takes (R379). (open points: DESIGN CHOICE, log entry 4) -/
def State.powered (s : State) : Bool := s.boot.life != .off || s.log.holdup

def execThermalCap (d : Fin 8) (tempMc : U32) (s : State) : Host.Outcome State Fault Refusal :=
  if s.sku.dies ≤ d.val then .fault .noSuchUnit
  else if !s.powered || tempMc.toInt < 95000 || s.power.thermalDies.getLsbD d.val then .next s
  else
    let s := { s with power := { s.power with
      thermalDies := s.power.thermalDies ||| BitVec.ofNat 8 (2 ^ d.val) } }
    .next (s.lowerAll.raise { Event.blank with
      severity := sevNotice, event := 0x8010, unit := BitVec.ofNat 16 d.val, args := [tempMc.setWidth 64] })

def execCoolantDerate (inletMc : U32) (flowMl : U32) (s : State) : Host.Outcome State Fault Refusal :=
  if s.powered && !s.power.coolantDerate && (45000 < inletMc.toInt || flowMl.toNat < 10000) then
    .next (({ s with power := { s.power with coolantDerate := true } }).lowerAll.raiseStatus
      sevFault St.coolantFault Event.blank)
  else .next s

def execSupplyDerate (mv : U32) (s : State) : Host.Outcome State Fault Refusal :=
  if s.powered && !s.power.supplyDerate && 44000 ≤ mv.toNat && mv.toNat < 48000 then
    .next (({ s with power := { s.power with supplyDerate := true } }).lowerAll.raiseStatus
      sevFault St.envelopeLimit Event.blank)
  else .next s

def execBusbarHigh (mv : U32) (s : State) : Host.Outcome State Fault Refusal :=
  if s.powered && !s.power.busbarHigh && 58000 < mv.toNat && mv.toNat ≤ 60000 then
    .next (({ s with power := { s.power with busbarHigh := true } }).raise { Event.blank with
      severity := sevFault, event := 0x800F, args := [mv.setWidth 64] })
  else .next s

/-- 0xB000:0A. -/
def Power.coolingState (p : Power) : U8 :=
  (if p.coolantDerate then 1 else 0) ||| (if p.supplyDerate then 2 else 0) |||
    (if p.thermalDies = 0 then 0 else 4)

/-- Conditions end: those of `bits`, and the thermal cap of one die, whose clearing conditions the sensors show (R368).
The cap leaves with the next window. -/
def execConditionCleared (bits : U8) (die : Option (Fin 8)) (s : State) : Host.Outcome State Fault Refusal :=
  let p := s.power
  let hot := match die with
    | some d => if p.thermalDies.getLsbD d.val then BitVec.ofNat 8 (2 ^ d.val) else 0
    | none => 0
  let cool := bits.getLsbD 0 && p.coolantDerate && p.inletMc.toInt ≤ 44000 && 11000 ≤ p.flowMl.toNat
  let volt := bits.getLsbD 1 && p.supplyDerate && 48500 ≤ p.busbarMv.toNat
  let heat := bits.getLsbD 2 && hot != 0 && die.any (fun d => (p.dieMc.getD d.val 0).toInt ≤ 90000)
  if !s.powered || !(cool || volt || heat) then .next s
  else
    let q := { p with
      coolantDerate := p.coolantDerate && !cool
      supplyDerate := p.supplyDerate && !volt
      thermalDies := if heat then p.thermalDies ^^^ hot else p.thermalDies }
    .next (({ s with power := q }).raise { Event.blank with
      event := 0x8011, args := [(p.coolingState ^^^ q.coolingState).setWidth 64] })

/-! ### Thermal stop and leak (R369, R426) -/

/-- Every running operation of a slot ends with COOLANT_FAULT; one that has met a fault ends with that one, the first
(R433). -/
def State.stopSlot (s : State) (c : Slot) : State :=
  ((s.ctx c).stream.ops.filter (fun o => o.st == .running)).foldl (fun s o =>
    s.finishOp c o (match o.run with | some r => r.fault.getD St.coolantFault | none => St.coolantFault) true) s

def Arrays.empty : Arrays := { queues := [], shadows := [], drains := [], blinks := [], adds := [] }

/-- Device ranges are lost, and captures with them; committed images are kept (R226, R239). -/
def State.loseRanges (s : State) : State :=
  let s := slots.foldl (fun s c => s.modCtx c (fun x => { x with
    pool := { x.pool with pages := [], pendingFrees := [] } })) s
  { s with mem := [], poison := [], images := s.images.filter (fun i => i.committed)
           tiers := { s.tiers with bad := [], latent := [] } }

/-- A snapshot asked for or in progress is discarded, and its status record says so (R226, R369).
(open points: DEDUCED, log entry 63) -/
def CtxTrain.dropCapture (t : CtxTrain) : CtxTrain :=
  { t with takeAt := none, snap := if t.snap.state = 1 || t.snap.state = 2 then
      { t.snap with state := 4, status := St.coolantFault } else t.snap }

/-- Copied images that wait for their verification are lost to a stop. (open points: DEDUCED, log entry 60) -/
def State.dropCopied (s : State) : State :=
  if !s.boot.verifying.isEmpty then
    ({ s with boot := { s.boot with verifying := [] } }).setStage s.boot.stageStatus.seq 3 St.coolantFault none
  else s

/-- What a stop leaves of the module's life: a start stops at its phase, and recovery's ROM runs on (R407, R410, R426,
R427). (open points: DEDUCED, log entry 60) -/
def Life.afterStop : Life → Life
  | .acquiring => .cut true
  | .held => .cut false
  | .ready => .stopped
  | l => l

/-- The stop: what runs ends, the arrays and memories are off, and the fatal record stands. -/
def State.thermalStop (s : State) (args : List U64) : State :=
  let s := slots.foldl (fun s c => (s.stopSlot c).modTrain c CtxTrain.dropCapture) s
  let s := s.mapBlocks (fun x => { x with taking := [] })
  let s := ({ s with arrays := .empty }).loseRanges
  let s := s.dropCopied
  let s := { s with boot := { s.boot with life := s.boot.life.afterStop, afterThermal := true, toLearn := none } }
  s.raiseStatus sevFatal St.coolantFault { Event.blank with args := args }

/-- A stop applies to a module that runs or starts. -/
def Life.stoppable (l : Life) : Bool := l != .off && !l.dead

/-- The condition behind a thermal stop holds, on effective values: in thousandths of a degree, and of a litre a minute
(R368). -/
def stopReached : StopCause → Bool
  | .dieHot mc => 105000 ≤ mc.toInt
  | .inletHot mc => 55000 < mc.toInt
  | .flowLow ml => ml.toNat < 4000

/-- A start that holds for its coolant waits instead for the hold's end (R427). -/
def waitsForHold : StopCause → Bool
  | .dieHot _ => false
  | _ => true

def execThermalStop (cause : StopCause) (s : State) : Host.Outcome State Fault Refusal :=
  if s.boot.life.stoppable && stopReached cause && !(s.boot.life == .held && waitsForHold cause) then .next (s.thermalStop [])
  else .next s

/-- A module that is stopped already, or in hold-up, only records the leak. (open points: DEDUCED, log entry 60) -/
def execLeakDetected (s : State) : Host.Outcome State Fault Refusal :=
  if s.boot.life.stoppable then .next (s.thermalStop [1])
  else if s.powered then .next (s.raiseStatus sevFatal St.coolantFault { Event.blank with args := [1] })
  else .next s

end Sys2Proof.Machine
end

