-- ==== Sys2Proof/Machine/Report.lean ====
section
/-! DEFINITION. What a step close writes of the step: Blink checks dropped, dark layers, the layer watch
table and the seeing report (R70, R125 to R135). -/

namespace Sys2Proof.Machine

/-! ### Blink checks past their step (R70) -/

/-- A check has waited past the end of its step at that step's close, not already when the next step opens (DEDUCED, log
entry 27). -/
def State.dropBlinks (s : State) (c : Slot) (step : U64) : State :=
  s.dropChecks (fun _ b => b.op.c == c && b.op.step ≤ step)

/-! ### Dark layers (R134, R135) -/

/-- A layer's figures of the step, over its dark count of the steps before. (open points: DEDUCED, log entry 26) -/
def CtxNum.figures (x : CtxNum) (step : U64) (j : Nat) : LayerWatch :=
  let f := kvGetD x.layerWatch (layerKey step j) .reset
  let d := kvGetD x.layerWatch j .reset
  { f with darkSteps := if f.wgPlates = 0 then d.darkSteps else if f.wgNonZero then 0 else satAdd32 d.darkSteps 1
           darkRaised := d.darkRaised }

/-- DARK_LAYER of one layer (R135). -/
def State.darkLayer (s : State) (c : Slot) (step : U64) (j : Nat) (f : LayerWatch) : State :=
  let thr := (s.ctx c).num.watchInForce.darkThr.toNat
  let above := thr != 0 && thr ≤ f.darkSteps.toNat
  let raised := f.darkSteps != 0 && (f.darkRaised || above)
  let s := s.modNum c (fun x => { x with
    layerWatch := kvSet x.layerWatch j { LayerWatch.reset with darkSteps := f.darkSteps, darkRaised := raised } })
  let s := if above then s.noteStep c step 3 else s
  if above && !f.darkRaised then
    s.raiseStatus sevNotice St.darkLayer
      { Event.blank with context := s.ctxId c, unit := BitVec.ofNat 16 j, step := step
                         args := [f.darkSteps.setWidth 64] }
  else s

/-- The 128 bytes of a layer watch record (R132). -/
def LayerWatch.bytes (l : LayerWatch) : Bytes :=
  l.hist.flatMap (bvLe 4) ++ bvLe 4 l.darkSteps ++ bvLe 4 l.blinkTiles ++ bvLe 4 l.blinkDivTiles ++
    bvLe 4 l.blinkWorst ++ bvLe 4 l.wgPlates ++ zeros 44

/-- The figures of every layer, none while :05 is 0 (R132). -/
def CtxNum.allFigures (x : CtxNum) (step : U64) : List (Nat × LayerWatch) :=
  if x.watchInForce.layerBase = 0 then [] else x.layers.map (fun l => (l.1, x.figures step l.1))

/-- The layer watch table is written; the flag: it does not lie in the range, which is read as the allocated pages of
the context (R132). (open points: DEDUCED, log entry 26) -/
def State.writeWatch (s : State) (c : Slot) (fs : List (Nat × LayerWatch)) : State × Bool :=
  let a := (s.ctx c).num.watchInForce.layerBase.toNat
  if fs.isEmpty then (s, false)
  else if !s.allocated c a (128 * fs.length) then (s, true)
  else (fs.foldl (fun s f => s.store c (a + 128 * f.1) f.2.bytes) s, false)

/-- The layer figures of a closed step are gone; while :05 is 0, so are the dark counts. -/
def CtxNum.clearFigures (x : CtxNum) (step : U64) : CtxNum :=
  { x with layerWatch := x.layerWatch.filter (fun f =>
      f.1 / 65536 != step.toNat + 1 && (x.watchInForce.layerBase != 0 || 65536 ≤ f.1)) }

/-! ### The report (R127) -/

/-- The lowest layer that holds the largest dark count. -/
def darkMax : List (Nat × LayerWatch) → Option (Nat × Nat)
  | [] => none
  | f :: rest =>
    match darkMax rest with
    | none => some (f.2.darkSteps.toNat, f.1)
    | some (d, j) => if d ≤ f.2.darkSteps.toNat then some (f.2.darkSteps.toNat, f.1) else some (d, j)

def seeingReport (a : StepAcc) (count : U64) (ctxId : U16) (m : CloseSums) (fs : List (Nat × LayerWatch))
    (thr : Nat) (refused : U32) : Bytes :=
  let sat := fun (n : Nat) => natLe 4 (Nat.min n 0xFFFFFFFF)
  let dark := if thr = 0 then 0 else (fs.filter (fun f => thr ≤ f.2.darkSteps.toNat)).length
  let (dm, dl) := (darkMax fs).getD (0, 0xFFFF)
  bvLe 8 a.step ++ bvLe 8 count ++ bvLe 2 ctxId ++ bvLe 2 a.notices ++ bvLe 4 a.opsInvalid ++
    bvLe 4 a.stalePlates ++ bvLe 4 a.flags ++ a.counts.flatMap (bvLe 4) ++ sat m.s8Sat ++ sat m.lost ++
    sat m.sideOvf ++ sat m.corrected ++ bvLe 4 a.blinkChecked ++ bvLe 4 a.blinkDropped ++
    bvLe 4 a.blinkDivergent ++ bvLe 2 a.blinkFirstLayer ++ natLe 2 (Nat.min dark 0xFFFF) ++ natLe 4 dm ++
    natLe 2 dl ++ natLe 2 (Nat.min refused.toNat 0xFFFF) ++ faultBytes a.firstFault ++ zeros 24

/-- The report is written to its ring and posted; the flag: the ring does not lie in the range, which is read as the
allocated pages of the context (R125, R126, R304). (open points: DEDUCED, log entry 26) -/
def State.writeReport (s : State) (c : Slot) (b : Bytes) : State × Bool :=
  let x := (s.ctx c).num
  let n := x.reports
  let w := x.watchInForce
  let base := w.ringBase.toNat
  let s := s.modNum c (fun x => { x with reports := x.reports + 1 })
  if base = 0 then (s, false)
  else if !s.allocated c base (256 * w.ringEntries.toNat) then (s, true)
  else
    let s := s.store c (base + 256 * (n.toNat % w.ringEntries.toNat)) b
    (s.postCtx c { late := false, kind := 4, status := St.ok, tag := 0, opId := 0, context := s.ctxId c,
                   ekind := 0, count := s.meridianField, arg := n }, false)

/-- The watch part of a close, after step 7 of R99. `count`: when the close began.
(open points: DEDUCED, log entry 26) -/
def State.closeWatch (s : State) (c : Slot) (step count : U64) (m : CloseSums) : State :=
  let fs := (s.ctx c).num.allFigures step
  let s := fs.foldl (fun s f => s.darkLayer c step f.1 f.2) s
  let (s, bad1) := s.writeWatch c fs
  let x := (s.ctx c).num
  let a := x.stepAcc step
  let (s, bad2) := s.writeReport c (seeingReport a count (s.ctxId c) m fs x.watchInForce.darkThr.toNat x.refused)
  let s := s.modNum c (fun x =>
    { x.clearFigures step with lastNotices := a.notices, steps := x.steps.filter (fun b => b.step != step) })
  if bad1 || bad2 then
    s.raiseStatus sevNotice St.beyondBound { Event.blank with context := s.ctxId c }
  else s

end Sys2Proof.Machine
end

