-- ==== Sys2Proof/Machine/Close.lean ====
section
/-! DEFINITION. STEP_CLOSE: the close of a context's step (R98), with what every chapter does at it. -/

namespace Sys2Proof.Machine

/-! ### The journal at a close (R218) -/

/-- A scale record. -/
def TRec.journal (r : TRec) : JScale :=
  { handle := r.handle, scaleR := r.scaleR, scaleW := r.scaleW, genR := r.genR, genW := r.genW,
    format := BitVec.ofNat 8 (16 * r.fmtW.toNat + r.fmtR.toNat), flags := r.flags }

/-- CLOSED is set on the entry of the closed step, truncated or not. (open points: DESIGN CHOICE, log entry 42) -/
def State.journalClose (s : State) (c : Slot) (step : U64) : State :=
  match (s.ctx c).train.entryOf step with
  | none => s
  | some e =>
    let e' := { e with closed := true }
    (s.modTrain c (fun t => { t with
      journal := t.journal.map (fun x => if x.step == step then e' else x) })).journalWrite c e'

/-- The scale records enter the entry of the step after. -/
def State.journalScales (s : State) (c : Slot) (next : U64) : State :=
  let scales := (s.ctx c).num.recs.map (fun p => p.2.journal)
  s.journalMod c next (fun e => { e with scales := scales })

/-! ### The close -/

/-- No operation of the step, or of an earlier one, is outstanding (R98). -/
def CtxStream.settled (x : CtxStream) (step : U64) : Bool :=
  x.ops.all (fun o => o.finished || step < o.step)

/-- What a close does, in order (R98, R99, R125, R213, R215, R218, R226). `next`: the step opened after it.
(open points: DEDUCED, log entry 33) -/
def State.closeStep (s : State) (c : Slot) (step next : U64) : State :=
  let count := s.meridianField
  let s := s.dropBlinks c step
  let s := s.modNum c (fun x => { x with watchInForce := x.watchSet })
  let s := s.newTraining c
  let (s, sums) := s.closeNumerics c step
  let s := s.closeWatch c step count sums
  let s := s.closeLedger c
  let s := (s.journalClose c step).journalScales c next
  s.snapshotPoint c step next

/-- The close waits: a table it reads or writes, in force or to take effect with it, lies in flash that cannot be reached
(R287). (open points: DESIGN CHOICE, log entry 49) -/
def State.closeWaits (s : State) (c : Slot) : Bool :=
  let x := s.ctx c
  let t := x.train
  ([x.num.inForce, x.num.set].any (fun n => s.flashWaits c n.tblBase.toNat n.bytes)) ||
    ([x.num.watchInForce, x.num.watchSet].any (fun w =>
      s.flashWaits c w.ringBase.toNat (256 * w.ringEntries.toNat) ||
      s.flashWaits c w.layerBase.toNat (128 * x.num.set.layers))) ||
    ([t.inForce, t.set].any (fun w =>
      s.flashWaits c w.phaseBase.toNat 64 || s.flashWaits c w.ledgerBase.toNat (64 * w.rings.toNat) ||
      s.flashWaits c w.journalBase.toNat (w.depth.toNat * w.entryBytes.toNat)))

/-- The close of the oldest step whose successor has opened, once its operations have ended. -/
def execStepClose (c : Slot) (s : State) : Host.Outcome State Fault Refusal :=
  let x := s.ctx c
  match x.stream.closing with
  | [] => .next s
  | t :: rest =>
    if x.st.holds && s.boot.life == .ready && x.stream.settled t && !s.closeWaits c then
      let next := match rest with
        | n :: _ => n
        | [] => x.stream.openStep
      .next ((s.closeStep c t next).modStream c (fun y => { y with closing := rest }))
    else .next s

end Sys2Proof.Machine
end

