-- ==== Sys2Proof/Machine/Row.lean ====
section
/-! DEFINITION. The row engine (R151 to R159, R202) and what it shares with the vector engine: reading
elements, the lane tree, the combination of bands, and writing regions (R152, R153, R163, R170). -/

namespace Sys2Proof.Machine

/-! ### Values with flags -/

/-- A value with the flags its formula has raised. -/
abbrev FV := F32 × Fl

def FV.mul (a b : FV) : FV := let (v, f) := mulF true a.1 b.1; (v, (a.2.or b.2).or f)
def FV.add (a b : FV) : FV := let (v, f) := addF true a.1 b.1; (v, (a.2.or b.2).or f)
def FV.sub (a b : FV) : FV := let (v, f) := addF true a.1 (negF b.1); (v, (a.2.or b.2).or f)
def FV.fma (a b c : FV) : FV := let (v, f) := fmaF true a.1 b.1 c.1; (v, ((a.2.or b.2).or c.2).or f)
def FV.div (a b : FV) : FV := let (v, f) := divF true a.1 b.1; (v, (a.2.or b.2).or f)
def FV.un (g : F32 → F32 × Fl) (a : FV) : FV := let (v, f) := g a.1; (v, a.2.or f)
def FV.neg (a : FV) : FV := (negF a.1, a.2)
/-- A value without the flags it came with. -/
def FV.bare (a : FV) : FV := (a.1, Fl.none)
def FV.const (x : F32) : FV := (x, Fl.none)
/-- An immediate, or a word read from a row entry: a NaN is invalid with CAUSE 6 (R436). -/
def FV.imm (x : F32) : FV := if isNan x then (nan32, Fl.invalid 6) else (x, Fl.none)

/-! ### The lane tree (R151) -/

/-- The terms of lane `l`, in order. -/
def laneTerms {α : Type} (l : Nat) (e : List (Option α)) : List α :=
  ((List.range e.length).filter (fun j => j % 64 = l)).filterMap (fun j => (e[j]?).join)

def laneTree (f : FV → FV → FV) (start : F32) (e : List (Option FV)) : FV :=
  let lanes := (List.range 64).map (fun l => (laneTerms l e).foldl f (FV.const start))
  (bandTree f lanes).getD (FV.const start)

/-- row_sum: terms that are none are skipped. -/
def rowSum (e : List (Option FV)) : FV := laneTree FV.add 0 e
def rowMax (e : List (Option FV)) : FV :=
  laneTree (fun a b => (maxF a.1 b.1, a.2.or b.2)) (inf32 true) e

/-! ### Events of the row and vector engines (R170) -/

def engEv (tr tc : Nat) (h : U32) : Nat → Nat → FEv := fun flag cause =>
  { flag := flag, cause := cause, tr := tr, tc := tc, band := 0xFFFF, offset := 0xFFFF, handle := h }

/-- The flags of `a` that `b` has too. -/
def Fl.onlyOf (a b : Fl) : Fl :=
  { inx := a.inx && b.inx, unf := a.unf && b.unf, ovf := if b.ovf.isSome then a.ovf else .none,
    inv := if b.inv.isSome then a.inv else .none }

/-- What one pass over a row raises: flags of its elements, then of the statistic it forms. -/
structure PassFl where
  els : List Fl
  stat : Fl
  deriving DecidableEq, Repr

/-- A pass that raises nothing for its elements. -/
def PassFl.ofStat (f : Fl) : PassFl := { els := [], stat := f }
def PassFl.ofEls (l : List Fl) : PassFl := { els := l, stat := Fl.none }

/-- Flags of element j over some passes. -/
def elFlags (ps : List PassFl) (j : Nat) : Fl := ps.foldl (fun a p => a.or (p.els.getD j Fl.none)) Fl.none

/-- What element j raises in pass k for the first time; an invalid takes the lowest CAUSE of all passes (R170, R436). -/
def newFlags (ps : List PassFl) (k j : Nat) : Fl :=
  ((elFlags (ps.drop k) j).minus (elFlags (ps.take k) j)).onlyOf ((ps.getD k (.ofEls [])).els.getD j Fl.none)

/-- Flags of a row's statistics over some passes. -/
def statFlags (ps : List PassFl) : Fl := ps.foldl (fun a p => a.or p.stat) Fl.none

/-- What a row's statistics raise in pass k for the first time: together they count once per row for each flag, an
invalid with the lowest CAUSE of all passes (R170, R436). (open points: DEDUCED, log entry 79) -/
def newStat (ps : List PassFl) (k : Nat) : Fl :=
  ((statFlags (ps.drop k)).minus (statFlags (ps.take k))).onlyOf (ps.getD k (.ofEls [])).stat

/-- The events of a group of rows in the order the engine meets them: pass by pass over the rows, 64 elements of a row
in a cycle, its statistic after them (R123, R154, R170). Output row of row i is `r0 + i`. (open points: DESIGN CHOICE,
log entry 77) -/
def groupEvents (r0 : Nat) (h : U32) (rows : List (List PassFl)) : List FEv :=
  (List.range (maxNat List.length rows)).flatMap (fun k =>
    (List.range rows.length).flatMap (fun i =>
      match rows[i]?, (rows[i]?).bind (fun (ps : List PassFl) => ps[k]?) with
      | some ps, some p =>
        inCycles (rowEvents 64 [(List.range p.els.length).map (newFlags ps k)]
          (fun _ j flag cause => engEv ((r0 + i) / 128) (j / 128) h flag cause)) ++
        flEvents (newStat ps k) (engEv ((r0 + i) / 128) 0xFFFF h)
      | _, _ => []))

/-- Side-list region mismatches a window met: events of the Coronagraph unit (R107, R116), at the output's
tile row `tr` and the region's columns. -/
def Window.mismatches (tr : Nat) (w : Window) : List FEv :=
  w.bad.map (fun g => engEv tr (g % ceilDiv w.v.cols 128) w.v.handle 3 10)

/-! ### Writing a band of 128 rows (R153) -/

/-- Writes rows [r0, r0 + rows) of an output, region by region; cells of finished values. `dark`: FP32
gradient plates. -/
def State.putRows (s : State) (o : OpCtx) (v : TView) (round : U8) (core kind r0 : Nat)
    (rows : List (List Cell)) : State :=
  let cfg : WCfg := { c := o.c, v := v, draw := drawOf o v round, kind := if v.fmt.scaled then 4 else kind }
  let w := WStat.new s (s.taggedOf o)
  let tc := ceilDiv v.cols 128
  let w := (List.range tc).foldl (fun (w : WStat) k =>
    w.tile cfg (r0 / 128) k false (v.rowFirst + r0) (128 * k) 128
      (rows.map (fun cs => some (((cs.drop (128 * k)).take 128).map some)))) w
  State.closeWriter o cfg core w

/-- A finished value as a cell of an output: its formula's flags are already counted. -/
def outCell (v : TView) (x : F32) (counted : Fl) : Cell := convertCell x counted v.tInv

/-! ### Row operations (R155 to R157) -/

/-- What a row operation reads of a row. -/
structure RowIn where
  x : List FV
  dy : List FV
  ok : List Bool
  entry : List F32
  deriving DecidableEq, Repr

/-- What it gives: outputs, their flags, the row entry, and the terms of the parameter gradients. -/
structure RowOut where
  y : List F32
  passes : List PassFl
  entry : List F32
  dg : List FV
  db : List FV
  deriving DecidableEq, Repr

/-- The parameters of a row operation. -/
structure RowPar where
  op : Nat
  rL : F32
  eps : F32
  alpha : F32
  gamma : List FV
  beta : List FV
  deriving DecidableEq, Repr

def fvAt (l : List FV) (j : Nat) : FV := l.getD j (FV.const 0)

/-- Flags of what an element reads. -/
def readFlags (l : List (List FV)) (n : Nat) : List Fl :=
  (List.range n).map (fun j => l.foldl (fun a x => a.or (fvAt x j).2) Fl.none)

def bareL (l : List FV) : List FV := l.map FV.bare

/-- The last pass of a forward normalisation: γ and β are read there. -/
def RowPar.outPass (p : RowPar) (ys : List FV) : PassFl :=
  .ofEls (List.zipWith Fl.or (readFlags [p.gamma, p.beta] ys.length) (ys.map (·.2)))

def rmsFwd (p : RowPar) (r : RowIn) : RowOut :=
  let x := bareL r.x
  let s := rowSum (x.map (fun a => some (a.mul a)))
  let q := FV.un rsqrtF ((s.fma (FV.const p.rL) (FV.const p.eps)))
  let ys := (List.range x.length).map (fun j =>
    FV.fma ((fvAt x j).mul q.bare) (fvAt p.gamma j).bare (fvAt p.beta j).bare)
  { y := ys.map (·.1)
    passes := [{ els := readFlags [r.x] x.length, stat := q.2 }, p.outPass ys]
    entry := [0, q.1, 0, s.1], dg := [], db := [] }

def lnFwd (p : RowPar) (r : RowIn) : RowOut :=
  let x := bareL r.x
  let mu := (rowSum (x.map some)).mul (FV.const p.rL)
  let v := rowSum (x.map (fun a => let d := a.sub mu.bare; some (d.mul d)))
  let q := FV.un rsqrtF (v.fma (FV.const p.rL) (FV.const p.eps))
  let ys := (List.range x.length).map (fun j =>
    FV.fma (((fvAt x j).sub mu.bare).mul q.bare) (fvAt p.gamma j).bare (fvAt p.beta j).bare)
  { y := ys.map (·.1)
    passes := [{ els := readFlags [r.x] x.length, stat := mu.2 }, .ofStat q.2, p.outPass ys]
    entry := [mu.1, q.1, 0, v.1], dg := [], db := [] }

/-- Values of unmasked positions, none at masked ones. -/
def unmasked (ok : List Bool) (f : Nat → FV) : List (Option FV) :=
  (List.range ok.length).map (fun j => if ok.getD j false then some (f j) else none)

/-- SOFTMAX_FWD with its masked rows, NaN rows and rows with +inf (R157). A masked element of a row that becomes NaN is
written as +0 like any masked element (DEDUCED, log entry 79). -/
def softmaxFwd (p : RowPar) (r : RowIn) : RowOut :=
  let n := r.ok.length
  let x := bareL r.x
  let count := (r.ok.filter id).length
  let z := unmasked r.ok (fun j => (fvAt x j).mul (FV.const p.alpha))
  if count = 0 then
    { y := List.replicate n 0, passes := [],
      entry := [0, 0, 0, 0], dg := [], db := [] }
  else
    let m := rowMax z
    let ex := fun (j : Nat) => FV.un expF (((fvAt x j).mul (FV.const p.alpha)).sub m.bare)
    let s := rowSum (unmasked r.ok ex)
    let q := FV.un rcpF s
    let ys := (List.range n).map (fun j =>
      if r.ok.getD j false then (ex j).mul q.bare else FV.const 0)
    -- the invalid of a row with a NaN counts once for the row, every other flag as in any row
    let once := fun (f : Fl) => if isNan m.1 then { f with inv := none } else f
    { y := ys.map (·.1)
      passes := [{ els := (List.range n).map (fun j => if r.ok.getD j false then once (fvAt r.x j).2 else Fl.none)
                   stat := if isNan m.1 then m.2.or (Fl.invalid 6) else m.2 },
                 .ofStat (once q.2), .ofEls (ys.map (fun y => once y.2))]
      entry := [m.1, s.1, q.1, natToF count], dg := [], db := [] }

/-- RMS_BWD and LN_BWD: μ is +0 and not subtracted for RMS_BWD. -/
def normBwd (ln : Bool) (p : RowPar) (r : RowIn) : RowOut :=
  let x := bareL r.x
  let dy := bareL r.dy
  let mu := FV.imm (r.entry.getD 0 0)
  let q := FV.imm (r.entry.getD 1 0)
  let ent := if ln then mu.2.or q.2 else q.2
  let g := fun (j : Nat) => (fvAt dy j).mul (fvAt p.gamma j).bare
  let h := fun (j : Nat) => (if ln then (fvAt x j).sub mu.bare else fvAt x j).mul q.bare
  let n := x.length
  let a := rowSum ((List.range n).map (fun j => some (g j)))
  let b := rowSum ((List.range n).map (fun j => some ((g j).mul (h j))))
  let bl := b.mul (FV.const p.rL)
  let al := a.mul (FV.const p.rL)
  let ys := (List.range n).map (fun j =>
    let add := if ln then (g j).sub al.bare else g j
    q.bare.mul ((h j).fma bl.bare.neg add))
  { y := ys.map (·.1)
    passes := [{ els := readFlags [r.x, r.dy, p.gamma] n
                 stat := ent.or (if ln then al.2.or bl.2 else bl.2) }, .ofEls (ys.map (·.2))]
    entry := [], dg := (List.range n).map (fun j => (fvAt dy j).mul (h j).bare), db := dy }

def softmaxBwd (p : RowPar) (r : RowIn) : RowOut :=
  let n := r.ok.length
  let y := bareL r.x
  let dy := bareL r.dy
  let s := rowSum (unmasked r.ok (fun j => (fvAt dy j).mul (fvAt y j)))
  let ys := (List.range n).map (fun j =>
    if r.ok.getD j false then
      ((fvAt y j).mul ((fvAt dy j).sub s.bare)).mul (FV.imm p.alpha)
    else FV.const 0)
  { y := ys.map (·.1)
    passes := [{ els := (List.range n).map (fun j =>
                   if r.ok.getD j false then (fvAt r.x j).2.or (fvAt r.dy j).2 else Fl.none)
                 stat := s.2 }, .ofEls (ys.map (·.2))]
    entry := [], dg := [], db := [] }

def rowFormula (p : RowPar) (r : RowIn) : RowOut :=
  match p.op with
  | 0x01 => rmsFwd p r
  | 0x02 => lnFwd p r
  | 0x03 => softmaxFwd p r
  | 0x11 => normBwd false p r
  | 0x12 => normBwd true p r
  | _ => softmaxBwd p r

/-! ### Band sums and their tree (R158, R163, R182) -/

/-- A band's sums of columns, with the flags to count against each band. -/
structure BandSum where
  vals : List F32
  last : Nat
  flags : List (Nat × Fl)
  deriving DecidableEq, Repr

/-- Two nodes added: a NaN partial is invalid with CAUSE 6 (R436); the flags count once against the band
whose completion forms the node. -/
def BandSum.join (op : F32 → F32 → F32 × Fl) (a b : BandSum) : BandSum :=
  let cs := List.zipWith (fun x y =>
    if isNan x || isNan y then (nan32, Fl.invalid 6) else op x y) a.vals b.vals
  let fl := cs.foldl (fun f c => f.or c.2) Fl.none
  { vals := cs.map (·.1), last := b.last, flags := kvMod (a.flags ++ b.flags) b.last Fl.none (fun f => f.or fl) }

def BandSum.add (a b : BandSum) : BandSum := BandSum.join (addF true) a b

/-- Two nodes of a tree some of whose bands may be missing: a chain goes on where both are formed. -/
def BandSum.joinSome (op : F32 → F32 → F32 × Fl) (a b : Option BandSum) : Option BandSum :=
  match a, b with
  | some x, some y => some (BandSum.join op x y)
  | _, _ => none

/-- Flags of the chains that end at this level of the tree, pair by pair. -/
def endedFlags : List (Option BandSum) → List (Nat × Fl)
  | some a :: none :: rest => a.flags ++ endedFlags rest
  | none :: some b :: rest => b.flags ++ endedFlags rest
  | _ :: _ :: rest => endedFlags rest
  | [some a] => a.flags
  | _ => []

/-- The flags counted against each band, over `fuel` levels of the tree at most: its partials as far as their chains
reach (R158, R186). -/
def reachedFlags (op : F32 → F32 → F32 × Fl) : Nat → List (Option BandSum) → List (Nat × Fl)
  | 0, _ => []
  | fuel + 1, l =>
    if l.length ≤ 1 then endedFlags l
    else
      -- an odd last node goes up unjoined
      let ended := if l.length % 2 = 1 then endedFlags l.dropLast else endedFlags l
      ended ++ reachedFlags op fuel (treeLevel (BandSum.joinSome op) l)

/-- What the last of the bands completed so far, of `n`, counts: its own sum and the nodes it forms (R170, R182). -/
def bandFlags (op : F32 → F32 → F32 × Fl) (n : Nat) (bands : List BandSum) : Fl :=
  let l := bands.map some ++ List.replicate (n - bands.length) none
  match (reachedFlags op (n + 1) l).find? (fun f => f.1 + 1 == bands.length) with
  | some f => f.2
  | none => Fl.none

/-- Columns added in ascending row order from +0. -/
def sumColumns (n : Nat) (rows : List (List FV)) : List FV :=
  rows.foldl (fun acc row => (List.range n).map (fun j => (fvAt acc j).add (fvAt row j)))
    (List.replicate n (FV.const 0))

def BandSum.of (b : Nat) (cols : List FV) : BandSum :=
  { vals := cols.map (·.1), last := b, flags := [(b, cols.foldl (fun f c => f.or c.2) Fl.none)] }

/-! ### The operation -/

/-- Mask positions of operand row i: causal mask and IN_MASK (R157). -/
def RowD.okRow (d : RowD) (xrow : Nat) (bits : Option (List Bool)) : List Bool :=
  let p := d.causalPeriod.toNat
  (List.range d.length.toNat).map (fun (j : Nat) =>
    let causal := p != 0 && decide (Int.ofNat (xrow % p) + d.causalOffset.toInt < Int.ofNat j)
    let m := match bits with | none => true | some b => b.getD j false
    !causal && m)

/-- FP32 row entries of rows [r0, r0 + n) (R156). -/
def State.rowEntries (s : State) (c : Slot) (v : TView) (r0 n : Nat) : List (List F32) :=
  (List.range n).map (fun i =>
    let r := r0 + i
    let b := s.bytes c (v.addr (v.rowFirst + r / 4) 0 + 16 * (r % 4)) 16
    (List.range 4).map (fun k => fieldBv 32 b (4 * k) 4))

/-- Row entries written in ascending row order, each merged into its plate as its 16 bytes: a poisoned plate of STATS
ends the operation although the group fills it whole (DESIGN CHOICE, log entry 79). (open points: DEDUCED, log entry
29) -/
def State.putEntries (s : State) (o : OpCtx) (v : TView) (r0 : Nat) (es : List (List F32)) : State :=
  let cfg : WCfg := { c := o.c, v := v, draw := none, kind := 5 }
  let w := (List.range es.length).foldl (fun (w : WStat) i =>
    let r := r0 + i
    w.put cfg (v.addr (v.rowFirst + r / 4) 0 + 16 * (r % 4)) ((es.getD i []).flatMap (bvLe 4)) false)
    (WStat.new s (s.taggedOf o))
  State.closeWriter o cfg 0 w

/-- The windows one group reads, in descriptor order. -/
def RowD.groupWindows (s : State) (c : Slot) (d : RowD) (vs : List (Nat × TView)) (r0 n : Nat) :
    List (Nat × Window) :=
  let l := d.length.toNat
  let rows := fun (off : Nat) => (viewAt vs off).map (fun v => (off, s.opWindow c v r0 (r0 + n) 0 l))
  let one := fun (off : Nat) => (viewAt vs off).map (fun v => (off, s.opWindow c v 0 1 0 l))
  let stats := if d.backward then
      (viewAt vs 128).map (fun v => (128, s.opWindow c v (r0 / 4) (ceilDiv (r0 + n) 4) 0 16)) else none
  [rows 48, rows 64, one 96, one 112, stats, rows 144].filterMap id

def winOf (ws : List (Nat × Window)) (off : Nat) : Option Window := kvGet ws off

/-- A group's result: the state, the terms of the parameter gradients by row, and whether it faulted. -/
structure GroupOut where
  s : State
  dg : List (List FV)
  db : List (List FV)
  fault : Bool
  deriving DecidableEq, Repr

/-- The passes of a row with what writing its elements to a BF16 or FP32 output raises in the last (R170). The rounding of
a BF16 output (R63) counts in the row engine's own record, kind 5, since no convert stage takes part (R153).
(open points: DEDUCED, log entry 79) -/
def WCfg.withWrite (cfg : WCfg) (tr : Nat) (r : RowOut) : List PassFl :=
  if cfg.v.fmt.scaled then r.passes
  else
    let w := (List.range r.y.length).map (fun j => (cfg.wideCode tr j (r.y.getD j 0)).2)
    match r.passes.getLast? with
    | none => [.ofEls w]
    | some p => r.passes.dropLast ++ [{ p with els := (List.range r.y.length).map (fun j =>
        (p.els.getD j Fl.none).or (w.getD j Fl.none)) }]

/-- One group of up to 128 rows (R154 to R157, R159). One that meets a fault goes through its passes and raises their
events, and writes nothing (R64, R211, R433). -/
def rowGroup (s : State) (o : OpCtx) (d : RowD) (vs : List (Nat × TView)) (core r0 n : Nat) : GroupOut :=
  let ws := d.groupWindows s o.c vs r0 n
  let lost := ws.any (fun x => x.2.poison.isSome)
  let u := if lost then s.pastPoison o.c else s
  let (s, bad) := State.noteWindows { s with freeCtr := u.freeCtr } o rowOrder ws
  let ws := if lost then d.groupWindows u o.c vs r0 n else ws
  let l := d.length.toNat
  let one := fun (off : Nat) => ((winOf ws off).map (fun w => w.values.getD 0 [])).getD
    (List.replicate l (FV.const 0))
  let par : RowPar :=
    { op := d.op.toNat, rL := (rcpF (natToF l)).1, eps := absF d.eps,
      alpha := if d.alpha = 0 then 0x3F800000 else d.alpha, gamma := one 96, beta := one 112 }
  let xs := ((winOf ws 48).map Window.values).getD []
  let dys := ((winOf ws 64).map Window.values).getD []
  let bits := (winOf ws 144).map Window.bits
  let ents := match d.backward, viewAt vs 128 with
    | true, some v => u.rowEntries o.c v r0 n
    | _, _ => []
  let xfirst := ((viewAt vs 48).map (·.rowFirst)).getD 0
  let outs : List RowOut := (List.range n).map (fun i =>
    rowFormula par
      { x := xs.getD i [], dy := dys.getD i [], entry := ents.getD i [],
        ok := if d.softmax then d.okRow (xfirst + r0 + i) (bits.map (fun b => b.getD i []))
          else List.replicate l true })
  match viewAt vs 80 with
  | none => { s := s, dg := [], db := [], fault := false }
  | some ov =>
    let s := s.events o core 6 (ws.flatMap (fun w => w.2.mismatches (r0 / 128)))
    let cfg : WCfg := { c := o.c, v := ov, draw := drawOf o ov d.round, kind := 5 }
    let passes := (List.range outs.length).map (fun i => (outs[i]?.map (fun r =>
      if bad then r.passes else cfg.withWrite (ov.rowFirst + r0 + i) r)).getD [])
    let s := s.events o core 5 (groupEvents r0 ov.handle passes)
    if bad then { s := s, dg := [], db := [], fault := true }
    else
      let s := match d.backward, viewAt vs 128 with
        | false, some v => s.putEntries o v r0 (outs.map RowOut.entry)
        | _, _ => s
      let s := s.putRows o ov d.round core 5 r0 (outs.map (fun (r : RowOut) =>
        (List.range r.y.length).map (fun j => outCell ov (r.y.getD j 0)
          (if ov.fmt.scaled then Fl.none else Fl.all))))
      { s := s, dg := outs.map RowOut.dg, db := outs.map RowOut.db,
        fault := ((s.run? o.c o.n).bind (·.fault)).isSome }

/-- Groups of a band, or of the whole operation, in ascending order until one faults.
(open points: DESIGN CHOICE, log entry 31) -/
def rowGroups (o : OpCtx) (d : RowD) (vs : List (Nat × TView)) (core : Nat → Nat) (rEnd : Nat) :
    Nat → GroupOut → Nat → GroupOut
  | 0, g, _ => g
  | fuel + 1, g, r =>
    if rEnd ≤ r || g.fault then g
    else
      let n := Nat.min 128 (rEnd - r)
      let q := rowGroup g.s o d vs (core r) r n
      rowGroups o d vs core rEnd fuel
        { s := q.s, dg := g.dg ++ q.dg, db := g.db ++ q.db, fault := q.fault } (r + 128)

/-- Writes rows of FP32 values to a parameter-gradient tensor. (open points: DESIGN CHOICE, log entry 30) -/
def State.putFp32Row (s : State) (o : OpCtx) (v : TView) (row : Nat) (vals : List F32) : State :=
  s.putRows o v 0 0 5 row [vals.map (fun x => { (Cell.plain x) with pre := Fl.none })]

/-- A band's partial is complete: written, combined as far as its chain reaches, its flags counted (R158, R182). -/
def State.bandPartial (s : State) (o : OpCtx) (v : TView) (core p k n : Nat) (bands : List BandSum) : State :=
  match bands.getLast? with
  | none => s
  | some b =>
    (s.putFp32Row o v (p * b.last + k) b.vals).events o core 5
      (flEvents (bandFlags (addF true) n bands) (engEv (16 * b.last) 0xFFFF v.handle))

/-- Parameter gradients of one kind (`k` = 0 dγ, 1 dβ) once every band has completed: the combined row and its dark
plates (R158). -/
def State.dparam (s : State) (o : OpCtx) (v : TView) (k : Nat) (bands : List BandSum) : State :=
  match bandTree BandSum.add bands with
  | none => s
  | some t =>
    let s := s.putFp32Row o v k t.vals
    s.reportDark o (ceilDiv t.vals.length 16) (t.vals.any (fun x => !isZero x))

/-- Rows [lo, hi) of DPARAM that the spec leaves undefined hold free values (R158, R202).
(open points: DESIGN CHOICE, log entry 30) -/
def State.dparamUndefined (s : State) (o : OpCtx) (v : TView) (l lo hi : Nat) : State :=
  (List.range (hi - lo)).foldl (fun s i => s.undefine o.c (v.addr (v.rowFirst + lo + i) 0) (4 * l)) s

/-- A row operation does its work (R154 to R159). -/
def runRow (s : State) (o : OpCtx) (d : RowD) (vs : List (Nat × TView)) : State :=
  let r := d.rows.toNat
  let cores := s.participants o.c d.groupMask
  match viewAt vs 160 with
  | none =>
    let tr := t128 r
    let core := fun (row : Nat) => natAt cores (coreOfTile tr 1 cores.length (row / 128) 0)
    (rowGroups o d vs core r (tr + 1) { s := s, dg := [], db := [], fault := false } 0).s
  | some v =>
    let b := ceilDiv r 2048
    let core := fun (row : Nat) => natAt cores (coreOfTile b 1 cores.length (row / 2048) 0)
    let l := d.length.toNat
    let step := fun (acc : State × List BandSum × List BandSum × Bool) (k : Nat) =>
      let (s, dgs, dbs, fault) := acc
      if fault then acc
      else
        let g := rowGroups o d vs core (Nat.min r (2048 * k + 2048)) 17
          { s := s, dg := [], db := [], fault := false } (2048 * k)
        if g.fault then (g.s, dgs, dbs, true)
        else
          let dgs := dgs ++ [BandSum.of k (sumColumns l g.dg)]
          let dbs := dbs ++ [BandSum.of k (sumColumns l g.db)]
          let at_ := core (2048 * k)
          let s := g.s.bandPartial o v at_ d.p 0 b dgs
          (if d.p = 2 then s.bandPartial o v at_ d.p 1 b dbs else s, dgs, dbs, false)
    let (s, dgs, dbs, fault) := (List.range b).foldl step (s, [], [], false)
    if fault then s.dparamUndefined o v l 0 (d.p * b)
    else
      let s := s.dparam o v 0 dgs
      let s := if d.p = 2 then s.dparam o v 1 dbs else s
      s.dparamUndefined o v l d.p (d.p * b)

/-- Open points: DESIGN CHOICE, log entry 23. -/
def beginRow (s : State) (o : OpRec) (oc : OpCtx) (vs : List (Nat × TView)) : State :=
  match o.desc with
  | .row d => runRow s oc d vs
  | _ => s

def isRow (op : Nat → Bool) : Desc → Bool
  | .row d => op d.op.toNat
  | _ => false

/-- RMS_FWD; an OP that is no row operation is refused here (R155, R210). -/
def execRmsFwd (c : Slot) (n : Nat) (s : State) : Host.Outcome State Fault Refusal :=
  .next (s.startOp c n (isRow (fun p => p == 0x01 || !rowOps.contains p)) 0 none beginRow)

def execLnFwd (c : Slot) (n : Nat) (s : State) : Host.Outcome State Fault Refusal :=
  .next (s.startOp c n (isRow (fun p => p == 0x02)) 0 none beginRow)

def execSoftmaxFwd (c : Slot) (n : Nat) (s : State) : Host.Outcome State Fault Refusal :=
  .next (s.startOp c n (isRow (fun p => p == 0x03)) 0 none beginRow)

def execRmsBwd (c : Slot) (n : Nat) (s : State) : Host.Outcome State Fault Refusal :=
  .next (s.startOp c n (isRow (fun p => p == 0x11)) 0 none beginRow)

def execLnBwd (c : Slot) (n : Nat) (s : State) : Host.Outcome State Fault Refusal :=
  .next (s.startOp c n (isRow (fun p => p == 0x12)) 0 none beginRow)

def execSoftmaxBwd (c : Slot) (n : Nat) (s : State) : Host.Outcome State Fault Refusal :=
  .next (s.startOp c n (isRow (fun p => p == 0x13)) 0 none beginRow)

end Sys2Proof.Machine
end

