-- ==== Sys2Proof/Machine/Vector.lean ====
section
/-! DEFINITION. The vector engine: elementwise functions, masks, tensor reductions, the optimiser update and
explicit conversion (R160 to R170, R203 to R205). -/

namespace Sys2Proof.Machine

/-! ### Inputs (R161, R203) -/

/-- The constants of GELU (R160): the FP32 values nearest 0.044715 and −2 √(2/π). -/
def geluK1 : F32 := 0x3D372713
def geluK2 : F32 := 0xBFCC422A
def one32 : F32 := 0x3F800000

/-- An input of the engine: a tensor read through windows, or an immediate. -/
structure VIn where
  off : Nat
  imm : F32
  v : Option TView
  deriving DecidableEq, Repr

/-- A vector or convert operation at work. `f`: the function code; a conversion is a COPY (R165). -/
structure VJob where
  f : Nat
  round : U8
  rows : Nat
  cols : Nat
  ins : List VIn
  params : List U32
  outOff : Nat
  mask : U64
  deriving DecidableEq, Repr

def VJob.optim (j : VJob) : Bool := j.f == 0x40 || j.f == 0x41

def VectorD.job (d : VectorD) (vs : List (Nat × TView)) : VJob :=
  let inp := fun (off : Nat) (r : OperandRef) => ({ off := off, imm := r.scale, v := viewAt vs off } : VIn)
  { f := d.f, round := d.round, rows := d.rows.toNat, cols := d.cols.toNat
    ins := (if d.usesA then [inp 32 d.a] else []) ++ (if d.usesB then [inp 48 d.b] else []) ++
      (if d.usesC then [inp 64 d.c] else []) ++ (if d.f = 0x40 then [inp 112 d.s] else [])
    params := d.params, outOff := 80, mask := d.groupMask }

def ConvertD.job (d : ConvertD) (vs : List (Nat × TView)) : VJob :=
  { f := 0x00, round := d.round, rows := d.rows.toNat, cols := d.cols.toNat
    ins := [{ off := 32, imm := 0, v := viewAt vs 32 }], params := [], outOff := 48, mask := d.groupMask }

/-- The window of an input over rows [r0, r1) and columns [c0, c1) of the output (R161). -/
def State.vecWindow (s : State) (c : Slot) (j : VJob) (v : TView) (r0 r1 c0 c1 : Nat) : Window :=
  let n := (vecInRows v j.rows j.cols).getD 0
  let (a, b) := if n = j.rows then (r0, r1) else (0, 1)
  let (p, q) := if v.cols = j.cols then (c0, c1) else (0, 1)
  s.opWindow c v a b p q

/-- An input as read for one region: a single immediate, or the values of a window. -/
inductive VRead where
  | imm (x : FV)
  | win (w : Window) (vals : List (List FV))
  deriving DecidableEq, Repr

/-- The value at row i and column k of the region, repeated as R161 says. -/
def VRead.at (r : VRead) (i k : Nat) : FV :=
  match r with
  | .imm x => x
  | .win _ vals =>
    let row := if vals.length = 1 then vals.getD 0 [] else vals.getD i []
    if row.length = 1 then fvAt row 0 else fvAt row k

def VRead.window (r : VRead) : List Window := match r with | .imm _ => [] | .win w _ => [w]

def State.vecReads (s : State) (c : Slot) (j : VJob) (r0 r1 c0 c1 : Nat) : List (Nat × VRead) :=
  j.ins.map (fun x =>
    match x.v with
    | none => (x.off, .imm (FV.imm x.imm))
    | some v => let w := s.vecWindow c j v r0 r1 c0 c1; (x.off, .win w w.values))

/-- The windows of the tensors among inputs, with their offsets. -/
def readWindows (rs : List (Nat × VRead)) : List (Nat × Window) :=
  rs.flatMap (fun r => r.2.window.map (r.1, ·))

def inputAt (rs : List (Nat × VRead)) (off i k : Nat) : FV :=
  match kvGet rs off with
  | none => FV.const 0
  | some r => r.at i k

/-! ### Functions of one element (R160) -/

/-- The mask bit of c: non-zero and not NaN. (open points: DESIGN CHOICE, log entry 73) -/
def maskBit (c : F32) : Bool := !isNan c && !isZero c

/-- y of the elementwise functions from a, b and c with their decode flags.
(open points: DESIGN CHOICE, log entry 73) -/
def vecFn (f : Nat) (p0 : F32) (a b c : FV) : FV :=
  let one := FV.const one32
  match f with
  | 0x00 => a
  | 0x01 => a.add b
  | 0x02 => a.sub b
  | 0x03 => a.mul b
  | 0x04 => a.fma b c
  | 0x05 => a.div b
  | 0x06 => (minF a.1 b.1, a.2.or b.2)
  | 0x07 => (maxF a.1 b.1, a.2.or b.2)
  | 0x08 => (absF a.1, a.2)
  | 0x09 => a.neg
  | 0x0A => FV.un sqrtF a
  | 0x0B => FV.un rsqrtF a
  | 0x0C => FV.un rcpF a
  | 0x0D => FV.un expF a
  | 0x10 => (if posF a.1 then a.1 else if isNan a.1 then nan32 else 0, a.2)
  | 0x11 => if posF a.1 then (a.1, a.2.or b.2) else a.mul b
  | 0x12 =>
    let t := (a.mul a).mul a
    let e := FV.un expF ((FV.fma (FV.const geluK1) t a).mul (FV.const geluK2))
    a.div (one.add e)
  | 0x13 => a.div (one.add (FV.un expF a.neg))
  | 0x14 => FV.un rcpF (one.add (FV.un expF a.neg))
  | 0x18 => (if maskBit c.1 then a.1 else b.1, (a.2.or b.2).or c.2)
  | 0x19 =>
    let y := if maskBit c.1 then a.mul b else a.mul (FV.imm p0)
    (y.1, (y.2.or b.2).or c.2)
  | 0x21 => (if posF a.1 then one32 else 0, a.2)
  | _ => FV.const 0

/-- What an element gives: the output value and, for the optimiser, new w, m and s; flags once for all; `skip`: not
updated, and nothing else is raised for it (R168). -/
structure VElem where
  y : F32
  w : F32
  m : F32
  s : F32
  fl : Fl
  skip : Bool := false
  deriving DecidableEq, Repr

/-- The optimiser update of one element (R166 to R168). -/
def optimElem (adam : Bool) (par : List U32) (g w m s : FV) : VElem :=
  if !isFinite g.1 then
    { y := w.1, w := w.1, m := m.1, s := s.1, fl := Fl.invalid 6, skip := true }
  else
    let p := fun (i : Nat) => FV.imm (par.getD i 0)
    let one := FV.const one32
    if adam then
      let b1 := p 2
      let b2 := p 3
      let g1 := g.mul (p 8)
      let m' := b1.fma m ((one.sub b1).mul g1)
      let s' := b2.fma s ((one.sub b2).mul (g1.mul g1))
      let q := (m'.mul (p 6)).div ((FV.un sqrtF (s'.mul (p 7))).add (p 4))
      let w' := (p 1).neg.fma ((p 5).fma w q) w
      { y := w'.1, w := w'.1, m := m'.1, s := s'.1, fl := (w'.2.or m'.2).or s'.2 }
    else
      let m' := (p 2).fma m (g.mul (p 4))
      let w' := (p 1).neg.fma ((p 3).fma w m') w
      { y := w'.1, w := w'.1, m := m'.1, s := s.1, fl := w'.2.or m'.2 }

/-- The dropout bit of element (r, k) of the mask tensor (R143, R164). (open points: DESIGN CHOICE, log entry 73) -/
def dropBit (o : OpCtx) (par : List U32) (v : TView) (r k : Nat) : Bool :=
  let st := (par.getD 2 0).toNat + 2 ^ 32 * (par.getD 3 0).toNat
  let step : U64 := if st = 2 ^ 64 - 1 then o.step else BitVec.ofNat 64 st
  let h := ditherHash 2 o.seed (handleIdx v.handle) step ((v.rowFirst + r) * v.cols + k) 0
  (par.getD 0 0).toNat ≤ h.toNat / 2 ^ 32

/-! ### A region of 128 × 128 elements (R153, R162, R169) -/

/-- Writes one region of an output; `met`: events of the region's formulas, which the writing goes on from. -/
def State.putTile (s : State) (o : OpCtx) (v : TView) (round : U8) (core r0 c0 : Nat)
    (rows : List (List Cell)) (met : List (Nat × FEv)) : State :=
  let cfg : WCfg := { c := o.c, v := v, draw := drawOf o v round, kind := 4 }
  let w0 : WStat := { WStat.new s (s.taggedOf o) with evs := met }
  let w := w0.tile cfg (r0 / 128) (c0 / 128) false (v.rowFirst + r0) c0 128
    (rows.map (fun cs => some (cs.map some)))
  State.closeWriter o cfg core w

/-- Writes one region of a mask tensor. (open points: DESIGN CHOICE, log entry 73) -/
def State.putMask (s : State) (o : OpCtx) (v : TView) (core r0 c0 : Nat) (rows : List (List Bool))
    (met : List (Nat × FEv)) : State :=
  let cfg : WCfg := { c := o.c, v := v, draw := none, kind := 4 }
  let w := (List.range rows.length).foldl (fun (w : WStat) i =>
    w.maskRow cfg (v.rowFirst + r0 + i) c0 (rows.getD i [])) { WStat.new s (s.taggedOf o) with evs := met }
  State.closeWriter o cfg core w

/-- The bit a finished value gives a mask output: 1.0 is 1 and a zero is 0; the spec states none for any
other value, which takes a free one (log entry 9). -/
def State.bitOf (s : State) (y : F32) : State × Bool :=
  if y = one32 then (s, true)
  else if isZero y then (s, false)
  else let (s, x) := s.draw; (s, x.getLsbD 0)

/-- Bits of a row, then of rows, of finished values. (open points: DESIGN CHOICE, log entry 9) -/
def State.bitsOfRow (s : State) (ys : List F32) : State × List Bool :=
  ys.foldl (fun (acc : State × List Bool) y => let (s, b) := acc.1.bitOf y; (s, acc.2 ++ [b])) (s, [])
def State.bitsOfRows (s : State) (yss : List (List F32)) : State × List (List Bool) :=
  yss.foldl (fun (acc : State × List (List Bool)) ys =>
    let (s, b) := acc.1.bitsOfRow ys; (s, acc.2 ++ [b])) (s, [])

/-- The elements of a region, row by row. -/
def VJob.elems (j : VJob) (o : OpCtx) (out : Option TView) (rs : List (Nat × VRead)) (r0 c0 nr nc : Nat) :
    List (List VElem) :=
  (List.range nr).map (fun i => (List.range nc).map (fun k =>
    let a := inputAt rs 32 i k
    if j.optim then
      optimElem (j.f = 0x40) j.params a (inputAt rs 48 i k) (inputAt rs 64 i k) (inputAt rs 112 i k)
    else
      let y : FV :=
        if j.f = 0x20 then
          match out with
          | some v => FV.const (if dropBit o j.params v (r0 + i) (c0 + k) then one32 else 0)
          | none => FV.const 0
        else vecFn j.f (j.params.getD 0 0) a (inputAt rs 48 i k) (inputAt rs 64 i k)
      { y := y.1, w := 0, m := 0, s := 0, fl := y.2 }))

/-- Cells of an output from values, with the flags each element has already counted. -/
def vecCells (v : TView) (es : List (List VElem)) (get : VElem → F32) : List (List Cell) :=
  es.map (fun r => r.map (fun e => outCell v (get e) (if e.skip then Fl.all else e.fl)))

/-- What a region's inputs make, `rs` as read: its events, and, but where it has met a fault, its outputs (R64, R162,
R169, R170, R211, R433). (open points: DESIGN CHOICE, log entry 31) -/
def vecRegion (j : VJob) (o : OpCtx) (vs : List (Nat × TView)) (core : Nat) (t : Nat × Nat)
    (rs : List (Nat × VRead)) (bad : Bool) (s : State) : State :=
  let r0 := 128 * t.1
  let c0 := 128 * t.2
  let nr := Nat.min 128 (j.rows - r0)
  let nc := Nat.min 128 (j.cols - c0)
  let out := viewAt vs j.outOff
  let h := ((out.orElse (fun _ => viewAt vs 48)).map (·.handle)).getD 0
  let es := j.elems o out rs r0 c0 nr nc
  let mis := (readWindows rs).flatMap (fun w =>
    w.2.bad.map (fun _ => engEv t.1 t.2 w.2.v.handle 3 10))
  let s := s.events o core 6 mis
  let met := rowEvents 128 (es.map (fun r => r.map (·.fl))) (fun _ _ flag cause => engEv t.1 t.2 h flag cause)
  if bad then s.events o core 4 (inCycles met)
  else
    let state := fun (s : State) (off : Nat) (get : VElem → F32) =>
      match viewAt vs off with
      | some v => if j.optim then s.putTile o v 1 core r0 c0 (vecCells v es get) [] else s
      | none => s
    let s := state s 48 (·.w)
    let s := state s 64 (·.m)
    let s := state s 112 (·.s)
    let s := match out with
      | none => s.events o core 4 (inCycles met)
      | some v =>
        if v.fmt = .mask then
          let (s, bs) := s.bitsOfRows (es.map (fun r => r.map (·.y)))
          s.putMask o v core r0 c0 bs met
        else s.putTile o v j.round core r0 c0 (vecCells v es (·.y)) met
    match (if j.outOff = 80 then viewAt vs 96 else none) with
    | none => s
    | some v => s.putMask o v core r0 c0 ((List.range nr).map (fun i => (List.range nc).map (fun k =>
        posF (inputAt rs 32 i k).1))) []

/-- One region: every input is read, then the outputs are written (R162, R169). `s0`: the state the operation began in,
from which its inputs are read, so that an exactly aliased one has its old value also where a plate of it straddles two
regions. (open points: DESIGN CHOICE, log entry 31) -/
def vecTile (s0 : State) (j : VJob) (o : OpCtx) (vs : List (Nat × TView)) (core : Nat) (t : Nat × Nat) (s : State) :
    State :=
  if s.faulted o then s
  else
    let r0 := 128 * t.1
    let c0 := 128 * t.2
    let nr := Nat.min 128 (j.rows - r0)
    let nc := Nat.min 128 (j.cols - c0)
    let rs := s0.vecReads o.c j r0 (r0 + nr) c0 (c0 + nc)
    let lost := (readWindows rs).any (fun x => x.2.poison.isSome)
    let u := if lost then State.pastPoison { s0 with freeCtr := s.freeCtr } o.c else s
    let (s, bad) := State.noteWindows { s with freeCtr := u.freeCtr } o rowOrder (readWindows rs)
    vecRegion j o vs core t (if lost then u.vecReads o.c j r0 (r0 + nr) c0 (c0 + nc) else rs) bad s

/-- Tiles with their cores, each core in its own order, the cores side by side (R175, R176).
(open points: DESIGN CHOICE, log entry 31) -/
def coreSchedule (tr tc : Nat) (cores : List Nat) : List (Nat × Nat × Nat) :=
  let lists := (List.range cores.length).map (fun i => (natAt cores i, coreTiles tr tc cores.length i))
  (List.range (maxNat (fun l => l.2.length) lists)).flatMap (fun k =>
    lists.filterMap (fun l => (l.2[k]?).map (fun t => (l.1, t))))

/-! ### Tensor reductions (R163) -/

/-- The result of a band of rows of SUMSQ or ABSMAX. -/
def bandReduce (sumsq : Bool) (rows : List (List FV)) : FV :=
  if sumsq then
    rows.foldl (fun acc r => acc.add (rowSum (r.map (fun a => some (a.mul a))))) (FV.const 0)
  else
    rows.foldl (fun acc r =>
      let m := rowMax (r.map (fun a => some (absF a.1, a.2)))
      (maxF acc.1 m.1, acc.2.or m.2)) (FV.const (inf32 true))

/-- One band: its state and sum, and whether it met a fault; one that did is gone through all the same, for its events
(R211, R433). (open points: DESIGN CHOICE, log entry 31) -/
def vecBand (j : VJob) (o : OpCtx) (core b : Nat) (s : State) : State × FV × Bool :=
  let r0 := 2048 * b
  let r1 := Nat.min j.rows (r0 + 2048)
  let rs := s.vecReads o.c j r0 r1 0 j.cols
  let lost := (readWindows rs).any (fun x => x.2.poison.isSome)
  let u := if lost then s.pastPoison o.c else s
  let (s, bad) := State.noteWindows { s with freeCtr := u.freeCtr } o rowOrder (readWindows rs)
  let rs := if lost then u.vecReads o.c j r0 r1 0 j.cols else rs
  let s := s.events o core 6 ((readWindows rs).flatMap (fun w => w.2.mismatches (r0 / 128)))
  let rows := (List.range (r1 - r0)).map (fun i => (List.range j.cols).map (fun k => inputAt rs 32 i k))
  (s, bandReduce (j.f = 0x30) rows, bad)

/-- SUMSQ and ABSMAX: bands, the fixed tree, one FP32 value (R163, R182). -/
def vecReduce (j : VJob) (o : OpCtx) (vs : List (Nat × TView)) (cores : List Nat) (s : State) : State :=
  let n := ceilDiv j.rows 2048
  let core := fun (b : Nat) => natAt cores (coreOfTile n 1 cores.length b 0)
  let op := if j.f = 0x30 then addF true else fun a b => (maxF a b, Fl.none)
  let h := ((viewAt vs j.outOff).map (·.handle)).getD 0
  let (s, bands, bad) := (List.range n).foldl (fun (acc : State × List BandSum × Bool) b =>
    let (s, bs, bad) := acc
    if bad then acc
    else
      let (s, x, bad) := vecBand j o (core b) b s
      let bs := bs ++ [BandSum.of b [x]]
      -- the nodes of a faulted band are never formed
      let fl := if bad then x.2 else bandFlags op n bs
      (s.events o (core b) 4 (flEvents fl (engEv 0 0 h)), bs, bad)) (s, [], false)
  if bad then s
  else
    match bandTree (BandSum.join op) bands, viewAt vs j.outOff with
    | some t, some v => s.putTile o v 1 (natAt cores 0) 0 0 [t.vals.map Cell.plain] []
    | _, _ => s

/-! ### The operation -/

/-- A vector or convert operation does its work. -/
def VJob.run (j : VJob) (o : OpCtx) (vs : List (Nat × TView)) (s : State) : State :=
  let cores := s.participants o.c j.mask
  if j.f = 0x30 || j.f = 0x31 then vecReduce j o vs cores s
  else
    (coreSchedule (t128 j.rows) (t128 j.cols) cores).foldl (fun t q => vecTile s j o vs q.1 q.2 t) s

/-- Open points: DESIGN CHOICE, log entry 23. -/
def beginVector (s : State) (o : OpRec) (oc : OpCtx) (vs : List (Nat × TView)) : State :=
  match o.desc with
  | .vector d => (d.job vs).run oc vs s
  | .convert d => (d.job vs).run oc vs s
  | _ => s

def isVector (f : Nat → Bool) : Desc → Bool
  | .vector d => f d.f
  | _ => false

/-- A vector function of one code. -/
def vectorRow (c : Slot) (n : Nat) (code : Nat) (s : State) : Host.Outcome State Fault Refusal :=
  .next (s.startOp c n (isVector (fun f => f == code)) 0 none beginVector)

/-- COPY; a FUNC that is no function is refused here (R160, R210). -/
def execVectorCopy (c : Slot) (n : Nat) (s : State) : Host.Outcome State Fault Refusal :=
  .next (s.startOp c n (isVector (fun f => f == 0x00 || !vectorFuncs.contains f)) 0 none beginVector)

def execAdd (c : Slot) (n : Nat) (s : State) : Host.Outcome State Fault Refusal := vectorRow c n 0x01 s
def execSub (c : Slot) (n : Nat) (s : State) : Host.Outcome State Fault Refusal := vectorRow c n 0x02 s
def execMul (c : Slot) (n : Nat) (s : State) : Host.Outcome State Fault Refusal := vectorRow c n 0x03 s
def execFma (c : Slot) (n : Nat) (s : State) : Host.Outcome State Fault Refusal := vectorRow c n 0x04 s
def execDiv (c : Slot) (n : Nat) (s : State) : Host.Outcome State Fault Refusal := vectorRow c n 0x05 s
def execMin (c : Slot) (n : Nat) (s : State) : Host.Outcome State Fault Refusal := vectorRow c n 0x06 s
def execMax (c : Slot) (n : Nat) (s : State) : Host.Outcome State Fault Refusal := vectorRow c n 0x07 s
def execAbs (c : Slot) (n : Nat) (s : State) : Host.Outcome State Fault Refusal := vectorRow c n 0x08 s
def execNeg (c : Slot) (n : Nat) (s : State) : Host.Outcome State Fault Refusal := vectorRow c n 0x09 s
def execSqrt (c : Slot) (n : Nat) (s : State) : Host.Outcome State Fault Refusal := vectorRow c n 0x0A s
def execRsqrt (c : Slot) (n : Nat) (s : State) : Host.Outcome State Fault Refusal := vectorRow c n 0x0B s
def execRcp (c : Slot) (n : Nat) (s : State) : Host.Outcome State Fault Refusal := vectorRow c n 0x0C s
def execExp (c : Slot) (n : Nat) (s : State) : Host.Outcome State Fault Refusal := vectorRow c n 0x0D s
def execRelu (c : Slot) (n : Nat) (s : State) : Host.Outcome State Fault Refusal := vectorRow c n 0x10 s
def execLeaky (c : Slot) (n : Nat) (s : State) : Host.Outcome State Fault Refusal := vectorRow c n 0x11 s
def execGelu (c : Slot) (n : Nat) (s : State) : Host.Outcome State Fault Refusal := vectorRow c n 0x12 s
def execSilu (c : Slot) (n : Nat) (s : State) : Host.Outcome State Fault Refusal := vectorRow c n 0x13 s
def execSigmoid (c : Slot) (n : Nat) (s : State) : Host.Outcome State Fault Refusal := vectorRow c n 0x14 s
def execSelect (c : Slot) (n : Nat) (s : State) : Host.Outcome State Fault Refusal := vectorRow c n 0x18 s
def execMaskScale (c : Slot) (n : Nat) (s : State) : Host.Outcome State Fault Refusal := vectorRow c n 0x19 s
def execDropoutMask (c : Slot) (n : Nat) (s : State) : Host.Outcome State Fault Refusal := vectorRow c n 0x20 s
def execSignMask (c : Slot) (n : Nat) (s : State) : Host.Outcome State Fault Refusal := vectorRow c n 0x21 s
def execSumsq (c : Slot) (n : Nat) (s : State) : Host.Outcome State Fault Refusal := vectorRow c n 0x30 s
def execAbsmax (c : Slot) (n : Nat) (s : State) : Host.Outcome State Fault Refusal := vectorRow c n 0x31 s
def execAdamw (c : Slot) (n : Nat) (s : State) : Host.Outcome State Fault Refusal := vectorRow c n 0x40 s
def execSgdm (c : Slot) (n : Nat) (s : State) : Host.Outcome State Fault Refusal := vectorRow c n 0x41 s

/-- CONVERT (R165, R205). -/
def execConvert (c : Slot) (n : Nat) (s : State) : Host.Outcome State Fault Refusal :=
  .next (s.startOp c n (fun d => match d with | .convert _ => true | _ => false) 0 none beginVector)

end Sys2Proof.Machine
end

