-- ==== Sys2Proof/Machine/Replay.lean ====
section
/-! DEFINITION. Replay of a journalled step (R220 to R224). -/

namespace Sys2Proof.Machine

/-! ### What the step wrote -/

/-- The lists of a journal entry as they walk now, or none where one no longer walks or is another
program (R221). -/
def State.replayLists (s : State) (c : Slot) : List JList → Option (List (List (DescHdr × Desc)))
  | [] => some []
  | l :: rest =>
    match s.walkList c l.addr.toNat with
    | .error _ => none
    | .ok w =>
      if w.programId != l.programId then none
      else (s.replayLists c rest).map (w.descs :: ·)

/-- Handle indices the step wrote, in order of first write: as the device noted them, else by the lists.
(open points: DEDUCED, log entry 44) -/
def State.replayWritten (s : State) (c : Slot) (e : JEntry) : List Nat :=
  if !e.written.isEmpty then e.written
  else
    (((s.replayLists c e.lists).getD []).flatMap (fun l =>
      l.flatMap (fun d => d.2.writeIdx))).foldl (fun acc i => if acc.contains i then acc else acc ++ [i]) []

/-- Shadows one after another: the tensor's plates, then its side list (R220). (open points: DEDUCED, log entry 44) -/
def State.replayShadows (s : State) (c : Slot) (r : Replay) : Nat → List Nat → List ReplayShadow
  | _, [] => []
  | a, i :: rest =>
    let h := (s.entryAt c i).handle i
    match s.viewOf c (some r) (.ofHandle h) true with
    | .error _ => s.replayShadows c r a rest
    | .ok v =>
      let side := a + 64 * v.bound
      { idx := i, view := v, addr := a, sideAddr := side, used := false } ::
        s.replayShadows c r (side + alignUp v.sideBytes) rest

/-- Plates the shadows take. -/
def shadowPlates (l : List ReplayShadow) : Nat :=
  sumNat (fun (x : ReplayShadow) => x.view.bound + alignUp x.view.sideBytes / 64) l

/-! ### replay_request (R220) -/

/-- Open points: DEDUCED, log entry 44. -/
def Replay.ask (e : JEntry) (base plates : Nat) : Replay :=
  { step := e.step, shadowBase := base, shadowPlates := plates, running := false, ran := false, entry := e,
    shadows := [], writes := [], replayed := 0, skipped := 0, status := St.ok }

/-- `replay_request`, checked before any effect; SHADOW_PLATES = 0 asks for nothing (R12). (open points: DEDUCED, log
entry 44) -/
def State.replayRequest (s : State) (c : Slot) (b : Bytes) : State × U16 :=
  let t := (s.ctx c).train
  let base := field b 8 8
  let plates := field b 16 4
  match t.entryOf (fieldBv 64 b 0 8) with
  | none => (s, St.valueOutOfRange)
  | some e =>
    if !e.closed || e.truncated || t.replay.isSome then (s, St.valueOutOfRange)
    else if base % 64 != 0 then (s, St.misaligned)
    else
      match lengthCheck 32 plates ((rangeBytes - base) / 64) with
      | some st => (s, st)
      | none =>
        if plates = 0 then (s, St.ok)
        else
        let r := Replay.ask e base plates
        if plates < shadowPlates (s.replayShadows c r base (s.replayWritten c e)) ||
            !s.allocated c base (64 * plates) then (s, St.beyondBound)
        else (s.modTrain c (fun t => { t with replay := some r }), St.ok)

/-! ### One operation of a replay (R221) -/

/-- A read of a form that a replayed operation wrote goes to its shadow, and every write does; a FABRIC input is read
from the real tensor (R221): `real` holds the indices that a COLLECTIVE of the step wrote last.
(open points: DEDUCED, log entry 44) -/
def Replay.redirect (r : Replay) (real : List Nat) (writes : Bool) (v : TView) : TView :=
  if !writes && real.contains (handleIdx v.handle) then v
  else
  match r.shadows.find? (fun x => x.idx == handleIdx v.handle) with
  | none => v
  | some x =>
    if (writes || x.used) && v.base == x.view.base then
      { v with base := x.addr, side := v.side.map (fun q => (x.sideAddr, q.2)) }
    else v

def Replay.views (r : Replay) (real : List Nat) (d : Desc) (vs : List (Nat × TView)) : List (Nat × TView) :=
  vs.map (fun p => (p.1, r.redirect real (d.named.any (fun x => x.off == p.1 && x.writes)) p.2))

/-- Operand rows that an operation writes at a descriptor offset. -/
def Desc.wroteRows (d : Desc) (off : Nat) : Nat :=
  match d with
  | .product p => ((p.shapes.find? (fun x => x.1 == off)).map (fun x => x.2.1)).getD 0
  | .row r => ((r.shapes.find? (fun x => x.1 == off)).map (fun x => x.2.1)).getD 0
  | .vector v => if v.reduces then 1 else v.rows.toNat
  | .convert k => k.rows.toNat
  | _ => 0

/-- Plates of the tensor at a descriptor offset that an operation writes, ascending. -/
def Desc.wrotePlates (d : Desc) (off : Nat) (v : TView) : List Nat :=
  match d with
  | .copy k => (List.range k.count.toNat).map (k.dstOffset.toNat / 64 + ·)
  | _ => (List.range (d.wroteRows off)).flatMap (fun i =>
      (List.range v.ppr).map (fun j => (v.rowFirst + i) * v.stride + j))

/-- An operation writes the whole tensor at a descriptor offset, so that nothing of what it held stands: not with rows
that KEEP_ROWS discards (R87). (open points: DEDUCED, log entry 44) -/
def Desc.wroteWhole (d : Desc) (off : Nat) (v : TView) : Bool :=
  match d with
  | .copy k => k.dstOffset = 0 && v.bound ≤ k.count.toNat
  | .product p => p.keepRows.handle = 0 && v.rowFirst = 0 && v.rows ≤ d.wroteRows off
  | _ => v.rowFirst = 0 && v.rows ≤ d.wroteRows off

/-- Every tensor an operation writes has a shadow of the form written; an operation that never started in the step may
write one that has none. -/
def Replay.shadowsAll (r : Replay) (d : Desc) (vs : List (Nat × TView)) : Bool :=
  (d.named.filter (fun (y : Named) => y.writes && y.ref.handle != 0)).all (fun y =>
    (viewAt vs y.off).all (fun v =>
      r.shadows.any (fun x => x.idx == handleIdx v.handle && x.view.base == v.base)))

/-- The shadows an operation writes for the first time, or the first time after a COLLECTIVE, start as the real
tensors. (open points: DEDUCED, log entry 44) -/
def State.fillShadows (s : State) (c : Slot) (r : Replay) (real idxs : List Nat) : State :=
  (r.shadows.filter (fun x => (!x.used || real.contains x.idx) && idxs.contains x.idx)).foldl (fun s x =>
    let s := s.store c x.addr (s.bytes c x.view.base (64 * x.view.bound))
    match x.view.side with
    | none => s
    | some (a, _) => s.store c x.sideAddr (s.bytes c a x.view.sideBytes)) s

/-- A pass of a replayed product with its drain and its adds, sub-tile by sub-tile (R65), `fuel` of them at most. -/
def PWork.passNow (w : PWork) (core : Nat) : Nat → State → Pass → State
  | 0, s, _ => s
  | fuel + 1, s, ps =>
    match w.runPass s core ps with
    | (s, none) => s
    | (s, some sh) =>
      if s.faulted w.o then s
      else
        let s := w.drain s core sh
        let mine := fun (h : HomeAdd) => h.c == w.o.c && h.n == w.o.n
        let adds := s.arrays.adds.filter mine
        let s := { s with arrays := { s.arrays with adds := s.arrays.adds.filter (fun h => !mine h) } }
        let s := adds.foldl (fun s h => w.homeAdd s h) s
        if w.moreSubs ps then w.passNow core fuel s { ps with sub := ps.sub + 1 } else s

/-- All passes of a product, one after another, with their drains and their adds. -/
def PWork.runNow (w : PWork) (s : State) (cores : List Nat) : State :=
  let tiles := coreSchedule w.tr w.tc cores
  let units : List (Nat × Pass) :=
    if w.claims then
      (List.range (w.tr * w.tc * w.bands)).filterMap (fun u =>
        (unitTile w.tr w.tc w.bands u).map (fun t =>
          (natAt cores (u % Nat.max 1 cores.length),
           { c := w.o.c, n := w.o.n, tr := t.1, tc := t.2.1, band := t.2.2, unit := u })))
    else tiles.map (fun q =>
      (q.1, { c := w.o.c, n := w.o.n, tr := q.2.1, tc := q.2.2, band := 0, unit := q.2.1 * w.tc + q.2.2 }))
  units.foldl (fun s q =>
    if ((s.run? w.o.c w.o.n).bind (·.fault)).isSome then s
    else
      let s := if w.claims && 1 < w.bands && q.2.unit % w.bands = 0 then
          s.store w.o.c (w.slotAddr (q.2.unit / w.bands)) (zeros 64)
        else s
      w.passNow q.1 16 s q.2) s

/-- The work of an operation, quietly. -/
def State.runQuiet (s : State) (oc : OpCtx) (d : Desc) (vs : List (Nat × TView)) : State :=
  match d with
  | .product p =>
    match PWork.of oc p vs with
    | some w =>
      let s := s.modRun oc.c oc.n (fun r => { r with tr := w.tr, tc := w.tc, bands := w.bands })
      w.runNow s (s.participants oc.c p.groupMask)
    | none => s
  | .row r => runRow s oc r vs
  | .vector v => (v.job vs).run oc vs s
  | .convert k => (k.job vs).run oc vs s
  | .copy k =>
    match viewAt vs 16, viewAt vs 20 with
    | some a, some b =>
      s.copyPlates oc a.handle (a.base + k.srcOffset.toNat) (b.base + k.dstOffset.toNat) k.count.toNat
    | _, _ => s
  | _ => s

/-- Runs one operation beside the stream: the state and its status. -/
def State.replayExec (s : State) (c : Slot) (r : Replay) (h : DescHdr) (d : Desc) (vs : List (Nat × TView)) :
    State × U16 :=
  let n := (s.ctx c).stream.nextOp
  let run := RunData.new vs (s.participants c d.groupMask) r.entry.seed r.entry.mode
    ((s.ctx c).num.stale.getLsbD 0) s.mer.count
  let o : OpRec := { n := n, list := 0, hdr := h, desc := d, step := r.step, st := .running, run := some run,
                     silent := true }
  let oc : OpCtx := { o.ctx c r.entry.seed r.entry.mode with quiet := true }
  let s := s.modStream c (fun x => { x with ops := x.ops ++ [o] })
  let s := s.runQuiet oc d vs
  let st := ((s.run? c n).map RunData.status).getD St.ok
  let s := s.scratchUndefined c d (s.run? c n)
  (s.modStream c (fun x => { x with ops := x.ops.filter (fun y => y.n != n) }), st)

/-- A replay on its way: the indices whose contents it cannot reproduce, and those that a COLLECTIVE wrote last. -/
structure ReplayRun where
  s : State
  r : Replay
  tainted : List Nat
  real : List Nat
  deriving DecidableEq, Repr

/-- Operations that a replay never runs. (open points: DEDUCED, log entry 44) -/
def Desc.unreplayed : Desc → Bool
  | .wait _ => true
  | .mark _ => true
  | .coll _ => true
  | _ => false

/-- It reads a MODIFIED input, or the output of a skipped operation other than a COLLECTIVE. -/
def ReplayRun.skips (x : ReplayRun) (d : Desc) : Bool :=
  d.unreplayed || d.readIdx.any (fun i =>
    x.tainted.contains i ||
    (x.r.entry.inputs.any (fun j => handleIdx j.handle == i && j.modified) &&
      (x.real.contains i || !x.r.shadows.any (fun w => w.idx == i && w.used))))

/-- A skipped operation: its outputs are not reproduced, but for what a COLLECTIVE wrote.
(open points: DEDUCED, log entry 44) -/
def ReplayRun.skip (x : ReplayRun) (d : Desc) : ReplayRun :=
  { x with
    r := { x.r with skipped := x.r.skipped + 1 }
    tainted := match d with
      | .coll _ => x.tainted.filter (fun i => !d.writeIdx.contains i)
      | _ => (x.tainted ++ d.writeIdx).dedup
    real := match d with
      | .coll _ => (x.real ++ d.writeIdx).dedup
      | _ => x.real }

/-- An operation that is not skipped, after its checks at start; the flag: it would have ended its list (R211). What it
writes whole is reproduced again. (open points: DEDUCED, log entry 44) -/
def ReplayRun.perform (c : Slot) (x : ReplayRun) (h : DescHdr) (d : Desc)
    (started : Except U16 (Option (List (Nat × TView)))) : ReplayRun × Bool :=
  let r := { x.r with replayed := x.r.replayed + 1 }
  let out := d.named.filter (fun (y : Named) => y.writes && y.ref.handle != 0)
  let idxs := out.map (fun (y : Named) => handleIdx y.ref.handle)
  let (s, st, r, vs) : State × U16 × Replay × List (Nat × TView) :=
    match started with
    | .error st => (x.s, st, r, [])
    | .ok none => (x.s, St.ok, r, [])
    | .ok (some vs) =>
      let s := x.s.fillShadows c r x.real idxs
      let (s, st) := s.replayExec c r h d (r.views x.real d vs)
      let ws := (out.filter (fun (y : Named) => y.off != 152)).filterMap (fun (y : Named) =>
        (viewAt vs y.off).map (fun v =>
          ({ opId := h.opId, idx := handleIdx y.ref.handle, plates := d.wrotePlates y.off v } : ReplayWrite)))
      (s, st, { r with
        shadows := r.shadows.map (fun (q : ReplayShadow) => if idxs.contains q.idx then { q with used := true } else q),
        writes := r.writes ++ ws }, vs)
  let ran := !vs.isEmpty && !endsList st
  let whole := (out.filter (fun (y : Named) => ran && (viewAt vs y.off).any (fun v => d.wroteWhole y.off v))).map
    (fun (y : Named) => handleIdx y.ref.handle)
  let ends := endsList st && !h.continue_
  ({ s := s, r := if ends && r.status = St.ok then { r with status := st } else r
     tainted := x.tainted.filter (fun i => !whole.contains i)
     real := x.real.filter (fun i => vs.isEmpty || !idxs.contains i) }, ends)

/-- One operation of the replayed step; the flag: it would have ended its list (R211). One that would write a tensor
without a shadow is skipped, so that every write goes to a shadow (R221, R224). (open points: DEDUCED, log entry 44) -/
def ReplayRun.op (c : Slot) (x : ReplayRun) (h : DescHdr) (d : Desc) : ReplayRun × Bool :=
  let started : Except U16 (Option (List (Nat × TView))) :=
    x.s.startCheck c (some x.r) { n := 0, list := 0, hdr := h, desc := d, step := x.r.step, st := .running, run := none,
                                  silent := true } x.r.entry.mode.toNat 0 none
  let stray := match started with
    | .ok (some vs) => !x.r.shadowsAll d vs
    | _ => false
  if x.skips d || stray then (x.skip d, false) else x.perform c h d started

/-- The operations of one list, until one would have ended it. -/
def ReplayRun.list (c : Slot) : ReplayRun → List (DescHdr × Desc) → ReplayRun
  | x, [] => x
  | x, (h, d) :: rest =>
    let (x, ends) := x.op c h d
    if ends then x else x.list c rest

/-! ### The result (R223) -/

structure ReplayDiff where
  byte : Nat
  opId : U32
  handle : U32
  err : F32
  plate : Nat
  deriving DecidableEq, Repr

/-- The 64 bytes of `replay_result`. `flags`: RFLAGS. -/
def replayResult (r : Replay) (flags : Nat) (d : Option ReplayDiff) (compared different : Nat) : Bytes :=
  let f := d.getD { byte := 0, opId := 0, handle := 0, err := 0, plate := 0 }
  bvLe 8 r.step ++ bvLe 2 r.status ++ natLe 1 flags ++ natLe 1 f.byte ++ bvLe 4 r.replayed ++
    bvLe 4 r.skipped ++ bvLe 4 f.opId ++ bvLe 4 f.handle ++ bvLe 4 f.err ++ natLe 8 f.plate ++
    natLe 8 compared ++ natLe 8 different ++ zeros 8

/-- A replay is over: its result and its record (R223, R375). -/
def State.replayDone (s : State) (c : Slot) (r : Replay) (b : Bytes) : State :=
  (s.modTrain c (fun t => { t with replay := none, replayResult := b })).raise
    { Event.blank with
      event := 0x8003, context := s.ctxId c, step := r.step
      args := (List.range 6).map (fun w => fieldBv 64 b (8 * w) 8) }

/-! ### REPLAY_RUN (R221) -/

/-- The generations of the inputs are current. -/
def State.inputsCurrent (s : State) (c : Slot) (e : JEntry) : Bool :=
  e.inputs.all (fun i => match s.entryOf c i.handle with | .ok _ => true | .error _ => false)

/-- Open points: DEDUCED, log entry 44. -/
def State.replayGo (s : State) (c : Slot) (r : Replay) : State :=
  let stale := fun (s : State) =>
    let r := { r with status := St.staleGeneration }
    s.replayDone c r (replayResult r 1 none 0 0)
  match (s.ctx c).train.entryOf r.step with
  | none => stale s
  | some e =>
    let r := { r with entry := e, running := true }
    match s.replayLists c e.lists with
    | none => stale s
    | some ls =>
      if !s.inputsCurrent c e then stale s
      else
        let r := { r with shadows := s.replayShadows c r r.shadowBase (s.replayWritten c e) }
        let x := ls.foldl (fun x l => ReplayRun.list c x l) { s := s, r := r, tainted := [], real := [] }
        let r := { x.r with ran := true }
        x.s.modTrain c (fun t => { t with replay := some r, replayResult := replayResult r 4 none 0 0 })

/-- A replay begins once the context has no incomplete operation, and runs its operations. -/
def execReplayRun (c : Slot) (s : State) : Host.Outcome State Fault Refusal :=
  match (s.ctx c).train.replay with
  | none => .next s
  | some r =>
    let x := s.ctx c
    if r.running || x.st != .bound || x.pausing || s.boot.life != .ready ||
        !x.stream.ops.all OpRec.finished then .next s
    else .next (s.replayGo c r)

/-! ### REPLAY_COMPARE (R222) -/

/-- Plates to compare, each once under the operation that wrote it last, in list order and then by index. -/
def replayPlates : List ReplayWrite → List (ReplayWrite × Nat)
  | [] => []
  | w :: rest =>
    (w.plates.filter (fun p => !rest.any (fun x => x.idx == w.idx && x.plates.contains p))).map (w, ·) ++
      replayPlates rest

/-- The first differing byte of two plates. -/
def firstDiff (a b : Bytes) : Option Nat := (List.range 64).find? (fun i => a.getD i 0 != b.getD i 0)

/-- The element values of plate `p` of a view (R152). -/
def State.plateValues (s : State) (c : Slot) (v : TView) (p : Nat) : List F32 :=
  let r := p / Nat.max 1 v.stride
  let j := p % Nat.max 1 v.stride
  let lo := v.fmt.per * j
  ((s.readWindow c v r (r + 1) lo (Nat.min v.cols (lo + v.fmt.per))).values.getD 0 []).map (·.1)

/-- FIRST_ERR of a plate: the largest error of its elements. -/
def plateErr (yn yr : List F32) : F32 :=
  let tmax := yr.foldl (fun a x => if isFinite x && ltF a (absF x) then absF x else a) 0
  let fl := (mulF true tmax (pow2F 111)).1
  (List.zipWith (fun a b => blinkErr a b fl) yn yr).foldl (fun w e => if ltF w e then e else w) 0

def ReplayShadow.shadowView (x : ReplayShadow) : TView :=
  { x.view with base := x.addr, side := x.view.side.map (fun q => (x.sideAddr, q.2)) }

/-- A side list differs from its shadow, up to the end of a scan (R107). (open points: DEDUCED, log entry 44) -/
def State.sideDiffers (s : State) (c : Slot) (x : ReplayShadow) : Bool :=
  match x.view.side with
  | none => false
  | some (a, cap) =>
    if x.view.track.isNone then false
    else
      (List.range (ceilDiv x.view.rows 128 * ceilDiv x.view.cols 128)).any (fun g =>
        let o := 8 * cap * g
        let n := (s.scanRegion c (x.sideAddr + o) g 0 0 cap 0).1.length
        let m := (s.scanRegion c (a + o) g 0 0 cap 0).1.length
        n != m || s.bytes c (x.sideAddr + o) (8 * n) != s.bytes c (a + o) (8 * n))

/-- Open points: DEDUCED, log entry 44. -/
def State.replayCompare (s : State) (c : Slot) (r : Replay) : State :=
  let shadow := fun (i : Nat) => r.shadows.find? (fun (x : ReplayShadow) => x.idx == i)
  let ps := replayPlates r.writes
  let bad := ps.filterMap (fun (q : ReplayWrite × Nat) =>
    match shadow q.1.idx with
    | none => none
    | some x =>
      (firstDiff (s.bytes c (x.addr + 64 * q.2) 64) (s.bytes c (x.view.base + 64 * q.2) 64)).map (q.1.opId, x, q.2, ·))
  let first := (bad.head?).map (fun d =>
    ({ byte := d.2.2.2, opId := d.1, handle := d.2.1.view.handle, plate := d.2.2.1
       err := plateErr (s.plateValues c d.2.1.shadowView d.2.2.1) (s.plateValues c d.2.1.view d.2.2.1) } : ReplayDiff))
  let side := r.shadows.any (fun x => x.used && s.sideDiffers c x)
  let flags := 1 + (if bad.isEmpty && !side then 0 else 2)
  s.replayDone c r (replayResult r flags first ps.length bad.length)

/-- The comparison after the last operation, and the end of the replay. -/
def execReplayCompare (c : Slot) (s : State) : Host.Outcome State Fault Refusal :=
  match (s.ctx c).train.replay with
  | none => .next s
  | some r => if r.ran then .next (s.replayCompare c r) else .next s

end Sys2Proof.Machine
end

