-- ==== Sys2Proof/Machine/Plans.lean ====
section
/-! DEFINITION. Binding, release, pausing, and rebinding plans (chapter 14: R275 to R286). -/

namespace Sys2Proof.Machine

def State.modRes (s : State) (f : Resources → Resources) : State := { s with res := f s.res }

/-! ### Plans (R281) -/

def Assign.parse (b : Bytes) : Assign :=
  { kind := fieldBv 8 b 0 1, slot := fieldBv 8 b 1 1, die := fieldBv 8 b 2 1, from_ := fieldBv 8 b 3 1,
    mask := fieldBv 32 b 4 4, pages := fieldBv 32 b 8 4 }

/-- The record of plan `k`. -/
def Resources.plan (r : Resources) (k : Nat) : Bytes := kvGetD r.plans k (zeros 272)

def planAssigns (b : Bytes) : List Assign :=
  (List.range (field b 0 1)).map (fun i => Assign.parse (slice b (16 + 16 * i) 16))

/-- Units of a die, by KIND (R275). -/
def unitsOf (kind : U8) : Nat := match kind.toNat with | 1 => 8 | 2 => 20 | 3 => 16 | _ => 0

def Assign.unit (a : Assign) : Bool := 1 ≤ a.kind.toNat && a.kind.toNat ≤ 3
def Assign.floor (a : Assign) : Bool := a.kind == 4 || a.kind == 5
/-- The slot a byte names; none: the free set, or unpromised capacity. -/
def slotByte (b : U8) : Option Slot := if h : b.toNat < 16 then some ⟨b.toNat, h⟩ else none
/-- Bits of an assignment's units in the module-wide mask of its kind. -/
def Assign.bits (a : Assign) : Nat := a.mask.toNat * 2 ^ (unitsOf a.kind * a.die.toNat)

/-- A slot's units of a kind, as the module-wide mask. -/
def Ctx.units (x : Ctx) (kind : U8) : Nat :=
  match kind.toNat with | 1 => x.groups.toNat | 2 => x.slices.toNat | 3 => x.endpoints.toNat | _ => 0

def Ctx.setUnits (x : Ctx) (kind : U8) (m : Nat) : Ctx :=
  match kind.toNat with
  | 1 => { x with groups := BitVec.ofNat 64 m }
  | 2 => { x with slices := BitVec.ofNat 160 m }
  | 3 => { x with endpoints := BitVec.ofNat 128 m }
  | _ => x

/-- `m` without the bits of `d`. -/
def maskOff (m d : Nat) : Nat := m ^^^ (m &&& d)

def Ctx.floorOf (x : Ctx) (kind : U8) : Nat :=
  if kind = 4 then x.pool.floorDdr.toNat else x.pool.floorFlash.toNat
def Ctx.setFloor (x : Ctx) (kind : U8) (v : Nat) : Ctx :=
  { x with pool := if kind = 4 then { x.pool with floorDdr := BitVec.ofNat 32 v }
                   else { x.pool with floorFlash := BitVec.ofNat 32 v } }

/-- One assignment takes effect. -/
def State.assign (s : State) (a : Assign) : State :=
  if a.unit then
    let s := slots.foldl (fun s c => s.modCtx c (fun x => x.setUnits a.kind (maskOff (x.units a.kind) a.bits))) s
    match slotByte a.slot with
    | some c => s.modCtx c (fun x => x.setUnits a.kind (x.units a.kind ||| a.bits))
    | none => s
  else if a.floor then
    let n := a.pages.toNat
    let s := match slotByte a.from_ with
      | some c => s.modCtx c (fun x => x.setFloor a.kind (x.floorOf a.kind - n))
      | none => s
    match slotByte a.slot with
    | some c => s.modCtx c (fun x => x.setFloor a.kind (x.floorOf a.kind + n))
    | none => s
  else s

def State.assignAll (s : State) (l : List Assign) : State := l.foldl State.assign s

/-! ### The checks of a plan (R282) -/

def PlanRun.bind? (p : PlanRun) : Option Slot := match p.why with | .bind c => some c | _ => none

/-- A slot whose accepted BIND still waits or runs: it has no core group before its plan's switch, and no other plan
takes one from it. -/
def Resources.binding (r : Resources) (c : Slot) : Bool :=
  r.planQueue.any (fun p => p.bind? == some c) || r.planRunning.any (fun p => p.bind? == some c)

/-- A slot that a plan may name: BOUND or PAUSED, or the slot being bound. `busy`: a plan runs before this one,
so that a REBINDING slot will be BOUND again. -/
def State.mayName (s : State) (bind : Option Slot) (busy : Bool) (c : Slot) : Bool :=
  let st := (s.ctx c).st
  st == .bound || st == .paused || bind == some c || (busy && st == .rebinding)

/-- The fields of one assignment: the slot being bound serves as SLOT, and not as FROM (R282). -/
def State.assignOk (s : State) (bind : Option Slot) (busy : Bool) (a : Assign) : Bool :=
  if a.unit then
    a.die.toNat < s.sku.dies && s.dieRuns a.die.toNat && a.mask.toNat < 2 ^ unitsOf a.kind &&
      (a.slot == 0xFF || (match slotByte a.slot with | some c => s.mayName bind busy c | none => false))
  else if a.floor then
    (match slotByte a.slot with | some c => s.mayName bind busy c | none => false) &&
      (a.from_ == 0xFF || (match slotByte a.from_ with | some c => s.mayName none busy c | none => false))
  else false

/-- No floor gives more than it has, counting the assignments before. -/
def State.floorsOk : State → List Assign → Bool
  | _, [] => true
  | s, a :: rest =>
    (!a.floor || (match slotByte a.from_ with
      | some c => a.pages.toNat ≤ (s.ctx c).floorOf a.kind
      | none => true)) && (s.assign a).floorsOk rest

/-- The state of a plan's effects, or the status that refuses it. -/
def State.planCheck (s : State) (bind : Option Slot) (busy : Bool) (b : Bytes) : Option U16 :=
  match lengthCheck 8 (field b 0 1) 16 with
  | some st => some st
  | none =>
    let l := planAssigns b
    let s' := s.assignAll l
    let grows := slots.any (fun c => ([4, 5] : List U8).any (fun k => 2 ^ 32 ≤ (s.ctx c).floorOf k +
      sumNat (fun (a : Assign) => if a.kind == k && slotByte a.slot == some c then a.pages.toNat else 0) l))
    if !l.all (s.assignOk bind busy) then some St.valueOutOfRange
    else if slots.any (fun c => (((s.ctx c).st.holds && !s.res.binding c) || bind == some c) &&
        (s'.ctx c).groups = 0) then
      some St.valueOutOfRange
    else if !s.floorsOk l || grows then some St.valueOutOfRange
    else if l.any Assign.floor && !(s'.poolOk && s'.pinsOk) then some St.valueOutOfRange
    else none

/-! ### Queueing (R283) -/

/-- The 32 bytes of `rebind_status` (R286). -/
def RebindStatus.bytes (r : RebindStatus) : Bytes :=
  bvLe 1 r.plan ++ bvLe 1 r.state ++ bvLe 2 r.status ++ bvLe 4 r.drainUs ++ bvLe 4 r.writebackUs ++
    bvLe 4 r.updateUs ++ bvLe 4 r.totalUs ++ bvLe 4 r.writtenBack ++ zeros 8

/-- A request joins the queue, unless eight wait. (open points: DEDUCED, log entry 45) -/
def State.queuePlan (s : State) (k : U8) (b : Bytes) (why : PlanFor) : State × U16 :=
  if 8 ≤ s.res.planQueue.length then (s, St.valueOutOfRange)
  else
    let p : PlanRun := { idx := k, why := why, assigns := planAssigns b, affected := [],
                         waits := [], drainUs := 0, writtenBack := 0 }
    (s.modRes (fun r => { r with
      planQueue := r.planQueue ++ [p]
      rebindStatus := if r.planRunning.isSome then r.rebindStatus
        else { RebindStatus.reset with plan := k, state := 1 } }), St.ok)

/-- The Logbook record of a plan that has completed (R283). -/
def State.planRecord (s : State) (k : U8) (st : RebindStatus) : State :=
  let b := st.bytes
  s.raise { Event.blank with
    event := 0x8004, unit := k.setWidth 16, args := (List.range 3).map (fun w => fieldBv 64 b (8 * w) 8) }

/-- A plan of COUNT 0 is an empty operation: it completes at once and neither waits nor drains anything (R12, R281);
`rebind_status` shows it unless another plan runs or waits. (open points: DEDUCED, log entry 45) -/
def State.emptyPlan (s : State) (k : U8) : State :=
  let done := { RebindStatus.reset with plan := k, state := 5 }
  let s := s.modRes (fun r => { r with
    rebindStatus := if r.planRunning.isSome || !r.planQueue.isEmpty then r.rebindStatus else done })
  s.planRecord k done

/-- A request for plan `k`: done at once where it is empty, else queued; it is checked when it starts. -/
def State.requestPlan (s : State) (k : U8) (why : PlanFor) : State × U16 :=
  let b := s.res.plan k.toNat
  if field b 0 1 = 0 then (s.emptyPlan k, St.ok) else s.queuePlan k b why

/-- `rebind_request`. -/
def State.rebindRequest (s : State) (k : U8) : State × U16 :=
  if 32 ≤ k.toNat then (s, St.valueOutOfRange) else s.requestPlan k .request

/-- The REBIND entry of the module ring (R268, R283). -/
def actRebind (s : State) (d : DueEntry) : State × U16 :=
  let k := d.entry.arg 0
  let (s, st) := if 32 ≤ k.toNat then (s, St.valueOutOfRange)
    else s.requestPlan (k.setWidth 8) .ring
  if st = St.ok then (s, st) else (s.entryNotice d.ring d.entry d.pos st 0, st)

def execRebind (s : State) : Host.Outcome State Fault Refusal :=
  .next (s.actDue (fun d => d.entry.kind == 5) actRebind)

/-! ### A plan starts (R283, R284) -/

/-- Units of a kind that leave a slot, and that join it. -/
def State.leaving (s s' : State) (kind : U8) (c : Slot) : Nat :=
  maskOff ((s.ctx c).units kind) ((s'.ctx c).units kind)
def State.joining (s s' : State) (kind : U8) (c : Slot) : Nat :=
  maskOff ((s'.ctx c).units kind) ((s.ctx c).units kind)

/-- Contexts a plan names as SLOT or FROM, or whose units it moves. -/
def State.affectedBy (s s' : State) (l : List Assign) : List Slot :=
  slots.filter (fun c =>
    l.any (fun a => slotByte a.slot == some c || (a.floor && slotByte a.from_ == some c)) ||
    ([1, 2, 3] : List U8).any (fun k => s.leaving s' k c != 0 || s.joining s' k c != 0))

/-- Cores of a mask of groups. -/
def coresOf (groups : Nat) : List Nat := (bitsOf groups 64).flatMap (fun g => (List.range 8).map (8 * g + ·))

/-- A weight gradient that claims its units. (open points: DESIGN CHOICE, log entry 75) -/
def State.claims (s : State) (c : Slot) (n : Nat) : Bool :=
  match s.workOf c n with | some w => w.claims | none => false

/-- The endpoint, as a bit of 16 × die + endpoint, that a running collective uses. -/
def RunData.collBit (r : RunData) : Option Nat :=
  r.coll.bind (fun k => (k.list[k.localRank]?).map (fun a => a.toNat % 128))

/-- Operations of a slot that the drain waits for. (open points: DEDUCED, log entry 45) -/
def State.drainOps (s s' : State) (c : Slot) : List (Slot × Nat) :=
  let gone := coresOf (s.leaving s' 1 c)
  let ends := s.leaving s' 3 c
  ((s.ctx c).stream.ops.filter (fun o =>
    match o.st, o.run with
    | .running, some r =>
      (o.desc.usesCores && meets r.cores gone && (!s.claims c o.n || r.cores.all (fun k => gone.contains k))) ||
      (match r.collBit with | some b => ends.testBit b | none => false)
    | _, _ => false)).map (fun o => (c, o.n))

/-- Leaving cores of a claimed product claim no further unit, where others stay (R180, R284).
(open points: DEDUCED, log entry 45) -/
def State.stopClaims (s s' : State) (c : Slot) : State :=
  let gone := coresOf (s.leaving s' 1 c)
  ((s.ctx c).stream.ops.filter (fun o => s.claims c o.n)).foldl (fun s o =>
    s.modRun c o.n (fun r =>
      if r.cores.all (fun k => gone.contains k) then r
      else { r with cores := r.cores.filter (fun k => !gone.contains k) })) s

/-- Slots that a repair pauses: those of its mask that run. (open points: DEDUCED, log entry 48) -/
def State.toPause (s : State) (mask : U16) : U16 :=
  BitVec.ofNat 16 (ofBits ((slots.filter (fun c => mask.getLsbD c.val &&
    ((s.ctx c).st == .bound || (s.ctx c).st == .rebinding))).map (·.val)))

/-- A repair begins: the contexts of its mask drain (R285, R291). -/
def State.beginPausing (s : State) : State :=
  match s.res.repair with
  | none => s
  | some r =>
    let mask := s.toPause r.pauseMask
    (slots.filter (fun c => mask.getLsbD c.val)).foldl (fun s c => s.modCtx c (fun x => { x with pausing := true }))
      (s.modRes (fun x => { x with repair := some { r with pauseMask := mask, ahead := 0 } }))

/-- A plan is over: a repair that waited behind it alone begins (R285). -/
def State.planEnded (s : State) : State :=
  match s.res.repair with
  | none => s
  | some r =>
    if r.ahead = 0 then s
    else if r.ahead = 1 then s.beginPausing
    else s.modRes (fun x => { x with repair := some { r with ahead := r.ahead - 1 } })

/-- Contexts that a repair paused, or was to pause, run again (R291). -/
def State.repairResume (s : State) : State :=
  match s.res.repair with
  | none => s
  | some r =>
    (slots.filter (fun c => r.pauseMask.getLsbD c.val)).foldl (fun s c => s.modCtx c (fun x =>
      { x with pausing := false, st := if x.st == .paused then .bound else x.st })) s

/-- A refused plan changes nothing but its status; a slot it was to bind stays FREE.
(open points: DEDUCED, log entry 45) -/
def State.refusePlan (s : State) (p : PlanRun) (st : U16) : State :=
  let s := s.modRes (fun r => { r with
    planRunning := none, planPhase := 0
    rebindStatus := { RebindStatus.reset with plan := p.idx, state := 6, status := st } })
  match p.why with
  | .bind c => (s.modCtx c (fun x => { x with st := .free })).planEnded
  | .repair =>
    (s.repairResume).modRes (fun r => { r with
      repair := none, repairStatus := { r.repairStatus with state := 7, status := st } })
  | _ => s.planEnded

/-- A plan as bytes again, for its check at the start. -/
def PlanRun.record (p : PlanRun) : Bytes :=
  padTo 272 (natLe 1 p.assigns.length ++ zeros 15 ++ p.assigns.flatMap (fun a =>
    bvLe 1 a.kind ++ bvLe 1 a.slot ++ bvLe 1 a.die ++ bvLe 1 a.from_ ++ bvLe 4 a.mask ++ bvLe 4 a.pages ++ zeros 4))

/-- A plan that moves units of a RELEASING slot leaves it RELEASING (R279; DEDUCED, log entry 45). -/
def CtxState.during (st next : CtxState) : CtxState := if st = .releasing then .releasing else next

/-- The state of an affected slot after the switch: one that was REBINDING is BOUND, unless it waits for a BIND of its
own; one freed during the drain stays FREE (R279, R283). -/
def State.afterSwitch (s : State) (c : Slot) : CtxState :=
  let st := (s.ctx c).st
  if st == .rebinding && !s.res.planQueue.any (fun p => p.bind? == some c) then .bound else st

/-- A plan starts its drain. (open points: DEDUCED, log entry 45) -/
def State.startPlan (s : State) (p : PlanRun) : State :=
  let s := s.modRes (fun r => { r with planQueue := r.planQueue.drop 1 })
  match s.planCheck p.bind? false p.record with
  | some st => s.refusePlan p st
  | none =>
    let s' := s.assignAll p.assigns
    let aff := s.affectedBy s' p.assigns
    let p := { p with affected := aff, waits := aff.flatMap (s.drainOps s') }
    let s := aff.foldl (fun s c => s.stopClaims s' c) s
    let s := aff.foldl (fun s c => s.modCtx c (fun x => { x with st := x.st.during .rebinding })) s
    s.modRes (fun r => { r with
      planRunning := some p, planPhase := 2
      rebindStatus := { RebindStatus.reset with plan := p.idx, state := 2 } })

/-- The next queued plan starts once the one before it has finished. -/
def execRebindPlanStart (s : State) : Host.Outcome State Fault Refusal :=
  match s.res.planRunning, s.res.planQueue with
  | none, p :: _ => if s.boot.life == .ready then .next (s.startPlan p) else .next s
  | _, _ => .next s

/-! ### The drain ends (R119, R284) -/

/-- An operation has completed. -/
def State.opGone (s : State) (q : Slot × Nat) : Bool :=
  match s.op? q.1 q.2 with
  | none => true
  | some o => o.finished

/-- Leaving cores of a claimed product hold no unit any more, and none of theirs is on its way to its home (R180,
R284). -/
def State.coresIdle (s : State) (cores : List Nat) : Bool :=
  cores.all (fun k =>
    ([ArrayKind.forward, .backward, .wide] : List ArrayKind).all (fun a =>
      (kvGetD s.arrays.queues (arrKey k a) []).isEmpty && !s.arrays.undrained (arrKey k a)) &&
    s.arrays.adds.all (fun h => h.core != k))

def execRebindDrainDone (us : U32) (s : State) : Host.Outcome State Fault Refusal :=
  match s.res.planRunning with
  | none => .next s
  | some p =>
    let s' := s.assignAll p.assigns
    let gone := p.affected.flatMap (fun c => coresOf (s.leaving s' 1 c))
    if s.res.planPhase != 2 || !p.waits.all s.opGone ||
        !s.coresIdle (gone.filter (fun k => !s.res.coresFailed.contains k)) then .next s
    else
      let s := gone.foldl (fun s k => s.cleanCore k) (s.dropChecks (fun k _ => gone.contains k))
      .next (s.modRes (fun r => { r with
        planRunning := some { p with drainUs := us }, planPhase := 3
        rebindStatus := { r.rebindStatus with state := 3, drainUs := us } }))

/-! ### Write-back and the switch (R231, R283, R285) -/

/-- A page of a leaving slice goes back to DDR5, into its shadow frame (R231); a move into a slice is one step, so none
is there to abandon (R250). -/
def Page.leave (gone : Nat → Nat → Bool) (p : Page) : Page :=
  match p.tier with
  | .plate d sl _ => if gone d sl then p.writeBack else p
  | _ => p

/-- Pages of a slot in the plate store that are not there any more. -/
def writtenBack (before after : Ctx) : Nat :=
  before.pagesWhere (fun p => p.tier.isPlate) - after.pagesWhere (fun p => p.tier.isPlate)

def Ctx.writeBackWhere (x : Ctx) (gone : Nat → Nat → Bool) : Ctx :=
  { x with pool := { x.pool with pages := x.pool.pages.map (fun q => (q.1, q.2.leave gone)) } }

/-- Endpoints that a slot loses forward to those it gains, in ascending order (R285).
(open points: DEDUCED, log entry 45) -/
def State.forwardsOf (s s' : State) (c : Slot) : List Forwarding :=
  let out := bitsOf (s.leaving s' 3 c) 128
  let in_ := bitsOf (s.joining s' 3 c) 128
  (List.range out.length).filterMap (fun i =>
    match out[i]?, in_[Nat.min i (in_.length - 1)]? with
    | some a, some b => some { die := a / 16, endpoint := a % 16, toDie := b / 16, toEndpoint := b % 16,
                               context := s.ctxId c }
    | _, _ => none)

/-- Core groups leave their context, and with it the limits of its ring (R363). (open points: DEDUCED, log entry 45) -/
def State.lapseRamps (s : State) (gs : List Nat) : State :=
  (gs.filter (fun g => (s.block (groupBlock g)).rampContext.isSome)).foldl (fun (s : State) g =>
    s.modBlock (groupBlock g) (fun x => { x with rampContext := none })) s

/-- Mappings and bindings are updated, and affected contexts are BOUND again (R283). Whether the rebinding leaves weight
pages out of the plate store is judged at the switch, before pages written back refill the slices newly bound, so that
the notice of R19 counts them all also where every one fits again (DEDUCED, log entry 45). -/
def State.switchPlan (s : State) (p : PlanRun) (wb upd : U32) : State :=
  let s' := s.assignAll p.assigns
  let moved : Slot → Ctx := fun c =>
    (s'.ctx c).writeBackWhere (fun d sl => ((s.leaving s' 2 c) / 2 ^ (20 * d + sl)) % 2 = 1)
  let n := sumNat (fun c => writtenBack (s.ctx c) (moved c)) p.affected
  let total := p.drainUs + wb + upd
  let t := p.affected.foldl (fun (t : State) c => t.setCtx c
    { moved c with st := s.afterSwitch c }) s'
  let fw := p.affected.flatMap (fun c => s.forwardsOf s' c)
  let status : RebindStatus :=
    { plan := p.idx, state := 5, status := St.ok, drainUs := p.drainUs, writebackUs := wb, updateUs := upd,
      totalUs := total, writtenBack := BitVec.ofNat 32 n }
  let t := t.modRes (fun r => { r with
    planRunning := none, planPhase := 0, rebindStatus := status
    forwards := fw ++ r.forwards.filter (fun f => !fw.any (fun g => g.die == f.die && g.endpoint == f.endpoint))
    repairStatus := if p.why == .repair then { r.repairStatus with rebindUs := total } else r.repairStatus })
  let t := t.lapseRamps (p.affected.flatMap (fun c => bitsOf (s.leaving s' 1 c) 64))
  (p.affected.foldl (fun t c => t.noteResident c) t).planEnded

def execRebindSwitch (writebackUs updateUs : U32) (s : State) : Host.Outcome State Fault Refusal :=
  match s.res.planRunning with
  | none => .next s
  | some p =>
    if s.res.planPhase != 3 then .next s
    else
      let s := s.switchPlan p writebackUs updateUs
      .next (s.planRecord p.idx s.res.rebindStatus)

/-! ### slot_request (R276, R279) -/

/-- Open points: DESIGN CHOICE, log entry 20. -/
def State.slotResult (s : State) (seq : U32) (st : U16) (id : U16) : State :=
  s.modRes (fun r => { r with slotSeq := seq, slotStatus := st, slotId := id })

/-- The bind ratio starts again (R366). (open points: DESIGN CHOICE, log entry 38) -/
def CtxEnergy.rebind (e : CtxEnergy) : CtxEnergy :=
  { e with bindEnergy := 0, bindTokens := 0, bindPerMwh := 0, periodFrom := none }

/-- BIND of a FREE slot, with its checks of PLAN. (open points: DEDUCED, log entry 45) -/
def State.bindSlot (s : State) (c : Slot) (k : U8) : State × U16 :=
  match s.planCheck (some c) false (s.res.plan k.toNat) with
  | some st => (s, st)
  | none =>
    match s.queuePlan k (s.res.plan k.toNat) (.bind c) with
    | (_, 0x0000) =>
      ((s.queuePlan k (s.res.plan k.toNat) (.bind c)).1.modCtx c (fun x =>
        { x with gen := x.gen + 1, st := .rebinding, energy := x.energy.rebind }), St.ok)
    | (_, st) => (s, st)

/-- RELEASE: entries that have not fired are discarded, with the BARRIER they wait behind (R119, R271).
(open points: DEDUCED, log entry 46) -/
def State.releaseSlot (s : State) (c : Slot) : State :=
  let s := { s with due := s.due.filter (fun (d : DueEntry) => !(d.ring == Ring.ctx c && d.entry.kind == 2)) }
  s.modCtx c (fun x => { x with st := .releasing, eph := { x.eph with pending := [], barrier := none } })

/-- A write of `slot_request`. -/
def State.slotRequest (s : State) (b : Bytes) : State × U16 :=
  let action := field b 0 1
  let seq := fieldBv 32 b 4 4
  let plan := fieldBv 8 b 2 1
  let done := fun (c : Slot) (q : State × U16) => (q.1.slotResult seq q.2 (q.1.ctxId c), q.2)
  match slotByte (fieldBv 8 b 1 1) with
  | none => (s.slotResult seq St.valueOutOfRange 0, St.valueOutOfRange)
  | some c =>
    let st := (s.ctx c).st
    let bad := done c (s, St.valueOutOfRange)
    match action with
    | 1 => if 32 ≤ plan.toNat || st != .free then bad else done c (s.bindSlot c plan)
    | 2 =>
      if st == .bound || st == .paused then done c (s.releaseSlot c, St.ok) else bad
    | 3 => if st == .bound then done c (s.modCtx c (fun x => { x with pausing := true }), St.ok) else bad
    | 4 => if st == .paused then done c (s.modCtx c (fun x => { x with st := .bound }), St.ok) else bad
    | _ => bad

/-! ### PAUSE_DONE (R279, R291) -/

/-- The running operations that use cores have completed. -/
def Ctx.drained (x : Ctx) : Bool :=
  x.stream.ops.all (fun o => !(o.st == .running && o.desc.usesCores))

/-- Slices whose pages a pause writes back: all, or those of the die that a repair takes out.
(open points: DEDUCED, log entry 46) -/
def State.pauseGone (s : State) (c : Slot) (d : Nat) (_ : Nat) : Bool :=
  match s.res.repair with
  | some r => if r.pauseMask.getLsbD c.val then d == r.die else true
  | none => true

/-- Open points: DEDUCED, log entry 46. -/
def execPauseDone (c : Slot) (s : State) : Host.Outcome State Fault Refusal :=
  let x := s.ctx c
  if x.pausing && x.st == .bound && x.drained then
    .next (s.setCtx c { x.writeBackWhere (s.pauseGone c) with st := .paused, pausing := false })
  else .next s

/-! ### SLOT_FREED (R119, R243, R271, R437) -/

/-- The slot's entries at their defaults, with what R437 keeps; completions that still waited are not posted, and
counted (R280). (open points: DEDUCED, log entry 46) -/
def Ctx.freed (x : Ctx) : Ctx :=
  { Ctx.reset with
    gen := x.gen, staleDiscards := x.staleDiscards + BitVec.ofNat 64 x.ring.backlog.length, energy := x.energy
    pool := { CtxPool.reset with floorDdr := x.pool.floorDdr, floorFlash := x.pool.floorFlash } }

/-- Captures of the slot that end with its pages are committed. (open points: DEDUCED, log entry 46) -/
def State.commitAll (s : State) (c : Slot) : State :=
  (s.images.filter (fun i => !i.committed && i.owner == s.ctxId c)).foldl (fun s i => s.commitImage c i) s

/-- Open points: DEDUCED, log entry 46. -/
def State.freeSlot (s : State) (c : Slot) : State :=
  let s := (s.ctx c).coreList.foldl (fun s k => s.cleanCore k) (s.dropChecks (fun _ b => b.op.c == c))
  let s := (s.freePages c ((s.ctx c).pool.pages.map (·.1))).commitAll c
  let s := { s with due := s.due.filter (fun (d : DueEntry) => d.ring != Ring.ctx c) }
  (s.lapseRamps (s.ctx c).groupList).modCtx c Ctx.freed

/-- A releasing slot becomes FREE when its running operations have completed. (open points: DEDUCED, log entry 46) -/
def execSlotFreed (c : Slot) (s : State) : Host.Outcome State Fault Refusal :=
  let x := s.ctx c
  if x.st == .releasing && x.runningOps.isEmpty then .next (s.freeSlot c) else .next s

/-! ### CORE_FAILURE (R180, R290) -/

/-- Passes of a core in its undrained shadows: their events are counted. -/
def Arrays.shadowsOf (a : Arrays) (core : Nat) : List Pass :=
  (List.range 3).flatMap (fun k =>
    if a.undrained (4 * core + k) then ((kvGet a.shadows (4 * core + k)).map (·.pass)).toList else [])

/-- Passes of a core that have not drained: in its queues and in its shadows; of one with a sub-tile in a shadow, that
sub-tile on. -/
def Arrays.passesOf (a : Arrays) (core : Nat) : List Pass :=
  let held := a.shadowsOf core
  (List.range 3).flatMap (fun k => (kvGetD a.queues (4 * core + k) []).filter (fun p =>
    !held.any (fun h => h.c == p.c && h.n == p.n && h.unit == p.unit))) ++ held

/-- The core holds nothing any more. (open points: DEDUCED, log entry 47) -/
def Arrays.dropCore (a : Arrays) (core : Nat) : Arrays :=
  { a with queues := a.queues.filter (fun q => q.1 / 4 != core)
           shadows := a.shadows.filter (fun q => q.1 / 4 != core)
           drains := kvErase a.drains core }

/-- A core fails: absent from now on, its units reissued and its Blink checks dropped; adds it has sent reach their homes,
and events a unit has raised are not raised again (R119, R146, R180, R290). (open points: DEDUCED, log entry 47) -/
def State.failCore (s : State) (core : Nat) : State :=
  let ps := s.arrays.passesOf core
  let met := s.arrays.shadowsOf core
  let s := s.dropChecks (fun k _ => k == core)
  let s := s.landAddsOf core s.arrays.adds.length
  let s := { s with arrays := s.arrays.dropCore core }
  let s := s.modBlock (groupBlock (core / 8)) (fun b => { b with taking := b.taking.filter (fun k => k / 4 != core) })
  let s := met.foldl (fun s p => s.modRun p.c p.n (fun r => { r with counted := (p.unit, p.sub) :: r.counted })) s
  let s := ps.foldl (fun s p => s.modRun p.c p.n (fun r =>
    if r.fault.isSome then r else { r with reissue := r.reissue ++ [(p.unit, p.sub)] })) s
  let s := slots.foldl (fun s c => s.modStream c (fun x => { x with ops := x.ops.map (fun o =>
    { o with run := o.run.map (fun r => { r with cores := r.cores.filter (· != core) }) }) })) s
  s.modRes (fun r => { r with coresFailed := insertNat r.coresFailed core })

def execCoreFailure (core : Fin 512) (s : State) : Host.Outcome State Fault Refusal :=
  if s.sku.cores ≤ core.val then .fault .noSuchUnit
  else if s.res.coresFailed.contains core.val then .next s
  else
    .next ((s.failCore core.val).raise { Event.blank with
      severity := sevFault, event := 0x8005, unit := BitVec.ofNat 16 core.val })

end Sys2Proof.Machine
end

