-- ==== Sys2Proof/Machine/Repair.lean ====
section
/-! DEFINITION. Taking a die out of service and what a repair does to it (R287 to R292, R312, R413, R414), and a die's
self-test (R406). -/

namespace Sys2Proof.Machine

/-! ### Cores and spares (R15, R290, R406) -/

/-- The spare of a core's row pair, as 4 × die + spare. -/
def spareOf (core : Nat) : Nat := 4 * (core / 64) + (core % 64) / 16

/-- The spare takes a core's logical number. (open points: DEDUCED, log entry 47) -/
def State.spareCore (s : State) (core : Nat) : State :=
  (s.modRes (fun r => { r with
    coreMap := kvSet r.coreMap core (BitVec.ofNat 8 (64 + spareOf core % 4))
    sparesUsed := insertNat r.sparesUsed (spareOf core)
    coresFailed := r.coresFailed.erase core })).cleanCore core

/-- A core that fails self-test: spared at once when its spare is free, otherwise absent.
(open points: DEDUCED, log entry 47) -/
def State.testCore (s : State) (core : Nat) : State :=
  if s.res.sparesUsed.contains (spareOf core) then
    (s.modRes (fun r => { r with coresFailed := insertNat r.coresFailed core })).raise { Event.blank with
      severity := sevFault, event := 0x8005, unit := BitVec.ofNat 16 core }
  else
    (s.spareCore core).raise { Event.blank with
      severity := sevNotice, event := 0x8189, unit := BitVec.ofNat 16 core
      args := [BitVec.ofNat 64 (spareOf core % 4)] }

/-- A die that does not start, for the rest of the power cycle (R406). (open points: DEDUCED, log entry 47) -/
def State.dieDead (s : State) (d : Nat) (status : U16) : State :=
  ((s.modRes (fun r => { r with notStarted := r.notStarted ||| BitVec.ofNat 8 (2 ^ d) })).modFw d (fun x =>
    { x with running := 0 })).raise { Event.blank with
      severity := sevFatal, event := 0x8184, status := status, unit := BitVec.ofNat 16 d }

/-! ### The request (R288, R289, R413) -/

structure RepairReq where
  action : Nat
  die : Nat
  plan : U8
  target : Nat
  mask : U16
  seq : U32
  deriving DecidableEq, Repr

def RepairReq.parse (b : Bytes) : RepairReq :=
  { action := field b 0 1, die := field b 1 1, plan := fieldBv 8 b 2 1, target := field b 3 1,
    mask := fieldBv 16 b 4 2, seq := fieldBv 32 b 8 4 }

/-- Targets of an action. -/
def repairTargets (action : Nat) : Nat := match action with | 1 => 1 | 2 => 64 | 3 => 5 | 4 => 32 | _ => 0

/-- A slot holds units on a die. -/
def Ctx.onDie (x : Ctx) (d : Nat) : Bool :=
  x.groupList.any (fun g => g / 8 == d) || !(x.sliceOn d).isEmpty || !(x.endpointsOn d).isEmpty

/-- Largest and smallest of a list of minors differ by at most one. -/
def minorsMeet (l : List Nat) : Bool := l.all (fun a => l.all (fun b => a ≤ b + 1))

/-- The checks of a FIRMWARE request (R413). -/
def State.firmwareOk (s : State) (d : Nat) : Bool :=
  match s.boot.staged with
  | none => false
  | some img =>
    let others := s.diesIn.filter (· != d)
    let rels := imageRelease img :: s.boot.supervisorRelease :: others.map (fun x => (s.fwSlots x).running)
    s.boot.stageStatus.state == 2 &&
      others.all (fun x => majorOf (s.fwSlots x).running == majorOf (imageRelease img)) &&
      minorsMeet (rels.map minorOf)

/-- The state after the plan of a request, when it names one. -/
def State.afterPlan (s : State) (p : U8) : State :=
  if p = 0xFF then s else s.assignAll (planAssigns (s.res.plan p.toNat))

/-- The checks of a repair, a retirement's on the floors that the plan leaves; the status that refuses it (R289). (open points: DEDUCED, log entry 48) -/
def State.repairCheck (s : State) (q : RepairReq) : Option U16 :=
  let bad := some St.valueOutOfRange
  let t := s.afterPlan q.plan
  let stays := fun (c : Slot) => (s.ctx c).st.holds && !q.mask.getLsbD c.val
  if q.action = 0 || 4 < q.action then bad
  else if s.res.repair.isSome then bad
  else if s.sku.dies ≤ q.die || s.res.notStarted.getLsbD q.die || repairTargets q.action ≤ q.target then bad
  else if q.plan != 0xFF && 32 ≤ q.plan.toNat then bad
  else if q.action = 2 && (s.res.sparesUsed.contains (spareOf (64 * q.die + q.target)) ||
      slots.any (fun c => stays c && (t.ctx c).groups.getLsbD (8 * q.die + q.target / 8))) then bad
  else if slots.any (fun c => stays c && (t.ctx c).onDie q.die) then bad
  else if q.plan != 0xFF && (s.planCheck none true (s.res.plan q.plan.toNat)).isSome then bad
  else if q.action = 1 && !s.firmwareOk q.die then bad
  else if q.action = 3 then
    let p := 5 * q.die + q.target
    let r := { t with tiers := { t.tiers with
      positions := kvSet t.tiers.positions p { t.position p with retired := true } } }
    if r.poolOk && r.pinsOk then none else some St.poolExhausted
  else none

def State.setRepair (s : State) (f : RepairStatus → RepairStatus) : State :=
  s.modRes (fun r => { r with repairStatus := f r.repairStatus })

/-- A write of `repair_request`: refused before any effect, or its plan queued and, unless plans run or wait before it
(R285), its contexts draining. A refusal
is reported while no repair is in progress. (open points: DEDUCED, log entry 48) -/
def State.repairRequest (s : State) (b : Bytes) : State × U16 :=
  let q := RepairReq.parse b
  let begin_ : RepairStatus :=
    { RepairStatus.reset with seq := q.seq, state := 1, die := BitVec.ofNat 8 q.die, action := BitVec.ofNat 8 q.action }
  let no := fun (st : U16) =>
    (if s.res.repair.isSome then s else s.setRepair (fun _ => { begin_ with state := 7, status := st }), st)
  match s.repairCheck q with
  | some st => no st
  | none =>
    let empty := q.plan != 0xFF && field (s.res.plan q.plan.toNat) 0 1 = 0
    let queued := if q.plan = 0xFF then (s, St.ok) else s.requestPlan q.plan .repair
    if queued.2 != St.ok then no queued.2
    else
      let plan := if empty then 0xFF else q.plan
      let ahead := s.res.planQueue.length + (if s.res.planRunning.isSome then 1 else 0)
      let s := queued.1
      let s := s.modRes (fun r => { r with
        repairStatus := begin_
        repair := some { action := BitVec.ofNat 8 q.action, die := q.die, plan := plan,
                         target := BitVec.ofNat 8 q.target, pauseMask := q.mask, seq := q.seq, phase := 1,
                         ahead := ahead } })
      (if ahead = 0 then s.beginPausing else s, St.ok)

/-! ### Phases 1 to 3, as the status shows them (R291, R292) -/

/-- The plan of the repair has not finished. -/
def Resources.repairPlan (r : Resources) : Bool :=
  r.planQueue.any (fun p => p.why == .repair) || (match r.planRunning with | some p => p.why == .repair | none => false)

/-- A context of the repair still drains. -/
def State.repairPausing (s : State) (r : Repair) : Bool :=
  slots.any (fun c => r.pauseMask.getLsbD c.val && (s.ctx c).pausing)

/-- STATE of `repair_status`. -/
def State.repairState (s : State) : U8 :=
  match s.res.repair with
  | some r =>
    if s.res.dieOut.isSome then 4
    else if s.res.repairPlan || r.ahead != 0 then 1
    else if s.repairPausing r then 2
    else 3
  | none => s.res.repairStatus.state

/-- The 32 bytes of `repair_status`. -/
def State.repairBytes (s : State) : Bytes :=
  let r := s.res.repairStatus
  bvLe 4 r.seq ++ bvLe 1 s.repairState ++ bvLe 1 r.die ++ bvLe 1 r.action ++ [0] ++ bvLe 2 r.status ++ zeros 2 ++
    bvLe 4 r.rebindUs ++ bvLe 4 r.outMs ++ zeros 12

/-! ### DIE_OUT_OF_SERVICE (R287, R291) -/

/-- Operations that hold a claim line (R178): of the rows, the ones that combine bands, RMS_BWD and LN_BWD with
a DPARAM (R168, R198). (open points: DEDUCED, log entry 48) -/
def Desc.takesLine : Desc → Bool
  | .product d => d.pkind == 2
  | .row d => (d.op == 0x11 || d.op == 0x12) && d.dparam.handle != 0
  | .vector d => d.func == 0x30 || d.func == 0x31
  | _ => false

/-- A running operation's claim line lies on a die. (open points: DESIGN CHOICE, log entry 49) -/
def State.lineOn (s : State) (d : Nat) : Bool :=
  slots.any (fun c => (s.ctx c).stream.ops.any (fun o =>
    o.st == .running && o.desc.takesLine && (match o.run with | some r => r.line == d | none => false)))

def State.portsOf (d : Nat) : List Nat := (List.range 4).map (4 * d + ·)

/-- Open points: DEDUCED, log entry 48. -/
def execDieOutOfService (s : State) : Host.Outcome State Fault Refusal :=
  match s.res.repair with
  | none => .next s
  | some r =>
    if s.res.dieOut.isSome || s.res.repairPlan || r.ahead != 0 || s.repairPausing r || s.lineOn r.die then .next s
    else
      let (s, us) := if r.plan = 0xFF then s.draw else (s, s.res.repairStatus.rebindUs.setWidth 64)
      let s := s.modRes (fun x => { x with
        dieOut := some r.die, repairStatus := { x.repairStatus with rebindUs := us.setWidth 32 } })
      .next ((State.portsOf r.die).foldl (fun s n => s.portStops n 3) s)

/-! ### The actions (R291, R312, R413) -/

/-- Pages of a die that lost capacity move to the frame that R248 finds: on the nearest die with room, or, where none
has room, that of the page it evicts. (open points: DEDUCED, log entry 48) -/
def State.spill (s : State) (d : Nat) : Nat → State
  | 0 => s
  | n + 1 =>
    let held := slots.flatMap (fun c => ((s.ctx c).pool.pages.filter (fun q =>
      q.2.owns && q.2.tier == .ddr d)).map (fun q => (c, q.1)))
    match held.getLast? with
    | none => s
    | some (c, p) =>
      match s.ddrFrame d with
      | (s, none) => s
      | (s, some x) =>
        if x = d || ((s.ctx c).page p).all (fun g => g.tier != .ddr d) then s.spill d n
        else ((s.leaveFrame c p).modPage c p (fun g => { g with tier := .ddr x, moving := none })).spill d n

/-- The staged image on one die: written, verified, switched to, and the die restarted from it. -/
def State.updateDie (s : State) (d : Nat) (ok : Bool) : State × U16 :=
  match s.boot.staged with
  | none => (s, St.valueOutOfRange)
  | some img =>
    let st := verifyImage s.sec.rollback img
    let (s, free) := s.draw
    if !ok || st != St.ok then
      (s.modFw d (fun x => x.put (!x.active) img false), if st = St.ok then St.ofFree free else st)
    else
      let s := s.modFw d (fun x =>
        let y := x.put (!x.active) img true
        { y with active := !x.active, next := !x.active, running := imageRelease img })
      (s, St.ok)

/-- One repair action, with its outcome. (open points: DEDUCED, log entry 48) -/
def State.repairAction (s : State) (r : Repair) (ok : Bool) : State × U16 :=
  let t := r.target.toNat
  let free := fun (s : State) => let q := s.draw; (q.1, St.ofFree q.2)
  match r.action.toNat with
  | 1 => s.updateDie r.die ok
  | 2 => if ok then (s.spareCore (64 * r.die + t), St.ok) else free s
  | 3 =>
    if ok then
      let p := 5 * r.die + t
      let s := { s with tiers := { s.tiers with
        positions := kvSet s.tiers.positions p { s.position p with retired := true } } }
      (s.spill r.die (s.ddrUsedOn r.die - s.ddrCapOn r.die), St.ok)
    else free s
  | _ =>
    if ok then
      (s.modPort (4 * r.die + t / 8) (fun p => { p with live := p.live ^^^ BitVec.ofNat 8 (2 ^ (t % 8)) }), St.ok)
    else free s

/-! ### DIE_RETURN (R291, R406, R414) -/

/-- A die restarted for new firmware tests itself: its cores, and its shared logic.
(open points: DEDUCED, log entry 47) -/
def State.restartTests (s : State) (d : Nat) (f : StartFindings) : State :=
  let s := (f.coresFailed.filter (fun n => n / 64 == d)).foldl (fun s n => s.testCore n) s
  if f.diesFailed.contains d then let q := s.draw; q.1.dieDead d (St.ofFree q.2) else s

/-- A die returns from an update: register 1 is extended with the DIGEST of its active slot, and the update recorded.
One that failed its tests does not return (R393, R406, R414). `old`: the release it ran before. -/
def State.dieUpdated (s : State) (d : Nat) (old : U32) : State :=
  if !s.dieRuns d then s
  else
    let x := s.fwSlots d
    (s.extend 1 (imageDigest (x.image x.active))).raise { Event.blank with
      event := 0x8187, unit := BitVec.ofNat 16 d, args := [old.setWidth 64, x.running.setWidth 64] }

/-- The ports of a returning die train. (open points: DEDUCED, log entry 48) -/
def State.portsReturn (s : State) (d : Nat) (f : StartFindings) : State :=
  if !s.dieRuns d then s
  else
    let s := (State.portsOf d).foldl (fun s n => s.beginTraining n) s
    (f.ports.filter (fun q => q.1 / 4 == d && (s.port q.1).state == 1)).foldl (fun s q => s.train q.1 q.2 true) s

/-- The action's outcome, and the die in service again with paused contexts resumed.
(open points: DEDUCED, log entry 48) -/
def execDieReturn (ok : Bool) (f : StartFindings) (outMs : U32) (s : State) : Host.Outcome State Fault Refusal :=
  match s.res.repair, s.res.dieOut with
  | some r, some d =>
    let old := (s.fwSlots d).running
    let (s, st) := s.repairAction r ok
    let done := ok && (r.action != 1 || st == St.ok)
    let s := if done && r.action == 1 then s.restartTests d f else s
    let s := s.repairResume
    let s := s.modRes (fun x => { x with dieOut := none, repair := none })
    let s := if done && r.action == 1 then s.dieUpdated d old else s
    let s := s.portsReturn d f
    let s := s.setRepair (fun q => { q with state := if done then 6 else 8, status := st, outMs := outMs })
    if done then .next s
    else
      let b := s.repairBytes
      .next (s.raise { Event.blank with
        severity := sevFault, event := 0x8006, status := st, unit := BitVec.ofNat 16 d
        args := (List.range 4).map (fun w => fieldBv 64 b (8 * w) 8) })
  | _, _ => .next s

end Sys2Proof.Machine
end

