-- ==== Sys2Proof/Machine/BringUp.lean ====
section
/-! DEFINITION. Loss of main power, the start sequence, recovery and module resets (R370, R379, R391, R393, R401 to
R411, R415, R427). -/

namespace Sys2Proof.Machine

/-! ### What survives (R337, R370, R405) -/

/-- The tiers keep what is permanent: retired positions, and the flash's own figures. `cycle`: the power cycle goes
on, and with it positions out of use. (open points: DEDUCED, log entry 59) -/
def Tiers.kept (t : Tiers) (cycle : Bool) : Tiers :=
  { State.reset.tiers with
    positions := (t.positions.filter (fun q => q.2.retired || (cycle && q.2.outOfUse))).map (fun q =>
      (q.1, { DdrPosition.reset with retired := q.2.retired, outOfUse := cycle && q.2.outOfUse }))
    flash := t.flash.map (fun q => (q.1, { q.2 with readRetries := 0, readFails := 0 })) }

/-- What a start leaves of the catalogue's state. Every channel resets but for the time of its last refusal notice, whose
window `operating_ms` measures on (R348). (open points: DEDUCED, log entry 52) -/
def CatState.kept (k : CatState) : CatState :=
  { CatState.reset with
    chans := (k.chans.filter (fun x => x.refusedAt.isSome)).map (fun x => { ChanState.new x.ch with refusedAt := x.refusedAt })
    ipv6 := k.ipv6, prefixLen := k.prefixLen, gateway := k.gateway, allowed := k.allowed, peers := k.peers,
    mgmtDiscarded := k.mgmtDiscarded, corrections := k.corrections, learnedValid := k.learnedValid,
    learned := k.learned }

/-- Envelopes, the cap and fault holds stay; the sensors read what they measure. -/
def Power.kept (p : Power) : Power :=
  { Power.reset with
    cap := p.cap
    blocks := (p.blocks.filter (fun q => q.2.envelope.isSome || q.2.held)).map (fun q =>
      (q.1, { Block.reset with envelope := q.2.envelope, held := q.2.held }))
    busbarMv := p.busbarMv, inletMc := p.inletMc, outletMc := p.outletMc, flowMl := p.flowMl, dpPa := p.dpPa,
    dieMc := p.dieMc }

def Security.kept (x : Security) : Security :=
  { Security.reset with
    rollback := x.rollback, authority := x.authority, serviceEnabled := x.serviceEnabled,
    revokedBelow := x.revokedBelow }

/-- The firmware slots; one that an update of a die was writing when it was cut short is invalid, and holds no image (R413).
(open points: DEDUCED, log entry 50) -/
def State.slotsKept (s : State) : List (Nat × FwSlots) :=
  match s.res.repair, s.res.dieOut with
  | some r, some d =>
    if r.action = 1 then kvSet s.sec.fw d ((s.fwSlots d).put (!(s.fwSlots d).active) [] false) else s.sec.fw
  | _, _ => s.sec.fw

/-- Everything that is not kept returns to its default. In recovery, where no supervisor image runs, `firmware_release`
reads the release that reset gives. (open points: DEDUCED, log entries 59 and 64; DESIGN CHOICE, log entry 5) -/
def State.keep (s : State) (cycle : Bool) : State :=
  let t := { State.reset with
    pending := s.pending, sku := s.sku, ident := s.ident
    ctxs := Vector.ofFn (fun (c : Slot) => { Ctx.reset with gen := (s.ctx c).gen })
    tiers := s.tiers.kept cycle
    images := s.images.filter (fun i => i.committed)
    res := { Resources.reset with notStarted := if cycle then s.res.notStarted else 0 }
    fab := { Fabric.reset with moduleNumber := s.fab.moduleNumber }
    cat := s.cat.kept, power := s.power.kept, log := { s.log with clearMask := 0 }, sec := { s.sec.kept with fw := s.slotsKept }
    boot := { Boot.reset with afterThermal := s.boot.afterThermal, life := s.boot.life }
    out := s.out, freeCtr := s.freeCtr }
  t.sku.blocks.foldl (fun t b => if (kvGet t.power.blocks b).isSome then t.setLimit b else t) t

/-! ### Loss of main power (R370, R379) -/

def execPowerLoss (mv : U32) (overVolt : Bool) (s : State) : Host.Outcome State Fault Refusal :=
  if s.boot.life != .off && (if overVolt then 60000 < mv.toNat else mv.toNat < 44000) then
    let s := s.raise { Event.blank with
      severity := sevFatal, event := 0x8012, args := [mv.setWidth 64, if overVolt then 1 else 0] }
    let (s, n) := if s.log.holdupReady then (s, s.log.queue.length)
      else let q := s.draw; (q.1, q.2.toNat % (s.log.queue.length + 1))
    let s := (s.commitOnHoldup n).keep false
    .next { s with boot := { s.boot with life := .off } }
  else .next s

/-! ### Warm or cold (R403, R411) -/

/-- Bytes that end in their CRC-32. -/
def checkOk (b : Bytes) : Bool :=
  let n := b.length - 4
  crc32 (b.take n) == fieldBv 32 b n 4

/-- DDR5 positions in service: those not retired. -/
def State.positionsIn (s : State) : List Nat :=
  (List.range s.sku.positions).filter (fun p => !(s.position p).retired)

/-- The learned entries of positions in service, ports and the host link. -/
def State.learnedIndices (s : State) : List (Nat × Nat) :=
  s.positionsIn.map (fun p => (0x2C10 + p, 4096)) ++
    (List.range s.sku.ports).map (fun n => (0x2C40 + n, 256)) ++ [(0x2C60, 256)]

/-- The slots NEXT of every die hold the learned major release. -/
def State.majorsMatch (s : State) : Bool :=
  let h := s.learnedEntry 0x2C01 32
  (List.range s.sku.dies).all (fun d =>
    let x := s.fwSlots d
    !(x.image x.next).isEmpty && majorOf (imageRelease (x.image x.next)) == field h 4 1)

/-- The first condition of a warm start that fails, or 0. (open points: DEDUCED, log entry 64) -/
def State.downgrade (s : State) (wantCold : Bool) : U8 :=
  let h := s.learnedEntry 0x2C01 32
  if wantCold then 6
  else if s.boot.afterThermal then 5
  else if !(s.cat.learnedValid && s.learnedIndices.all (fun q => checkOk (s.learnedEntry q.1 q.2))) then 1
  else if !s.majorsMatch then 2
  else if !(field h 5 1 == s.sku.dies && field h 8 8 == ofBits s.positionsIn) then 3
  else 0

/-- `learned_header` as a start writes it. -/
def State.learnedHeader (s : State) : Bytes :=
  let r := (s.fwSlots 0).running
  bvLe 4 r ++ natLe 1 (majorOf r) ++ natLe 1 s.sku.dies ++ zeros 2 ++ natLe 8 (ofBits s.positionsIn) ++
    bvLe 4 s.ident.powerCycles ++ zeros 4 ++ natLe 8 s.ident.operatingMs.toNat

/-! ### The start record (R415) -/

def StartRecord.bytes (r : StartRecord) : Bytes :=
  bvLe 1 r.kind ++ bvLe 1 r.cause ++ bvLe 1 r.downgrade ++ bvLe 1 r.phase ++ bvLe 2 r.status ++
    bvLe 1 r.diesStarted ++ [0] ++ (List.range 7).flatMap (fun i => bvLe 4 (r.phaseMs.getD i 0)) ++
    bvLe 4 r.totalMs ++ zeros 24

def State.modBoot (s : State) (f : Boot → Boot) : State := { s with boot := f s.boot }

/-- The record in preparation. -/
def State.modStart (s : State) (f : StartRecord → StartRecord) : State :=
  s.modBoot (fun b => { b with starting := f b.starting })

/-- PHASE follows the start. (open points: DEDUCED, log entry 64) -/
def State.setPhase (s : State) (n : U8) : State :=
  s.modBoot (fun b => { b with record := { b.record with phase := n } })

/-- The first failure of a start stands in STATUS; one without a status of its own leaves a free value.
(open points: DEDUCED, log entry 64) -/
def State.failure (s : State) (st : Option U16) : State :=
  if s.boot.starting.status != St.ok then s
  else match st with
    | some v => s.modStart (fun r => { r with status := v })
    | none => let q := s.draw; q.1.modStart (fun r => { r with status := St.ofFree q.2 })

/-- A start that is not warm, and in which phase that shows (R403, R404). (open points: DEDUCED, log entry 64) -/
def State.goCold (s : State) (code phase : U8) : State :=
  let s := s.modStart (fun r => { r with kind := 1, downgrade := code })
  s.raise { Event.blank with
    severity := sevNotice, event := 0x8182, args := [code.setWidth 64, phase.setWidth 64] }

/-- Learned results stop being valid as a cold start trains. (open points: DEDUCED, log entry 64) -/
def State.unlearn (s : State) : State := s.modCat (fun k => { k with learnedValid := false })

/-! ### Phases 1 and 2 (R380, R389, R391, R406) -/

/-- A record is the last one its store took. -/
def newestIn (store : List (Nat × LogRec)) (r : LogRec) : Bool := store.all (fun x => x.2.seq ≤ r.seq)

/-- A slot of the primary store whose CHECK fails. The commit that was cut off is that of the record found there, when
it is the store's last: it was never written; else it was overwriting that record, which is lost to the mirror too.
(open points: DEDUCED, log entry 63) -/
def Logbook.tearPrimary (l : Logbook) (slot : Nat) : Logbook :=
  match kvGet l.primary slot with
  | none => l
  | some r =>
    let m := { l with primary := kvErase l.primary slot }
    if newestIn l.primary r then
      { m with mirrorQueue := l.mirrorQueue.filter (fun x => x.seq != r.seq)
               written := l.written.set r.severity.toNat (l.written.getD r.severity.toNat 0 - 1) }
    else m.overwrite r

/-- A slot of the mirror whose CHECK fails: the record whose writing was cut off waits for the mirror again, in SEQ
order, unless the primary store no longer holds it (R378, R386). (open points: DEDUCED, log entry 63) -/
def Logbook.tearMirror (l : Logbook) (slot : Nat) : Logbook :=
  match kvGet l.mirror slot with
  | none => l
  | some r =>
    let m := { l with mirror := kvErase l.mirror slot }
    if !newestIn l.mirror r then m
    else if l.primary.any (fun x => x.2.seq == r.seq) then
      { m with mirrorQueue := l.mirrorQueue.filter (fun x => x.seq < r.seq) ++ [r] ++
          l.mirrorQueue.filter (fun x => r.seq < x.seq) }
    else { m with mirrorLost := l.mirrorLost + 1 }

/-- The Logbook scan: torn slots are free, and counted. -/
def State.scanLog (s : State) (torn : List (Bool × Nat)) : State :=
  torn.foldl (fun s q => s.modLog (fun l =>
    let l := { l with torn := l.torn + 1 }
    if q.1 then l.tearMirror q.2 else l.tearPrimary q.2)) s

/-- Phase 2 on the dies after die 0. -/
def State.loadDies (s : State) : State :=
  ((List.range s.sku.dies).drop 1).foldl (fun s d =>
    if s.res.notStarted.getLsbD d then s
    else match s.loadDie d with
      | (s, 0x0000) => s
      | (s, st) => (s.dieDead d st).failure (some st)) s

/-- The slot of a die that holds a verified image of a release, its ACTIVE one first. -/
def State.slotWith (s : State) (d : Nat) (r : U32) : Option Bool :=
  let x := s.fwSlots d
  [x.active, !x.active].find? (fun b =>
    imageRelease (x.image b) == r && verifyImage s.sec.rollback (x.image b) == St.ok)

/-- One release runs on the whole module when a start completes (R2): that of die 0's slot, or of its other slot, that
every die holds; a die that holds none of them does not start. (open points: DEDUCED, log entry 80) -/
def State.alignReleases (s : State) : State :=
  let dies := s.diesIn
  let x := s.fwSlots 0
  if dies.all (fun d => (s.fwSlots d).running == x.running) then s
  else
    let r := ([x.running, imageRelease (x.image (!x.active))].find? (fun r =>
      dies.all (fun d => (s.slotWith d r).isSome))).getD x.running
    dies.foldl (fun s d =>
      match s.slotWith d r with
      | some b => s.modFw d (fun y => { y with active := b, running := imageRelease (y.image b) })
      | none => let q := s.draw; (q.1.dieDead d (St.ofFree q.2)).failure (some (St.ofFree q.2))) s

/-- Recovery: only the management port runs (R407). (open points: DEDUCED, log entry 64) -/
def State.enterRecovery (s : State) (st : U16) : State :=
  let s := s.modBoot (fun b => { b with life := .recovery, record := { b.record with phase := 9 } })
  s.raise { Event.blank with severity := sevFatal, event := 0x8185, status := st }

/-! ### Phases 3 to 7 -/

/-- Self-test of every die (R290, R406). -/
def State.selfTest (s : State) (f : StartFindings) : State :=
  let s := (f.coresFailed.filter (fun n => s.dieRuns (n / 64))).foldl (fun s n => (s.testCore n).failure none) s
  (f.diesFailed.filter (fun d => d != 0 && s.dieRuns d)).foldl (fun s d =>
    let q := s.draw
    (q.1.dieDead d (St.ofFree q.2)).failure (some (St.ofFree q.2))) s

/-- DDR5 training (R404, R406). -/
def State.trainDdr (s : State) (f : StartFindings) : State :=
  let s := if s.boot.starting.kind = 1 then s.unlearn
    else if f.learnedFails = some false then (s.goCold 4 4).unlearn
    else s
  (f.positionsFailed.filter (fun p => p < s.sku.positions && !(s.position p).retired)).foldl (fun s p =>
    ((s.modPosition p (fun x => { x with outOfUse := true })).raise { Event.blank with
      severity := sevFault, event := 0x8188, unit := BitVec.ofNat 16 p }).failure none) s

/-- Optical bring-up: lanes that do not lock retire, and the ports train (R312, R317, R404, R406). -/
def State.trainPorts (s : State) (f : StartFindings) : State :=
  let s := if s.boot.starting.kind = 2 && f.learnedFails = some true then (s.goCold 4 5).unlearn else s
  let s := (f.lanesFailed.filter (fun q => q.1 < s.sku.ports && q.2 < 8)).foldl (fun s q =>
    (s.modPort q.1 (fun p => { p with live := p.live &&& ~~~ (BitVec.ofNat 8 (2 ^ q.2)) })).failure none) s
  let s := (List.range s.sku.ports).foldl (fun s n =>
    if s.dieRuns (n / 4) then s.beginTraining n else s.modPort n (fun p => { p with state := 3 })) s
  (f.ports.filter (fun q => q.1 < s.sku.ports && (s.port q.1).state == 1)).foldl (fun s q => s.train q.1 q.2 false) s

/-- A training record of `n` bytes, which ends in the CHECK of the bytes before it (R411). -/
def withCheck (n : Nat) (b : Bytes) : Bytes :=
  let v := padTo (n - 4) b
  v ++ bvLe 4 (crc32 v)

/-- Learned results of a cold start are written: the header, and each training record with its CHECK (R404, R411).
(open points: DEDUCED, log entry 64) -/
def State.learn (s : State) (l : List (Nat × Bytes)) : State :=
  let h := s.learnedHeader
  s.modCat (fun k => { k with
    learnedValid := true
    learned := (l.filter (fun q => q.1 != 0x2C01)).foldl (fun t q => match kvGet learnedSizes q.1 with
      | some n => kvSet t q.1 (withCheck n q.2)
      | none => t) (kvSet k.learned 0x2C01 h) })

/-- Registers 0 to 5 are extended afresh (R393). (open points: DEDUCED, log entry 51) -/
def State.measureStart (s : State) : State :=
  let active := fun (s : State) (d : Nat) => imageDigest ((s.fwSlots d).image (s.fwSlots d).active)
  let s := s.extend 0 (active s 0)
  let s := s.diesIn.foldl (fun s d => s.extend 1 (active s d)) s
  ((s.extendAlmanac.extendSecurity).extendUser).extendLearned

/-- Phase 7: the module is Ready (R401, R405, R415). (open points: DEDUCED, log entry 64) -/
def State.finishStart (s : State) : State :=
  let cold := s.boot.starting.kind == 1
  let s := match s.boot.toLearn with | some l => if cold then s.learn l else s | none => s
  let s := if cold then s.mapBlocks (fun x => { x with held := false }) else s
  let s := s.measureStart
  let s := s.modStart (fun r => { r with phase := 8, diesStarted := BitVec.ofNat 8 (ofBits s.diesIn) })
  let b := s.boot.starting.bytes
  let s := s.modBoot (fun x => { x with life := .ready, record := x.starting, toLearn := none })
  s.raise { Event.blank with
    event := if cold then 0x8180 else 0x8181
    args := (List.range 5).map (fun w => fieldBv 64 b (8 * w) 8) }

/-- Phases 3 to 6; the start waits in phase 6 for the Meridian unless the module is a root (R402). A die 0 that fails its
self-test has passed its last slot check, whose STATUS the record of recovery carries (R406, R416).
(open points: DEDUCED, log entry 64) -/
def State.startRest (s : State) (f : StartFindings) : State :=
  let s := s.setPhase 3
  if f.diesFailed.contains 0 then s.enterRecovery St.ok
  else
  let s := s.selfTest f
  let s := (s.setPhase 4).trainDdr f
  let s := (s.setPhase 5).trainPorts f
  let s := (s.setPhase 6).modBoot (fun b => { b with life := .acquiring, toLearn := some f.learned })
  if s.mer.role = 1 then (s.setRole 1 true).finishStart else s

/-- Flow below 4 L/min or an inlet above 55 °C (R427). -/
def coolantStops (c : Coolant) : Bool := c.flowMl.toNat < 4000 || 55000 < c.inletMc.toInt

/-- Flow and inlet at their ratings (R367). -/
def coolantRated (c : Coolant) : Bool :=
  11000 ≤ c.flowMl.toNat && 20000 ≤ c.inletMc.toInt && c.inletMc.toInt ≤ 45000

/-- A start from its trigger: `cause` as R415; `s` holds what a stop of the module leaves.
(open points: DEDUCED, log entry 64) -/
def State.start (s : State) (cause : U8) (wantCold power : Bool) (f : StartFindings) : State :=
  let s := (s.modBoot (fun b => { b with life := .held })).setPhase 1
  let s := if power then
      { s with ident := { s.ident with powerCycles := s.ident.powerCycles + 1 }
               log := { s.log with queue := [], holdup := false } }
    else s
  let s := s.scanLog f.torn
  let ms := (List.range 7).map (fun i => f.phaseMs.getD i 0)
  let code := s.downgrade wantCold
  let s := s.modBoot (fun b => { b with
    afterThermal := false
    starting := { StartRecord.reset with
      kind := 2, cause := cause, phaseMs := ms, totalMs := ms.foldl (· + ·) 0 } })
  let s := if code = 0 then s else s.goCold code 1
  match (s.setPhase 2).loadDie 0 with
  | (s, 0x0000) =>
    let s := s.loadDies.alignReleases
    let s := s.modBoot (fun b => { b with supervisorRelease := (s.fwSlots 0).running })
    if power && coolantStops f.coolant then s.modBoot (fun b => { b with life := .held })
    else s.startRest f
  | (s, st) =>
    let s := (List.range s.sku.dies).foldl (fun s d => s.modFw d (fun x => { x with running := 0 })) s
    s.enterRecovery st

/-! ### Triggers (R370, R402, R408, R427) -/

def execPowerOn (f : StartFindings) (s : State) : Host.Outcome State Fault Refusal :=
  if s.boot.life == .off then .next ((s.keep false).start 0 false true f) else .next s

/-- Within 10 s the coolant reaches its rating and the start goes on, or the module stops (R427). The time held is
not the model's to know. -/
def execCoolantStartHoldExpiry (now : Coolant) (f : StartFindings) (s : State) :
    Host.Outcome State Fault Refusal :=
  if s.boot.life == .held then
    if coolantRated now then
      let q := s.draw
      .next ((q.1.modStart (fun r => { r with totalMs := q.2.setWidth 32 })).startRest f)
    else .next (s.thermalStop [])
  else .next s

/-- 1 s of phase 6 has passed: the module is Ready in ACQUIRING (R402). -/
def execMeridianAcquireTimeout (s : State) : Host.Outcome State Fault Refusal :=
  if s.boot.life == .acquiring then .next s.finishStart else .next s

/-- The module synchronises to its root: from ACQUIRING after 64 ticks, or as a beacon returns in HOLDOVER
(R261 to R263); in phase 6 of a start this makes it Ready (R402). -/
def execAcquisitionComplete (correctionNs : U32) (s : State) : Host.Outcome State Fault Refusal :=
  let m := s.mer
  if m.role != 1 && (m.state == 0 || m.state == 2) && m.followed.isSome then
    let s := s.modMer (fun m => { m.to 1 with lastCorrection := correctionNs, wasSync := true })
    let s := if m.wasSync then s.raiseResync else s
    if s.boot.life == .acquiring then .next s.finishStart else .next s
  else .next s

/-! ### Module resets (R408, R409) -/

/-- The module stops, without completions, and starts again. A stop by heat makes the start cold (R403). -/
def State.moduleReset (s : State) (ch : Channel) (cold : Bool) (f : StartFindings) : State :=
  let s := s.raise { Event.blank with
    severity := sevNotice, event := 0x8183, args := chanArgs ch (if cold then 2 else 1) [] }
  (s.keep true).start (if cold then 2 else 1) cold false f

/-- Before phase 3, and in recovery, no reset is taken (R407, R409). -/
def Life.mayReset : Life → Bool
  | .ready => true
  | .acquiring => true
  | .stopped => true
  | .cut _ => true
  | _ => false

/-- An image that passed in recovery is written to both slots of die 0, and the module starts cold (R407). -/
def State.recoverWith (s : State) (img : Bytes) (f : StartFindings) : State :=
  let s := s.modFw 0 (fun x => (x.put false img true).put true img true)
  (s.keep true).start 3 true false f

end Sys2Proof.Machine
end

