-- ==== Sys2Proof/Machine/Collective.lean ====
section
/-! DEFINITION. Collectives: groups, matching, the plates that ranks exchange, and their reduction (R207, R325
to R330). Which rank's engine reduces a plate, and how a broadcast spreads, are the model's choice within
the limits of R326 (DESIGN CHOICE, log entry 11). -/

namespace Sys2Proof.Machine

/-! ### Groups (R325) -/

/-- A group as copied at the start check: ranks, local rank, endpoints. -/
structure Group where
  ranks : Nat
  local_ : Nat
  list : List U32
  deriving DecidableEq, Repr

/-- The group a descriptor names; none is a refusal with BEYOND_BOUND. A module without a number has no
endpoint address (R322). -/
def State.groupOf (s : State) (c : Slot) (g : Nat) : Option Group :=
  let x := s.ctx c
  let a := x.fab.groupBase.toNat + 64 * g
  if s.fab.moduleNumber = 0xFFFFFFFF || x.fab.groupEntries.toNat ≤ g || x.fab.groupBase = 0 ||
      !s.allocated c a 64 then none
  else
    let n := s.num c a 4
    let r := s.num c (a + 4) 4
    let l := s.num c (a + 8) 8
    if n = 0 || 65536 < n || n ≤ r || l % 64 != 0 || !s.allocated c l (4 * n) then none
    else
      let list := (List.range n).map (fun i => BitVec.ofNat 32 (s.num c (l + 4 * i) 4))
      let me := (list.getD r 0).setWidth 24
      if (list.getD r 0).toNat < 2 ^ 24 && s.isMine me && s.ownerOf (destDie me) (destEndpoint me) == some c then
        some { ranks := n, local_ := r, list := list }
      else none

/-! ### Who sends what (R326) -/

/-- A collective at work. -/
structure CWork where
  o : OpCtx
  d : CollD
  k : CollRun
  src : Nat
  dst : Nat
  dstHandle : U32
  srcHandle : U32
  deriving DecidableEq, Repr

def CWork.g (w : CWork) : Nat := w.k.ranks
def CWork.me (w : CWork) : Nat := w.k.localRank
def CWork.c (w : CWork) : Nat := w.d.count.toNat
def CWork.kind (w : CWork) : Nat := w.d.ckind.toNat

/-- The rank whose engine makes the additions of plate i: fixed by G and the plate index, one for every tree node (R327).
(open points: DESIGN CHOICE, log entry 11) -/
def CWork.owner (w : CWork) (i : Nat) : Nat := i % w.g

/-- The rank a REDUCE_SCATTER gives plate i of the reduction to (R326). -/
def CWork.receiver (w : CWork) (i : Nat) : Nat := i / (w.c / w.g)

/-- Children of this rank in the broadcast: a binary tree from ROOT, so that none sends more than 2 × C.
(open points: DESIGN CHOICE, log entry 11) -/
def CWork.children (w : CWork) : List Nat :=
  let q := (w.me + w.g - w.d.root.toNat % w.g) % w.g
  ([2 * q + 1, 2 * q + 2].filter (· < w.g)).map (fun x => (x + w.d.root.toNat) % w.g)

/-- The rank a broadcast reaches this one from. (open points: DESIGN CHOICE, log entry 11) -/
def CWork.parent (w : CWork) : Nat :=
  let q := (w.me + w.g - w.d.root.toNat % w.g) % w.g
  ((q - 1) / 2 + w.d.root.toNat) % w.g

def CWork.isRoot (w : CWork) : Bool := w.me == w.d.root.toNat

/-- Plates this rank owes to another, in ascending order; a SEND may name its own rank. -/
def CWork.owes (w : CWork) (q : Nat) : List Nat :=
  if q = w.me && w.kind != 4 then []
  else
    match w.kind with
    | 0 => (List.range w.c).filter (fun i => w.owner i == q || w.owner i == w.me)
    | 1 => (List.range w.c).filter (fun i => w.owner i == q || (w.owner i == w.me && w.receiver i == q))
    | 2 => (List.range w.c).map (fun i => w.me * w.c + i)
    | 3 => if w.children.contains q then List.range w.c else []
    | 4 => if q = w.d.root.toNat then List.range w.c else []
    | _ => []

/-- Ranks that owe this rank plates. (open points: DESIGN CHOICE, log entry 11) -/
def CWork.senders (w : CWork) : List Nat :=
  let all := (List.range w.g).filter (· != w.me)
  match w.kind with
  | 0 => all.filter (fun q => (List.range w.c).any (fun i => w.owner i == w.me || w.owner i == q))
  | 1 => all
  | 2 => all
  | 3 => if w.isRoot then [] else [w.parent]
  | 5 => if w.d.root.toNat < w.g then [w.d.root.toNat] else []
  | _ => []

/-- Plates of DST this rank is to write. -/
def CWork.dstCount (w : CWork) : Nat :=
  match w.kind with
  | 1 => w.c / w.g
  | 2 => w.c * w.g
  | 4 => 0
  | _ => w.c

/-- The plate of DST an offset of the collective is written to. -/
def CWork.dstPlate (w : CWork) (i : Nat) : Nat := if w.kind = 1 then i - w.me * (w.c / w.g) else i

/-- A plate that this rank's engine has reduced for another rank. -/
def CWork.result? (w : CWork) (i : Nat) : Option Bytes := (w.k.results.find? (fun x => x.1 == i)).map (·.2)

/-- Where a plate can be read from now to be sent: SRC, or DST once it is there. -/
def CWork.available (w : CWork) (i : Nat) : Option Nat :=
  match w.kind with
  | 0 => if w.owner i = w.me then (if w.k.placed.contains i then some (w.dst + 64 * i) else none)
    else some (w.src + 64 * i)
  | 1 => if w.owner i = w.me then none else some (w.src + 64 * i)
  | 2 => some (w.src + 64 * (i - w.me * w.c))
  | 3 => if w.isRoot then some (w.src + 64 * i)
    else if w.k.placed.contains i then some (w.dst + 64 * i) else none
  | _ => some (w.src + 64 * i)

/-- A plate can be sent now. -/
def CWork.sendable (w : CWork) (i : Nat) : Bool := (w.available i).isSome || (w.result? i).isSome

/-! ### The work of an operation -/

/-- The running collective of an operation. SRC_OFFSET and DST_OFFSET count from the base of the tensor; ROW_FIRST of the
two references, which moves rows of elements, moves none of its plates. (open points: DEDUCED, log entry 22) -/
def State.collOf (s : State) (c : Slot) (n : Nat) : Option CWork :=
  match s.op? c n with
  | none => none
  | some o =>
    match o.desc, o.run with
    | .coll d, some r =>
      if r.fault.isSome then none
      else
        r.coll.map (fun k =>
          { o := o.ctx c r.seed r.mode, d := d, k := k,
            src := ((viewAt r.views 32).map (·.base)).getD 0 + d.srcOffset.toNat,
            dst := ((viewAt r.views 48).map (·.base)).getD 0 + d.dstOffset.toNat,
            dstHandle := d.dst.handle, srcHandle := d.src.handle })
    | _, _ => none

def State.modColl (s : State) (o : OpCtx) (f : CollRun → CollRun) : State :=
  s.modRun o.c o.n (fun r => { r with coll := r.coll.map f })

/-- One unit of the operation's work is done. -/
def State.oneDone (s : State) (o : OpCtx) (n : Nat) : State :=
  s.modRun o.c o.n (fun r => { r with left := r.left - n })

/-- A plate of DST is written. -/
def State.placePlate (s : State) (w : CWork) (i : Nat) (b : Bytes) : State :=
  let s := s.store w.o.c (w.dst + 64 * w.dstPlate i) b
  (s.modColl w.o (fun k => { k with placed := insertNat k.placed i })).oneDone w.o 1

/-- A plate of SRC as the rank contributes it; a poisoned one ends the operation (R234). -/
def State.readSrc (s : State) (w : CWork) (i : Nat) : State × Option Bytes :=
  let a := w.src + 64 * i
  let s := s.touch w.o.c a 64
  if s.poisoned w.o.c a then (s.faultOp w.o St.pageUncorrectable w.srcHandle a [], none)
  else (s, some (s.bytes w.o.c a 64))

/-- The header this rank puts on a packet of the collective (R323). The context id expected at a peer is the
one its COLL_READY came with; a COLL_READY itself expects this rank's own (DESIGN CHOICE, log entry 11). -/
def CWork.packet (w : CWork) (s : State) (kind : U8) (q : Nat) : Packet :=
  { Packet.blank with
    kind := kind, dest := (w.k.list.getD q 0).setWidth 24, src := (w.k.list.getD w.me 0).setWidth 24
    destContext := (kvGet w.k.ready q).getD (s.ctxId w.o.c), srcContext := s.ctxId w.o.c, group := w.d.group, collSeq := w.k.seq
    ckind := w.d.ckind, redop := w.d.redop.setWidth 2, order := w.k.order, count := w.d.count
    peer := if 4 ≤ w.kind then w.d.tag else w.d.root }

/-! ### Reduction (R327) -/

def plateWords (b : Bytes) : List F32 := (List.range 16).map (fun i => fieldBv 32 b (4 * i) 4)

/-- A partial of an element with the flags of its additions, and whether it is a rank's own contribution. -/
abbrev CPart := F32 × List Fl × Bool

/-- One addition or MAX of a collective engine: a contribution that is NaN is invalid with CAUSE 6 (R436). -/
def collAdd (max : Bool) (a b : CPart) : CPart :=
  let nan := (isNan a.1 && a.2.2) || (isNan b.1 && b.2.2)
  let (v, f) := if max then (maxF a.1 b.1, Fl.none) else addF true a.1 b.1
  (v, a.2.1 ++ b.2.1 ++ [if nan then { f with inv := lowCause f.inv (some 6) } else f], false)

/-- The flags of an element's additions with `inv` as its only invalid event, at the first addition that raises one. -/
def invalidAtFirst : Option Nat → List Fl → List Fl
  | _, [] => []
  | inv, f :: rest =>
    if f.inv.isSome then { f with inv := inv } :: invalidAtFirst none rest else f :: invalidAtFirst inv rest

/-- Of several invalid events of one element, one counts, with the lowest cause (R436). -/
def oneInvalid (l : List Fl) : List Fl := invalidAtFirst (l.foldl (fun a f => lowCause a f.inv) none) l

/-- The sum of an element's contributions, in rank order by the tree, or in order of arrival. -/
def collReduce (fixed max : Bool) (xs : List F32) : F32 × List Fl :=
  let ps : List CPart := xs.map (fun x => (x, [], true))
  let r := if fixed then bandTree (collAdd max) ps
    else match ps with | [] => none | p :: rest => some (rest.foldl (collAdd max) p)
  match r with
  | none => (0, [])
  | some p => (p.1, oneInvalid p.2.1)

/-- The engine reduces a plate that all ranks have contributed to and writes or keeps the result. One addition of the
plate's 16 elements takes one cycle of the engine, and its events stand in the order of R123.
(open points: DEDUCED, log entry 25) -/
def State.reducePlate (s : State) (w : CWork) (got : List (Nat × Nat × Bytes)) (i : Nat) : State :=
  let mine := got.filter (fun x => x.2.1 == i)
  let mine := if w.k.order then sortBy (fun x => x.1) mine else mine
  let words := mine.map (fun x => plateWords x.2.2)
  let rs := (List.range 16).map (fun e =>
    collReduce w.k.order (w.d.redop == 1) (words.map (fun l => l.getD e 0)))
  let ev := fun flag cause =>
    ({ flag := flag, cause := cause, tr := 0xFFFF, tc := 0xFFFF, band := 0xFFFF, offset := 0xFFFF,
       handle := w.dstHandle } : FEv)
  let die := destDie ((w.k.list.getD w.me 0).setWidth 24)
  let adds := (List.range (w.g - 1)).map (fun k => rs.map (fun r => r.2.getD k Fl.none))
  let s := s.events w.o die 7 (inCycles (rowEvents 16 adds (fun _ _ flag cause => ev flag cause)))
  let b := if w.g = 1 then (mine.getD 0 (0, 0, [])).2.2 else rs.flatMap (fun r => bvLe 4 r.1)
  let s := s.modColl w.o (fun k => { k with got := k.got.filter (fun x => x.2.1 != i) })
  if w.kind = 1 && w.receiver i != w.me then s.modColl w.o (fun k => { k with results := k.results ++ [(i, b)] })
  else s.placePlate w i b

/-- A contribution of a rank reaches the engine. -/
def State.contribute (s : State) (c : Slot) (n rank i : Nat) (b : Bytes) : State :=
  match s.collOf c n with
  | none => s
  | some w =>
    let got := w.k.got ++ [(rank, i, b)]
    let s := s.modColl w.o (fun k => { k with got := got })
    if (got.filter (fun x => x.2.1 == i)).length = w.g then s.reducePlate w got i else s

/-! ### Sending -/

/-- Runs of consecutive numbers, at most 16 long. -/
def runs16 : List Nat → List (List Nat)
  | [] => []
  | x :: rest =>
    match runs16 rest with
    | (y :: ys) :: more => if y = x + 1 && ys.length < 15 then (x :: y :: ys) :: more else [x] :: (y :: ys) :: more
    | l => [x] :: l

/-- Sends one packet of plates to a rank. (open points: DESIGN CHOICE, log entry 11) -/
def State.sendRun (s : State) (c : Slot) (n q : Nat) (is : List Nat) : State :=
  match s.collOf c n with
  | none => s
  | some w =>
    let as := is.filterMap w.available
    match as.find? (fun a => s.poisoned c a) with
    | some a => s.faultOp w.o St.pageUncorrectable w.srcHandle a []
    | none =>
      let s := as.foldl (fun s a => s.touch c a 64) s
      let p := { w.packet s 0x21 q with
        address := BitVec.ofNat 64 (is.headD 0), data := is.map (fun i => match w.available i with
          | some a => s.bytes c a 64
          | none => (w.result? i).getD []) }
      let s := s.modColl w.o (fun k => { k with sent := k.sent ++ is.map (fun i => (q, i)) })
      (s.sendFor c n p).oneDone w.o is.length

/-- Everything that can be sent is sent: to each rank whose COLL_READY is held (R328). -/
def State.pumpColl (s : State) (c : Slot) (n : Nat) : State :=
  match s.collOf c n with
  | none => s
  | some w =>
    w.k.ready.foldl (fun s x =>
      let q := x.1
      let is := (w.owes q).filter (fun i => !w.k.sent.contains (q, i) && w.sendable i)
      (runs16 is).foldl (fun s r => s.sendRun c n q r) s) s

/-! ### Matching (R328) -/

def CWork.rankOf (w : CWork) (a : BitVec 24) : Option Nat := w.k.list.findIdx? (fun x => x.setWidth 24 == a)

/-- The running collectives of a slot, oldest first. -/
def State.colls (s : State) (c : Slot) : List CWork :=
  (s.ctx c).stream.ops.filterMap (fun o => if o.st == .running then s.collOf c o.n else none)

/-- Does a packet belong to a collective: by group and sequence number, or for SEND and RECV by group, peer
and TAG. -/
def CWork.matches_ (w : CWork) (p : Packet) : Bool :=
  w.d.group == p.group && (w.rankOf p.src).isSome &&
    (if p.ckind.toNat < 4 then w.kind < 4 && w.k.seq == p.collSeq
     else
       (if p.kind = 0x20 then w.kind == 4 && (kvGet w.k.ready w.d.root.toNat).isNone else w.kind == 5) &&
         w.rankOf p.src == some w.d.root.toNat && w.d.tag == p.peer)

/-- The header agrees with the matching collective. -/
def CWork.agrees (w : CWork) (p : Packet) : Bool :=
  let kind := if 4 ≤ p.ckind.toNat then 4 ≤ w.kind else w.d.ckind == p.ckind
  kind && w.k.order == p.order && (1 < w.kind || w.d.redop.setWidth 2 == p.redop) && w.d.count == p.count &&
    (4 ≤ w.kind || w.d.root == p.peer)

/-- A collective whose peer disagrees ends at once (R328). -/
def State.disagree (s : State) (w : CWork) : State := s.faultOp w.o St.latePacketDropped w.dstHandle 0 []

/-- A COLL_READY is taken by its collective. -/
def State.takeReady (s : State) (w : CWork) (p : Packet) : State :=
  if !w.agrees p then (s.countDropAt (some w.o.c)).disagree w
  else
    match w.rankOf p.src with
    | none => s
    | some q => (s.modColl w.o (fun k => { k with ready := kvSet k.ready q p.srcContext })).pumpColl w.o.c w.o.n

/-- The collective of a COLL_READY has not started here. (open points: DESIGN CHOICE, log entry 11) -/
def State.notStarted (s : State) (c : Slot) (p : Packet) : Bool :=
  4 ≤ p.ckind.toNat || kvGetD (s.ctx c).fab.groupSeq p.group.toNat 0 ≤ p.collSeq

/-- A peer is ready to receive (R328, R330). (open points: DEDUCED, log entry 69) -/
def execCollReady (p : Packet) (s : State) : Host.Outcome State Fault Refusal :=
  if p.kind != 0x20 then .next s
  else
    .next (s.deliver p false (fun s c =>
      match (s.colls c).find? (fun w => w.matches_ p) with
      | some w => s.takeReady w p
      | none =>
        let held := (s.ctx c).fab.held.filter (fun h => h.endpoint == p.dest)
        if s.notStarted c p && held.length < 256 then
          s.modCtx c (fun x => { x with fab := { x.fab with held := x.fab.held ++ [{ endpoint := p.dest, packet := p }] } })
        else s.countDropAt (some c)))

/-- The plates of DST that a packet of the collective is to write lie in flash that cannot be reached (R287).
(open points: DESIGN CHOICE, log entry 49) -/
def CWork.waits (w : CWork) (s : State) : Bool := s.flashWaits w.o.c w.dst (64 * w.dstCount)

/-- The plates of a COLL_DATA reach their collective. -/
def State.takeData (s : State) (w : CWork) (q : Nat) (p : Packet) : State :=
  let a := p.address.toNat
  let s := (List.range p.data.length).foldl (fun s j =>
    let b := padTo 64 (p.data.getD j [])
    let i := a + j
    if w.kind ≤ 1 && w.owner i = w.me then s.contribute w.o.c w.o.n q i b
    else s.placePlate w i b) s
  (s.ackPacket p St.ok).pumpColl w.o.c w.o.n

/-- Every plate of a COLL_DATA is one this rank awaits from that rank. -/
def CWork.awaits (w : CWork) (q : Nat) (p : Packet) : Bool :=
  let is := (List.range p.data.length).map (fun j => p.address.toNat + j)
  is.all (fun i =>
    match w.kind with
    | 0 => i < w.c && (if w.owner i = w.me then !w.k.got.any (fun x => x.1 == q && x.2.1 == i) &&
        !w.k.placed.contains i else w.owner i == q && !w.k.placed.contains i)
    | 1 => i < w.c && !w.k.placed.contains i && (w.result? i).isNone &&
        (if w.owner i = w.me then !w.k.got.any (fun x => x.1 == q && x.2.1 == i)
         else w.owner i == q && w.receiver i == w.me)
    | 2 => q * w.c ≤ i && i < (q + 1) * w.c && !w.k.placed.contains i
    | _ => i < w.c && !w.k.placed.contains i)

/-- A RECV whose DST is full takes no more plates. -/
def CWork.full (w : CWork) : Bool := w.kind == 5 && w.c ≤ w.k.placed.length

/-- The collective a COLL_DATA belongs to: of several RECV the oldest that awaits its plates (R328).
(open points: DESIGN CHOICE, log entry 11) -/
def State.dataColl (s : State) (c : Slot) (p : Packet) : Option CWork :=
  let ws := (s.colls c).filter (fun w => w.matches_ p && !w.full)
  (ws.find? (fun w => match w.rankOf p.src with | some q => w.awaits q p | none => false)).orElse (fun _ => ws.head?)

/-- Plates of a collective (R328, R330). (open points: DEDUCED, log entry 69) -/
def execCollData (p : Packet) (s : State) : Host.Outcome State Fault Refusal :=
  if p.kind != 0x21 || (s.isMine p.dest && (s.ownerOf (destDie p.dest) (destEndpoint p.dest)).any (fun c =>
      p.destContext == s.ctxId c && (s.dataColl c p).any (fun w => w.waits s))) then .next s
  else
    .next (s.deliver p true (fun s c =>
      match s.dataColl c p with
      | none => s.dropLate c p
      | some w =>
        match w.rankOf p.src with
        | none => s.dropLate c p
        | some q => if w.agrees p && w.awaits q p then s.takeData w q p else (s.dropLate c p).disagree w))

/-! ### Starting (R325, R328) -/

/-- COLL_READY to every rank that will send to this one. -/
def State.sendReady (s : State) (w : CWork) : State :=
  w.senders.foldl (fun s q =>
    let (s, tag) := s.freshTag
    let s := s.modColl w.o (fun k => { k with tags := k.tags ++ [tag] })
    s.sendPacket { w.packet s 0x20 q with opTag := tag }) s

/-- What a rank does with its own plates at once. -/
def State.ownPlates (s : State) (w : CWork) : State :=
  let each := fun (s : State) (f : State → Nat → Bytes → State) (is : List Nat) =>
    is.foldl (fun s i =>
      if (s.collOf w.o.c w.o.n).isNone then s
      else
        match s.readSrc w i with
        | (s, none) => s
        | (s, some b) => f s i b) s
  match w.kind with
  | 0 => each s (fun s i b => s.contribute w.o.c w.o.n w.me i b)
      ((List.range w.c).filter (fun i => w.owner i == w.me))
  | 1 => each s (fun s i b => s.contribute w.o.c w.o.n w.me i b)
      ((List.range w.c).filter (fun i => w.owner i == w.me))
  | 2 => each s (fun s i b => s.placePlate w (w.me * w.c + i) b) (List.range w.c)
  | 3 => if w.isRoot then each s (fun s i b => s.placePlate w i b) (List.range w.c) else s
  | _ => s

/-- COLL_READY that waited at this endpoint for the collective are taken. (open points: DESIGN CHOICE, log entry 11) -/
def State.takeHeld (s : State) (c : Slot) (n : Nat) : State :=
  (s.ctx c).fab.held.foldl (fun s h =>
    match s.collOf c n with
    | none => s
    | some w =>
      if w.matches_ h.packet && h.endpoint == (w.k.list.getD w.me 0).setWidth 24 then
        (s.modCtx c (fun x => { x with fab := { x.fab with held := x.fab.held.erase h } })).takeReady w h.packet
      else s) s

/-- The sequence counter of a group advances (R328). -/
def State.advanceSeq (s : State) (c : Slot) (g : Nat) : State :=
  s.modCtx c (fun x => { x with fab := { x.fab with groupSeq := kvMod x.fab.groupSeq g 0 (· + 1) } })

def beginColl (g : Group) (s : State) (o : OpRec) (oc : OpCtx) (_ : List (Nat × TView)) : State :=
  match o.desc with
  | .coll d =>
    let seq := if d.ckind.toNat < 4 then kvGetD (s.ctx oc.c).fab.groupSeq d.group.toNat 0 else 0
    let s := if d.ckind.toNat < 4 then s.advanceSeq oc.c d.group.toNat else s
    let k : CollRun := { ranks := g.ranks, localRank := g.local_, list := g.list, seq := seq,
                         order := oc.mode == 0 || d.order == 1, ready := [], got := [], results := [], sent := [],
                         placed := [], tags := [] }
    let s := s.modRun oc.c oc.n (fun r => { r with coll := some k })
    match s.collOf oc.c oc.n with
    | none => s
    | some w =>
      let owed := sumNat (fun q => (w.owes q).length) (List.range g.ranks)
      let s := s.modRun oc.c oc.n (fun r => { r with left := w.dstCount + owed })
      ((((s.sendReady w).ownPlates w).takeHeld oc.c oc.n).pumpColl oc.c oc.n)
  | _ => s

/-- A collective of COUNT 0 completes at once and still advances the counter (R328). -/
def State.emptyColl (s : State) (c : Slot) (o : OpRec) (d : CollD) : Bool :=
  d.ckind.toNat < 4 && s.mayStart c o &&
    (match s.startCheck c none o ((s.ctx c).num.seedOf o.step).2.toNat 0 none with
     | .ok none => true
     | _ => false)

/-- A COLLECTIVE starts with the group it names. -/
def State.startColl (s : State) (c : Slot) (n : Nat) (kind : Nat → Bool) : State :=
  match s.op? c n with
  | none => s
  | some o =>
    match o.desc with
    | .coll d =>
      if !kind d.ckind.toNat then s
      else
        let empty := s.emptyColl c o d
        let s := if empty then s.advanceSeq c d.group.toNat else s
        match s.groupOf c d.group.toNat with
        | none => s.startOp c n (fun _ => true) 0 (some St.beyondBound) (beginColl { ranks := 0, local_ := 0, list := [] })
        | some g =>
          s.startOp c n (fun _ => true) g.ranks none (beginColl g)
    | _ => s

/-- ALL_REDUCE; a CKIND that is none is refused here (R207, R210). -/
def execAllReduce (c : Slot) (n : Nat) (s : State) : Host.Outcome State Fault Refusal :=
  .next (s.startColl c n (fun k => k == 0 || 5 < k))
def execReduceScatter (c : Slot) (n : Nat) (s : State) : Host.Outcome State Fault Refusal :=
  .next (s.startColl c n (fun k => k == 1))
def execAllGather (c : Slot) (n : Nat) (s : State) : Host.Outcome State Fault Refusal :=
  .next (s.startColl c n (fun k => k == 2))
def execBroadcast (c : Slot) (n : Nat) (s : State) : Host.Outcome State Fault Refusal :=
  .next (s.startColl c n (fun k => k == 3))
def execSend (c : Slot) (n : Nat) (s : State) : Host.Outcome State Fault Refusal :=
  .next (s.startColl c n (fun k => k == 4))
def execRecv (c : Slot) (n : Nat) (s : State) : Host.Outcome State Fault Refusal :=
  .next (s.startColl c n (fun k => k == 5))

/-- A collective that hears nothing for `collective_timeout` ends with LINK_DOWN (R329). -/
def execCollectiveTimeout (c : Slot) (n : Nat) (s : State) : Host.Outcome State Fault Refusal :=
  match s.collOf c n with
  | none => .next s
  | some w => .next (s.faultOp w.o St.linkDown w.dstHandle 0 [])

end Sys2Proof.Machine
end

