-- ==== Sys2Proof/Machine/Catalogue.lean ====
section
/-! DEFINITION. The catalogue: its entries, their descriptors, and which channel may read or write what (R332 to R337,
R340, R342, R382). -/

namespace Sys2Proof.Machine

/-! ### The table of entries (R332, R335) -/

/-- Over which units an index repeats. -/
inductive Span where
  | one | slots | dies | blocks | positions | ports | cores | plans | caps | all40 | all32
  deriving DecidableEq, Repr

/-- An entry: index of unit 0, subindex, name, type code (R333), access (0 RO, 1 RW, 2 WO, 3 RWS), unit code, size,
DEFAULT where one is given, and who may write it (R336: 0 as R336; 1 as R191; 2 the PF and the management port; 3 every
channel for itself; 4 as R118; 5 as R360 of `perf_point`). -/
structure Row where
  base : Nat
  span : Span
  sub : Nat
  name : String
  typ : Nat
  acc : Nat
  unit : Nat
  size : Nat
  dflt : Option Nat
  writer : Nat
  deriving DecidableEq, Repr

def rows1a : List Row :=
  [
   .mk 0x1000 .one 1 "serial" 7 0 0 16 (none) 0,
   .mk 0x1000 .one 2 "ordering_code" 7 0 0 16 (none) 0,
   .mk 0x1000 .one 3 "die_stepping" 1 0 0 1 (some 0xB0) 0,
   .mk 0x1000 .one 4 "firmware_release" 3 0 0 4 (none) 0,
   .mk 0x1000 .one 5 "die_count" 1 0 0 1 (none) 0,
   .mk 0x1000 .one 6 "cores_enabled" 2 0 0 2 (none) 0,
   .mk 0x1000 .one 7 "mac_address" 8 0 0 6 (none) 0,
   .mk 0x1000 .one 8 "power_cycles" 3 0 0 4 (none) 0,
   .mk 0x1000 .one 9 "operating_ms" 4 0 7 8 (none) 0,
   .mk 0x1100 .caps 1 "" 9 0 0 64 (none) 0]

def rows2a : List Row :=
  [
   .mk 0x2000 .one 1 "osc_offset" 5 0 26 4 (none) 0,
   .mk 0x2001 .dies 1 "die_temp_offset" 5 0 24 4 (none) 0,
   .mk 0x2010 .blocks 1 "meter_gain" 6 0 0 4 (none) 0,
   .mk 0x2100 .one 1 "coolant_flow_gain" 6 0 0 4 (none) 0,
   .mk 0x2800 .one 1 "" 9 3 0 16 (some 0x0) 0,
   .mk 0x2801 .dies 1 "" 9 3 0 16 (some 0x0) 0,
   .mk 0x2810 .blocks 1 "" 9 3 0 16 (some 0x0) 0,
   .mk 0x2900 .one 1 "" 9 3 0 16 (some 0x0) 0,
   .mk 0x2C00 .one 1 "corrections_clear" 1 3 0 1 (none) 0,
   .mk 0x2C00 .one 2 "learned_valid" 0 0 0 1 (some 0x0) 0,
   .mk 0x2C01 .one 1 "learned_header" 9 0 0 32 (some 0x0) 0,
   .mk 0x2C10 .all40 1 "ddr_training" 8 0 0 4096 (some 0x0) 0,
   .mk 0x2C40 .all32 1 "lane_eq" 8 0 0 256 (some 0x0) 0,
   .mk 0x2C60 .one 1 "host_link_eq" 8 0 0 256 (some 0x0) 0]

def rows3a : List Row :=
  [
   .mk 0x3000 .one 1 "block_count" 2 0 0 2 (none) 0,
   .mk 0x3000 .one 2 "module_power_cap" 3 1 22 4 (none) 2,
   .mk 0x3000 .one 3 "envelope_sum" 3 0 22 4 (none) 0,
   .mk 0x3000 .one 4 "fault_held_blocks" 3 0 0 4 (some 0x0) 0,
   .mk 0x3100 .blocks 1 "block_kind" 1 0 0 1 (none) 0,
   .mk 0x3100 .blocks 2 "perf_point" 1 1 0 1 (some 0x0) 5,
   .mk 0x3100 .blocks 3 "point_in_force" 1 0 0 1 (some 0x0) 0,
   .mk 0x3100 .blocks 4 "envelope" 3 1 22 4 (none) 2,
   .mk 0x3100 .blocks 5 "envelope_max" 3 0 22 4 (none) 0,
   .mk 0x3100 .blocks 6 "limit_now" 3 0 22 4 (none) 0,
   .mk 0x3100 .blocks 7 "limit_cause" 1 0 0 1 (some 0x0) 0,
   .mk 0x3100 .blocks 8 "ramp_module" 3 0 0 4 (some 0xFFFFFFFF) 0,
   .mk 0x3100 .blocks 9 "ramp_context" 3 0 0 4 (some 0xFFFFFFFF) 0,
   .mk 0x3100 .blocks 10 "limited_ms" 4 0 7 8 (some 0x0) 0]

def rows4a : List Row :=
  [
   .mk 0x4010 .one 1 "stale_plate_action" 1 1 0 1 (some 0x0) 0,
   .mk 0x4010 .one 2 "stale_plate_action" 1 1 0 1 (some 0x0) 0,
   .mk 0x4010 .one 3 "stale_plate_action" 1 1 0 1 (some 0x0) 0,
   .mk 0x4010 .one 4 "stale_plate_action" 1 1 0 1 (some 0x0) 0,
   .mk 0x4010 .one 5 "stale_plate_action" 1 1 0 1 (some 0x0) 0,
   .mk 0x4010 .one 6 "stale_plate_action" 1 1 0 1 (some 0x0) 0,
   .mk 0x4010 .one 7 "stale_plate_action" 1 1 0 1 (some 0x0) 0,
   .mk 0x4010 .one 8 "stale_plate_action" 1 1 0 1 (some 0x0) 0,
   .mk 0x4010 .one 9 "stale_plate_action" 1 1 0 1 (some 0x0) 0,
   .mk 0x4010 .one 10 "stale_plate_action" 1 1 0 1 (some 0x0) 0,
   .mk 0x4010 .one 11 "stale_plate_action" 1 1 0 1 (some 0x0) 0,
   .mk 0x4010 .one 12 "stale_plate_action" 1 1 0 1 (some 0x0) 0,
   .mk 0x4010 .one 13 "stale_plate_action" 1 1 0 1 (some 0x0) 0,
   .mk 0x4010 .one 14 "stale_plate_action" 1 1 0 1 (some 0x0) 0,
   .mk 0x4010 .one 15 "stale_plate_action" 1 1 0 1 (some 0x0) 0,
   .mk 0x4010 .one 16 "stale_plate_action" 1 1 0 1 (some 0x0) 0,
   .mk 0x4120 .slots 1 "photometer_headroom" 1 1 9 1 (some 0x1) 1,
   .mk 0x4120 .slots 2 "grad_scale_default" 6 1 0 4 (some 0x3F800000) 1,
   .mk 0x4120 .slots 3 "photometer_history" 1 1 3 1 (some 0x8) 1,
   .mk 0x4120 .slots 4 "crush_ratio" 6 1 0 4 (some 0x41000000) 1,
   .mk 0x4120 .slots 5 "side_list_divisor" 2 1 0 2 (some 0x400) 1,
   .mk 0x4120 .slots 6 "promotion_budget" 4 1 1 8 (some 0x10000000) 1,
   .mk 0x4120 .slots 7 "demotion_clean_steps" 2 1 3 2 (some 0x40) 1,
   .mk 0x4120 .slots 8 "numerics_table_base" 4 1 0 8 (some 0x0) 1,
   .mk 0x4120 .slots 9 "numerics_table_counts" 3 1 0 4 (some 0x0) 1,
   .mk 0x4120 .slots 10 "promotion_alarm" 2 0 0 2 (some 0x0) 1,
   .mk 0x4120 .slots 11 "promotion_in_use" 4 0 1 8 (some 0x0) 1,
   .mk 0x4120 .slots 12 "promotion_refused" 3 0 0 4 (some 0x0) 1,
   .mk 0x4130 .slots 1 "seeing_ring_base" 4 1 0 8 (some 0x0) 1,
   .mk 0x4130 .slots 2 "seeing_ring_entries" 2 1 16 2 (some 0x10) 1,
   .mk 0x4130 .slots 3 "seeing_reports_written" 4 0 16 8 (some 0x0) 1,
   .mk 0x4130 .slots 4 "first_fault_mask" 1 1 0 1 (some 0xC) 1]

def rows4b : List Row :=
  [
   .mk 0x4130 .slots 5 "layer_watch_base" 4 1 0 8 (some 0x0) 1,
   .mk 0x4130 .slots 6 "blink_rate" 2 1 20 2 (some 0x40) 1,
   .mk 0x4130 .slots 7 "blink_threshold" 6 1 0 4 (some 0x3A800000) 1,
   .mk 0x4130 .slots 8 "dark_threshold" 2 1 3 2 (some 0x40) 1,
   .mk 0x4130 .slots 9 "last_seeing_notices" 2 0 0 2 (some 0x0) 1,
   .mk 0x4140 .slots 1 "dither_seed" 4 1 0 8 (some 0x0) 1,
   .mk 0x4140 .slots 2 "reduction_mode" 1 1 0 1 (some 0x0) 1,
   .mk 0x4140 .slots 3 "seed_in_force" 4 0 0 8 (some 0x0) 1,
   .mk 0x4140 .slots 4 "mode_in_force" 1 0 0 1 (some 0x0) 1,
   .mk 0x4400 .cores 1 "engine_watch" 9 1 0 64 (some 0x0) 4,
   .mk 0x4400 .cores 2 "engine_watch" 9 1 0 64 (some 0x0) 4,
   .mk 0x4400 .cores 3 "engine_watch" 9 1 0 64 (some 0x0) 4,
   .mk 0x4400 .cores 4 "engine_watch" 9 1 0 64 (some 0x0) 4,
   .mk 0x4400 .cores 5 "engine_watch" 9 1 0 64 (some 0x0) 4,
   .mk 0x4400 .cores 6 "engine_watch" 9 1 0 64 (some 0x0) 4,
   .mk 0x4400 .cores 7 "engine_watch" 9 1 0 64 (some 0x0) 4,
   .mk 0x4600 .dies 1 "engine_watch" 9 1 0 64 (some 0x0) 4]

def rows5a : List Row :=
  [
   .mk 0x5000 .one 1 "page_bytes" 3 0 1 4 (some 0x200000) 0,
   .mk 0x5000 .one 2 "ddr_pool_pages" 3 0 2 4 (none) 0,
   .mk 0x5000 .one 3 "flash_pool_pages" 3 0 2 4 (none) 0,
   .mk 0x5000 .one 4 "ddr_free_pages" 3 0 2 4 (none) 0,
   .mk 0x5000 .one 5 "flash_free_pages" 3 0 2 4 (none) 0,
   .mk 0x5000 .one 6 "admitted_pages" 3 0 2 4 (some 0x0) 0,
   .mk 0x5000 .one 7 "pinned_admitted_pages" 3 0 2 4 (some 0x0) 0,
   .mk 0x5000 .one 8 "image_pages" 3 0 2 4 (some 0x0) 0,
   .mk 0x5000 .one 9 "scrub_period" 2 1 8 2 (some 0x18) 0,
   .mk 0x5000 .one 10 "scrub_passes" 3 0 19 4 (some 0x0) 0,
   .mk 0x5100 .slots 1 "floor_ddr_pages" 3 1 2 4 (some 0x0) 2,
   .mk 0x5100 .slots 2 "floor_flash_pages" 3 1 2 4 (some 0x0) 2,
   .mk 0x5100 .slots 3 "pages_allocated" 3 0 2 4 (some 0x0) 1,
   .mk 0x5100 .slots 4 "pages_plate" 3 0 2 4 (some 0x0) 1,
   .mk 0x5100 .slots 5 "pages_ddr" 3 0 2 4 (some 0x0) 1,
   .mk 0x5100 .slots 6 "pages_flash" 3 0 2 4 (some 0x0) 1,
   .mk 0x5100 .slots 7 "pages_pinned" 3 0 2 4 (some 0x0) 1,
   .mk 0x5100 .slots 8 "pool_request" 9 2 0 32 (none) 1,
   .mk 0x5100 .slots 9 "pool_result" 9 0 0 32 (some 0x0) 1,
   .mk 0x5100 .slots 10 "pages_evicted" 4 0 2 8 (some 0x0) 1,
   .mk 0x5100 .slots 11 "unmapped_accesses" 4 0 0 8 (some 0x0) 1,
   .mk 0x5100 .slots 12 "resident_waiting" 3 0 2 4 (some 0x0) 1,
   .mk 0x5200 .positions 1 "ddr_position" 9 0 0 32 (some 0x0) 0,
   .mk 0x5300 .dies 1 "flash_die" 9 0 0 40 (some 0xFFFFFFFFFFFFFFFF) 0]

def rows6a : List Row :=
  [
   .mk 0x6000 .one 1 "context_slots" 1 0 11 1 (some 0x10) 2,
   .mk 0x6000 .one 2 "slot_request" 9 2 0 16 (none) 2,
   .mk 0x6000 .one 3 "slot_result" 9 0 0 8 (some 0x0) 2,
   .mk 0x6000 .one 4 "rebind_request" 1 2 0 1 (none) 2,
   .mk 0x6000 .one 5 "rebind_status" 9 0 0 32 (some 0x0) 2,
   .mk 0x6000 .one 6 "repair_request" 9 2 0 16 (none) 2,
   .mk 0x6000 .one 7 "repair_status" 9 0 0 32 (some 0x0) 2,
   .mk 0x6000 .one 8 "stale_discards_total" 4 0 14 8 (some 0x0) 2,
   .mk 0x6000 .one 9 "free_core_groups" 4 0 0 8 (none) 2,
   .mk 0x6010 .slots 1 "context_id" 2 0 0 2 (none) 0,
   .mk 0x6010 .slots 2 "context_state" 1 0 0 1 (some 0x0) 0,
   .mk 0x6010 .slots 3 "core_groups" 4 0 0 8 (some 0x0) 0,
   .mk 0x6010 .slots 4 "plate_slices" 8 0 0 20 (some 0x0) 0,
   .mk 0x6010 .slots 5 "fabric_endpoints" 8 0 0 16 (some 0x0) 0,
   .mk 0x6010 .slots 6 "serving_die" 1 0 0 1 (some 0xFF) 0,
   .mk 0x6010 .slots 7 "stale_discards" 4 0 14 8 (some 0x0) 0,
   .mk 0x6020 .dies 1 "core_map" 8 0 0 64 (none) 0,
   .mk 0x6020 .dies 2 "cores_failed" 4 0 0 8 (some 0x0) 0,
   .mk 0x6080 .plans 1 "rebind_plan" 9 1 0 272 (some 0x0) 2,
   .mk 0x6140 .slots 1 "tensor_table_base" 4 1 0 8 (some 0x0) 1,
   .mk 0x6140 .slots 2 "tensor_table_entries" 3 1 10 4 (some 0x0) 1,
   .mk 0x6140 .slots 3 "lists_completed" 4 0 15 8 (some 0x0) 1,
   .mk 0x6140 .slots 4 "last_list_status" 2 0 0 2 (some 0x0) 1,
   .mk 0x6140 .slots 5 "open_step" 4 0 3 8 (some 0x0) 1,
   .mk 0x6150 .slots 1 "phase_base" 4 1 0 8 (some 0x0) 1,
   .mk 0x6150 .slots 2 "stash_ledger_base" 4 1 0 8 (some 0x0) 1,
   .mk 0x6150 .slots 3 "stash_rings" 2 1 17 2 (some 0x0) 1,
   .mk 0x6150 .slots 4 "stash_bytes_held" 4 0 1 8 (some 0x0) 1,
   .mk 0x6150 .slots 5 "journal_base" 4 1 0 8 (some 0x0) 1,
   .mk 0x6150 .slots 6 "journal_depth" 1 1 3 1 (some 0x4) 1,
   .mk 0x6150 .slots 7 "journal_entry_bytes" 3 1 1 4 (some 0x100000) 1,
   .mk 0x6150 .slots 8 "replay_request" 9 2 0 32 (none) 1]

def rows6b : List Row :=
  [
   .mk 0x6150 .slots 9 "replay_result" 9 0 0 64 (some 0x0) 1,
   .mk 0x6150 .slots 10 "snapshot_manifest_base" 4 1 0 8 (some 0x0) 1,
   .mk 0x6150 .slots 11 "snapshot_manifest_count" 3 1 10 4 (some 0x0) 1,
   .mk 0x6150 .slots 12 "snapshot_request" 9 2 0 32 (none) 1,
   .mk 0x6150 .slots 13 "snapshot_status" 9 0 0 32 (some 0x0) 1,
   .mk 0x6160 .slots 1 "submit_ring_base" 4 1 0 8 (some 0x0) 1,
   .mk 0x6160 .slots 2 "submit_ring_entries" 2 1 10 2 (some 0x100) 1,
   .mk 0x6160 .slots 3 "completion_ring_base" 4 1 0 8 (some 0x0) 1,
   .mk 0x6160 .slots 4 "completion_ring_entries" 3 1 10 4 (some 0x400) 1,
   .mk 0x6160 .slots 5 "msix_vector" 1 1 0 1 (some 0x0) 1,
   .mk 0x6160 .slots 6 "moderation_count" 2 1 10 2 (some 0x1) 1,
   .mk 0x6160 .slots 7 "moderation_time" 2 1 6 2 (some 0x0) 1,
   .mk 0x6160 .slots 8 "completions_dropped" 4 0 10 8 (some 0x0) 1,
   .mk 0x6160 .slots 9 "completion_backlog" 2 0 10 2 (some 0x0) 1,
   .mk 0x6160 .slots 10 "window_base" 4 1 0 8 (some 0x0) 1,
   .mk 0x6170 .one 1 "completion_ring_base" 4 1 0 8 (some 0x0) 2,
   .mk 0x6170 .one 2 "completion_ring_entries" 3 1 10 4 (some 0x400) 2,
   .mk 0x6170 .one 3 "msix_vector" 1 1 0 1 (some 0x0) 2,
   .mk 0x6170 .one 4 "moderation_count" 2 1 10 2 (some 0x1) 2,
   .mk 0x6170 .one 5 "moderation_time" 2 1 6 2 (some 0x0) 2,
   .mk 0x6170 .one 6 "completions_dropped" 4 0 10 8 (some 0x0) 2,
   .mk 0x6170 .one 7 "completion_backlog" 2 0 10 2 (some 0x0) 2,
   .mk 0x6170 .one 10 "pf_window_slot" 1 1 0 1 (some 0x0) 2,
   .mk 0x6170 .one 11 "pf_window_base" 4 1 0 8 (some 0x0) 2]

def rows7a : List Row :=
  [
   .mk 0x7000 .one 1 "meridian_role" 1 1 0 1 (some 0x0) 2,
   .mk 0x7000 .one 2 "tick_code" 1 1 0 1 (some 0x2) 2,
   .mk 0x7000 .one 3 "meridian_count" 4 0 4 8 (none) 2,
   .mk 0x7000 .one 4 "meridian_state" 1 0 0 1 (some 0x0) 2,
   .mk 0x7000 .one 5 "holdover_elapsed" 3 0 6 4 (some 0x0) 2,
   .mk 0x7000 .one 6 "root_address" 3 0 0 4 (some 0xFFFFFFFF) 2,
   .mk 0x7000 .one 7 "last_correction" 5 0 5 4 (some 0x0) 2,
   .mk 0x7000 .one 8 "events_missed" 4 0 10 8 (some 0x0) 2,
   .mk 0x7000 .one 9 "state_changes" 3 0 0 4 (some 0x0) 2,
   .mk 0x7000 .one 10 "meridian_start" 4 1 4 8 (some 0x0) 2,
   .mk 0x7100 .slots 1 "ephemeris_base" 4 1 0 8 (some 0x0) 1,
   .mk 0x7100 .slots 2 "late_tolerance" 3 1 4 4 (some 0x40) 1,
   .mk 0x7100 .slots 3 "ephemeris_fired" 4 0 10 8 (some 0x0) 1,
   .mk 0x7100 .slots 4 "ephemeris_late" 4 0 10 8 (some 0x0) 1,
   .mk 0x7100 .slots 5 "ephemeris_missed" 4 0 10 8 (some 0x0) 1,
   .mk 0x7100 .slots 6 "ephemeris_discarded" 4 0 10 8 (some 0x0) 1,
   .mk 0x7200 .one 1 "module_pending" 2 0 10 2 (some 0x0) 2,
   .mk 0x7200 .one 2 "module_entry" 9 2 0 64 (none) 2,
   .mk 0x7200 .one 3 "module_late_tolerance" 3 1 4 4 (some 0x40) 2,
   .mk 0x7200 .one 4 "module_fired" 4 0 10 8 (some 0x0) 2,
   .mk 0x7200 .one 5 "module_late" 4 0 10 8 (some 0x0) 2,
   .mk 0x7200 .one 6 "module_missed" 4 0 10 8 (some 0x0) 2,
   .mk 0x7200 .one 7 "module_discarded" 4 0 10 8 (some 0x0) 2,
   .mk 0x7200 .one 8 "module_sample" 9 0 0 64 (some 0x0) 2]

def rows8a : List Row :=
  [
   .mk 0x8000 .one 1 "fabric_ports" 1 0 12 1 (none) 0,
   .mk 0x8000 .one 2 "route_table" 8 1 0 262144 (some 0x0) 2,
   .mk 0x8000 .one 3 "route_writes" 3 0 0 4 (some 0x0) 0,
   .mk 0x8000 .one 4 "collective_timeout" 2 1 7 2 (some 0x32) 2,
   .mk 0x8000 .one 5 "packets_dropped" 4 0 13 8 (some 0x0) 0,
   .mk 0x8000 .one 6 "module_number" 3 1 0 4 (some 0xFFFFFFFF) 2,
   .mk 0x8100 .slots 1 "group_table_base" 4 1 0 8 (some 0x0) 1,
   .mk 0x8100 .slots 2 "group_table_entries" 2 1 18 2 (some 0x0) 1,
   .mk 0x8100 .slots 3 "aperture_base" 4 1 0 8 (some 0x0) 1,
   .mk 0x8100 .slots 4 "aperture_map" 8 1 0 4096 (some 0x0) 1,
   .mk 0x8100 .slots 5 "packets_dropped" 4 0 13 8 (some 0x0) 1,
   .mk 0x8200 .ports 1 "port" 9 0 0 32 (some 0x0) 0,
   .mk 0x8300 .one 1 "mgmt_ipv6_address" 8 1 0 16 (some 0x0) 2,
   .mk 0x8300 .one 2 "mgmt_ipv6_prefix_len" 1 1 9 1 (some 0x40) 2,
   .mk 0x8300 .one 3 "mgmt_gateway" 8 1 0 16 (some 0x0) 2,
   .mk 0x8300 .one 4 "mgmt_allowed_sources" 8 1 0 136 (some 0x0) 2,
   .mk 0x8300 .one 5 "mgmt_peers" 8 1 0 64 (some 0xFFFFFFFFFFFFFFFF) 2,
   .mk 0x8300 .one 6 "mgmt_discarded" 4 0 14 8 (some 0x0) 2]

def rows9a : List Row :=
  [
   .mk 0x9000 .one 1 "logbook_slots" 3 0 10 4 (some 0x20000) 0,
   .mk 0x9000 .one 2 "mirror_slots" 3 0 10 4 (some 0x200000) 0,
   .mk 0x9000 .one 3 "next_seq" 4 0 0 8 (none) 0,
   .mk 0x9000 .one 4 "oldest_seq" 4 0 0 8 (none) 0,
   .mk 0x9000 .one 5 "read_from" 4 1 0 8 (some 0x0) 3,
   .mk 0x9000 .one 6 "read_records" 8 0 0 3968 (none) 0,
   .mk 0x9000 .one 7 "read_severity" 1 1 0 1 (some 0x3) 3,
   .mk 0x9000 .one 8 "written" 8 0 0 32 (some 0x0) 0,
   .mk 0x9000 .one 9 "dropped" 8 0 0 16 (some 0x0) 0,
   .mk 0x9000 .one 10 "torn" 3 0 10 4 (some 0x0) 0,
   .mk 0x9000 .one 11 "mirror_lag" 3 0 10 4 (some 0x0) 0,
   .mk 0x9000 .one 12 "mirror_lost" 4 0 10 8 (some 0x0) 0,
   .mk 0x9000 .one 13 "logbook_clear" 1 3 0 1 (some 0x0) 0,
   .mk 0x9000 .one 14 "clear_watermarks" 8 0 0 32 (some 0x0) 0,
   .mk 0x9000 .one 15 "holdup_ready" 0 0 0 1 (some 0x0) 0]

def rowsAa : List Row :=
  [
   .mk 0xA000 .one 1 "rollback_counter" 3 0 0 4 (some 0x0) 0,
   .mk 0xA000 .one 2 "rollback_raise" 3 3 0 4 (none) 0,
   .mk 0xA001 .dies 1 "fw_slots" 9 0 0 160 (none) 0,
   .mk 0xA010 .one 1 "identity_public_key" 8 0 0 64 (none) 0,
   .mk 0xA010 .one 2 "identity_certificate" 8 0 0 32768 (none) 0,
   .mk 0xA010 .one 3 "ca_public_key" 8 0 0 64 (none) 0,
   .mk 0xA020 .one 1 "measurement" 8 0 0 64 (some 0x0) 0,
   .mk 0xA020 .one 2 "measurement" 8 0 0 64 (some 0x0) 0,
   .mk 0xA020 .one 3 "measurement" 8 0 0 64 (some 0x0) 0,
   .mk 0xA020 .one 4 "measurement" 8 0 0 64 (some 0x0) 0,
   .mk 0xA020 .one 5 "measurement" 8 0 0 64 (some 0x0) 0,
   .mk 0xA020 .one 6 "measurement" 8 0 0 64 (some 0x0) 0,
   .mk 0xA020 .one 7 "measurement" 8 0 0 64 (some 0x0) 0,
   .mk 0xA020 .one 8 "measurement" 8 0 0 64 (some 0x0) 0,
   .mk 0xA020 .one 9 "measurement_events" 3 0 0 4 (none) 0,
   .mk 0xA020 .one 10 "operator_extend" 8 2 0 64 (none) 0,
   .mk 0xA030 .one 1 "attest_request" 9 2 0 72 (none) 0,
   .mk 0xA030 .one 2 "attest_status" 9 0 0 16 (none) 0,
   .mk 0xA030 .one 3 "attest_report" 8 0 0 50496 (none) 0,
   .mk 0xA040 .one 1 "authority_key" 8 3 0 64 (some 0x0) 0,
   .mk 0xA040 .one 2 "authority_key" 8 3 0 64 (some 0x0) 0,
   .mk 0xA040 .one 3 "authority_key" 8 3 0 64 (some 0x0) 0,
   .mk 0xA040 .one 4 "authority_key" 8 3 0 64 (some 0x0) 0,
   .mk 0xA040 .one 5 "service_key" 8 0 0 64 (none) 0,
   .mk 0xA040 .one 6 "service_key_enabled" 0 3 0 1 (some 0x1) 0,
   .mk 0xA040 .one 7 "token_revoked_below" 4 3 0 8 (some 0x0) 0,
   .mk 0xA040 .one 8 "authorisations_held" 1 0 0 1 (some 0x0) 0,
   .mk 0xA050 .one 1 "module_reset" 1 3 0 1 (some 0x0) 2,
   .mk 0xA050 .one 2 "fw_stage_request" 9 3 0 32 (none) 2,
   .mk 0xA050 .one 3 "fw_stage_status" 9 0 0 32 (some 0x0) 0,
   .mk 0xA050 .one 4 "start_record" 9 0 0 64 (some 0x0) 0,
   .mk 0xA050 .one 5 "supervisor_release" 3 0 0 4 (none) 0]

def rowsAb : List Row :=
  [
   .mk 0xA050 .one 6 "dies_out_at_start" 1 0 0 1 (some 0x0) 0,
   .mk 0xA050 .one 7 "recovery_image" 8 2 0 67108864 (none) 0]

def rowsBa : List Row :=
  [
   .mk 0xB000 .one 1 "module_power" 3 0 22 4 (none) 0,
   .mk 0xB000 .one 2 "module_energy" 4 0 23 8 (some 0x0) 0,
   .mk 0xB000 .one 3 "unbound_energy" 4 0 23 8 (some 0x0) 0,
   .mk 0xB000 .one 4 "busbar_voltage" 3 0 0 4 (none) 0,
   .mk 0xB000 .one 5 "inlet_temp" 5 0 24 4 (none) 0,
   .mk 0xB000 .one 6 "outlet_temp" 5 0 24 4 (none) 0,
   .mk 0xB000 .one 7 "coolant_flow" 3 0 0 4 (none) 0,
   .mk 0xB000 .one 8 "coolant_dp" 3 0 0 4 (none) 0,
   .mk 0xB000 .one 9 "die_temp" 8 0 0 32 (none) 0,
   .mk 0xB000 .one 10 "cooling_state" 1 0 0 1 (some 0x0) 0,
   .mk 0xB100 .blocks 1 "block_energy" 4 0 23 8 (some 0x0) 0,
   .mk 0xB100 .blocks 2 "block_power" 3 0 22 4 (none) 0,
   .mk 0xB100 .blocks 3 "block_peak" 3 0 22 4 (some 0x0) 0,
   .mk 0xB400 .slots 1 "context_energy" 4 0 23 8 (some 0x0) 0,
   .mk 0xB400 .slots 2 "context_tokens" 4 0 0 8 (some 0x0) 0,
   .mk 0xB400 .slots 3 "step_energy" 4 0 23 8 (some 0x0) 0,
   .mk 0xB400 .slots 4 "step_tokens" 4 0 0 8 (some 0x0) 0,
   .mk 0xB400 .slots 5 "step_tokens_per_mwh" 6 0 25 4 (some 0x0) 0,
   .mk 0xB400 .slots 6 "bind_tokens_per_mwh" 6 0 25 4 (some 0x0) 0,
   .mk 0xB400 .slots 7 "step_account" 9 0 0 32 (some 0x0) 0]

/-- Every entry of the catalogue. -/
def catRows : List Row :=
  rows1a ++ rows2a ++ rows3a ++ rows4a ++ rows4b ++ rows5a ++ rows6a ++ rows6b ++ rows7a ++ rows8a ++ rows9a ++
    rowsAa ++ rowsAb ++ rowsBa

/-- A unit of a span exists (R335, R342, R357, R411). -/
def Sku.spans (k : Sku) (p : Span) (i : Nat) : Bool :=
  match p with
  | .one => i == 0
  | .slots => i < 16
  | .dies => i < k.dies
  | .blocks => (k.blockKind i).isSome
  | .positions => i < k.positions
  | .ports => i < k.ports
  | .cores => i < k.cores
  | .plans => i < 32
  | .caps => i < 9
  | .all40 => i < 40
  | .all32 => i < 32

/-- An entry of the table serves an index. -/
def Row.at (r : Row) (k : Sku) (index : Nat) : Bool := r.base ≤ index && k.spans r.span (index - r.base)

/-- The entries of an index, subindex 0 aside. -/
def Sku.rowsAt (k : Sku) (index : Nat) : List Row := catRows.filter (fun r => r.at k index)

/-- `highest_sub`, the entry every index has (R332). -/
def highestSub (base : Nat) (span : Span) : Row :=
  { base := base, span := span, sub := 0, name := "highest_sub", typ := 1, acc := 0, unit := 0, size := 1,
    dflt := none, writer := 0 }

/-- The entry of an index and subindex. -/
def Sku.row? (k : Sku) (index sub : Nat) : Option Row :=
  let l := k.rowsAt index
  if sub = 0 then l.head?.map (fun r => highestSub r.base r.span) else l.find? (fun r => r.sub == sub)

/-- Value of subindex 0. -/
def Sku.highest (k : Sku) (index : Nat) : Nat := maxNat (fun (r : Row) => r.sub) (k.rowsAt index)

/-! ### Ranges of scalars -/

/-- Least and greatest value writable, by index of unit 0 and subindex. (open points: DEDUCED, log entry 66) -/
def rangeOf (base sub : Nat) : Option (Nat × Nat) :=
  match base, sub with
  | 0x2C00, 1 => some (1, 3)
  | 0x3100, 2 => some (0, 3)
  | 0x4010, _ => some (0, 1)
  | 0x4120, 1 => some (0, 3)
  | 0x4120, 2 => some (0x00800000, 0x7F7FFFFF)
  | 0x4120, 3 => some (1, 16)
  | 0x4120, 4 => some (0x40000000, 0x47800000)
  | 0x4120, 5 => some (16, 16384)
  | 0x4120, 7 => some (1, 65535)
  | 0x4130, 2 => some (1, 4096)
  | 0x4130, 4 => some (0, 15)
  | 0x4130, 7 => some (0x33800000, 0x3F800000)
  | 0x4140, 2 => some (0, 1)
  | 0x5000, 9 => some (1, 168)
  | 0x6000, 4 => some (0, 31)
  | 0x6140, 1 => some (0, rangeBytes - 1)
  | 0x6140, 2 => some (0, 16777216)
  | 0x6150, 3 => some (0, 256)
  | 0x6150, 6 => some (1, 16)
  | 0x6150, 7 => some (4096, 67108864)
  | 0x6150, 11 => some (0, 1048576)
  | 0x6160, 1 => some (0, rangeBytes - 1)
  | 0x6160, 2 => some (16, 4096)
  | 0x6160, 4 => some (64, 65536)
  | 0x6160, 6 => some (1, 256)
  | 0x6160, 7 => some (0, 1000)
  | 0x6170, 2 => some (64, 65536)
  | 0x6170, 3 => some (0, 63)
  | 0x6170, 4 => some (1, 256)
  | 0x6170, 5 => some (0, 1000)
  | 0x6170, 10 => some (0, 15)
  | 0x7000, 1 => some (0, 2)
  | 0x7000, 2 => some (0, 6)
  | 0x7100, 2 => some (0, 16777215)
  | 0x7200, 3 => some (0, 16777215)
  | 0x8000, 4 => some (1, 10000)
  | 0x8100, 2 => some (0, 4096)
  | 0x8300, 2 => some (1, 128)
  | 0x9000, 7 => some (0, 3)
  | 0x9000, 13 => some (1, 15)
  | 0xA050, 1 => some (1, 2)
  | _, _ => none

/-- Of what a scalar must be a multiple. -/
def multipleOf (base sub : Nat) : Option Nat :=
  match base, sub with
  | 0x4120, 8 => some 64
  | 0x4130, 1 => some 64
  | 0x4130, 5 => some 64
  | 0x6140, 1 => some 64
  | 0x6150, 1 => some 64
  | 0x6150, 2 => some 64
  | 0x6150, 5 => some 64
  | 0x6150, 7 => some 64
  | 0x6150, 10 => some 64
  | 0x6160, 1 => some 64
  | 0x6160, 3 => some 64
  | 0x6170, 1 => some 64
  | 0x7100, 1 => some 64
  | 0x8100, 1 => some 64
  | 0x8100, 3 => some pageBytes
  | _, _ => none

/-- Entries whose value must be a power of two (R300). -/
def powerOfTwo (base sub : Nat) : Bool :=
  (base, sub) == (0x6160, 2) || (base, sub) == (0x6160, 4) || (base, sub) == (0x6170, 2)

def isPow2 (n : Nat) : Bool := n != 0 && n &&& (n - 1) == 0

/-! ### Descriptors (R334) -/

/-- PERSISTENT entries (R322, R337, R339, R353, R360, R398). -/
def Row.persistent (r : Row) (index : Nat) : Bool :=
  (0x2000 ≤ index && index < 0x2C00) || (0x2C01 ≤ index && index < 0x3000) ||
    (index == 0x3000 && r.sub == 2) || (r.base == 0x3100 && r.sub == 4) ||
    (index == 0x8000 && r.sub == 6) || (index == 0x8300 && r.sub != 0) ||
    (index == 0xA040 && 1 ≤ r.sub && r.sub ≤ 7)

/-- A correctable entry of the Almanac (R339). -/
def Row.layered (r : Row) : Bool := 0x2000 ≤ r.base && r.base < 0x2400 && r.sub == 1

/-- The vectors a slot's ring may name (R300). -/
def State.vectorMax (s : State) (c : Slot) : Nat := match s.host.serves c with | .pf => 63 | .vf _ => 3

/-- MIN and MAX, where they bind. (open points: DEDUCED, log entry 66) -/
def State.bounds (s : State) (r : Row) (index : Nat) : Option (Nat × Nat) :=
  if r.layered then
    some ((Config.almanacMin (256 * index + 1)).toNat, (Config.almanacMax (256 * index + 1)).toNat)
  else if r.base = 0x3100 && r.sub = 2 && s.sku.blockKind (index - 0x3100) != some 0 then none
  else if r.base = 0x3100 && r.sub = 4 then
    (if s.sku.blockKind (index - 0x3100) = some 0 then some (15000, 100000) else none)
  else if r.base = 0x6160 && r.sub = 5 then some (0, s.vectorMax (Fin.ofNat 16 (index - 0x6160)))
  else rangeOf r.base r.sub

/-- DEFAULT, where the spec gives one. (open points: DEDUCED, log entry 66) -/
def State.default? (s : State) (r : Row) (index : Nat) : Option Nat :=
  let d := s.sku.dies
  match r.base, r.sub with
  | 0x1000, 5 => some d
  | 0x1000, 6 => some (64 * d)
  | 0x3000, 1 => some (19 * d + 1)
  | 0x3000, 2 => some (sumNat s.blockMax s.sku.blocks)
  | 0x3100, 4 => some (s.blockMax (index - 0x3100))
  | 0x5000, 2 => some (171008 * d)
  | 0x5000, 3 => some (3000000 * d)
  | 0x8000, 1 => some (4 * d)
  | _, _ => if r.sub = 0 then some (s.sku.highest index) else r.dflt

def asciiBytes (t : String) : Bytes := t.toList.map (fun c => BitVec.ofNat 8 c.toNat)

/-- The 64 bytes of a descriptor; a DEFAULT or NAME the spec does not give is free.
(open points: DEDUCED, log entry 66) -/
def State.describe (s : State) (r : Row) (index : Nat) : State × Bytes :=
  let f := fun (b : Bool) (n : Nat) => if b then n else 0
  let bd := s.bounds r index
  let flags := f (r.persistent index) 1 + f r.layered 2 + f (r.span == .slots) 4 + f bd.isSome 8
  let (s, dflt) := match s.default? r index with
    | some v => (s, natLe 8 v)
    | none => let q := s.draw; (q.1, bvLe 8 q.2)
  let (s, name) := if r.name.isEmpty then s.drawBytes 32
    else (s, padTo 32 (asciiBytes r.name))
  (s, natLe 1 r.typ ++ natLe 1 r.acc ++ natLe 1 flags ++ natLe 1 r.unit ++ natLe 4 r.size ++
    natLe 8 (match bd with | some q => q.1 | none => 0) ++ natLe 8 (match bd with | some q => q.2 | none => 0) ++
    dflt ++ name)

/-! ### Rights (R118, R336, R349, R350, R355) -/

/-- A fabric source with management rights. (open points: DEDUCED, log entry 19) -/
def CatState.peer (k : CatState) (die : BitVec 20) : Bool :=
  (List.range 16).any (fun i => field k.peers (4 * i) 4 == die.toNat)

/-- The slot of an entry in a per-slot range. (open points: DEDUCED, log entry 19) -/
def Row.slot? (r : Row) (index : Nat) : Option Slot :=
  if r.span = .slots then some (Fin.ofNat 16 (index - r.base)) else none

/-- Watch records a VF may reach: cores its slot binds, and collective engines of dies where it holds an endpoint. -/
def State.watchRight (s : State) (c : Slot) (r : Row) (index : Nat) : Bool :=
  if r.base = 0x4400 then (s.ctx c).groups.getLsbD ((index - 0x4400) / 8)
  else !((s.ctx c).endpointsOn (index - 0x4600)).isEmpty

/-- Module-wide indices closed to VFs. -/
def vfClosed (r : Row) (index : Nat) : Bool :=
  (0x4400 ≤ index && index ≤ 0x46FF) || (0x6020 ≤ index && index ≤ 0x60FF) || (index == 0x8000 && r.sub == 2) ||
    (0xA000 ≤ index && index ≤ 0xAFFF)

/-- Open points: DEDUCED, log entry 19. -/
def State.mayRead (s : State) (ch : Channel) (r : Row) (index : Nat) : Bool :=
  match ch with
  | .pf => true
  | .mgmt _ _ => true
  | .fabric d => s.cat.peer d || (r.span != .slots && r.acc == 0)
  | .vf c =>
    match r.slot? index with
    | some x => x == c
    | none => if r.base = 0x4400 || r.base = 0x4600 then s.watchRight c r index else !vfClosed r index

/-- A channel may write an entry, an authorisation aside. (open points: DEDUCED, log entry 19) -/
def State.mayWrite (s : State) (ch : Channel) (r : Row) (index : Nat) : Bool :=
  r.acc != 0 &&
  match ch, r.writer with
  | _, 3 => true
  | .pf, _ => true
  | .mgmt _ _, _ => true
  | .fabric d, 0 => s.cat.peer d
  | .fabric _, _ => false
  | .vf c, 1 => r.slot? index == some c
  | .vf c, 4 => s.watchRight c r index
  | .vf c, 5 => s.bindsBlock c (index - 0x3100)
  | .vf _, _ => false

/-- The first operator key is installed without a token (R398). -/
def State.tokenless (s : State) (ch : Channel) (r : Row) : Bool :=
  r.base == 0xA040 && 1 ≤ r.sub && r.sub ≤ 4 && s.sec.keyless &&
    (match ch with | .pf => true | .mgmt _ _ => true | _ => false)

/-- A record that is written whole: a WO one, and `fw_stage_request`, whose write counts as one (R346, R411). -/
def Row.whole (r : Row) : Bool := r.typ == 9 && (r.acc == 2 || (r.base == 0xA050 && r.sub == 2))

/-- An RWS entry is written under an authorisation in scope; the answer is its identifier. -/
def State.signedBy (s : State) (ch : Channel) (r : Row) (index : Nat) : Option U64 :=
  match s.authIn ch (BitVec.ofNat 16 index) with
  | some a => some a.tokenId
  | none => if s.tokenless ch r then some 0 else none

/-! ### What is served before Ready (R407, R410) -/

/-- The entry is open to a request in this part of the module's life; `op`: the operation. Before Ready the catalogue
serves only the management port and the mailboxes. (open points: DEDUCED, log entry 18) -/
def Life.serves (l : Life) (ch : Channel) (op : Nat) (index sub : Nat) (moduleRo : Bool) : Bool :=
  (l.open || !isFabric ch) &&
  match l with
  | .ready => true
  | .stopped => true
  | .recovery =>
    (op == 1 && (index == 0x1000 || index == 0x9000 || (0xA001 ≤ index && index ≤ 0xA008) ||
      (index == 0xA050 && sub == 4))) || (op == 2 && index == 0xA050 && sub == 7)
  | .off => false
  | _ => (op == 1 && moduleRo) || ((op == 1 || op == 2 || op == 3) && (index == 0x9000 || index == 0xA050))

end Sys2Proof.Machine
end

