-- ==== Sys2Proof/Machine/Entries.lean ====
section
/-! DEFINITION. The value of every catalogue entry, chapter by chapter (R332, R338). -/

namespace Sys2Proof.Machine

/-! ### Identity and capabilities (R342, R343) -/

def Sku.code : Sku → String
  | .dk2 => "DK2-0720"
  | .dk4 => "DK4-1440"
  | .dk8 => "DK8-2880"

/-- Spares of a die that are neither used nor failed (R342). -/
def State.sparesLeft (s : State) (d : Nat) : Nat :=
  if d < s.sku.dies then 4 - (s.res.sparesUsed.filter (fun x => x / 4 == d)).length else 0

/-- ID and body of record k of the chain. -/
def State.capBody (s : State) (k : Nat) : Bytes :=
  match k with
  | 0 => natLe 1 s.sku.dies ++ [64] ++ natLe 2 s.sku.cores
  | 1 => (List.range 8).flatMap (fun d => natLe 1 (s.sparesLeft d))
  | 4 => [3]
  | 5 => natLe 4 3000000
  | 6 => [16]
  | 7 => natLe 2 1
  | 8 => [7]
  | _ => []

def State.capRecord (s : State) (k : Nat) : Bytes :=
  let b := s.capBody k
  padTo 64 (natLe 2 (k + 1) ++ natLe 2 1 ++ natLe 2 b.length ++ natLe 2 (if k = 8 then 0 else 0x1101 + k) ++ b)

def State.identity (s : State) (sub : Nat) : Option Bytes :=
  match sub with
  | 1 => some (bvLe 16 Config.serial)
  | 2 => some (asciiBytes s.sku.code)
  | 3 => some [0xB0]
  | 4 => some (bvLe 4 s.firmwareRelease)
  | 5 => some (natLe 1 s.sku.dies)
  | 6 => some (natLe 2 s.sku.cores)
  | 7 => some (bvLe 6 Config.macAddress)
  | 8 => some (bvLe 4 s.ident.powerCycles)
  | 9 => some (bvLe 8 s.ident.operatingMs)
  | _ => none

/-! ### Power and energy (R360, R366) -/

def boolNat (b : Bool) : Nat := if b then 1 else 0

def State.powerEntry (s : State) (sub : Nat) : Option Bytes :=
  match sub with
  | 1 => some (natLe 2 s.sku.blocks.length)
  | 2 => some (natLe 4 s.capOf)
  | 3 => some (natLe 4 s.envelopeSum)
  | 4 => some (natLe 4 (s.sku.blocks.filter (fun b => (s.block b).held)).length)
  | _ => none

/-- Open points: DESIGN CHOICE, log entry 34. -/
def rampShown (r : Option RampLimit) : U32 := match r with | some x => x.shown | none => 0xFFFFFFFF

def State.blockEntry (s : State) (b sub : Nat) : Option Bytes :=
  let x := s.block b
  let group := s.sku.blockKind b == some 0
  match sub with
  | 1 => some (natLe 1 ((s.sku.blockKind b).getD 0))
  | 2 => some (if group then bvLe 1 x.point else [0xFF])
  | 3 => some (if group then bvLe 1 (s.pointInForce b) else [0xFF])
  | 4 => some (natLe 4 (s.envelopeOf b))
  | 5 => some (natLe 4 (s.blockMax b))
  | 6 => some (natLe 4 (s.limitNow b))
  | 7 => some (bvLe 1 x.cause)
  | 8 => some (bvLe 4 (rampShown x.rampModule))
  | 9 => some (bvLe 4 (rampShown x.rampContext))
  | 10 => some (bvLe 8 x.limitedMs)
  | _ => none

def State.coolingEntry (s : State) (sub : Nat) : Option Bytes :=
  let p := s.power
  match sub with
  | 1 => some (bvLe 4 p.modulePower)
  | 2 => some (natLe 8 (s.moduleUj / 1000))
  | 3 => some (natLe 8 (p.unboundUj / 1000))
  | 4 => some (bvLe 4 p.busbarMv)
  | 5 => some (bvLe 4 p.inletMc)
  | 6 => some (bvLe 4 p.outletMc)
  | 7 => some (bvLe 4 p.flowMl)
  | 8 => some (bvLe 4 p.dpPa)
  | 9 => some ((List.range 8).flatMap (fun d => bvLe 4 (if d < s.sku.dies then p.dieMc.getD d 0 else 0x80000000)))
  | 10 => some (bvLe 1 p.coolingState)
  | _ => none

def State.meterEntry (s : State) (b sub : Nat) : Option Bytes :=
  let x := s.block b
  match sub with
  | 1 => some (natLe 8 (x.energyUj / 1000))
  | 2 => some (bvLe 4 x.power)
  | 3 => some (bvLe 4 x.peak)
  | _ => none

def CtxEnergy.entry (e : CtxEnergy) (sub : Nat) : Option Bytes :=
  match sub with
  | 1 => some (natLe 8 (e.energyUj / 1000))
  | 2 => some (bvLe 8 e.tokens)
  | 3 => some (bvLe 8 e.stepEnergy)
  | 4 => some (bvLe 8 e.stepTokens)
  | 5 => some (bvLe 4 e.stepPerMwh)
  | 6 => some (bvLe 4 e.bindPerMwh)
  | 7 => some (bvLe 8 e.stepEnergy ++ bvLe 8 e.stepTokens ++ bvLe 4 e.stepPerMwh ++ bvLe 8 e.accountStep ++ zeros 4)
  | _ => none

/-! ### Memory and pool (R254, R255) -/

def DdrPosition.bytes (p : DdrPosition) : Bytes :=
  bvLe 8 p.corrected ++ bvLe 4 p.uncorrectable ++ bvLe 4 p.framesRetired ++ natLe 1 (boolNat p.retired) ++ zeros 15

def FlashDie.bytes (f : FlashDie) : Bytes :=
  natLe 8 8000000000000 ++ bvLe 1 f.sparePct ++ bvLe 1 f.wearPct ++ zeros 6 ++ bvLe 8 f.readRetries ++
    bvLe 4 f.readFails ++ zeros 4 ++ bvLe 8 f.bytesWritten

/-- Open points: DESIGN CHOICE, log entry 20. -/
def PoolResult.bytes (r : PoolResult) : Bytes :=
  bvLe 4 r.seq ++ bvLe 2 r.status ++ bvLe 1 r.state ++ [0] ++ bvLe 4 r.pages ++ zeros 4 ++ bvLe 8 r.address ++
    zeros 8

def State.memoryEntry (s : State) (sub : Nat) : Option Bytes :=
  match sub with
  | 1 => some (natLe 4 pageBytes)
  | 2 => some (natLe 4 s.ddrPool)
  | 3 => some (natLe 4 s.flashPool)
  | 4 => some (natLe 4 (sumNat s.ddrFreeOn (List.range s.sku.dies)))
  | 5 => some (natLe 4 (s.flashPool - sumNat s.flashUsedOn (List.range s.sku.dies) - s.imagePages))
  | 6 => some (natLe 4 s.admitted)
  | 7 => some (natLe 4 s.pinAdmitted)
  | 8 => some (natLe 4 s.imagePages)
  | 9 => some (bvLe 2 s.tiers.scrubPeriod)
  | 10 => some (bvLe 4 s.tiers.scrubPasses)
  | _ => none

def Ctx.poolEntry (x : Ctx) (sub : Nat) : Option Bytes :=
  match sub with
  | 1 => some (bvLe 4 x.pool.floorDdr)
  | 2 => some (bvLe 4 x.pool.floorFlash)
  | 3 => some (natLe 4 x.allocatedPages)
  | 4 => some (natLe 4 (x.pagesWhere (fun p => p.tier.isPlate)))
  | 5 => some (natLe 4 (x.pagesWhere (fun p => p.tier.isDdr)))
  | 6 => some (natLe 4 (x.pagesWhere (fun p => p.tier.isFlash)))
  | 7 => some (natLe 4 x.pinnedPages)
  | 8 => some (zeros 32)
  | 9 => some x.pool.result.bytes
  | 10 => some (bvLe 8 x.pool.evicted)
  | 11 => some (bvLe 8 x.pool.unmapped)
  | 12 => some (natLe 4 x.residentWaiting.length)
  | _ => none

/-! ### Contexts (R277, R278, R286, R292) -/

/-- Groups no slot binds, on dies in service. -/
def State.freeGroups (s : State) : Nat :=
  ofBits ((List.range s.sku.groups).filter (fun g => (s.groupOwner g).isNone && s.dieRuns (g / 8)))

/-- Open points: DEDUCED, log entry 67. -/
def State.contextsEntry (s : State) (sub : Nat) : Option Bytes :=
  match sub with
  | 1 => some [16]
  | 2 => some (zeros 16)
  | 3 => some (bvLe 4 s.res.slotSeq ++ bvLe 2 s.res.slotStatus ++ bvLe 2 s.res.slotId)
  | 4 => some [0]
  | 5 => some s.res.rebindStatus.bytes
  | 6 => some (zeros 16)
  | 7 => some s.repairBytes
  | 8 => some (natLe 8 (sumNat (fun c => (s.ctx c).staleDiscards.toNat) slots))
  | 9 => some (natLe 8 s.freeGroups)
  | _ => none

def CtxState.code : CtxState → Nat
  | .free => 0 | .bound => 1 | .rebinding => 2 | .paused => 3 | .releasing => 4

def State.slotEntry (s : State) (c : Slot) (sub : Nat) : Option Bytes :=
  let x := s.ctx c
  match sub with
  | 1 => some (bvLe 2 (s.ctxId c))
  | 2 => some (natLe 1 x.st.code)
  | 3 => some (bvLe 8 x.groups)
  | 4 => some (bvLe 20 x.slices)
  | 5 => some (bvLe 16 x.endpoints)
  | 6 => some (natLe 1 (match x.st, x.servingDie with | .free, _ => 0xFF | _, some d => d | _, none => 0xFF))
  | 7 => some (bvLe 8 x.staleDiscards)
  | _ => none

def State.coresEntry (s : State) (d sub : Nat) : Option Bytes :=
  match sub with
  | 1 => some ((List.range 64).flatMap (fun n => bvLe 1 (kvGetD s.res.coreMap (64 * d + n) (BitVec.ofNat 8 n))))
  | 2 => some (natLe 8 (ofBits ((List.range 64).filter (fun n => s.res.coresFailed.contains (64 * d + n)))))
  | _ => none

/-! ### Lists, training support, rings (R191, R213, R223, R229, R300) -/

/-- Pages a capture still lacks, or a restore still has to read. -/
def State.snapLeft (s : State) (c : Slot) : Nat :=
  let t := (s.ctx c).train
  match s.images.find? (fun i => i.id == t.snap.imageId) with
  | none => 0
  | some i => if !i.committed then i.left.length else if t.restoring.isSome then i.pages else 0

def State.snapBytes (s : State) (c : Slot) : Bytes :=
  let r := (s.ctx c).train.snap
  bvLe 4 r.imageId ++ bvLe 1 r.state ++ [0] ++ bvLe 2 r.status ++ bvLe 8 r.step ++ bvLe 8 r.bytes ++
    natLe 8 (s.snapLeft c)

/-- Open points: DESIGN CHOICE, log entry 20. -/
def State.trainEntry (s : State) (c : Slot) (sub : Nat) : Option Bytes :=
  match sub with
  | 4 => some (natLe 8 (s.stashHeld c))
  | 8 => some (zeros 32)
  | 9 => some (s.ctx c).train.replayResult
  | 12 => some (zeros 32)
  | 13 => some (s.snapBytes c)
  | _ => none

/-- Subindex 3 to 9 of 0x6160+c, 1 to 7 of 0x6170: the entries of a completion ring, from 0. -/
def CmplRing.entry (r : CmplRing) (k : Nat) : Option Bytes :=
  match k with
  | 0 => some (bvLe 8 r.base)
  | 1 => some (bvLe 4 r.entries)
  | 2 => some (bvLe 1 r.vector)
  | 3 => some (bvLe 2 r.modCount)
  | 4 => some (bvLe 2 r.modTime)
  | 5 => some (bvLe 8 r.dropped)
  | 6 => some (natLe 2 r.backlog.length)
  | _ => none

def Ctx.ringEntry (x : Ctx) (sub : Nat) : Option Bytes :=
  match sub with
  | 1 => some (bvLe 8 x.sub.base)
  | 2 => some (bvLe 2 x.sub.entries)
  | 10 => some (bvLe 8 x.sub.window)
  | k => x.ring.entry (k - 3)

def State.pfEntry (s : State) (sub : Nat) : Option Bytes :=
  match sub with
  | 10 => some (bvLe 1 s.host.windowSlot)
  | 11 => some (bvLe 8 s.host.windowBase)
  | k => s.host.ring.entry (k - 1)

/-! ### Meridian and Ephemeris (R259, R274) -/

/-- `tick_code` reads a code that waits for its boundary, and a root names itself.
(open points: DEDUCED, log entry 67) -/
def State.meridianEntry (s : State) (sub : Nat) : Option Bytes :=
  let m := s.mer
  match sub with
  | 1 => some (bvLe 1 m.role)
  | 2 => some (bvLe 1 ((m.laterCode.or m.nextCode).getD m.tickCode))
  | 3 => some (bvLe 8 m.count)
  | 4 => some (bvLe 1 m.state)
  | 5 => some (natLe 4 (m.holdover / 4))
  | 6 => some (bvLe 4 (if m.role = 1 then s.rootAddress else m.root))
  | 7 => some (bvLe 4 m.lastCorrection)
  | 8 => some (bvLe 8 m.missed)
  | 9 => some (bvLe 4 m.changes)
  | 10 => some (bvLe 8 m.start)
  | _ => none

def EphRing.entry (e : EphRing) (sub : Nat) : Option Bytes :=
  match sub with
  | 1 => some (bvLe 8 e.base)
  | 2 => some (bvLe 4 e.tolerance)
  | 3 => some (bvLe 8 e.fired)
  | 4 => some (bvLe 8 e.late)
  | 5 => some (bvLe 8 e.missed)
  | 6 => some (bvLe 8 e.discarded)
  | _ => none

def ModuleRing.entry (e : ModuleRing) (sub : Nat) : Option Bytes :=
  match sub with
  | 1 => some (natLe 2 e.pending.length)
  | 2 => some (zeros 64)
  | 3 => some (bvLe 4 e.tolerance)
  | 4 => some (bvLe 8 e.fired)
  | 5 => some (bvLe 8 e.late)
  | 6 => some (bvLe 8 e.missed)
  | 7 => some (bvLe 8 e.discarded)
  | 8 => some e.sample
  | _ => none

/-! ### Fabric and transport (R331, R353) -/

/-- Bytes of the route table from an offset: entry m is the U16 at 2m. -/
def Fabric.routeBytes (f : Fabric) (off n : Nat) : Bytes :=
  let lo := off / 2
  slice ((List.range ((off + n + 1) / 2 - lo)).flatMap (fun i => bvLe 2 (kvGetD f.routes (lo + i) 0))) (off % 2) n

def State.fabricEntry (s : State) (sub off n : Nat) : Option Bytes :=
  let f := s.fab
  match sub with
  | 1 => some (natLe 1 s.sku.ports)
  | 2 => some (f.routeBytes off n)
  | 3 => some (bvLe 4 f.routeWrites)
  | 4 => some (bvLe 2 f.collTimeout)
  | 5 => some (bvLe 8 f.dropped)
  | 6 => some (bvLe 4 f.moduleNumber)
  | _ => none

def CtxFabric.entry (f : CtxFabric) (sub : Nat) : Option Bytes :=
  match sub with
  | 1 => some (bvLe 8 f.groupBase)
  | 2 => some (bvLe 2 f.groupEntries)
  | 3 => some (bvLe 8 f.apertureBase)
  | 4 => some f.apertureMap
  | 5 => some (bvLe 8 f.dropped)
  | _ => none

def Port.bytes (p : Port) : Bytes :=
  bvLe 1 p.state ++ bvLe 1 p.width ++ bvLe 1 p.live ++ [0] ++ bvLe 4 p.peer ++ bvLe 4 p.delayNs ++
    bvLe 4 p.retrains ++ bvLe 8 p.corrected ++ bvLe 4 p.uncorrectable ++ bvLe 4 p.replays

def CatState.entry (k : CatState) (sub : Nat) : Option Bytes :=
  match sub with
  | 1 => some k.ipv6
  | 2 => some (bvLe 1 k.prefixLen)
  | 3 => some k.gateway
  | 4 => some k.allowed
  | 5 => some k.peers
  | 6 => some (bvLe 8 k.mgmtDiscarded)
  | _ => none

/-! ### Logbook, security, bring-up (R382, R390 to R398, R411) -/

def State.logEntry (s : State) (ch : Channel) (sub : Nat) : Option Bytes :=
  let l := s.log
  match sub with
  | 1 => some (natLe 4 131072)
  | 2 => some (natLe 4 2097152)
  | 3 => some (bvLe 8 l.nextSeq)
  | 4 => some (bvLe 8 l.oldest)
  | 5 => some (bvLe 8 (s.chan ch).readFrom)
  | 7 => some (bvLe 1 (s.chan ch).readSeverity)
  | 8 => some ((List.range 4).flatMap (fun i => bvLe 8 (l.written.getD i 0)))
  | 9 => some ((List.range 4).flatMap (fun i => bvLe 4 (l.dropped.getD i 0)))
  | 10 => some (bvLe 4 l.torn)
  | 11 => some (natLe 4 l.mirrorQueue.length)
  | 12 => some (bvLe 8 l.mirrorLost)
  | 13 => some (bvLe 1 l.clearMask)
  | 14 => some ((List.range 4).flatMap (fun i => bvLe 8 (l.watermarks.getD i 0)))
  | 15 => some (natLe 1 (boolNat l.holdupReady))
  | _ => none

def State.securityEntry (s : State) (index sub : Nat) : Option Bytes :=
  let x := s.sec
  match index, sub with
  | 0xA000, 1 => some (bvLe 4 x.rollback)
  | 0xA000, 2 => some (bvLe 4 x.raiseValue)
  | 0xA010, 1 => some (bvLe 64 Config.identityKey)
  | 0xA010, 2 => some (natLe 32768 Config.certificate)
  | 0xA010, 3 => some (bvLe 64 Config.caKey)
  | 0xA020, 9 => some (bvLe 4 x.events)
  | 0xA020, 10 => some (zeros 64)
  | 0xA020, k => some (padTo 64 (x.measurements.getD (k - 1) []))
  | 0xA030, 1 => some (zeros 72)
  | 0xA030, 2 => some x.attest.bytes
  | 0xA030, 3 => some (padTo 50496 x.attest.report)
  | 0xA040, 5 => some (bvLe 64 Config.serviceKey)
  | 0xA040, 6 => some (natLe 1 (boolNat x.serviceEnabled))
  | 0xA040, 7 => some (bvLe 8 x.revokedBelow)
  | 0xA040, 8 => some (natLe 1 s.authsHeld)
  | 0xA040, k => some (padTo 64 (x.authority.getD (k - 1) []))
  | 0xA050, 1 => some [0]
  | 0xA050, 2 => some (zeros 32)
  | 0xA050, 3 => some s.boot.stageStatus.bytes
  | 0xA050, 4 => some s.boot.record.bytes
  | 0xA050, 5 => some (bvLe 4 s.boot.supervisorRelease)
  | 0xA050, 6 => some (bvLe 1 s.res.notStarted)
  | 0xA050, 7 => some []
  | _, _ => none

/-! ### Any entry -/

/-- A learned result; one of an absent position or port reads zero (R411). -/
def State.learnedValue (s : State) (r : Row) (index : Nat) : Bytes :=
  if (r.base = 0x2C10 && s.sku.positions ≤ index - r.base) || (r.base = 0x2C40 && s.sku.ports ≤ index - r.base)
  then zeros r.size
  else s.learnedEntry index r.size

/-- The value of an entry for a channel, or `none` where the spec states none. Of `route_table` only the bytes from
`off` on; of any other entry, all. (open points: DEDUCED, log entry 67) -/
def State.valueOf (s : State) (ch : Channel) (r : Row) (index off n : Nat) : Option Bytes :=
  let u := index - r.base
  let c : Slot := Fin.ofNat 16 u
  let x := s.ctx c
  if r.sub = 0 then some (natLe 1 (s.sku.highest index))
  else match r.base with
  | 0x1000 => s.identity r.sub
  | 0x1100 => some (s.capRecord u)
  | 0x2C00 => some (if r.sub = 2 then natLe 1 (boolNat s.cat.learnedValid) else bvLe 1 s.cat.clearCode)
  | 0x3000 => s.powerEntry r.sub
  | 0x3100 => s.blockEntry u r.sub
  | 0x4010 => some (bvLe 1 (s.ctx (Fin.ofNat 16 (r.sub - 1))).num.stale)
  | 0x4140 =>
    (match r.sub with
     | 3 => some (bvLe 8 x.num.seedInForce)
     | 4 => some (bvLe 1 x.num.modeInForce)
     | k => ((x.settings x.stream.openStep 0).find? (fun q => q.1 == 0x4140 && q.2.1 == k)).map (fun q => natLe r.size q.2.2))
  | 0x4400 => some (s.watchOf (watchKey u (r.sub - 1))).bytes
  | 0x4600 => some (s.watchOf (watchKey u 7)).bytes
  | 0x5000 => s.memoryEntry r.sub
  | 0x5100 => x.poolEntry r.sub
  | 0x5200 => some (s.position u).bytes
  | 0x5300 => some (s.flashDie u).bytes
  | 0x6000 => s.contextsEntry r.sub
  | 0x6010 => s.slotEntry c r.sub
  | 0x6020 => s.coresEntry u r.sub
  | 0x6080 => some (s.res.plan u)
  | 0x6160 => x.ringEntry r.sub
  | 0x6170 => s.pfEntry r.sub
  | 0x7000 => s.meridianEntry r.sub
  | 0x7100 => x.eph.entry r.sub
  | 0x7200 => s.modRing.entry r.sub
  | 0x8000 => s.fabricEntry r.sub off n
  | 0x8100 => x.fab.entry r.sub
  | 0x8200 => some (s.port u).bytes
  | 0x8300 => s.cat.entry r.sub
  | 0x9000 => s.logEntry ch r.sub
  | 0xA001 => some (s.fwSlots u).bytes
  | 0xB000 => s.coolingEntry r.sub
  | 0xB100 => s.meterEntry u r.sub
  | 0xB400 => x.energy.entry r.sub
  | b =>
    if 0x2000 ≤ b && b < 0x2400 then some (bvLe 4 (s.effective index))
    else if 0x2800 ≤ b && b < 0x2C00 then some (s.correction (index - 0x800)).bytes
    else if 0x2C01 ≤ b && b < 0x3000 then some (s.learnedValue r index)
    else if b = 0x6140 && r.sub = 5 then some (bvLe 8 x.stream.openStep)
    else if b = 0x6150 && (s.trainEntry c r.sub).isSome then s.trainEntry c r.sub
    else if 0xA000 ≤ b then s.securityEntry index r.sub
    else ((x.settings x.stream.openStep 0).find? (fun q => q.1 == b && q.2.1 == r.sub)).map (fun q => natLe r.size q.2.2)

/-- The bytes of an entry from an offset; where the spec states no value they are free. -/
def State.readValue (s : State) (ch : Channel) (r : Row) (index off n : Nat) : State × Bytes :=
  match s.valueOf ch r index off n with
  | some b =>
    if r.base = 0x8000 && r.sub = 2 then (s, b)
    else if r.typ = 7 then (s, (b.drop off).take n)
    else (s, slice b off n)
  | none => let q := s.drawBytes r.size; (q.1, slice q.2 off n)

/-- The trailer of a layered read (R340). -/
def State.trailer (s : State) (index : Nat) : Bytes :=
  bvLe 8 (almanacOf index) ++ (s.correction index).bytes

end Sys2Proof.Machine
end

