-- ==== Sys2Proof/Machine/Writes.lean ====
section
/-! DEFINITION. What a write of each catalogue entry does, with the checks of the owning chapters (R346, R347). -/

namespace Sys2Proof.Machine

/-! ### The value a write brings -/

/-- Bytes of a value that a transfer covers, by offset; a later entry for an offset stands over an earlier one. -/
abbrev Cover := List (Nat × Byte)

def coverAt (off : Nat) (b : Bytes) : Cover := (List.range b.length).map (fun i => (off + i, b.getD i 0))

/-- A value with the covered bytes in place. -/
def Cover.into (v : Cover) (old : Bytes) : Bytes := v.foldl (fun b x => b.set x.1 x.2) old

def Cover.has (v : Cover) (k : Nat) : Bool := v.any (fun x => x.1 == k)

/-- Every byte below `n` is covered. -/
def Cover.full (v : Cover) (n : Nat) : Bool := (List.range n).all v.has

/-- Scalars (R333). -/
def Row.scalar (r : Row) : Bool := r.typ ≤ 6

/-- Check 5 of R346. -/
def Row.shapeOk (r : Row) (v : Cover) : Bool :=
  if r.scalar then v.length == r.size && v.full r.size
  else if r.whole then v.full r.size
  else true

/-! ### Check 6 on scalars (R333, R346) -/

/-- A positive normal FP32 (R92). -/
def normalF (v : Nat) : Bool := 2 ^ 23 ≤ v && v < 255 * 2 ^ 23

/-- Ranges that MIN and MAX do not express. -/
def specialOk (base sub v : Nat) : Bool :=
  match base, sub with
  | 0x4120, 2 => normalF v
  | 0x4120, 9 => v / 65536 ≤ 4096 && v % 65536 ≤ 16384
  | 0x8000, 6 => v ≤ 131071 || v == 0xFFFFFFFF
  | b, k => !powerOfTwo b k || isPow2 v

def State.scalarCheck (s : State) (r : Row) (index v : Nat) : Option U16 :=
  if r.typ = 0 && 1 < v then some St.valueOutOfRange
  else if r.typ = 6 && isNan (BitVec.ofNat 32 v) then some St.valueOutOfRange
  else if (match multipleOf r.base r.sub with | some m => v % m != 0 | none => false) then some St.misaligned
  else if (match s.bounds r index with | some q => v < q.1 || q.2 < v | none => false) then some St.valueOutOfRange
  else if !specialOk r.base r.sub v then some St.valueOutOfRange
  else none

/-! ### User corrections (R340, R341) -/

/-- An integer or F32 effective value lies within the Almanac entry's range. (open points: DEDUCED, log entry 65) -/
def inAlmanac (i : Nat) : Int ⊕ F32 → Bool
  | .inl v => (Config.almanacMin (256 * i + 1)).toInt ≤ v && v ≤ (Config.almanacMax (256 * i + 1)).toInt
  | .inr v => leF (Config.almanacMin (256 * i + 1)) v && leF v (Config.almanacMax (256 * i + 1))

/-- A correction of Almanac entry `i` is written. (open points: DEDUCED, log entry 65) -/
def State.writeCorrection (s : State) (i : Nat) (b : Bytes) : State × U16 :=
  let f32 := s.sku.almanac.any (fun p => p.1 == i && p.2)
  let x : Correction := { mode := fieldBv 8 b 0 1, value := fieldBv 32 b 8 4, written := s.ident.powerCycles }
  if 3 < x.mode.toNat || (x.mode = 3 && !f32) then (s, St.valueOutOfRange)
  else if x.mode != 0 && !inAlmanac i (corrected f32 (almanacOf i) x) then (s, St.valueOutOfRange)
  else
    ((s.modCat (fun k => { k with corrections := kvSet k.corrections (256 * i + 1) x })).extendUser, St.ok)

/-- Every correction returns to MODE 0. -/
def State.clearUser (s : State) : State :=
  (s.modCat (fun k => { k with corrections := k.corrections.map (fun q => (q.1, { q.2 with mode := 0 })) })).extendUser

/-- Learned corrections are discarded; the next start is cold. -/
def State.clearLearned (s : State) : State := s.modCat (fun k => { k with learnedValid := false, learned := [] })

/-- A write of `corrections_clear`; it is what a read of it returns (R9). (open points: DEDUCED, log entry 65) -/
def State.clearCorrections (s : State) (v : Nat) : State :=
  let s := s.modCat (fun k => { k with clearCode := BitVec.ofNat 8 v })
  match v with
  | 1 => s.clearUser
  | 2 => s.clearLearned
  | _ => s.clearUser.clearLearned

/-! ### Engine watch flags (R117, R118) -/

/-- Bits written 1 clear; so does VALID of FIRST_FAULT, and its RO fields stay (R120). -/
def EngineWatch.clearBits (w : EngineWatch) (v : Cover) : EngineWatch :=
  let b := v.into (zeros 64)
  { w with
    flags := w.flags &&& ~~~ (fieldBv 4 b 0 1)
    valid := w.valid && !(fieldBv 8 b 45 1).getLsbD 7 }

/-! ### Rings and windows (R264, R298, R300 to R304) -/

/-- A write of `submit_ring_base`: SUB_HEAD and CMP_TAIL are read afresh from the header, and CMP_HEAD with them. The
completion ring stays in the pass it is in, so PHASE goes on alternating (R304).
(open points: DEDUCED, log entry 21) -/
def State.writeSubBase (s : State) (c : Slot) (base : U64) : State :=
  let h := s.ringBytes c base.toNat 64
  let head := fieldBv 32 h 4 4
  let tail := fieldBv 32 h 12 4
  s.modCtx c (fun x =>
    let done := fieldBv 32 h 8 4
    { x with
      sub := { x.sub with base := base, head := head, pos := head, ignored := [], ignoredHead := [] }
      ring := if base = 0 then x.ring else { x.ring with
        cmpTail := tail
        cmpHead := if (tail - done).toNat ≤ x.ring.entries.toNat then done else tail
        posted := x.ring.posted / x.ring.entries.toNat * x.ring.entries.toNat + tail.toNat % x.ring.entries.toNat } })

/-- An entry of a completion ring, from 0: base, entries, vector, moderation. A new base begins a first pass (R304).
(open points: DEDUCED, log entry 21) -/
def CmplRing.write (r : CmplRing) (k v : Nat) : CmplRing :=
  match k with
  | 0 => { r with base := BitVec.ofNat 64 v, posted := r.cmpTail.toNat % r.entries.toNat }
  | 1 => { r with entries := BitVec.ofNat 32 v, posted := r.cmpTail.toNat % v }
  | 2 => { r with vector := BitVec.ofNat 8 v }
  | 3 => { r with modCount := BitVec.ofNat 16 v }
  | 4 => { r with modTime := BitVec.ofNat 16 v }
  | _ => r

/-- A window base: a multiple of the BAR2 size whose window ends within the range. -/
def State.windowCheck (s : State) (vf : Bool) (v : Nat) : Option U16 :=
  if v % s.bar2Size vf != 0 then some St.misaligned
  else if rangeBytes < v + s.bar2Size vf then some St.beyondBound
  else none

def State.writeSlotRing (s : State) (c : Slot) (sub v : Nat) : State × U16 :=
  match sub with
  | 1 => (s.writeSubBase c (BitVec.ofNat 64 v), St.ok)
  | 2 => (s.modSub c (fun x => { x with entries := BitVec.ofNat 16 v }), St.ok)
  | 10 =>
    match s.windowCheck true v with
    | some st => (s, st)
    | none => (s.modSub c (fun x => { x with window := BitVec.ofNat 64 v }), St.ok)
  | k => (s.setRing (.ctx c) (((s.ctx c).ring).write (k - 3) v), St.ok)

def State.writePfRing (s : State) (sub v : Nat) : State × U16 :=
  match sub with
  | 1 => (s.modHost (fun h => { h with ring := { (h.ring.write 0 v) with cmpTail := 0, posted := 0 } }), St.ok)
  | 10 => (s.modHost (fun h => { h with windowSlot := BitVec.ofNat 8 v }), St.ok)
  | 11 =>
    match s.windowCheck false v with
    | some st => (s, st)
    | none => (s.modHost (fun h => { h with windowBase := BitVec.ofNat 64 v }), St.ok)
  | k => (s.modHost (fun h => { h with ring := h.ring.write (k - 1) v }), St.ok)

/-! ### Meridian and Ephemeris (R258, R259, R264, R266, R271) -/

def State.writeMeridian (s : State) (sub v : Nat) : State × U16 :=
  match sub with
  | 1 =>
    if v = 1 && s.fab.moduleNumber = 0xFFFFFFFF then (s, St.valueOutOfRange)
    else (s.setRole (BitVec.ofNat 8 v) (!s.mer.wasSync), St.ok)
  | 2 => (s.modMer (fun m =>
      if m.count.toNat % 65536 = 0 then { m with laterCode := some (BitVec.ofNat 8 v) }
      else { m with nextCode := some (BitVec.ofNat 8 v) }), St.ok)
  | _ => (s.modMer (fun m => { m with start := BitVec.ofNat 64 v }), St.ok)

def State.writeEph (s : State) (c : Slot) (sub v : Nat) : State :=
  match sub with
  | 1 => s.modEph c (fun e => { e with base := BitVec.ofNat 64 v, fresh := true })
  | _ => s.modEph c (fun e => { e with tolerance := BitVec.ofNat 32 v })

/-! ### Fabric and transport (R320, R322, R324, R328, R353) -/

/-- The bytes of the route table that a transfer covers; an entry of zeros is not listed. -/
def routesWith (l : List (Nat × U16)) (x : Nat × Byte) : List (Nat × U16) :=
  let m := x.1 / 2
  let old := kvGetD l m 0
  let new : U16 := if x.1 % 2 = 0 then (old &&& 0xFF00) ||| x.2.setWidth 16
    else (old &&& 0x00FF) ||| (x.2.setWidth 16 <<< 8)
  if new = 0 then kvErase l m else kvSet l m new

/-- A write of `module_number` retrains every port that carries a link. -/
def State.writeModuleNumber (s : State) (v : Nat) : State × U16 :=
  if s.mer.role = 1 || slots.any (fun c => (s.ctx c).st != .free) then (s, St.valueOutOfRange)
  else
    let s := { s with fab := { s.fab with moduleNumber := BitVec.ofNat 32 v } }
    (s.upPorts.foldl (fun s n => s.retrain n) s, St.ok)

def State.writeFabric (s : State) (sub : Nat) (v : Cover) (n : Nat) : State × U16 :=
  match sub with
  | 2 => ({ s with fab := { s.fab with routes := v.foldl routesWith s.fab.routes
                                       routeWrites := s.fab.routeWrites + 1 } }, St.ok)
  | 4 => ({ s with fab := { s.fab with collTimeout := BitVec.ofNat 16 n } }, St.ok)
  | _ => s.writeModuleNumber n

/-- An aperture base: free pages of the range, or 0. (open points: DEDUCED, log entry 68) -/
def State.apertureFree (s : State) (c : Slot) (v : Nat) : Bool :=
  v = 0 || (v + 256 * pageBytes ≤ rangeBytes &&
    (List.range 256).all (fun i => ((s.ctx c).page (v / pageBytes + i)).isNone))

/-- Every REMOTE_BASE of a map is a multiple of 2 MiB. (open points: DEDUCED, log entry 68) -/
def mapAligned (b : Bytes) : Bool := (List.range 256).all (fun k => field b (16 * k + 8) 8 % pageBytes == 0)

def State.modCtxFab (s : State) (c : Slot) (f : CtxFabric → CtxFabric) : State :=
  s.modCtx c (fun x => { x with fab := f x.fab })

/-- Open points: DEDUCED, log entry 68. -/
def State.writeCtxFabric (s : State) (c : Slot) (sub : Nat) (v : Cover) (n : Nat) : State × U16 :=
  match sub with
  | 1 => (s.modCtxFab c (fun f => { f with groupBase := BitVec.ofNat 64 n, groupSeq := [] }), St.ok)
  | 2 => (s.modCtxFab c (fun f => { f with groupEntries := BitVec.ofNat 16 n }), St.ok)
  | 3 =>
    if s.apertureFree c n then (s.modCtxFab c (fun f => { f with apertureBase := BitVec.ofNat 64 n }), St.ok)
    else (s, St.valueOutOfRange)
  | _ =>
    let m := v.into (s.ctx c).fab.apertureMap
    if mapAligned m then (s.modCtxFab c (fun f => { f with apertureMap := m }), St.ok) else (s, St.misaligned)

def State.writeTransport (s : State) (sub : Nat) (v : Cover) (n : Nat) : State :=
  s.modCat (fun k =>
    match sub with
    | 1 => { k with ipv6 := v.into k.ipv6 }
    | 2 => { k with prefixLen := BitVec.ofNat 8 n }
    | 3 => { k with gateway := v.into k.gateway }
    | 4 => { k with allowed := v.into k.allowed }
    | _ => { k with peers := v.into k.peers })

/-! ### Logbook and security (R381 to R385, R392, R393, R394, R398, R407, R411) -/

def State.writeLog (s : State) (ch : Channel) (sub n : Nat) : State × U16 :=
  match sub with
  | 5 => (s.modChan ch (fun x => { x with readFrom := BitVec.ofNat 64 n }), St.ok)
  | 7 => (s.modChan ch (fun x => { x with readSeverity := BitVec.ofNat 8 n }), St.ok)
  | _ =>
    let auth := match s.authIn ch 0x9000 with | some a => a.tokenId | none => 0
    s.clearLog ch auth (BitVec.ofNat 8 n)

/-- `operator_extend`: bytes that no segment covered are free, for the entry holds none. -/
def State.operatorExtend (s : State) (v : Cover) : State :=
  let (s, base) := if v.full 64 then (s, zeros 64) else s.drawBytes 64
  s.extend 7 (fieldBv 512 (v.into base) 0 64)

/-- The image of a recovery transfer: a byte that no segment covered fails the first check. -/
def State.recoveryImage (s : State) (v : Cover) : Bytes × U16 :=
  let n := maxNat (fun (x : Nat × Byte) => x.1 + 1) v
  if v.full n then
    let img := v.into (zeros n)
    (img, verifyImage s.sec.rollback img)
  else ([], St.signatureInvalid)

def State.writeSecurity (s : State) (ch : Channel) (r : Row) (v : Cover) (b : Bytes) (n : Nat) : State × U16 :=
  match r.base, r.sub with
  | 0xA000, _ => s.raiseRollback (BitVec.ofNat 32 n)
  | 0xA020, _ => (s.operatorExtend v, St.ok)
  | 0xA030, _ => s.attestRequest ch b
  | 0xA040, k => s.writeTokenKey k b
  | 0xA050, 2 => s.stageRequest b
  | 0xA050, 7 => (s, (s.recoveryImage v).2)
  | _, _ => (s, St.ok)

/-! ### Any entry -/

/-- The VF of a channel. -/
def vfOf : Channel → Option Slot
  | .vf c => some c
  | _ => none

/-- Requests of a context slot and of the module (R220, R229, R241, R254, R277 to R289). -/
def State.writeRequest (s : State) (ch : Channel) (r : Row) (u : Nat) (b : Bytes) (n : Nat) : State × U16 :=
  let c : Slot := Fin.ofNat 16 u
  match r.base, r.sub with
  | 0x5100, 1 => s.writeFloor c true (BitVec.ofNat 32 n)
  | 0x5100, 2 => s.writeFloor c false (BitVec.ofNat 32 n)
  | 0x5100, _ =>
    let q := s.poolRequest c (PoolReq.parse b)
    (q.1.pinNew c, q.2)
  | 0x6000, 2 => s.slotRequest b
  | 0x6000, 4 => s.rebindRequest (BitVec.ofNat 8 n)
  | 0x6000, _ => s.repairRequest b
  | 0x6080, _ => (s.modRes (fun x => { x with plans := kvSet x.plans u b }), St.ok)
  | 0x6150, 8 => s.replayRequest c b
  | _, _ => s.snapshotRequest c (vfOf ch) b

/-- A write whose value passed the checks on scalars and shapes: what it does, or the status that refuses it. A module
reset and an accepted recovery image take effect after their response. -/
def State.applyWrite (s : State) (ch : Channel) (r : Row) (index : Nat) (v : Cover) : State × U16 :=
  let u := index - r.base
  let c : Slot := Fin.ofNat 16 u
  let big := (r.base == 0x8000 && r.sub == 2) || (r.base == 0xA050 && r.sub == 7) || r.base == 0x4400 ||
    r.base == 0x4600
  let b := if big then [] else v.into ((s.valueOf ch r index 0 r.size).getD (zeros r.size))
  let n := leNat b
  match r.base with
  | 0x2C00 => (s.clearCorrections n, St.ok)
  | 0x3000 => s.writeCap (BitVec.ofNat 32 n)
  | 0x3100 => if r.sub = 2 then s.writePoint u (BitVec.ofNat 8 n) else s.writeEnvelope u (BitVec.ofNat 32 n)
  | 0x4010 => (s.modCtx (Fin.ofNat 16 (r.sub - 1)) (fun x => x.setting 0x4010 1 n), St.ok)
  | 0x4400 =>
    let k := watchKey u (r.sub - 1)
    ({ s with watch := kvSet s.watch k ((s.watchOf k).clearBits v) }, St.ok)
  | 0x4600 =>
    let k := watchKey u 7
    ({ s with watch := kvSet s.watch k ((s.watchOf k).clearBits v) }, St.ok)
  | 0x5000 => ({ s with tiers := { s.tiers with scrubPeriod := BitVec.ofNat 16 n } }, St.ok)
  | 0x6160 => s.writeSlotRing c r.sub n
  | 0x6170 => s.writePfRing r.sub n
  | 0x7000 => s.writeMeridian r.sub n
  | 0x7100 => (s.writeEph c r.sub n, St.ok)
  | 0x7200 =>
    if r.sub = 2 then s.appendModuleEntry b
    else (s.modModRing (fun x => { x with tolerance := BitVec.ofNat 32 n }), St.ok)
  | 0x8000 => s.writeFabric r.sub v n
  | 0x8100 => s.writeCtxFabric c r.sub v n
  | 0x8300 => (s.writeTransport r.sub v n, St.ok)
  | 0x9000 => s.writeLog ch r.sub n
  | base =>
    if 0x2800 ≤ base && base < 0x2C00 then s.writeCorrection (index - 0x800) b
    else if 0xA000 ≤ base then s.writeSecurity ch r v b n
    else if base = 0x5100 || base = 0x6000 || base = 0x6080 || (base = 0x6150 && (r.sub = 8 || r.sub = 12)) then
      s.writeRequest ch r u b n
    else (s.modCtx c (fun x => x.setting base r.sub n), St.ok)

end Sys2Proof.Machine
end

