-- ==== Sys2Proof/Machine/Requests.lean ====
section
/-! DEFINITION. How the module supervisor serves the request at the front of its queue: the checks of R346, the
operations of R345, segments, the response (R337, R338, R344 to R351). -/

namespace Sys2Proof.Machine

/-- What a response says. -/
structure Reply where
  status : U16
  value : Bytes := []
  layered : Bool := false
  deriving DecidableEq, Repr

/-- What follows a response: a module reset (cold or not), or the start after an accepted recovery image. -/
inductive After where
  | nothing
  | reset (cold : Bool)
  | recover (img : Bytes)
  deriving DecidableEq, Repr

/-- Value bytes a transport carries (R352, R354, R355). -/
def carry : Channel → Nat
  | .pf => 4064
  | .vf _ => 4064
  | .mgmt _ _ => 1208
  | .fabric _ => 1000

/-- Check 4 of R346. (open points: DEDUCED, log entry 14) -/
def lengthStatus (ch : Channel) (blobWrite : Bool) (size len off : Nat) : Option U16 :=
  if len = 0xFFFFFFFF then some St.lengthReserved
  else if size < off + len then some (if blobWrite then St.lengthExceedsObject else St.beyondBound)
  else if carry ch < len then some St.beyondBound
  else none

/-- The part of a fixed value that a request asks for: checks 4 and the bytes. (open points: DEDUCED, log entry 14) -/
def Request.part (q : Request) (b : Bytes) : Reply :=
  match lengthStatus q.ch false b.length q.length.toNat q.offset.toNat with
  | some st => { status := st }
  | none => { status := St.ok, value := slice b q.offset.toNat q.length.toNat }

/-! ### Rights (R336, R337, R349, R350, R407, R410) -/

def moduleRo (r : Row) : Bool := r.span != .slots && r.acc == 0

/-- A READ or DESCRIBE passes check 3. (open points: DEDUCED, log entry 18) -/
def State.readAllowed (s : State) (q : Request) (r : Row) : Bool :=
  s.boot.life.serves q.ch q.op.toNat q.index.toNat q.sub.toNat (moduleRo r) && s.mayRead q.ch r q.index.toNat

/-- Entries that are closed to any write in a state of the module. -/
def State.writeOpen (s : State) (r : Row) (index : Nat) : Bool :=
  (!r.persistent index || s.dieRuns 0) &&
  match r.base, r.sub with
  | 0x3100, 2 => s.sku.blockKind (index - 0x3100) == some 0
  | 0x3100, 4 => s.sku.blockKind (index - 0x3100) == some 0
  | 0x7000, 2 => s.mer.role == 1
  | 0xA050, 1 => s.boot.life.mayReset
  | 0xA050, 7 => s.boot.life == .recovery
  | _, _ => true

/-- A WRITE passes check 3, an authorisation aside. -/
def State.writeAllowed (s : State) (q : Request) (r : Row) : Bool :=
  s.boot.life.serves q.ch 2 q.index.toNat q.sub.toNat (moduleRo r) && s.mayWrite q.ch r q.index.toNat &&
    s.writeOpen r q.index.toNat

/-- The entry a record names: index and subindex. -/
def Request.entry (q : Request) : U64 := BitVec.ofNat 64 (256 * q.index.toNat + q.sub.toNat)

/-- A write refused for want of an authorisation: at most one notice per channel in 1,000 ms (R348).
(open points: DEDUCED, log entry 15) -/
def State.refuseRws (s : State) (q : Request) : State :=
  let now := s.ident.operatingMs.toNat
  if (match (s.chan q.ch).refusedAt with | some t => decide (now < t + 1000) | none => false) then s
  else
    (s.modChan q.ch (fun x => { x with refusedAt := some now })).raise { Event.blank with
      severity := sevNotice, event := 0x800A, address := q.entry, args := chanArgs q.ch 0 [] }

/-! ### READ, DESCRIBE, NEXT_INDEX (R334, R340, R345, R381) -/

/-- A read of `read_records`. -/
def State.readLog (s : State) (q : Request) : Reply :=
  if q.offset != 0 || q.length.toNat < 128 then { status := St.valueOutOfRange }
  else
    let x := s.chan q.ch
    { status := St.ok
      value := (s.log.readRecords x.readFrom x.readSeverity (q.length.toNat / 128)).flatMap LogRec.bytes }

def State.readReq (s : State) (q : Request) : State × Reply :=
  let i := q.index.toNat
  match s.sku.row? i q.sub.toNat with
  | none => (s, { status := St.objectUnknown })
  | some r =>
    if !s.readAllowed q r then (s, { status := St.accessDenied })
    else
      match lengthStatus q.ch false r.size q.length.toNat q.offset.toNat with
      | some st => (s, { status := st })
      | none =>
        if q.length = 0 then (s, { status := St.ok })
        else if r.base = 0x9000 && r.sub = 6 then (s, s.readLog q)
        else
          let v := s.readValue q.ch r i q.offset.toNat q.length.toNat
          if r.layered then (v.1, { status := St.ok, value := v.2 ++ s.trailer i, layered := true })
          else (v.1, { status := St.ok, value := v.2 })

def State.describeReq (s : State) (q : Request) : State × Reply :=
  let i := q.index.toNat
  match s.sku.row? i q.sub.toNat with
  | none => (s, { status := St.objectUnknown })
  | some r =>
    if !s.readAllowed q r then (s, { status := St.accessDenied })
    else
      let d := s.describe r i
      (d.1, q.part d.2)

/-- The least index above `i` that the range of a row holds and the channel may read.
(open points: DEDUCED, log entry 18) -/
def State.nextIn (s : State) (ch : Channel) (i : Nat) (r : Row) : Option Nat :=
  ((List.range 512).map (fun k => r.base + k)).find? (fun x =>
    i < x && r.at s.sku x && s.mayRead ch r x && s.boot.life.serves ch 1 x r.sub (moduleRo r))

/-- The lowest existing index above `i` that the channel may read, or 0. (open points: DEDUCED, log entry 18) -/
def State.nextIndex (s : State) (ch : Channel) (i : Nat) : Nat :=
  let hits := catRows.filterMap (fun r =>
    match s.nextIn ch i (highestSub r.base r.span) with
    | some x => some x
    | none => s.nextIn ch i r)
  (hits.foldl (fun (a : Option Nat) x => match a with | none => some x | some y => some (Nat.min x y)) none).getD 0

/-! ### WRITE (R346 to R348, R350) -/

/-- The bytes of the transfer so far, with those of this segment. (open points: DEDUCED, log entry 14) -/
def State.gather (s : State) (q : Request) : Cover :=
  (match (s.chan q.ch).staged with
   | some t => if t.op == q.op && t.index == q.index && t.sub == q.sub then t.bytes else []
   | none => []) ++ coverAt q.offset.toNat q.value

def State.stage (s : State) (q : Request) : State :=
  let v := s.gather q
  s.modChan q.ch (fun x => { x with staged := some { op := q.op, index := q.index, sub := q.sub, bytes := v } })

def State.unstage (s : State) (q : Request) : State := s.modChan q.ch (fun x => { x with staged := none })

/-- The record of an accepted write of an RWS entry; a clear of the Logbook has its own (R348, R384).
(open points: DEDUCED, log entry 15) -/
def State.recordRws (s : State) (q : Request) (r : Row) (token : U64) : State :=
  if r.acc = 3 && !(r.base == 0x9000) then
    s.raise { Event.blank with event := 0x8009, address := q.entry, args := chanArgs q.ch token [] }
  else s

/-- What follows the response of an accepted write. -/
def State.afterWrite (s : State) (r : Row) (v : Cover) : After :=
  if r.base = 0xA050 && r.sub = 1 then .reset (leNat (v.into (zeros 1)) == 2)
  else if r.base = 0xA050 && r.sub = 7 then .recover (s.recoveryImage v).1
  else .nothing

/-- Checks 5 and 6 and the effect, on the whole value. (open points: DEDUCED, log entry 14) -/
def State.complete (s : State) (q : Request) (r : Row) (token : U64) (v : Cover) : State × Reply × After :=
  let i := q.index.toNat
  if !r.shapeOk v then (s, { status := St.valueOutOfRange }, .nothing)
  else
    match if r.scalar then s.scalarCheck r i (leNat (v.into (zeros r.size))) else none with
    | some st => (s, { status := st }, .nothing)
    | none =>
      let done := (s.recordRws q r token).applyWrite q.ch r i v
      if done.2 = St.ok then (done.1, { status := St.ok }, s.afterWrite r v)
      else
        let not := s.applyWrite q.ch r i v
        (not.1, { status := not.2 }, .nothing)

/-- A WRITE that passed the checks on rights; a segment beyond its BLOB discards the transfer (R347). (open points:
DEDUCED, log entry 14) -/
def State.writeEntry (s : State) (q : Request) (r : Row) (token : U64) : State × Reply × After :=
  match lengthStatus q.ch (r.typ == 8) r.size q.length.toNat q.offset.toNat with
  | some st => (if st = St.lengthExceedsObject then s.unstage q else s, { status := st }, .nothing)
  | none =>
    if q.length = 0 then (s, { status := St.ok }, .nothing)
    else if q.more then
      if r.scalar || r.typ = 7 then (s, { status := St.valueOutOfRange }, .nothing)
      else (s.stage q, { status := St.ok }, .nothing)
    else (s.unstage q).complete q r token (s.gather q)

def State.writeReq (s : State) (q : Request) : State × Reply × After :=
  let i := q.index.toNat
  match s.sku.row? i q.sub.toNat with
  | none => (s, { status := St.objectUnknown }, .nothing)
  | some r =>
    if !s.writeAllowed q r then (s, { status := St.accessDenied }, .nothing)
    else if r.acc = 3 then
      match s.signedBy q.ch r i with
      | none => (s.refuseRws q, { status := St.accessDenied }, .nothing)
      | some token => s.writeEntry q r token
    else s.writeEntry q r 0

/-! ### AUTHORISE and SUBSCRIBE (R347, R349, R351) -/

def State.authoriseReq (s : State) (q : Request) : State × Reply :=
  if !s.boot.life.open then (s, { status := St.accessDenied })
  else
    match lengthStatus q.ch false 65536 q.length.toNat q.offset.toNat with
    | some st => (s, { status := st })
    | none =>
      if q.length = 0 then (s, { status := St.ok })
      else if q.more then (s.stage q, { status := St.ok })
      else
        let v := s.gather q
        let n := maxNat (fun (x : Nat × Byte) => x.1 + 1) v
        let a := (s.unstage q).authorise q.ch (if v.full n then v.into (zeros n) else [])
        (a.1, { status := a.2 })

/-- A source's subscription is held or renewed; the ninth is refused. -/
def State.subscribe (s : State) (ch : Channel) (sev : U8) : State × U16 :=
  if 3 < sev.toNat then (s, St.valueOutOfRange)
  else if s.cat.subs.any (fun x => x.ch == ch) then
    (s.modCat (fun k => { k with
      subs := k.subs.map (fun x => if x.ch == ch then { x with severity := sev } else x) }), St.ok)
  else if 8 ≤ s.cat.subs.length then (s, St.valueOutOfRange)
  else (s.modCat (fun k => { k with subs := k.subs ++ [{ ch := ch, severity := sev, seq := 0 }] }), St.ok)

/-- Open points: DEDUCED, log entry 14. -/
def State.subscribeReq (s : State) (q : Request) : State × Reply :=
  if !s.boot.life.open || isMailbox q.ch then (s, { status := St.accessDenied })
  else
    match lengthStatus q.ch false 1 q.length.toNat q.offset.toNat with
    | some st => (s, { status := st })
    | none =>
      if q.length = 0 then (s, { status := St.ok })
      else
        let a := s.subscribe q.ch (q.value.getD 0 0)
        (a.1, { status := a.2 })

/-! ### The response (R344, R345, R352, R354, R355) -/

/-- A request executed: the state, its response, and what follows the response. -/
def State.answer (s : State) (q : Request) : State × Reply × After :=
  let plain := fun (x : State × Reply) => (x.1, x.2, After.nothing)
  if q.version != 1 then (s, { status := St.valueOutOfRange }, .nothing)
  else
    match q.op.toNat with
    | 1 => plain (s.readReq q)
    | 2 => s.writeReq q
    | 3 => plain (s.describeReq q)
    | 4 => plain (s.authoriseReq q)
    | 5 => plain (s.subscribeReq q)
    | 6 => (s, if s.boot.life.open then q.part (natLe 2 (s.nextIndex q.ch q.index.toNat)) else { status := St.accessDenied },
        .nothing)
    | _ => (s, { status := St.valueOutOfRange }, .nothing)

/-- Value bytes of a response: without the trailer. -/
def Reply.length (a : Reply) : Nat := if a.layered then a.value.length - 24 else a.value.length

/-- Open points: DEDUCED, log entry 16. -/
def Reply.message (a : Reply) (q : Request) : Bytes :=
  ralHeader (q.op.toNat % 128 + 128) q.seq q.index q.sub (if a.layered then 2 else 0) a.status a.length q.offset.toNat ++
    a.value

/-- The last 64 requests of each source are remembered. -/
def remember (l : List Remembered) (x : Remembered) : List Remembered :=
  let l := l ++ [x]
  if 64 < (l.filter (fun y => y.ch == x.ch)).length then
    match l.findIdx? (fun y => y.ch == x.ch) with
    | some i => l.eraseIdx i
    | none => l
  else l

/-- A response leaves on the channel of its request. (open points: DEDUCED, log entry 16) -/
def State.sendReply (s : State) (q : Request) (b : Bytes) : State :=
  let mailbox := fun (f : Func) => s.modMailbox f (fun m => { m with response := b, doneSeq := q.seq, busy := false })
  match q.ch with
  | .pf => mailbox .pf
  | .vf c => mailbox (.vf c)
  | .mgmt _ _ => s.emit (.message q.ch b)
  | .fabric _ => s.mgmtPacket q.replyTo b

/-- The response is sent and, but on a mailbox, remembered. -/
def State.respond (s : State) (q : Request) (a : Reply) : State :=
  let b := a.message q
  let s := s.sendReply q b
  if isMailbox q.ch then s
  else s.modCat (fun k => { k with remembered := remember k.remembered { ch := q.ch, seq := q.seq, response := b } })

/-- The remembered response to a request's SEQ. -/
def State.recall (s : State) (q : Request) : Option Bytes :=
  if isMailbox q.ch then none
  else (s.cat.remembered.find? (fun x => x.ch == q.ch && x.seq == q.seq)).map (fun x => x.response)

/-- The request at the front is served. `f`: what a start that follows it would find; without it such a request stays.
(open points: DESIGN CHOICE, log entry 13) -/
def State.serve (s : State) (q : Request) (f : Option StartFindings) : State :=
  let t := s.modCat (fun k => { k with requests := k.requests.drop 1 })
  match t.recall q with
  | some b => t.sendReply q b
  | none =>
    let a := t.answer q
    let u := a.1.respond q a.2.1
    match a.2.2, f with
    | .nothing, _ => u
    | .reset cold, some f => u.moduleReset q.ch cold f
    | .recover img, some f => u.recoverWith img f
    | _, none => s

/-! ### READ, DESCRIBE, AUTHORISE, SUBSCRIBE, NEXT_INDEX, READ_RECORDS, WRITE (R345, R346) -/

/-- The front request is served when it is one that a command names. (open points: DESIGN CHOICE, log entry 13) -/
def State.serveIf (s : State) (f : Option StartFindings) (is : Request → Bool) : State :=
  match s.cat.requests with
  | [] => s
  | q :: _ => if s.boot.life != .off && is q then s.serve q f else s

/-- The request carries a known VERSION and operation `op`. -/
def Request.isOp (q : Request) (op : Nat) : Bool := q.version == 1 && q.op.toNat == op

/-- Neither VERSION nor OP is known: it is answered here too. (open points: DESIGN CHOICE, log entry 13) -/
def Request.unknown (q : Request) : Bool := q.version != 1 || q.op.toNat < 1 || 6 < q.op.toNat

def execRead (s : State) : Host.Outcome State Fault Refusal :=
  .next (s.serveIf none (fun q => q.isOp 1 || q.unknown))

def execReadRecords (s : State) : Host.Outcome State Fault Refusal :=
  .next (s.serveIf none (fun q => q.isOp 1 && q.index == 0x9000 && q.sub == 6))

def execWrite (s : State) : Host.Outcome State Fault Refusal := .next (s.serveIf none (fun q => q.isOp 2))

def execDescribe (s : State) : Host.Outcome State Fault Refusal := .next (s.serveIf none (fun q => q.isOp 3))

def execAuthorise (s : State) : Host.Outcome State Fault Refusal := .next (s.serveIf none (fun q => q.isOp 4))

def execSubscribe (s : State) : Host.Outcome State Fault Refusal := .next (s.serveIf none (fun q => q.isOp 5))

def execNextIndex (s : State) : Host.Outcome State Fault Refusal := .next (s.serveIf none (fun q => q.isOp 6))

/-! ### Writes with a row of their own -/

/-- The front request is a WRITE of one of `n` indices from `base` at a subindex. -/
def Request.writes (q : Request) (base n : Nat) (sub : Nat → Bool) : Bool :=
  q.isOp 2 && base ≤ q.index.toNat && q.index.toNat < base + n && sub q.sub.toNat

/-- Byte 0 of the value as the segment leaves it. -/
def State.action (s : State) (q : Request) : Nat := leNat ((s.gather q).into (zeros 1))

/-- A WRITE of an entry is served. -/
def State.serveWrite (s : State) (base n : Nat) (sub : Nat → Bool) : State :=
  s.serveIf none (fun q => q.writes base n sub)

/-- A WRITE whose value has an action code in byte 0 is served. -/
def State.serveAction (s : State) (base n sub act : Nat) (f : Option StartFindings) : State :=
  s.serveIf f (fun q => q.writes base n (· == sub) && s.action q == act)

def execModuleEntry (s : State) : Host.Outcome State Fault Refusal := .next (s.serveWrite 0x7200 1 (· == 2))

def execEphemerisBaseWrite (s : State) : Host.Outcome State Fault Refusal := .next (s.serveWrite 0x7100 16 (· == 1))

def execTickCodeWrite (s : State) : Host.Outcome State Fault Refusal := .next (s.serveWrite 0x7000 1 (· == 2))

def execMeridianRoleWrite (s : State) : Host.Outcome State Fault Refusal := .next (s.serveWrite 0x7000 1 (· == 1))

def execTake (s : State) : Host.Outcome State Fault Refusal := .next (s.serveAction 0x6150 16 12 1 none)

def execRestore (s : State) : Host.Outcome State Fault Refusal := .next (s.serveAction 0x6150 16 12 2 none)

def execDelete (s : State) : Host.Outcome State Fault Refusal := .next (s.serveAction 0x6150 16 12 3 none)

def execMap (s : State) : Host.Outcome State Fault Refusal := .next (s.serveAction 0x6150 16 12 4 none)

def execImportImage (s : State) : Host.Outcome State Fault Refusal := .next (s.serveAction 0x6150 16 12 5 none)

def execReplayRequest (s : State) : Host.Outcome State Fault Refusal := .next (s.serveWrite 0x6150 16 (· == 8))

def execAlloc (s : State) : Host.Outcome State Fault Refusal := .next (s.serveAction 0x5100 16 8 1 none)

def execFree (s : State) : Host.Outcome State Fault Refusal := .next (s.serveAction 0x5100 16 8 2 none)

def execSetClass (s : State) : Host.Outcome State Fault Refusal := .next (s.serveAction 0x5100 16 8 3 none)

def execFloorWrite (s : State) : Host.Outcome State Fault Refusal :=
  .next (s.serveWrite 0x5100 16 (fun k => k == 1 || k == 2))

def execBind (s : State) : Host.Outcome State Fault Refusal := .next (s.serveAction 0x6000 1 2 1 none)

def execRelease (s : State) : Host.Outcome State Fault Refusal := .next (s.serveAction 0x6000 1 2 2 none)

def execPause (s : State) : Host.Outcome State Fault Refusal := .next (s.serveAction 0x6000 1 2 3 none)

def execResume (s : State) : Host.Outcome State Fault Refusal := .next (s.serveAction 0x6000 1 2 4 none)

def execRebindRequest (s : State) : Host.Outcome State Fault Refusal := .next (s.serveWrite 0x6000 1 (· == 4))

def execFirmware (s : State) : Host.Outcome State Fault Refusal := .next (s.serveAction 0x6000 1 6 1 none)

def execCoreSpare (s : State) : Host.Outcome State Fault Refusal := .next (s.serveAction 0x6000 1 6 2 none)

def execDdrRetire (s : State) : Host.Outcome State Fault Refusal := .next (s.serveAction 0x6000 1 6 3 none)

def execLaneSpare (s : State) : Host.Outcome State Fault Refusal := .next (s.serveAction 0x6000 1 6 4 none)

def execWatchFlagsClear (s : State) : Host.Outcome State Fault Refusal :=
  .next (s.serveWrite 0x4400 0x300 (fun k => k != 0))

def execSubmitRingBaseWrite (s : State) : Host.Outcome State Fault Refusal := .next (s.serveWrite 0x6160 16 (· == 1))

def execGroupTableBaseWrite (s : State) : Host.Outcome State Fault Refusal := .next (s.serveWrite 0x8100 16 (· == 1))

def execUserCorrectionWrite (s : State) : Host.Outcome State Fault Refusal :=
  .next (s.serveWrite 0x2800 0x400 (· == 1))

def execClearUserCorrections (s : State) : Host.Outcome State Fault Refusal :=
  .next (s.serveAction 0x2C00 1 1 1 none)

def execClearLearnedCorrections (s : State) : Host.Outcome State Fault Refusal :=
  .next (s.serveAction 0x2C00 1 1 2 none)

def execClearAllCorrections (s : State) : Host.Outcome State Fault Refusal :=
  .next (s.serveAction 0x2C00 1 1 3 none)

def execModuleNumberWrite (s : State) : Host.Outcome State Fault Refusal := .next (s.serveWrite 0x8000 1 (· == 6))

def execRouteTableWrite (s : State) : Host.Outcome State Fault Refusal := .next (s.serveWrite 0x8000 1 (· == 2))

def execPerfPointWrite (s : State) : Host.Outcome State Fault Refusal := .next (s.serveWrite 0x3100 0x100 (· == 2))

def execEnvelopeWrite (s : State) : Host.Outcome State Fault Refusal := .next (s.serveWrite 0x3100 0x100 (· == 4))

def execModulePowerCapWrite (s : State) : Host.Outcome State Fault Refusal := .next (s.serveWrite 0x3000 1 (· == 2))

def execAuthorityKeyWrite (s : State) : Host.Outcome State Fault Refusal :=
  .next (s.serveWrite 0xA040 1 (fun k => 1 ≤ k && k ≤ 7 && k != 5))

def execRollbackRaise (s : State) : Host.Outcome State Fault Refusal := .next (s.serveWrite 0xA000 1 (· == 2))

def execAttestRequest (s : State) : Host.Outcome State Fault Refusal := .next (s.serveWrite 0xA030 1 (· == 1))

def execOperatorExtend (s : State) : Host.Outcome State Fault Refusal := .next (s.serveWrite 0xA020 1 (· == 10))

def execLogbookClear (s : State) : Host.Outcome State Fault Refusal := .next (s.serveWrite 0x9000 1 (· == 13))

def execStage (s : State) : Host.Outcome State Fault Refusal := .next (s.serveAction 0xA050 1 2 1 none)

def execInstallAll (s : State) : Host.Outcome State Fault Refusal := .next (s.serveAction 0xA050 1 2 2 none)

def execDiscard (s : State) : Host.Outcome State Fault Refusal := .next (s.serveAction 0xA050 1 2 3 none)

def execWarmModuleReset (f : StartFindings) (s : State) : Host.Outcome State Fault Refusal :=
  .next (s.serveAction 0xA050 1 1 1 (some f))

def execColdModuleReset (f : StartFindings) (s : State) : Host.Outcome State Fault Refusal :=
  .next (s.serveAction 0xA050 1 1 2 (some f))

def execRecoveryImageWrite (f : StartFindings) (s : State) : Host.Outcome State Fault Refusal :=
  .next (s.serveIf (some f) (fun q => q.writes 0xA050 1 (· == 7)))

end Sys2Proof.Machine
end

