-- ==== Sys2Proof/Machine/Transports.lean ====
section
/-! DEFINITION. How requests reach the supervisor: the mailboxes, the management port, the fabric (R338, R351, R352,
R354, R355). -/

namespace Sys2Proof.Machine

/-- The request a message carries, in the bytes a transport hands over. -/
def Request.parse (ch : Channel) (replyTo : BitVec 24) (b : Bytes) : Request :=
  { ch := ch, version := fieldBv 8 b 0 1, op := fieldBv 8 b 1 1, seq := fieldBv 16 b 2 2, index := fieldBv 16 b 4 2
    sub := fieldBv 8 b 6 1, more := (fieldBv 8 b 7 1).getLsbD 0, length := fieldBv 32 b 12 4
    offset := fieldBv 32 b 16 4, value := slice b 24 (Nat.min (field b 12 4) (carry ch)), replyTo := replyTo }

/-- An operation whose LENGTH counts bytes the message carries (R344). (open points: DEDUCED, log entry 17) -/
def Request.carries (q : Request) : Bool := q.op == 2 || q.op == 4 || q.op == 5

/-- Open points: DESIGN CHOICE, log entry 13. -/
def State.enqueue (s : State) (q : Request) : State := s.modCat (fun k => { k with requests := k.requests ++ [q] })

/-- Open points: DEDUCED, log entry 17. -/
def State.discardMessage (s : State) : State := s.modCat (fun k => { k with mgmtDiscarded := k.mgmtDiscarded + 1 })

/-! ### Mailboxes (R354) -/

def funcChannel : Func → Channel
  | .pf => .pf
  | .vf c => .vf c

/-- BAR0 of a function answers. -/
def State.bar0Open (s : State) (f : Func) : Bool := s.boot.life.hasLink && s.hasFunc f

/-- The request area holds what the host last wrote to it. -/
def State.setArea (s : State) (f : Func) (b : Bytes) : State := s.modMailbox f (fun m => { m with request := padTo 4088 b })

/-- The mailbox of a function takes messages in: a VF's does not while the module has no number (R322).
(open points: DEDUCED, log entry 16) -/
def State.mailboxServes (s : State) (f : Func) : Bool := f == .pf || s.fab.moduleNumber != 0xFFFFFFFF

/-- A write of MB_GO: the request area is copied and BUSY set, when the value is the request's SEQ, BUSY is clear and
the mailbox takes messages in. (open points: DEDUCED, log entry 16) -/
def State.mbGo (s : State) (f : Func) (v : Nat) : State :=
  let m := s.mailbox f
  if m.busy || v != field m.request 2 2 || !s.mailboxServes f then s
  else (s.modMailbox f (fun m => { m with busy := true })).enqueue (Request.parse (funcChannel f) 0 m.request)

/-- The host's writes of the request area, and then of MB_GO. (open points: DEDUCED, log entry 16) -/
def execMbGo (f : Func) (seq : U16) (area : Bytes) (s : State) : Host.Outcome State Fault Refusal :=
  if s.bar0Open f then .next ((s.setArea f area).mbGo f seq.toNat) else .next s

/-! ### The management port (R352) -/

/-- An address lies in a prefix given in transmission order. -/
def inPrefix (a : BitVec 128) (pre : Bytes) (len : Nat) : Bool :=
  let k := 128 - Nat.min len 128
  a.toNat / 2 ^ k == leNat pre.reverse / 2 ^ k

/-- A source that 0x8300:04 lets in. -/
def CatState.admits (k : CatState) (a : BitVec 128) : Bool :=
  let e := (List.range 8).map (fun i => slice k.allowed (17 * i) 17)
  let used := e.filter (fun b => field b 16 1 != 0)
  used.isEmpty || used.any (fun b => inPrefix a (slice b 0 16) (field b 16 1))

/-- Requests held from the management port. -/
def CatState.heldMgmt (k : CatState) : Nat :=
  (k.requests.filter (fun q => match q.ch with | .mgmt _ _ => true | _ => false)).length

/-- Open points: DEDUCED, log entry 17; DESIGN CHOICE, log entry 78. -/
def execMgmtDatagram (addr : BitVec 128) (port : U16) (checksumOk : Bool) (payload : Bytes) (s : State) :
    Host.Outcome State Fault Refusal :=
  let q := Request.parse (.mgmt addr port) 0 payload
  if s.boot.life == .off then .next s
  else if !checksumOk || !s.cat.admits addr || payload.length < 24 || 1232 < payload.length ||
      (q.carries && payload.length - 24 < q.length.toNat) then .next s.discardMessage
  else
    match s.recall q with
    | some b => .next (s.sendReply q b)
    | none => if 16 ≤ s.cat.heldMgmt then .next s.discardMessage else .next (s.enqueue q)

/-- Neighbor Discovery and Echo are answered; tagged frames and fragments are discarded.
(open points: DEDUCED, log entry 17) -/
def execIcmpv6Frame (kind : IcmpKind) (src : BitVec 128) (data : Bytes) (s : State) : Host.Outcome State Fault Refusal :=
  if s.boot.life == .off then .next s
  else
    match kind with
    | .neighborSolicitation => .next (s.emit (.neighborAdvertisement src))
    | .echoRequest => .next (s.emit (.echoReply src data))
    | .tagged => .next s
    | .fragment => .next s

/-! ### The fabric (R355) -/

/-- A source address the module can send to. -/
def State.reaches (s : State) (a : BitVec 24) : Bool := s.isMine a || (s.routeTo (destModule a)).isSome

/-- A MGMT packet that has arrived: its message is queued; one not for die 0, too short, or from a source out of reach
is discarded. (open points: DESIGN CHOICE, log entry 4; DEDUCED, log entry 17) -/
def execMgmtPacket (p : Packet) (s : State) : Host.Outcome State Fault Refusal :=
  if !s.boot.life.hasLink || p.kind != 0x40 || !s.isMine p.dest then .next s
  else
    let s := s.takeArrived p
    let b := p.data.flatten
    let q := Request.parse (.fabric (BitVec.ofNat 20 (p.src.toNat / 16))) p.src b
    if 63 < p.hops.toNat then .next s.countDropped
    else if destDie p.dest != 0 || !s.reaches p.src || b.length < 24 || (q.carries && b.length - 24 < q.length.toNat) then
      .next s.discardMessage
    else
      match s.recall q with
      | some r => .next (s.sendReply q r)
      | none => .next (s.enqueue q)

/-! ### Ends (R351, R352) -/

/-- 60 s after a source's last SUBSCRIBE. (open points: DESIGN CHOICE, log entry 4) -/
def execSubscriptionExpiry (ch : Channel) (s : State) : Host.Outcome State Fault Refusal :=
  .next (s.modCat (fun k => { k with subs := k.subs.filter (fun x => x.ch != ch) }))

/-- 1 s after a request. (open points: DESIGN CHOICE, log entry 4) -/
def execRequestMemoryExpiry (ch : Channel) (seq : U16) (s : State) : Host.Outcome State Fault Refusal :=
  .next (s.modCat (fun k => { k with remembered := k.remembered.filter (fun x => !(x.ch == ch && x.seq == seq)) }))

end Sys2Proof.Machine
end

