-- ==== Sys2Proof/Machine/Dispatch.lean ====
section
/-! DEFINITION. One arm per command: the meaning it calls. -/

namespace Sys2Proof.Machine

def exec (i : Instr) (s : State) : Host.Outcome State Fault Refusal :=
  match i with
  | .tickBoundary => Sys2Proof.Machine.execTickBoundary s
  | .startStep => Sys2Proof.Machine.execStartStep s
  | .barrier => Sys2Proof.Machine.execBarrier s
  | .barrierTimeout c => Sys2Proof.Machine.execBarrierTimeout c s
  | .ramp => Sys2Proof.Machine.execRamp s
  | .rampEnd b fromModule => Sys2Proof.Machine.execRampEnd b fromModule s
  | .snapshot => Sys2Proof.Machine.execSnapshot s
  | .rebind => Sys2Proof.Machine.execRebind s
  | .sample => Sys2Proof.Machine.execSample s
  | .ephemerisMark => Sys2Proof.Machine.execEphemerisMark s
  | .phaseEntry => Sys2Proof.Machine.execPhaseEntry s
  | .moduleEntry => Sys2Proof.Machine.execModuleEntry s
  | .ephemerisBaseWrite => Sys2Proof.Machine.execEphemerisBaseWrite s
  | .beaconReceive b => Sys2Proof.Machine.execBeaconReceive b s
  | .acquisitionComplete correctionNs => Sys2Proof.Machine.execAcquisitionComplete correctionNs s
  | .beaconTimeout => Sys2Proof.Machine.execBeaconTimeout s
  | .holdoverExpiry => Sys2Proof.Machine.execHoldoverExpiry s
  | .lostBeaconReturn => Sys2Proof.Machine.execLostBeaconReturn s
  | .tickCodeChange => Sys2Proof.Machine.execTickCodeChange s
  | .tickCodeWrite => Sys2Proof.Machine.execTickCodeWrite s
  | .meridianRoleWrite => Sys2Proof.Machine.execMeridianRoleWrite s
  | .listWalk c => Sys2Proof.Machine.execListWalk c s
  | .forward c n => Sys2Proof.Machine.execForward c n s
  | .dataGrad c n => Sys2Proof.Machine.execDataGrad c n s
  | .weightGrad c n => Sys2Proof.Machine.execWeightGrad c n s
  | .rmsFwd c n => Sys2Proof.Machine.execRmsFwd c n s
  | .lnFwd c n => Sys2Proof.Machine.execLnFwd c n s
  | .softmaxFwd c n => Sys2Proof.Machine.execSoftmaxFwd c n s
  | .rmsBwd c n => Sys2Proof.Machine.execRmsBwd c n s
  | .lnBwd c n => Sys2Proof.Machine.execLnBwd c n s
  | .softmaxBwd c n => Sys2Proof.Machine.execSoftmaxBwd c n s
  | .vectorCopy c n => Sys2Proof.Machine.execVectorCopy c n s
  | .add c n => Sys2Proof.Machine.execAdd c n s
  | .sub c n => Sys2Proof.Machine.execSub c n s
  | .mul c n => Sys2Proof.Machine.execMul c n s
  | .fma c n => Sys2Proof.Machine.execFma c n s
  | .div c n => Sys2Proof.Machine.execDiv c n s
  | .min c n => Sys2Proof.Machine.execMin c n s
  | .max c n => Sys2Proof.Machine.execMax c n s
  | .abs c n => Sys2Proof.Machine.execAbs c n s
  | .neg c n => Sys2Proof.Machine.execNeg c n s
  | .sqrt c n => Sys2Proof.Machine.execSqrt c n s
  | .rsqrt c n => Sys2Proof.Machine.execRsqrt c n s
  | .rcp c n => Sys2Proof.Machine.execRcp c n s
  | .exp c n => Sys2Proof.Machine.execExp c n s
  | .relu c n => Sys2Proof.Machine.execRelu c n s
  | .leaky c n => Sys2Proof.Machine.execLeaky c n s
  | .gelu c n => Sys2Proof.Machine.execGelu c n s
  | .silu c n => Sys2Proof.Machine.execSilu c n s
  | .sigmoid c n => Sys2Proof.Machine.execSigmoid c n s
  | .select c n => Sys2Proof.Machine.execSelect c n s
  | .maskScale c n => Sys2Proof.Machine.execMaskScale c n s
  | .dropoutMask c n => Sys2Proof.Machine.execDropoutMask c n s
  | .signMask c n => Sys2Proof.Machine.execSignMask c n s
  | .sumsq c n => Sys2Proof.Machine.execSumsq c n s
  | .absmax c n => Sys2Proof.Machine.execAbsmax c n s
  | .adamw c n => Sys2Proof.Machine.execAdamw c n s
  | .sgdm c n => Sys2Proof.Machine.execSgdm c n s
  | .convert c n => Sys2Proof.Machine.execConvert c n s
  | .copy c n => Sys2Proof.Machine.execCopy c n s
  | .allReduce c n => Sys2Proof.Machine.execAllReduce c n s
  | .reduceScatter c n => Sys2Proof.Machine.execReduceScatter c n s
  | .allGather c n => Sys2Proof.Machine.execAllGather c n s
  | .broadcast c n => Sys2Proof.Machine.execBroadcast c n s
  | .send c n => Sys2Proof.Machine.execSend c n s
  | .recv c n => Sys2Proof.Machine.execRecv c n s
  | .waitDrain c n => Sys2Proof.Machine.execWaitDrain c n s
  | .waitMeridian c n => Sys2Proof.Machine.execWaitMeridian c n s
  | .wordGe c n => Sys2Proof.Machine.execWordGe c n s
  | .wordEq c n => Sys2Proof.Machine.execWordEq c n s
  | .waitSatisfied c n => Sys2Proof.Machine.execWaitSatisfied c n s
  | .waitTimeout c n => Sys2Proof.Machine.execWaitTimeout c n s
  | .markWrite c n => Sys2Proof.Machine.execMarkWrite c n s
  | .markAdd c n => Sys2Proof.Machine.execMarkAdd c n s
  | .markPost c n => Sys2Proof.Machine.execMarkPost c n s
  | .arrayPassEnd core a => Sys2Proof.Machine.execArrayPassEnd core a s
  | .tileDrain core => Sys2Proof.Machine.execTileDrain core s
  | .plateHomeAdd k => Sys2Proof.Machine.execPlateHomeAdd k s
  | .claimUnit c n core => Sys2Proof.Machine.execClaimUnit c n core s
  | .operationComplete c n => Sys2Proof.Machine.execOperationComplete c n s
  | .moderationTimeout r => Sys2Proof.Machine.execModerationTimeout r s
  | .msixUnmask f v => Sys2Proof.Machine.execMsixUnmask f v s
  | .completionBacklogDrain r => Sys2Proof.Machine.execCompletionBacklogDrain r s
  | .blinkCheck core => Sys2Proof.Machine.execBlinkCheck core s
  | .stepClose c => Sys2Proof.Machine.execStepClose c s
  | .snapshotCapturePage c => Sys2Proof.Machine.execSnapshotCapturePage c s
  | .snapshotDemandCapture c page => Sys2Proof.Machine.execSnapshotDemandCapture c page s
  | .take => Sys2Proof.Machine.execTake s
  | .restore => Sys2Proof.Machine.execRestore s
  | .restoreExecute c => Sys2Proof.Machine.execRestoreExecute c s
  | .delete => Sys2Proof.Machine.execDelete s
  | .map => Sys2Proof.Machine.execMap s
  | .importImage => Sys2Proof.Machine.execImportImage s
  | .replayRequest => Sys2Proof.Machine.execReplayRequest s
  | .replayRun c => Sys2Proof.Machine.execReplayRun c s
  | .replayCompare c => Sys2Proof.Machine.execReplayCompare c s
  | .bar2Read f off len => Sys2Proof.Machine.execBar2Read f off len s
  | .bar2Write f off data => Sys2Proof.Machine.execBar2Write f off data s
  | .pageMoveSwitch c page => Sys2Proof.Machine.execPageMoveSwitch c page s
  | .residentMoveIn c => Sys2Proof.Machine.execResidentMoveIn c s
  | .alloc => Sys2Proof.Machine.execAlloc s
  | .free => Sys2Proof.Machine.execFree s
  | .setClass => Sys2Proof.Machine.execSetClass s
  | .floorWrite => Sys2Proof.Machine.execFloorWrite s
  | .scrubPeriodStart corrected uncorrectable => Sys2Proof.Machine.execScrubPeriodStart corrected uncorrectable s
  | .ddrRetrain p => Sys2Proof.Machine.execDdrRetrain p s
  | .dramRefresh p => Sys2Proof.Machine.execDramRefresh p s
  | .flashBackgroundWork d w => Sys2Proof.Machine.execFlashBackgroundWork d w s
  | .bind => Sys2Proof.Machine.execBind s
  | .release => Sys2Proof.Machine.execRelease s
  | .slotFreed c => Sys2Proof.Machine.execSlotFreed c s
  | .pause => Sys2Proof.Machine.execPause s
  | .pauseDone c => Sys2Proof.Machine.execPauseDone c s
  | .resume => Sys2Proof.Machine.execResume s
  | .rebindRequest => Sys2Proof.Machine.execRebindRequest s
  | .rebindPlanStart => Sys2Proof.Machine.execRebindPlanStart s
  | .rebindDrainDone us => Sys2Proof.Machine.execRebindDrainDone us s
  | .rebindSwitch writebackUs updateUs => Sys2Proof.Machine.execRebindSwitch writebackUs updateUs s
  | .firmware => Sys2Proof.Machine.execFirmware s
  | .coreSpare => Sys2Proof.Machine.execCoreSpare s
  | .ddrRetire => Sys2Proof.Machine.execDdrRetire s
  | .laneSpare => Sys2Proof.Machine.execLaneSpare s
  | .dieOutOfService => Sys2Proof.Machine.execDieOutOfService s
  | .dieReturn ok f outMs => Sys2Proof.Machine.execDieReturn ok f outMs s
  | .coreFailure core => Sys2Proof.Machine.execCoreFailure core s
  | .watchFlagsClear => Sys2Proof.Machine.execWatchFlagsClear s
  | .flrVf c => Sys2Proof.Machine.execFlrVf c s
  | .flrPf => Sys2Proof.Machine.execFlrPf s
  | .hostLinkDown => Sys2Proof.Machine.execHostLinkDown s
  | .submitRingBaseWrite => Sys2Proof.Machine.execSubmitRingBaseWrite s
  | .mbGo f seq area => Sys2Proof.Machine.execMbGo f seq area s
  | .mgmtDatagram addr port checksumOk payload => Sys2Proof.Machine.execMgmtDatagram addr port checksumOk payload s
  | .mgmtPacket p => Sys2Proof.Machine.execMgmtPacket p s
  | .read => Sys2Proof.Machine.execRead s
  | .write => Sys2Proof.Machine.execWrite s
  | .describe => Sys2Proof.Machine.execDescribe s
  | .authorise => Sys2Proof.Machine.execAuthorise s
  | .subscribe => Sys2Proof.Machine.execSubscribe s
  | .nextIndex => Sys2Proof.Machine.execNextIndex s
  | .readRecords => Sys2Proof.Machine.execReadRecords s
  | .stagedTransferExpiry ch => Sys2Proof.Machine.execStagedTransferExpiry ch s
  | .authorisationExpiry ch => Sys2Proof.Machine.execAuthorisationExpiry ch s
  | .channelIdleExpiry ch => Sys2Proof.Machine.execChannelIdleExpiry ch s
  | .subscriptionExpiry ch => Sys2Proof.Machine.execSubscriptionExpiry ch s
  | .userCorrectionWrite => Sys2Proof.Machine.execUserCorrectionWrite s
  | .clearUserCorrections => Sys2Proof.Machine.execClearUserCorrections s
  | .clearLearnedCorrections => Sys2Proof.Machine.execClearLearnedCorrections s
  | .clearAllCorrections => Sys2Proof.Machine.execClearAllCorrections s
  | .moduleNumberWrite => Sys2Proof.Machine.execModuleNumberWrite s
  | .routeTableWrite => Sys2Proof.Machine.execRouteTableWrite s
  | .perfPointWrite => Sys2Proof.Machine.execPerfPointWrite s
  | .envelopeWrite => Sys2Proof.Machine.execEnvelopeWrite s
  | .modulePowerCapWrite => Sys2Proof.Machine.execModulePowerCapWrite s
  | .authorityKeyWrite => Sys2Proof.Machine.execAuthorityKeyWrite s
  | .rollbackRaise => Sys2Proof.Machine.execRollbackRaise s
  | .attestRequest => Sys2Proof.Machine.execAttestRequest s
  | .attestSignComplete => Sys2Proof.Machine.execAttestSignComplete s
  | .operatorExtend => Sys2Proof.Machine.execOperatorExtend s
  | .logbookClear => Sys2Proof.Machine.execLogbookClear s
  | .stage => Sys2Proof.Machine.execStage s
  | .installAll => Sys2Proof.Machine.execInstallAll s
  | .discard => Sys2Proof.Machine.execDiscard s
  | .warmModuleReset f => Sys2Proof.Machine.execWarmModuleReset f s
  | .coldModuleReset f => Sys2Proof.Machine.execColdModuleReset f s
  | .recoveryImageWrite f => Sys2Proof.Machine.execRecoveryImageWrite f s
  | .powerOn f => Sys2Proof.Machine.execPowerOn f s
  | .meridianAcquireTimeout => Sys2Proof.Machine.execMeridianAcquireTimeout s
  | .coolantStartHoldExpiry recovered f => Sys2Proof.Machine.execCoolantStartHoldExpiry recovered f s
  | .holdupReady => Sys2Proof.Machine.execHoldupReady s
  | .powerWindowEnd r => Sys2Proof.Machine.execPowerWindowEnd r s
  | .thermalCap d tempMc => Sys2Proof.Machine.execThermalCap d tempMc s
  | .coolantDerate inletMc flowMl => Sys2Proof.Machine.execCoolantDerate inletMc flowMl s
  | .supplyDerate mv => Sys2Proof.Machine.execSupplyDerate mv s
  | .busbarHigh mv => Sys2Proof.Machine.execBusbarHigh mv s
  | .conditionCleared bits die => Sys2Proof.Machine.execConditionCleared bits die s
  | .thermalStop cause => Sys2Proof.Machine.execThermalStop cause s
  | .leakDetected => Sys2Proof.Machine.execLeakDetected s
  | .powerLoss mv overVolt => Sys2Proof.Machine.execPowerLoss mv overVolt s
  | .logbookCommit => Sys2Proof.Machine.execLogbookCommit s
  | .mirrorWrite => Sys2Proof.Machine.execMirrorWrite s
  | .codewordReceive port cw => Sys2Proof.Machine.execCodewordReceive port cw s
  | .linkCtrl port ctl => Sys2Proof.Machine.execLinkCtrl port ctl s
  | .ackTimeoutReplay port => Sys2Proof.Machine.execAckTimeoutReplay port s
  | .linkTraining port t => Sys2Proof.Machine.execLinkTraining port t s
  | .downPortRetry port t => Sys2Proof.Machine.execDownPortRetry port t s
  | .writePacket p => Sys2Proof.Machine.execWritePacket p s
  | .addPacket p => Sys2Proof.Machine.execAddPacket p s
  | .collReady p => Sys2Proof.Machine.execCollReady p s
  | .collData p => Sys2Proof.Machine.execCollData p s
  | .ack p => Sys2Proof.Machine.execAck p s
  | .loss p => Sys2Proof.Machine.execLoss p s
  | .collectiveTimeout c n => Sys2Proof.Machine.execCollectiveTimeout c n s
  | .endpointForwardExpiry die endpoint => Sys2Proof.Machine.execEndpointForwardExpiry die endpoint s
  | .hostLinkUp rate width link => Sys2Proof.Machine.execHostLinkUp rate width link s
  | .packetForward port p => Sys2Proof.Machine.execPacketForward port p s
  | .vfEnableChange enable numVfs => Sys2Proof.Machine.execVfEnableChange enable numVfs s
  | .groupTableBaseWrite => Sys2Proof.Machine.execGroupTableBaseWrite s
  | .linkAcknowledgement port => Sys2Proof.Machine.execLinkAcknowledgement port s
  | .requestMemoryExpiry ch seq => Sys2Proof.Machine.execRequestMemoryExpiry ch seq s
  | .icmpv6Frame kind src data => Sys2Proof.Machine.execIcmpv6Frame kind src data s

end Sys2Proof.Machine
end

