-- ==== Sys2Proof/WellFormed.lean ====
section
/-! DEFINITION. When a command is well formed: the lengths its data must have for the command to exist at
all. A value the module itself checks is not checked here. -/

namespace Sys2Proof

/-- Data slots are 64 bytes, and a packet has at most 16 of them (R314, R323). -/
def Packet.wf (p : Packet) : Bool := p.data.length ≤ 16 && p.data.all (fun d => d.length == 64)

/-- A codeword carries ten slots of 64 bytes (R313). -/
def Codeword.wf (c : Codeword) : Bool :=
  c.slots.length == 10 && c.slots.all (fun d => d.length == 64)

/-- A start has seven phases, each with its duration (R401, R415). -/
def StartFindings.wf (f : StartFindings) : Bool := f.phaseMs.length == 7

/-- A command's data has the length the spec gives it: the request area of a mailbox is 4,088 bytes (R354), a BAR2
read asks for 1 to 4,096 bytes and a write carries 1 to 512 (R295). -/
def Instr.wf : Instr → Bool
  | .mbGo _ _ area => area.length == 4088
  | .mgmtPacket p => p.wf
  | .bar2Read _ _ len => 0 < len && len ≤ 4096
  | .bar2Write _ _ data => 0 < data.length && data.length ≤ 512
  | .dieReturn _ f _ => f.wf
  | .powerOn f => f.wf
  | .warmModuleReset f => f.wf
  | .coldModuleReset f => f.wf
  | .recoveryImageWrite f => f.wf
  | .coolantStartHoldExpiry _ f => f.wf
  | .codewordReceive _ cw => cw.wf
  | .writePacket p => p.wf
  | .addPacket p => p.wf
  | .collReady p => p.wf
  | .collData p => p.wf
  | .ack p => p.wf
  | .loss p => p.wf
  | .packetForward _ p => p.wf
  | _ => true

end Sys2Proof
end

