-- ==== Sys2Proof/Safety.lean ====
section
/-! DEFINITION. The words in which claims are stated: when a step is safe, what every step keeps, when the supervisor
serves a request, when a write is accepted, when an operation begins. -/

namespace Sys2Proof.Machine

/-! ### Safe steps and what every step keeps -/

/-- A step is safe when it answers a next state. -/
def Safe (s : State) : Prop := ∃ t, step s = .next t

/-- The invariant of the bytes of the device ranges: their canonical form. -/
def MemInv (s : State) : Prop := Memory.wf s.mem

/-- A table of errors that wait for a reader names each plate once, by its first byte. -/
def LatentOk (l : List (Nat × Latent)) : Prop := l.Pairwise (fun a b => a.1 < b.1) ∧ ∀ x ∈ l, x.1 % 64 = 0

/-- The invariant of the errors that wait for a reader (R234, R237). -/
def LatentInv (s : State) : Prop := LatentOk s.tiers.latent

/-- The blocks' table holds each block once, and the envelopes sum to at most the module power cap (R361). -/
def EnvelopeInv (s : State) : Prop :=
  s.power.blocks.Pairwise (fun a b => a.1 < b.1) ∧ s.envelopeSum ≤ s.capOf

/-- The command names a die, core, port, DDR5 position or block that the SKU lacks (R3, R15, R357). -/
def missingUnit (s : State) : Instr → Bool
  | .arrayPassEnd core _ => s.sku.cores ≤ core.val
  | .tileDrain core => s.sku.cores ≤ core.val
  | .claimUnit _ _ core => s.sku.cores ≤ core.val
  | .blinkCheck core => s.sku.cores ≤ core.val
  | .coreFailure core => s.sku.cores ≤ core.val
  | .rampEnd b _ => (s.sku.blockKind b).isNone
  | .beaconReceive b => s.noSuchPort b
  | .ddrRetrain p => s.sku.positions ≤ p.val
  | .dramRefresh p => s.sku.positions ≤ p.val
  | .flashBackgroundWork d _ => s.sku.dies ≤ d.val
  | .thermalCap d _ => s.sku.dies ≤ d.val
  | .endpointForwardExpiry d _ => s.sku.dies ≤ d.val
  | .codewordReceive n _ => s.sku.ports ≤ n.val
  | .linkCtrl n _ => s.sku.ports ≤ n.val
  | .ackTimeoutReplay n => s.sku.ports ≤ n.val
  | .linkAcknowledgement n => s.sku.ports ≤ n.val
  | .linkTraining n _ => s.sku.ports ≤ n.val
  | .downPortRetry n _ => s.sku.ports ≤ n.val
  | .packetForward n _ => s.sku.ports ≤ n.val
  | _ => false

/-- `t` may follow `s` in a run, for what no command changes and what none lowers: the SKU (R3), the rollback counter
(R392), the generations of free values used. -/
structure Follows (s t : State) : Prop where
  sku : t.sku = s.sku
  rollback : s.sec.rollback ≤ t.sec.rollback
  free : s.freeCtr ≤ t.freeCtr

/-- A byte of a slot's device range. -/
def State.byte (s : State) (c : Slot) (a : Nat) : Byte := memGet s.mem (memKey c a)

/-! ### Requests -/

/-- The state without the request at the front. -/
def State.popped (s : State) : State := s.modCat (fun k => { k with requests := k.requests.drop 1 })

/-- The supervisor serves `q` next, and has not answered it before (R338, R352). -/
def State.serves (s : State) (q : Request) : Bool :=
  s.cat.requests.head? == some q && s.boot.life != .off && (s.popped.recall q).isNone

/-- A WRITE of a whole value to the entry `r` passes checks 1 to 6 (R346), with the identifier of the authorisation it
needs, 0 where it needs none. -/
def State.accepts (s : State) (q : Request) (r : Row) (token : U64) : Bool :=
  q.version == 1 && q.op == 2 && s.sku.row? q.index.toNat q.sub.toNat == some r && s.popped.writeAllowed q r &&
    (if r.acc = 3 then s.popped.signedBy q.ch r q.index.toNat == some token else token == 0) &&
    (lengthStatus q.ch (r.typ == 8) r.size q.length.toNat q.offset.toNat).isNone && q.length != 0 && !q.more &&
    r.shapeOk (s.popped.gather q) &&
    (!r.scalar || (s.popped.scalarCheck r q.index.toNat (leNat ((s.popped.gather q).into (zeros r.size)))).isNone)

/-- The state in which an accepted write takes effect: its transfer is complete, and the write of an RWS entry is
recorded (R347, R348). -/
def State.accepting (s : State) (q : Request) (r : Row) (token : U64) : State :=
  (s.popped.unstage q).recordRws q r token

/-- What an accepted write does. -/
def State.written (s : State) (q : Request) (r : Row) (token : U64) : State × U16 :=
  (s.accepting q r token).applyWrite q.ch r q.index.toNat (s.popped.gather q)

/-- The catalogue writes that have a row of their own: which requests each serves. -/
def writeRow : Instr → Option (State → Request → Bool)
  | .write => some (fun _ q => q.isOp 2)
  | .moduleEntry => some (fun _ q => q.writes 0x7200 1 (· == 2))
  | .ephemerisBaseWrite => some (fun _ q => q.writes 0x7100 16 (· == 1))
  | .tickCodeWrite => some (fun _ q => q.writes 0x7000 1 (· == 2))
  | .meridianRoleWrite => some (fun _ q => q.writes 0x7000 1 (· == 1))
  | .take => some (fun s q => q.writes 0x6150 16 (· == 12) && s.action q == 1)
  | .restore => some (fun s q => q.writes 0x6150 16 (· == 12) && s.action q == 2)
  | .delete => some (fun s q => q.writes 0x6150 16 (· == 12) && s.action q == 3)
  | .map => some (fun s q => q.writes 0x6150 16 (· == 12) && s.action q == 4)
  | .importImage => some (fun s q => q.writes 0x6150 16 (· == 12) && s.action q == 5)
  | .replayRequest => some (fun _ q => q.writes 0x6150 16 (· == 8))
  | .alloc => some (fun s q => q.writes 0x5100 16 (· == 8) && s.action q == 1)
  | .free => some (fun s q => q.writes 0x5100 16 (· == 8) && s.action q == 2)
  | .setClass => some (fun s q => q.writes 0x5100 16 (· == 8) && s.action q == 3)
  | .floorWrite => some (fun _ q => q.writes 0x5100 16 (fun k => k == 1 || k == 2))
  | .bind => some (fun s q => q.writes 0x6000 1 (· == 2) && s.action q == 1)
  | .release => some (fun s q => q.writes 0x6000 1 (· == 2) && s.action q == 2)
  | .pause => some (fun s q => q.writes 0x6000 1 (· == 2) && s.action q == 3)
  | .resume => some (fun s q => q.writes 0x6000 1 (· == 2) && s.action q == 4)
  | .rebindRequest => some (fun _ q => q.writes 0x6000 1 (· == 4))
  | .firmware => some (fun s q => q.writes 0x6000 1 (· == 6) && s.action q == 1)
  | .coreSpare => some (fun s q => q.writes 0x6000 1 (· == 6) && s.action q == 2)
  | .ddrRetire => some (fun s q => q.writes 0x6000 1 (· == 6) && s.action q == 3)
  | .laneSpare => some (fun s q => q.writes 0x6000 1 (· == 6) && s.action q == 4)
  | .watchFlagsClear => some (fun _ q => q.writes 0x4400 0x300 (fun k => k != 0))
  | .submitRingBaseWrite => some (fun _ q => q.writes 0x6160 16 (· == 1))
  | .groupTableBaseWrite => some (fun _ q => q.writes 0x8100 16 (· == 1))
  | .userCorrectionWrite => some (fun _ q => q.writes 0x2800 0x400 (· == 1))
  | .clearUserCorrections => some (fun s q => q.writes 0x2C00 1 (· == 1) && s.action q == 1)
  | .clearLearnedCorrections => some (fun s q => q.writes 0x2C00 1 (· == 1) && s.action q == 2)
  | .clearAllCorrections => some (fun s q => q.writes 0x2C00 1 (· == 1) && s.action q == 3)
  | .moduleNumberWrite => some (fun _ q => q.writes 0x8000 1 (· == 6))
  | .routeTableWrite => some (fun _ q => q.writes 0x8000 1 (· == 2))
  | .perfPointWrite => some (fun _ q => q.writes 0x3100 0x100 (· == 2))
  | .envelopeWrite => some (fun _ q => q.writes 0x3100 0x100 (· == 4))
  | .modulePowerCapWrite => some (fun _ q => q.writes 0x3000 1 (· == 2))
  | .authorityKeyWrite => some (fun _ q => q.writes 0xA040 1 (fun k => 1 ≤ k && k ≤ 7 && k != 5))
  | .rollbackRaise => some (fun _ q => q.writes 0xA000 1 (· == 2))
  | .attestRequest => some (fun _ q => q.writes 0xA030 1 (· == 1))
  | .operatorExtend => some (fun _ q => q.writes 0xA020 1 (· == 10))
  | .logbookClear => some (fun _ q => q.writes 0x9000 1 (· == 13))
  | .stage => some (fun s q => q.writes 0xA050 1 (· == 2) && s.action q == 1)
  | .installAll => some (fun s q => q.writes 0xA050 1 (· == 2) && s.action q == 2)
  | .discard => some (fun s q => q.writes 0xA050 1 (· == 2) && s.action q == 3)
  | _ => none

/-- The answer OK with no value. -/
def okReply : Reply := { status := St.ok }

/-! ### Completions and codes -/

/-- The oldest completion that waits for a ring leaves the backlog: it is written, or counted where its generation has
been released (R280, R306). -/
def State.sendWaiting (s : State) (r : Ring) (e : Cmpl) : State :=
  let s := s.setRing r { s.ringOf r with backlog := (s.ringOf r).backlog.drop 1 }
  match r with
  | .module => s.writeCmpl .module e
  | .ctx c =>
    if e.context = s.ctxId c then s.writeCmpl (.ctx c) e
    else s.modCtx c (fun x => { x with staleDiscards := x.staleDiscards + 1 })

/-- Significand and exponent of the magnitude of an element code (R22, R24, R26, R27). -/
def Fmt.parts (f : Fmt) (code : Nat) : Nat × Int :=
  if f.forward then fwdParts (f == .f8) code else gradParts (f == .b8) code

/-! ### Operations -/

/-- Operation `o`, number `n` of the stream, passes everything that stands before its start: the start conditions
(R197), the start check (R210), no flash out of reach (R287). -/
structure Begins (s : State) (c : Slot) (n : Nat) (o : OpRec) (ranks : Nat) (vs : List (Nat × TView)) : Prop where
  found : s.op? c n = some o
  may : s.mayStart c o = true
  check : s.startCheck c none o ((s.ctx c).num.seedOf o.step).2.toNat ranks none = .ok (some vs)
  flash : s.opWaits c o.desc vs = false

/-- The context of the work of an operation that begins. -/
def State.opCtx (s : State) (c : Slot) (o : OpRec) : OpCtx :=
  o.ctx c ((s.ctx c).num.seedOf o.step).1 ((s.ctx c).num.seedOf o.step).2

/-- The operation rows but the collectives: slot, number, the descriptors each starts, and the work with which it
begins. -/
def startRow : Instr → Option (Slot × Nat × (Desc → Bool) × (State → OpRec → OpCtx → List (Nat × TView) → State))
  | .forward c n => some (c, n, isProduct (fun p => p != 1 && p != 2), beginProduct)
  | .dataGrad c n => some (c, n, isProduct (fun p => p == 1), beginProduct)
  | .weightGrad c n => some (c, n, isProduct (fun p => p == 2), beginProduct)
  | .rmsFwd c n => some (c, n, isRow (fun p => p == 0x01 || !rowOps.contains p), beginRow)
  | .lnFwd c n => some (c, n, isRow (fun p => p == 0x02), beginRow)
  | .softmaxFwd c n => some (c, n, isRow (fun p => p == 0x03), beginRow)
  | .rmsBwd c n => some (c, n, isRow (fun p => p == 0x11), beginRow)
  | .lnBwd c n => some (c, n, isRow (fun p => p == 0x12), beginRow)
  | .softmaxBwd c n => some (c, n, isRow (fun p => p == 0x13), beginRow)
  | .vectorCopy c n => some (c, n, isVector (fun f => f == 0x00 || !vectorFuncs.contains f), beginVector)
  | .add c n => some (c, n, isVector (· == 0x01), beginVector)
  | .sub c n => some (c, n, isVector (· == 0x02), beginVector)
  | .mul c n => some (c, n, isVector (· == 0x03), beginVector)
  | .fma c n => some (c, n, isVector (· == 0x04), beginVector)
  | .div c n => some (c, n, isVector (· == 0x05), beginVector)
  | .min c n => some (c, n, isVector (· == 0x06), beginVector)
  | .max c n => some (c, n, isVector (· == 0x07), beginVector)
  | .abs c n => some (c, n, isVector (· == 0x08), beginVector)
  | .neg c n => some (c, n, isVector (· == 0x09), beginVector)
  | .sqrt c n => some (c, n, isVector (· == 0x0A), beginVector)
  | .rsqrt c n => some (c, n, isVector (· == 0x0B), beginVector)
  | .rcp c n => some (c, n, isVector (· == 0x0C), beginVector)
  | .exp c n => some (c, n, isVector (· == 0x0D), beginVector)
  | .relu c n => some (c, n, isVector (· == 0x10), beginVector)
  | .leaky c n => some (c, n, isVector (· == 0x11), beginVector)
  | .gelu c n => some (c, n, isVector (· == 0x12), beginVector)
  | .silu c n => some (c, n, isVector (· == 0x13), beginVector)
  | .sigmoid c n => some (c, n, isVector (· == 0x14), beginVector)
  | .select c n => some (c, n, isVector (· == 0x18), beginVector)
  | .maskScale c n => some (c, n, isVector (· == 0x19), beginVector)
  | .dropoutMask c n => some (c, n, isVector (· == 0x20), beginVector)
  | .signMask c n => some (c, n, isVector (· == 0x21), beginVector)
  | .sumsq c n => some (c, n, isVector (· == 0x30), beginVector)
  | .absmax c n => some (c, n, isVector (· == 0x31), beginVector)
  | .adamw c n => some (c, n, isVector (· == 0x40), beginVector)
  | .sgdm c n => some (c, n, isVector (· == 0x41), beginVector)
  | .convert c n => some (c, n, (fun d => match d with | .convert _ => true | _ => false), beginVector)
  | .copy c n => some (c, n, (fun d => match d with | .copy _ => true | _ => false), beginCopy)
  | .waitDrain c n => some (c, n, isWaitOf (fun k => k == 0 || 3 < k), beginWait)
  | .waitMeridian c n => some (c, n, isWaitOf (fun k => k == 1), beginWait)
  | .wordGe c n => some (c, n, isWaitOf (fun k => k == 2), beginWait)
  | .wordEq c n => some (c, n, isWaitOf (fun k => k == 3), beginWait)
  | .markWrite c n => some (c, n, isMarkOf (fun m => m.getLsbD 0), beginMark)
  | .markAdd c n => some (c, n, isMarkOf (fun m => m.getLsbD 1 && !m.getLsbD 0), beginMark)
  | .markPost c n => some (c, n, isMarkOf (fun m => !m.getLsbD 0 && !m.getLsbD 1), beginMark)
  | _ => none

/-- The collective rows: slot, number, and the CKIND codes each starts (R207). -/
def collRow : Instr → Option (Slot × Nat × (Nat → Bool))
  | .allReduce c n => some (c, n, fun k => k == 0 || 5 < k)
  | .reduceScatter c n => some (c, n, fun k => k == 1)
  | .allGather c n => some (c, n, fun k => k == 2)
  | .broadcast c n => some (c, n, fun k => k == 3)
  | .send c n => some (c, n, fun k => k == 4)
  | .recv c n => some (c, n, fun k => k == 5)
  | _ => none

/-- The code of each VECTOR row (R160). -/
def vectorCode : Instr → Option Nat
  | .vectorCopy _ _ => some 0x00
  | .add _ _ => some 0x01
  | .sub _ _ => some 0x02
  | .mul _ _ => some 0x03
  | .fma _ _ => some 0x04
  | .div _ _ => some 0x05
  | .min _ _ => some 0x06
  | .max _ _ => some 0x07
  | .abs _ _ => some 0x08
  | .neg _ _ => some 0x09
  | .sqrt _ _ => some 0x0A
  | .rsqrt _ _ => some 0x0B
  | .rcp _ _ => some 0x0C
  | .exp _ _ => some 0x0D
  | .relu _ _ => some 0x10
  | .leaky _ _ => some 0x11
  | .gelu _ _ => some 0x12
  | .silu _ _ => some 0x13
  | .sigmoid _ _ => some 0x14
  | .select _ _ => some 0x18
  | .maskScale _ _ => some 0x19
  | .dropoutMask _ _ => some 0x20
  | .signMask _ _ => some 0x21
  | .sumsq _ _ => some 0x30
  | .absmax _ _ => some 0x31
  | .adamw _ _ => some 0x40
  | .sgdm _ _ => some 0x41
  | _ => none

/-- The Ephemeris rows whose due entry acts and completes: which entries, and the action (R268). -/
def actRow : Instr → Option ((DueEntry → Bool) × (State → DueEntry → State × U16))
  | .startStep => some (fun d => d.entry.kind == 1, actStartStep)
  | .ramp => some (fun d => d.entry.kind == 3, actRamp)
  | .snapshot => some (fun d => d.entry.kind == 4, actSnapshot)
  | .rebind => some (fun d => d.entry.kind == 5, actRebind)
  | .sample => some (fun d => d.entry.kind == 6, actSample)
  | .ephemerisMark => some (fun d => d.entry.kind == 7 && !d.entry.isPhase, actMark)
  | .phaseEntry => some (fun d => d.entry.isPhase, actPhase)
  | _ => none

/-! ### Frames -/

/-- Commands that write no device-range byte of their own: what they do to one is the CMP_TAIL word of a submission ring
whose slot gets a completion (R301, R306). -/
def quietRow : Instr → Bool
  | .rampEnd _ _ | .beaconReceive _ | .beaconTimeout | .lostBeaconReturn | .tickCodeChange => true
  | .moderationTimeout _ | .msixUnmask _ _ | .completionBacklogDrain _ | .ddrRetrain _ | .dramRefresh _ => true
  | .hostLinkUp _ _ _ | .vfEnableChange _ _ | .mbGo _ _ _ | .mgmtDatagram _ _ _ _ | .mgmtPacket _ => true
  | .read | .describe | .authorise | .subscribe | .nextIndex | .readRecords => true
  | .stagedTransferExpiry _ | .authorisationExpiry _ | .channelIdleExpiry _ | .subscriptionExpiry _ => true
  | .requestMemoryExpiry _ _ | .icmpv6Frame _ _ _ | .attestSignComplete | .holdupReady => true
  | .powerWindowEnd _ | .thermalCap _ _ | .coolantDerate _ _ | .supplyDerate _ | .busbarHigh _ => true
  | .conditionCleared _ _ | .logbookCommit | .mirrorWrite | .codewordReceive _ _ | .linkCtrl _ _ => true
  | .ackTimeoutReplay _ | .linkAcknowledgement _ | .endpointForwardExpiry _ _ => true
  | _ => false

/-- An address in the CMP_TAIL word of a slot's submission ring header (R301). -/
def State.cmplWord (s : State) (c : Slot) (k : Nat) : Prop :=
  (s.ctx c).sub.base ≠ 0 ∧ (s.ctx c).sub.base.toNat + 12 ≤ k ∧ k < (s.ctx c).sub.base.toNat + 16

/-- The registers of a slot that only its own operations, entries, requests and ring change. -/
structure SameSlot (x y : Ctx) : Prop where
  gen : y.gen = x.gen
  st : y.st = x.st
  units : y.groups = x.groups ∧ y.slices = x.slices ∧ y.endpoints = x.endpoints
  num : y.num = x.num
  stream : y.stream = x.stream
  train : y.train = x.train
  eph : y.eph = x.eph
  sub : y.sub = x.sub
  fab : y.fab = x.fab
  floors : y.pool.floorDdr = x.pool.floorDdr ∧ y.pool.floorFlash = x.pool.floorFlash

/-- The operation rows whose work stays within their slot: all but those that may send packets. -/
def localRow : Instr → Bool
  | .copy _ _ | .markWrite _ _ | .markAdd _ _ => false
  | i => (startRow i).isSome

end Sys2Proof.Machine
end

