-- ==== Sys2Proof/Certificates/Slice0/Obligations.lean ====
section
/-! DEFINITION. The statements for the provers. -/

open Sys2Proof Sys2Proof.Machine

/-! ### The queue, and what every step keeps -/

/-- The command at the front of the queue runs on the state with the queue's rest; on an empty queue the block idles
(the model's choice, log entry 1). -/
def Obligations.StepRunsTheFront : Prop :=
  (∀ (s : State) (c : Instr) (rest : List Instr), s.pending = c :: rest →
    step s = exec c { s with pending := rest }) ∧
  ∀ s : State, s.pending = [] → step s = .next s

/-- Every command answers a next state, but one that names a unit the SKU lacks, which stops by name; none is
refused (the stop is the model's choice, log entry 3). -/
def Obligations.CommandsComplete : Prop :=
  ∀ (i : Instr) (s : State),
    if missingUnit s i then exec i s = .fault .noSuchUnit else ∃ t, exec i s = .next t

/-- A step takes exactly the front command off the queue; it neither changes the SKU (R3) nor lowers the rollback
counter (R392). The count of free values, a field of the model's own (log entry 2), does not fall either. -/
def Obligations.StepFollows : Prop :=
  ∀ (s t : State) (c : Instr) (rest : List Instr), s.pending = c :: rest → step s = .next t →
    t.pending = rest ∧ Follows s t

/-- Every step keeps the bytes of the device ranges in their canonical form; and it keeps the form of the errors that
wait for a reader, each plate named once and by its first byte. -/
def Obligations.StepKeepsMemory : Prop :=
  (∀ s t : State, MemInv s → step s = .next t → MemInv t) ∧
  ∀ s t : State, LatentInv s → step s = .next t → LatentInv t

/-- Every step keeps the sum of the envelopes within the module power cap (R361). -/
def Obligations.StepKeepsEnvelopes : Prop :=
  ∀ s t : State, EnvelopeInv s → step s = .next t → EnvelopeInv t

/-- At Ready the invariants hold; every slot is FREE; no operation, list, Ephemeris entry (of a slot's ring or of the
module's), completion (of a slot's ring or of the PF's) or request waits; no byte is written; no image is held; every
performance point is P0; every scalar entry with a default reads it (R337, R405). -/
def Obligations.ResetIsReady : Prop :=
  (MemInv State.reset ∧ LatentInv State.reset ∧ EnvelopeInv State.reset) ∧
  (State.reset.boot.life = .ready ∧ State.reset.mem = [] ∧ State.reset.cat.requests = [] ∧ State.reset.due = [] ∧
  (∀ c : Slot, (State.reset.ctx c).st = .free ∧ (State.reset.ctx c).stream.ops = [] ∧
    (State.reset.ctx c).stream.lists = [] ∧ (State.reset.ctx c).pool.pages = [] ∧
    (State.reset.ctx c).eph.pending = [] ∧ (State.reset.ctx c).ring.backlog = []) ∧
  State.reset.modRing.pending = [] ∧ State.reset.host.ring.backlog = [] ∧ State.reset.images = [] ∧ ∀ b : Nat, State.reset.pointInForce b = 0) ∧
  (∀ r ∈ catRows, r.scalar = true → ∀ d : Nat, r.dflt = some d →
    State.reset.valueOf .pf r r.base 0 r.size = some (natLe r.size d))

/-! ### Device-range bytes -/

/-- A store writes its bytes and no other byte of any slot's range, but for those of its bytes that lie in a page that
shows an image, which stay as they were (R229, R253). -/
def Obligations.StoreWritesItsBytes : Prop :=
  ∀ (s : State) (c d : Slot) (a k : Nat) (b : Bytes), MemInv s → a + b.length ≤ rangeBytes → k < rangeBytes →
    (s.store c a b).byte d k =
      if d = c ∧ a ≤ k ∧ k < a + b.length ∧ s.readOnly c k = false then b.getD (k - a) 0 else s.byte d k

/-- What a read through a function's window answers: a PF window onto a FREE slot, Unsupported Request (R298). Any
other: the bytes of the window's slot at the window's base and the offset, with EP where a plate is poisoned (R234,
R298, R299); zeros with EP where the page's flash cannot be reached (R287); zeros where the page is not allocated
(R299), and in a module that is stopped (the model's reading, log entry 60). Nothing else leaves the module, unless a
read of flash fails; no byte changes. -/
def Obligations.Bar2Reads : Prop :=
  ∀ (s : State) (f : Func) (off len : Nat), s.bar2Ok f off len maxRead = true →
    (s.windowFree f = true → exec (.bar2Read f off len) s = .next (s.emit (.unsupported f))) ∧
    (s.windowFree f = false → ∃ t b ep, exec (.bar2Read f off len) s = .next t ∧
      (∃ o, t.out = s.out ++ o ++ [.bar2 f b ep] ∧ ((∀ d k, s.flashBad d k = false) → o = [])) ∧
      b.length = len ∧ t.mem = s.mem ∧
      ∀ c a, s.window f = (c, a - off) → off ≤ a → 0 < len → a % pageBytes + len ≤ pageBytes →
        let open_ := (s.ctx c).usable (a / pageBytes) && !s.boot.life.dead
        b = (if open_ && !s.lostPage c (a / pageBytes) then s.bytes c a len else zeros len) ∧
        ep = (open_ && (s.lostPage c (a / pageBytes) ||
          (s.firstPoison c (a / 64 * 64) (a + len - a / 64 * 64)).isSome)))

/-- A BAR2 write stores its bytes in the window's slot where the page may be written, and changes no other byte
(R298). -/
def Obligations.Bar2Writes : Prop :=
  ∀ (s : State) (f : Func) (off : Nat) (data : Bytes), s.bar2Ok f off data.length maxPayload = true →
    (s.windowFree f = true → exec (.bar2Write f off data) s = .next (s.emit (.unsupported f))) ∧
    (s.windowFree f = false → MemInv s → (s.window f).2 + off + data.length ≤ rangeBytes →
      ∃ t, exec (.bar2Write f off data) s = .next t ∧
      (∀ d k, k < rangeBytes →
        ¬ (d = (s.window f).1 ∧ (s.window f).2 + off ≤ k ∧ k < (s.window f).2 + off + data.length) →
        t.byte d k = s.byte d k) ∧
      ∀ c a, s.window f = (c, a - off) → off ≤ a → 0 < data.length → a % pageBytes + data.length ≤ pageBytes →
        (s.ctx c).usable (a / pageBytes) = true → s.boot.life.dead = false → s.lostPage c (a / pageBytes) = false →
        t = s.store c a data)

/-! ### Numbers -/

/-- The NaN that an FP32 operation gives, or a conversion to F8, B8 or BF16, is the canonical one, whatever the operands
(R26 to R28, R149). A finite value that a format holds converts to its own code, exactly, in either rounding mode (R22
to R27); a zero block reads as zero and an invalid one as NaN with CAUSE 7 (R31 to R33). A plate's tag, scale bytes and
elements are read from the bits that R37, R38 and R41 give, and an element written is read back, the others unchanged. -/
def Obligations.OnlyCanonicalNaNs : Prop :=
  (∀ (f : Fmt) (code : Nat) (r12 : Option Nat), f.scaled = true → code < 2 ^ f.bits → specialElCode f code = false →
    (f.parts code).1 ≠ 0 →
      roundCode f (codeNeg f code) (f.parts code).1 (f.parts code).2 false r12 = (code, Fl.none)) ∧
  (∀ (x : Nat) (r12 : Option Nat), x < 65536 →
    toBf16 (bf16To32 x) r12 = (if isNan (bf16To32 x) then 0x7FC0 else x, Fl.none)) ∧
  (∀ u : F32, isNan u = true → specialCode .f8 u = 0x7F ∧ specialCode .b8 u = 0x7E) ∧
  (∀ (f : Fmt) (code : Nat) (h : U32), decodeEl f 0 code h = .zero ∧ decodeEl f 255 code h = .nan 7 h) ∧
  (∀ b : Bytes, b.length = 64 →
    let p := leNat b
    let byte := fun i => (b.getD i 0).toNat
    tagFormat p = byte 0 % 8 ∧ tagOutlier p = (b.getD 0 0).getLsbD 3 ∧ tagEpoch p = byte 0 / 16 ∧
    (∀ j, j < 63 → plateScale p j = byte (1 + j)) ∧
    (∀ i, i < 112 → plateCode .f4 p i = if i % 2 = 0 then byte (8 + i / 2) % 16 else byte (8 + i / 2) / 16) ∧
    (∀ i, i < 48 → plateCode .f8 p i = byte (4 + i)) ∧ (∀ i, i < 56 → plateCode .b8 p i = byte (8 + i)) ∧
    (∀ i, i < 72 → plateCode .b6 p i = leNat (b.drop 10) / 2 ^ (6 * i) % 64) ∧
    (∀ i, i < 32 → plateCode .bf16 p i = byte (2 * i) + 256 * byte (2 * i + 1)) ∧
    (∀ i, i < 16 → plateCode .fp32 p i = leNat (slice b (4 * i) 4)) ∧
    (∀ i, i < 512 → plateCode .mask p i = byte (i / 8) / 2 ^ (i % 8) % 2)) ∧
  (∀ (f : Fmt) (p i j v : Nat),
    plateCode f (setPlateCode f p i v) j = if j = i then v % 2 ^ f.bits else plateCode f p j) ∧
  ∀ (sub : Bool) (a b c : F32),
    (isNan (fmaF sub a b c).1 = true → (fmaF sub a b c).1 = nan32) ∧
    (isNan (mulF sub a b).1 = true → (mulF sub a b).1 = nan32) ∧
    (isNan (divF sub a b).1 = true → (divF sub a b).1 = nan32) ∧
    (isNan (sqrtF a).1 = true → (sqrtF a).1 = nan32) ∧
    (isNan (rsqrtF a).1 = true → (rsqrtF a).1 = nan32) ∧
    (isNan (minF a b) = true → minF a b = nan32) ∧ (isNan (maxF a b) = true → maxF a b = nan32)

/-- What sets invalid and what CAUSE it records: 5 for 0 × inf, 9 for inf − inf, 12 for 0/0, inf/inf and the roots of a
value below −0; a finite value over ±0 overflows (R149). An element of an optimiser update whose gradient is not finite
keeps its w, m and s, gives the unchanged w, and sets invalid with CAUSE 6 (R168). -/
def Obligations.InvalidOperations : Prop :=
  (∀ (adam : Bool) (par : List U32) (g w m s : FV), isFinite g.1 = false → optimElem adam par g w m s =
    { y := w.1, w := w.1, m := m.1, s := s.1, fl := Fl.invalid 6, skip := true }) ∧
  ∀ (sub na nb : Bool) (a c : F32),
    fmaF sub (inf32 na) (zero32 nb) c = (nan32, Fl.invalid 5) ∧
    fmaF sub (zero32 na) (inf32 nb) c = (nan32, Fl.invalid 5) ∧
    mulF sub (inf32 na) (zero32 nb) = (nan32, Fl.invalid 5) ∧
    addF sub (inf32 na) (inf32 (!na)) = (nan32, Fl.invalid 9) ∧
    divF sub (zero32 na) (zero32 nb) = (nan32, Fl.invalid 12) ∧
    divF sub (inf32 na) (inf32 nb) = (nan32, Fl.invalid 12) ∧
    (isFinite a = true → isZero a = false → divF sub a (zero32 nb) = (inf32 (a.msb != nb), Fl.overflow 2)) ∧
    (isNan a = false → ltF a (zero32 true) = true → sqrtF a = (nan32, Fl.invalid 12) ∧
      rsqrtF a = (nan32, Fl.invalid 12)) ∧
    rsqrtF (zero32 nb) = (inf32 nb, Fl.overflow 2) ∧ rcpF (zero32 nb) = (inf32 nb, Fl.overflow 2)

/-- y of the functions of VECTOR that take one operation or a choice, with the flags of COPY, ADD, SUB, MUL, FMA and
DIV (R160). ADAMW of a finite gradient: g1 = g × gs, m = fma(b1, m, (1 − b1) × g1), s = fma(b2, s, (1 − b2) × g1 × g1),
q = (m × c1) / (SQRT(s × c2) + eps), w = fma(−lr, fma(wd, w, q), w), and the output is the new w; the parameters are
lr, b1, b2, eps, wd, c1, c2 and gs in words 1 to 8 (R166). -/
def Obligations.VectorFunctions : Prop :=
  (∀ (par : List U32) (g w m s : FV), isFinite g.1 = true →
    let p := fun i => FV.imm (par.getD i 0)
    let one := FV.const one32
    let g1 := g.mul (p 8)
    let m' := (p 2).fma m ((one.sub (p 2)).mul g1)
    let s' := (p 3).fma s ((one.sub (p 3)).mul (g1.mul g1))
    let q := (m'.mul (p 6)).div ((FV.un sqrtF (s'.mul (p 7))).add (p 4))
    let w' := (p 1).neg.fma ((p 5).fma w q) w
    (optimElem true par g w m s).m = m'.1 ∧ (optimElem true par g w m s).s = s'.1 ∧
      (optimElem true par g w m s).w = w'.1 ∧ (optimElem true par g w m s).y = w'.1) ∧
  ∀ (p0 : F32) (a b c : FV),
    vecFn 0x00 p0 a b c = a ∧ vecFn 0x01 p0 a b c = a.add b ∧ vecFn 0x02 p0 a b c = a.sub b ∧
    vecFn 0x03 p0 a b c = a.mul b ∧ vecFn 0x04 p0 a b c = a.fma b c ∧ vecFn 0x05 p0 a b c = a.div b ∧
    (vecFn 0x06 p0 a b c).1 = minF a.1 b.1 ∧ (vecFn 0x07 p0 a b c).1 = maxF a.1 b.1 ∧
    (isNan a.1 = false → (vecFn 0x08 p0 a b c).1 = a.1 &&& 0x7FFFFFFF ∧
      (vecFn 0x09 p0 a b c).1 = a.1 ^^^ 0x80000000) ∧
    (vecFn 0x0A p0 a b c).1 = (sqrtF a.1).1 ∧ (vecFn 0x0B p0 a b c).1 = (rsqrtF a.1).1 ∧
    (vecFn 0x0C p0 a b c).1 = (rcpF a.1).1 ∧ (vecFn 0x0D p0 a b c).1 = (expF a.1).1 ∧
    (posF a.1 = true → (vecFn 0x10 p0 a b c).1 = a.1 ∧ (vecFn 0x11 p0 a b c).1 = a.1) ∧
    (posF a.1 = false → (vecFn 0x10 p0 a b c).1 = (if isNan a.1 then nan32 else 0) ∧
      (vecFn 0x11 p0 a b c).1 = (a.mul b).1) ∧
    (vecFn 0x14 p0 a b c).1 = (rcpF ((FV.const one32).add (FV.un expF a.neg)).1).1 ∧
    (maskBit c.1 = true → (vecFn 0x18 p0 a b c).1 = a.1 ∧ (vecFn 0x19 p0 a b c).1 = (a.mul b).1) ∧
    (maskBit c.1 = false → (vecFn 0x18 p0 a b c).1 = b.1 ∧
      (vecFn 0x19 p0 a b c).1 = (a.mul (FV.imm p0)).1) ∧
    (vecFn 0x21 p0 a b c).1 = (if posF a.1 then one32 else 0)

/-- The SGDM update of a finite gradient: m = fma(mu, m, g × gs), then w = fma(−lr, fma(wd, w, m), w), and the output
is the new w; the parameters are lr, mu, wd and gs in words 1 to 4 (R167). -/
def Obligations.SgdmSequence : Prop :=
  ∀ (par : List U32) (g w m s : FV), isFinite g.1 = true →
    let p := fun i => FV.imm (par.getD i 0)
    let m' := (p 2).fma m (g.mul (p 4))
    let w' := (p 1).neg.fma ((p 3).fma w m') w
    (optimElem false par g w m s).m = m'.1 ∧ (optimElem false par g w m s).w = w'.1 ∧
      (optimElem false par g w m s).y = w'.1 ∧ (optimElem false par g w m s).s = s.1

/-! ### The catalogue (chapter 17) -/

/-- Subindex 0 of every index that exists is the RO U8 entry `highest_sub`, whose value is the highest subindex there;
a request for an index that does not exist, a subindex above `highest_sub` or one in a gap is answered OBJECT_UNKNOWN
(R332). -/
def Obligations.HighestSub : Prop :=
  ∀ (s : State) (q : Request),
    (s.sku.rowsAt q.index.toNat ≠ [] → ∃ r, s.sku.row? q.index.toNat 0 = some r ∧ r.name = "highest_sub" ∧ r.typ = 1 ∧
      r.acc = 0 ∧ r.size = 1 ∧
      s.valueOf q.ch r q.index.toNat 0 1 = some [BitVec.ofNat 8 (s.sku.highest q.index.toNat)] ∧
      (∀ x ∈ s.sku.rowsAt q.index.toNat, x.sub ≤ s.sku.highest q.index.toNat) ∧
      ∃ x ∈ s.sku.rowsAt q.index.toNat, x.sub = s.sku.highest q.index.toNat) ∧
    (q.version = 1 → q.op = 1 ∨ q.op = 2 ∨ q.op = 3 →
      (s.sku.rowsAt q.index.toNat = [] ∨
        (q.sub ≠ 0 ∧ ∀ x ∈ s.sku.rowsAt q.index.toNat, x.sub ≠ q.sub.toNat)) →
      s.answer q = (s, { status := St.objectUnknown }, .nothing))

/-- READ, READ_RECORDS, DESCRIBE, AUTHORISE, SUBSCRIBE and NEXT_INDEX: the request at the front is taken from the
queue and answered on its channel; NEXT_INDEX before Ready is answered ACCESS_DENIED (the model's reading, log entry
18). A READ that passes its checks gives the bytes of the entry from OFFSET on, of a scalar, BLOB or RECORD filled up to
LENGTH with zeros and of a STR as many as there are, and changes nothing but the answer; one of `read_records` gives
the next records (R338, R344 to R346, R381; which bytes a part asks for is the model's reading, log entry 14). -/
def Obligations.RequestsAnswered : Prop :=
  (∀ (s : State) (q : Request), s.serves q = true → q.version = 1 →
    (q.op = 1 → exec .read s = .next ((s.popped.readReq q).1.respond q (s.popped.readReq q).2)) ∧
    (q.op = 1 → q.index = 0x9000 → q.sub = 6 →
      exec .readRecords s = .next ((s.popped.readReq q).1.respond q (s.popped.readReq q).2)) ∧
    (q.op = 3 → exec .describe s = .next ((s.popped.describeReq q).1.respond q (s.popped.describeReq q).2)) ∧
    (q.op = 4 → exec .authorise s = .next ((s.popped.authoriseReq q).1.respond q (s.popped.authoriseReq q).2)) ∧
    (q.op = 5 → exec .subscribe s = .next ((s.popped.subscribeReq q).1.respond q (s.popped.subscribeReq q).2)) ∧
    (q.op = 6 → exec .nextIndex s = .next (s.popped.respond q (if s.boot.life.open then
      q.part (natLe 2 (s.popped.nextIndex q.ch q.index.toNat)) else { status := St.accessDenied })))) ∧
  (∀ (s : State) (q : Request) (r : Row), s.sku.row? q.index.toNat q.sub.toNat = some r →
    s.readAllowed q r = true → lengthStatus q.ch false r.size q.length.toNat q.offset.toNat = none → q.length ≠ 0 →
    (¬ (r.base = 0x9000 ∧ r.sub = 6) → ∀ b, s.valueOf q.ch r q.index.toNat q.offset.toNat q.length.toNat = some b →
      s.readReq q = (s, { status := St.ok, layered := r.layered,
                          value := (if r.base = 0x8000 ∧ r.sub = 2 then b
                            else if r.typ = 7 then (b.drop q.offset.toNat).take q.length.toNat
                            else slice b q.offset.toNat q.length.toNat) ++
                            (if r.layered then s.trailer q.index.toNat else []) })) ∧
    (r.base = 0x9000 → r.sub = 6 → q.offset = 0 → 128 ≤ q.length.toNat →
      s.readReq q = (s, { status := St.ok, value := (s.log.readRecords (s.chan q.ch).readFrom
        (s.chan q.ch).readSeverity (q.length.toNat / 128)).flatMap LogRec.bytes })))

/-- Each write row serves the WRITE it names, but those of a module reset and of a recovery image, which `ResetsStart`
is about: a request that passes every check takes effect, its transfer is over, and it is answered OK (R346 to R348).
-/
def Obligations.WritesAccepted : Prop :=
  ∀ (i : Instr) (s : State) (q : Request) (r : Row) (token : U64), s.serves q = true → s.accepts q r token = true →
    (s.written q r token).2 = St.ok → ¬ (r.base = 0xA050 ∧ (r.sub = 1 ∨ r.sub = 7)) →
    ∀ is, writeRow i = some is → is s q = true →
      exec i s = .next ((s.written q r token).1.respond q okReply)

/-- WARM_MODULE_RESET, COLD_MODULE_RESET and RECOVERY_IMAGE_WRITE: the answer goes out, and the module starts; an image
that does not verify is answered with the status of its check, and starts nothing (R389, R407, R409). -/
def Obligations.ResetsStart : Prop :=
  ∀ (s : State) (q : Request) (r : Row) (token : U64) (f : StartFindings), s.serves q = true →
    s.accepts q r token = true → q.index = 0xA050 →
    let u := (s.written q r token).1.respond q { status := (s.written q r token).2 }
    (q.sub = 1 → (s.written q r token).2 = St.ok → s.action q = 1 → leNat ((s.popped.gather q).into (zeros 1)) = 1 →
      exec (.warmModuleReset f) s = .next (u.moduleReset q.ch false f)) ∧
    (q.sub = 1 → (s.written q r token).2 = St.ok → s.action q = 2 → leNat ((s.popped.gather q).into (zeros 1)) = 2 →
      exec (.coldModuleReset f) s = .next (u.moduleReset q.ch true f)) ∧
    (q.sub = 7 → exec (.recoveryImageWrite f) s = .next
      (if (s.written q r token).2 = St.ok then
        u.recoverWith (((s.popped.unstage q).recoveryImage (s.popped.gather q)).1) f
      else u))

/-- A scalar RW entry reads as an accepted write left it. -/
def Obligations.WrittenReadsBack : Prop :=
  ∀ (s : State) (ch : Channel) (r : Row) (index : Nat) (v : Cover), r ∈ catRows → r.at s.sku index = true →
    r.scalar = true → r.acc = 1 → r.shapeOk v = true →
    s.scalarCheck r index (leNat (v.into (zeros r.size))) = none → (s.applyWrite ch r index v).2 = St.ok →
    (s.applyWrite ch r index v).1.valueOf ch r index 0 r.size = some (v.into (zeros r.size))

/-- A write of an RWS entry without an authorisation whose scope includes it, and that installs no first key, is
answered ACCESS_DENIED and writes nothing: only the notice of the refusal and the answer follow (R348, R350). (A
notice for which the Logbook's queue has no room leaves at once, over the fabric too.) -/
def Obligations.RwsNeedsAuthorisation : Prop :=
  ∀ (s : State) (q : Request) (r : Row), s.serves q = true → q.version = 1 → q.op = 2 →
    s.sku.row? q.index.toNat q.sub.toNat = some r → r.acc = 3 → s.popped.writeAllowed q r = true →
    s.popped.signedBy q.ch r q.index.toNat = none →
    exec .write s = .next ((s.popped.refuseRws q).respond q { status := St.accessDenied }) ∧
    (s.popped.refuseRws q).ctxs = s.ctxs ∧ (s.popped.refuseRws q).mem = s.mem ∧
    (s.popped.refuseRws q).power = s.power ∧ (s.popped.refuseRws q).sec = s.sec ∧
    (s.log.queue.length < 256 → (s.popped.refuseRws q).fab = s.fab) ∧ (s.popped.refuseRws q).boot = s.boot

/-- The request area holds what is written to it; MB_GO with the request's SEQ on an idle mailbox then sets BUSY and
queues the request, and does nothing else (R354); with another SEQ it starts nothing, nor does it on a VF's mailbox while
the module has no number (R322; the model's readings, log entry 16). A datagram with a good checksum from an allowed source, whole and new, is queued while fewer than 16 wait; a
remembered one is answered again; any other is discarded and counted (R352). A MGMT packet for die 0 from a source in
reach is queued with the others (R355). That a message must carry the bytes it counts, that a remembered one is
answered on arrival, and that a MGMT packet is taken in once the fabric is up are the model's reading (log entry 17). -/
def Obligations.RequestsArrive : Prop :=
  (∀ (s : State) (f : Func) (seq : U16) (area : Bytes), s.boot.life.hasLink = true → s.hasFunc f = true →
    area.length = 4088 → ((s.mailbox f).busy = false → field area 2 2 = seq.toNat → s.mailboxServes f = true → ∃ t, exec (.mbGo f seq area) s = .next t ∧ (t.mailbox f).busy = true ∧
      t.cat.requests = s.cat.requests ++ [Request.parse (funcChannel f) 0 area] ∧ t.ctxs = s.ctxs ∧ t.mem = s.mem) ∧
    ((s.mailbox f).busy = true ∨ field area 2 2 ≠ seq.toNat ∨ s.mailboxServes f = false →
      exec (.mbGo f seq area) s = .next (s.setArea f area)) ∧
    (s.mailboxServes f = true ↔ (f = .pf ∨ s.fab.moduleNumber ≠ 0xFFFFFFFF))) ∧
  (∀ (s : State) (a : BitVec 128) (port : U16) (ok : Bool) (b : Bytes), s.boot.life ≠ .off →
    let q := Request.parse (.mgmt a port) 0 b
    let good := ok && s.cat.admits a && 24 ≤ b.length && b.length ≤ 1232 && !(q.carries && b.length - 24 < q.length.toNat)
    (good = false → exec (.mgmtDatagram a port ok b) s = .next s.discardMessage) ∧
    (good = true → ∀ old, s.recall q = some old →
      exec (.mgmtDatagram a port ok b) s = .next (s.emit (.message (.mgmt a port) old))) ∧
    (good = true → s.recall q = none → s.cat.heldMgmt < 16 →
      exec (.mgmtDatagram a port ok b) s = .next (s.enqueue q)) ∧
    (good = true → s.recall q = none → 16 ≤ s.cat.heldMgmt →
      exec (.mgmtDatagram a port ok b) s = .next s.discardMessage)) ∧
  (∀ (s : State) (p : Packet), s.boot.life.hasLink = true → p.kind = 0x40 → s.isMine p.dest = true → p.hops.toNat ≤ 63 →
    destDie p.dest = 0 → (s.takeArrived p).reaches p.src = true →
    let q := Request.parse (.fabric (BitVec.ofNat 20 (p.src.toNat / 16))) p.src p.data.flatten
    24 ≤ p.data.flatten.length → (q.carries && p.data.flatten.length - 24 < q.length.toNat) = false →
    ((s.takeArrived p).recall q = none → exec (.mgmtPacket p) s = .next ((s.takeArrived p).enqueue q)) ∧
    ∀ old, (s.takeArrived p).recall q = some old →
      exec (.mgmtPacket p) s = .next ((s.takeArrived p).sendReply q old))

/-- What ends of itself: a staged transfer after 1 s, an authorisation past its end, what an idle channel holds, a
subscription, the memory of a request; and what the module answers of ICMPv6 (R347, R349, R351, R352). That an idle
channel keeps the time of its last refusal (log entry 52), and that tagged and fragmented frames are not counted (log
entry 17), is the model's reading. -/
def Obligations.ChannelExpiries : Prop :=
  ∀ (s : State) (ch : Channel) (seq : U16) (src : BitVec 128) (d : Bytes),
    ((s.chan ch).staged.isSome = true → ∃ t, exec (.stagedTransferExpiry ch) s = .next t ∧
      (t.chan ch).staged = none ∧ (t.chan ch).auth = (s.chan ch).auth) ∧
    ((s.chan ch).auth.isSome = true → s.authFor ch = none → ∃ t, exec (.authorisationExpiry ch) s = .next t ∧
      (t.chan ch).auth = none ∧ (t.chan ch).staged = (s.chan ch).staged) ∧
    (isMailbox ch = false → ∃ t, exec (.channelIdleExpiry ch) s = .next t ∧
      t.chan ch = { ChanState.new ch with refusedAt := (s.chan ch).refusedAt }) ∧
    (∃ t, exec (.subscriptionExpiry ch) s = .next t ∧ (∀ x ∈ t.cat.subs, x.ch ≠ ch) ∧
      ∀ x ∈ s.cat.subs, x.ch ≠ ch → x ∈ t.cat.subs) ∧
    (∃ t, exec (.requestMemoryExpiry ch seq) s = .next t ∧
      (∀ x ∈ t.cat.remembered, ¬ (x.ch = ch ∧ x.seq = seq)) ∧
      ∀ x ∈ s.cat.remembered, ¬ (x.ch = ch ∧ x.seq = seq) → x ∈ t.cat.remembered) ∧
    (s.boot.life ≠ .off →
      exec (.icmpv6Frame .neighborSolicitation src d) s = .next (s.emit (.neighborAdvertisement src)) ∧
      exec (.icmpv6Frame .echoRequest src d) s = .next (s.emit (.echoReply src d)) ∧
      exec (.icmpv6Frame .tagged src d) s = .next s ∧ exec (.icmpv6Frame .fragment src d) s = .next s)

/-- Requests of the four actions of `slot_request` that meet the state they need: BIND queues its plan and takes the
slot to REBINDING with the next generation, RELEASE to RELEASING, PAUSE begins to drain, RESUME returns to BOUND; the
result record carries the status and the request's SEQ (R276, R279). A RELEASE discards the pending entries of the slot's
Ephemeris ring (R271); that they go at once, with a BARRIER that holds the ring, is the model's reading (log entry 46). -/
def Obligations.SlotRequests : Prop :=
  ∀ (s : State) (b : Bytes) (c : Slot), slotByte (fieldBv 8 b 1 1) = some c →
    (field b 0 1 = 1 → (s.ctx c).st = .free → (fieldBv 8 b 2 1).toNat < 32 →
      (s.bindSlot c (fieldBv 8 b 2 1)).2 = St.ok →
      (s.slotRequest b).2 = St.ok ∧ ((s.slotRequest b).1.ctx c).st = .rebinding ∧
        ((s.slotRequest b).1.ctx c).gen = (s.ctx c).gen + 1) ∧
    (field b 0 1 = 2 → (s.ctx c).st = .bound ∨ (s.ctx c).st = .paused →
      (s.slotRequest b).2 = St.ok ∧ (s.slotRequest b).1.ctx c = { s.ctx c with
        st := .releasing, eph := { (s.ctx c).eph with pending := [], barrier := none } } ∧
      ∀ d ∈ (s.slotRequest b).1.due, ¬ (d.ring = .ctx c ∧ d.entry.kind = 2)) ∧
    (field b 0 1 = 3 → (s.ctx c).st = .bound →
      (s.slotRequest b).2 = St.ok ∧ (s.slotRequest b).1.ctx c = { s.ctx c with pausing := true }) ∧
    (field b 0 1 = 4 → (s.ctx c).st = .paused →
      (s.slotRequest b).2 = St.ok ∧ (s.slotRequest b).1.ctx c = { s.ctx c with st := .bound }) ∧
    (s.slotRequest b).1.res.slotStatus = (s.slotRequest b).2 ∧
      (s.slotRequest b).1.res.slotSeq = fieldBv 32 b 4 4 ∧ (s.slotRequest b).1.mem = s.mem ∧
      ∀ d, d ≠ c → (s.slotRequest b).1.ctx d = s.ctx d

/-- An ALLOC that passes its checks and admission makes its pages usable, without a frame until their first write, and
changes no byte; a request refused changes no page; the result record carries the status and the request's SEQ; of
another slot no more changes than the place of a page that SET_CLASS evicts (R241 to R245, R248). -/
def Obligations.PoolRequests : Prop :=
  ∀ (s : State) (c : Slot) (r : PoolReq),
    ((s.poolRequest c r).2 ≠ St.ok → ((s.poolRequest c r).1.ctx c).pool.pages = (s.ctx c).pool.pages) ∧
    ((s.poolRequest c r).2 = St.ok → r.action = 1 →
      ∀ p, r.addr / pageBytes ≤ p → p < r.addr / pageBytes + r.pages.toNat →
        ((s.poolRequest c r).1.ctx c).usable p = true ∧
        ((s.poolRequest c r).1.ctx c).page p =
          some (Page.fresh ((PageClass.ofCode r.cls).getD .auto) r.hint)) ∧
    (r.action = 1 → (s.poolRequest c r).1.mem = s.mem) ∧
    ((s.poolRequest c r).1.ctx c).pool.result.status = (s.poolRequest c r).2 ∧
    ((s.poolRequest c r).1.ctx c).pool.result.seq = r.seq ∧
    ∀ d, d ≠ c → SameSlot (s.ctx d) ((s.poolRequest c r).1.ctx d) ∧
      (r.action ≠ 3 → (s.poolRequest c r).1.ctx d = s.ctx d)

/-! ### Frames -/

/-- Commands that store nothing of their own leave every device-range byte as it was, but the CMP_TAIL word of a slot
that gets a completion; and they leave the slots' own registers. -/
def Obligations.QuietFrame : Prop :=
  ∀ (i : Instr) (s t : State), quietRow i = true → MemInv s → exec i s = .next t →
    (∀ c k, k < rangeBytes → ¬ s.cmplWord c k → t.byte c k = s.byte c k) ∧ ∀ c, SameSlot (s.ctx c) (t.ctx c)

/-- An operation row whose work stays in its slot leaves the other slots' bytes and registers. -/
def Obligations.OperationFrame : Prop :=
  ∀ (i : Instr) (s t : State) c n mine go, localRow i = true → startRow i = some (c, n, mine, go) → MemInv s →
    exec i s = .next t → ∀ d, d ≠ c →
      SameSlot (s.ctx d) (t.ctx d) ∧ ∀ k, k < rangeBytes → ¬ s.cmplWord d k → t.byte d k = s.byte d k

/-! ### Meridian and Ephemeris (chapter 13) -/

/-- At a tick boundary the count goes on by one; a follower in SYNCHRONISED takes its root's count where that is ahead
of its own, and holds where it is not. It never falls (R257, R263). A module without main power, held or in recovery
has no boundaries (the model's choice, log entry 4). -/
def Obligations.CountNeverFalls : Prop :=
  ∀ s : State,
    (s.boot.life.hasLink = true → ∃ t, exec .tickBoundary s = .next t ∧
      t.mer.count = s.mer.next.1 ∧ t.mer.state = s.mer.state ∧ t.mer.role = s.mer.role ∧
      t.mer.tickCode = (if s.mer.changing then s.mer.nextCode.getD s.mer.tickCode else s.mer.tickCode) ∧
      t.mer.heardBefore = s.mer.heard ∧ t.mer.heard = [] ∧
      (s.boot.life ≠ .ready → t.mem = s.mem ∧ t.ctxs = s.ctxs ∧ t.modRing = s.modRing ∧ t.due = s.due)) ∧
    (s.boot.life.hasLink = false → exec .tickBoundary s = .next s) ∧
    (s.mer.count ≠ 0xFFFFFFFFFFFFFFFF → s.mer.count ≤ s.mer.next.1) ∧
    (s.mer.role = 1 ∨ s.mer.state ≠ 1 ∨ s.mer.domain = none → s.mer.next.1 = s.mer.count + 1) ∧
    ∀ d, s.mer.role ≠ 1 → s.mer.state = 1 → s.mer.domain = some d →
      s.mer.next.1 = if s.mer.count < d + 1 then d + 1 else s.mer.count

/-- START_STEP, RAMP, SNAPSHOT, REBIND, SAMPLE, MARK and phase entries: the first entry of those due that can act does,
and its completion follows; the entry at the front is the first unless what it writes cannot be reached (R268, R269,
R287; the model's reading, log entry 49). -/
def Obligations.DueEntriesAct : Prop :=
  (∀ (s : State) (d : DueEntry) (rest : List DueEntry), s.due = d :: rest → s.dueWaits d = false →
    s.nextDue = some (d, rest)) ∧
  ∀ (i : Instr) (s : State) mine act (d : DueEntry) (rest : List DueEntry), actRow i = some (mine, act) →
    s.nextDue = some (d, rest) → mine d = true → exec i s = .next
      ((act { s with due := rest } d).1.postEph d.ring d.entry
        (if (act { s with due := rest } d).2 = St.ok then missedStatus d.missed else (act { s with due := rest } d).2)
        (0 < d.lateness) d.at_)

/-- START_STEP of a context ring opens its step, and fixes for it the seed and the mode that the slot had when the entry
fired, or those of the image it was restored from; the close of the step open before is due, unless the context has just
been restored; tokens are added (R139, R189, R98, R228, R366). That the close of step 0 is due with the first START_STEP
is the model's reading (log entry 33). -/
def Obligations.StartStepOpens : Prop :=
  ∀ (s : State) (c : Slot) (d : DueEntry) (rest : List DueEntry), s.nextDue = some (d, rest) → d.ring = .ctx c →
    d.entry.kind = 1 →
    let x := s.ctx c
    let step := if d.entry.arg 0 = allOnes64 then x.stream.openStep + 1 else d.entry.arg 0
    let fixed := x.train.restored.getD (d.seed, d.mode)
    ∃ t, exec .startStep s = .next t ∧ t.due = rest ∧
      (t.ctx c).stream.openStep = step ∧ (t.ctx c).stream.stepOpened = true ∧
      (t.ctx c).stream.closing =
        (if x.train.restored.isSome then x.stream.closing else x.stream.closing ++ [x.stream.openStep]) ∧
      (t.ctx c).train.restored = none ∧ (t.ctx c).num.seedOf step = fixed ∧
      (t.ctx c).num.seedInForce = fixed.1 ∧ (t.ctx c).num.modeInForce = fixed.2 ∧
      (t.ctx c).energy.tokens = x.energy.tokens + d.entry.arg 1 ∧ (t.ctx c).stream.ops = x.stream.ops

/-- BARRIER holds its ring from its beginning; one met before it began completes. A held BARRIER whose timeout has
passed is missed, completes with EVENT_MISSED, and its ring goes on (R268, R270); it counts among the missed of its
ring and of the module (the model's reading, log entry 35). A ramp limit whose end count has
come while the count is held leaves its block; the other limit stays (R272). -/
def Obligations.BarriersAndRamps : Prop :=
  (∀ (s : State) (c : Slot),
    (∀ (d : DueEntry) (rest : List DueEntry), s.nextDue = some (d, rest) → d.ring = .ctx c → d.entry.kind = 2 →
      (∀ b, (s.ctx c).eph.barrier = some b → b.pos = d.pos → ∃ t, exec .barrier s = .next t ∧ t.due = rest ∧
        (t.ctx c).eph = { (s.ctx c).eph with barrier := some { b with began := true } } ∧ t.mem = s.mem) ∧
      ((s.ctx c).eph.barrier = none → exec .barrier s =
        .next (({ s with due := rest }).postEph (.ctx c) d.entry (missedStatus d.missed) (0 < d.lateness) d.at_))) ∧
    ∀ b, (s.ctx c).eph.barrier = some b → b.began = true → b.entry.arg 2 ≠ 0 → s.mer.held = true →
      b.entry.arg 2 ≤ s.mer.count - b.since → s.barrierMet c b.entry = false → (s.ctx c).eph.pending = [] →
      ∃ t, exec (.barrierTimeout c) s = .next t ∧ (t.ctx c).eph.barrier = none ∧
        (t.ctx c).eph.missed = (s.ctx c).eph.missed + 1 ∧ t.mer.missed = s.mer.missed + 1 ∧
        t.mer.count = s.mer.count) ∧
  (∀ (s : State) (b : Nat) (fromModule : Bool), (s.sku.blockKind b).isSome = true →
    s.rampOver (if fromModule then (s.block b).rampModule else (s.block b).rampContext) = true →
    exec (.rampEnd b fromModule) s = .next (s.setBlock b
      (if fromModule then { s.block b with rampModule := none } else { s.block b with rampContext := none })))

/-- A follower that hears nothing enters HOLDOVER, and after it LOST, where every running wait for the Meridian ends
(R208); a beacon that returns takes it to ACQUIRING, an acquisition to SYNCHRONISED. Each transition counts; the count
itself stays (R261, R262). A beacon that a follower does not listen to is taken and changes nothing; one it listens to
is heard, and one that is the best of the lowest root's is followed: its code and its root are taken over, and its count
with its age and its link's delay is the root's; another leaves the beacon that is followed and the root's count
(R258 to R260, R318). A root's new tick code comes in at a multiple of 65,536 (R258). That a follower takes a beacon's
code over at once, that of equal beacons the first is the best, and that every acquisition leaves its correction, is the
model's reading (log entry 37). -/
def Obligations.MeridianFollows : Prop :=
  (∀ s : State, s.mer.role ≠ 1 →
    (s.mer.state = 1 → s.mer.silent = true → ∃ t, exec .beaconTimeout s = .next t ∧ t.mer.state = 2 ∧
      t.mer.holdover = 0 ∧ t.mer.followed = none ∧ t.mer.changes = s.mer.changes + 1 ∧ t.mer.count = s.mer.count ∧
      t.meridianField = s.mer.count) ∧
    (s.mer.state = 2 → ∃ t, exec .holdoverExpiry s = .next t ∧ t.mer.state = 3 ∧
      t.mer.changes = s.mer.changes + 1 ∧ t.mer.count = s.mer.count ∧ t.meridianField = 0xFFFFFFFFFFFFFFFF ∧
      ∀ c n o d, t.op? c n = some o → o.desc = .wait d → d.wkind = 1 → o.st ≠ .running) ∧
    (s.mer.state = 3 → s.mer.followed.isSome = true → ∃ t, exec .lostBeaconReturn s = .next t ∧ t.mer.state = 0 ∧
      t.mer.changes = s.mer.changes + 1 ∧ t.mer.count = s.mer.count ∧ t.ctxs = s.ctxs ∧ t.mem = s.mem) ∧
    (∀ ns, s.mer.state = 0 ∨ s.mer.state = 2 → s.mer.followed.isSome = true → s.boot.life = .ready →
      ∃ t, exec (.acquisitionComplete ns) s = .next t ∧ t.mer.state = 1 ∧ t.mer.lastCorrection = ns ∧
        t.mer.wasSync = true ∧ t.mer.changes = s.mer.changes + 1 ∧ t.mer.count = s.mer.count)) ∧
  (∀ (s : State) (b : Beacon), s.noSuchPort b = false →
    (s.listens b = false → exec (.beaconReceive b) s =
      .next { s with fab := { s.fab with beacons := s.fab.beacons.erase b } }) ∧
    (s.listens b = true → ∃ t, exec (.beaconReceive b) s = .next t ∧ t.mer.heard = s.mer.heard ++ [b] ∧
      t.mer.count = s.mer.count ∧ t.mer.state = s.mer.state ∧
      ∃ root, lowestRoot (s.mer.heard ++ [b] ++ s.mer.heardBefore) = some root ∧
      (bestBeacon root (s.mer.heard ++ [b]) = some b →
        t.mer.followed = some b ∧ t.mer.tickCode = b.tickCode.setWidth 8 ∧
        t.mer.root = (if b.root = hostRoot then 0xFFFFFFFF else b.root) ∧
        t.mer.domain = some (beaconCount b (match b.port with | some p => (s.port p.val).delayNs | none => 0))) ∧
      (bestBeacon root (s.mer.heard ++ [b]) ≠ some b → t.mer.followed = s.mer.followed ∧
        t.mer.tickCode = s.mer.tickCode ∧ t.mer.root = s.mer.root ∧ t.mer.domain = s.mer.domain)) ∧
    (∀ k, s.mer.nextCode = some k → s.mer.role = 1 → s.mer.count.toNat % 65536 = 0 →
      exec .tickCodeChange s = .next { s with mer := { s.mer with tickCode := k, nextCode := none } }))

/-- A write of 64 bytes to `module_entry` appends one entry while fewer than 256 are pending; with 256 it is refused
with VALUE_OUT_OF_RANGE and nothing changes (R266). -/
def Obligations.ModuleRingAppends : Prop :=
  ∀ (s : State) (b : Bytes),
    (s.modRing.pending.length < 256 → (s.appendModuleEntry b).2 = St.ok ∧
      (s.appendModuleEntry b).1.modRing.pending =
        s.modRing.pending ++ [{ pos := s.modRing.next, entry := EphEntry.parse b,
                                discard := s.checkEntry .module (EphEntry.parse b) }] ∧
      (s.appendModuleEntry b).1.modRing.next = s.modRing.next + 1) ∧
    (256 ≤ s.modRing.pending.length → s.appendModuleEntry b = (s, St.valueOutOfRange)) ∧
    ∀ ch r v, r ∈ catRows → r.base = 0x7200 → r.sub = 2 → r.size = 64 ∧
      s.applyWrite ch r 0x7200 v = s.appendModuleEntry (v.into (zeros 64))

/-! ### Lists and operations (chapter 10) -/

/-- The next list taken in is walked: accepted with its operations, or refused by its walk; a NOP completes with OK in
its turn (the model's reading, log entry 21). Every operation of a list that joins the stream waits, in list order,
under the numbers that follow; every earlier operation stays as it was; a STEP of all ones is the open step (the
model's reading, log entry 33) (R188 to R190). -/
def Obligations.ListsAreWalked : Prop :=
  (∀ (s : State) (c : Slot) (e : SubEntry) (rest : List SubEntry), (s.ctx c).stream.subQueue = e :: rest →
    (s.ctx c).st.holds = true → s.boot.life = .ready → s.listWaits c e = false →
    let u := s.modStream c (fun x => { x with subQueue := rest })
    (e.nop = true → exec (.listWalk c) s = .next (u.postList c e.tag St.ok 0 (u.ctx c).stream.openStep)) ∧
    (∀ w, e.nop = false → u.walkList c e.list.toNat = .ok w → exec (.listWalk c) s = .next (u.acceptList c e w)) ∧
    (∀ st id, e.nop = false → u.walkList c e.list.toNat = .error (st, id) → exec (.listWalk c) s =
      .next (u.refuseList c e.tag st id (fieldBv 64 (u.bytes c e.list.toNat 64) 16 8)))) ∧
  (∀ (s : State) (c : Slot) (e : SubEntry) (w : Walked), w.descs ≠ [] →
    (s.ctx c).stream.openStep ≤ w.step →
    (∀ l ∈ (s.ctx c).stream.lists, ∃ o ∈ (s.ctx c).stream.ops, o.list = l.id ∧ o.finished = false) →
    (∀ o ∈ (s.ctx c).stream.ops, o.list < (s.ctx c).stream.nextList) →
    let x := (s.ctx c).stream
    let y := ((s.acceptList c e w).ctx c).stream
    y.ops.take x.ops.length = x.ops ∧ y.ops.length = x.ops.length + w.descs.length ∧
    y.nextOp = x.nextOp + w.descs.length ∧ y.lists.length = x.lists.length + 1 ∧
    ∀ i, ∀ h : i < w.descs.length, ∃ o, y.ops[x.ops.length + i]? = some o ∧ o.n = x.nextOp + i ∧ o.list = x.nextList ∧
      o.st = .waiting ∧ o.run = none ∧ (o.hdr, o.desc) = w.descs[i] ∧
      o.step = if w.step = 0xFFFFFFFFFFFFFFFF then x.openStep else w.step)

/-- Each operation row starts the operation it names, when it passes all that stands before its start: it runs, and the
row's work begins with it. -/
def Obligations.OperationsStart : Prop :=
  ∀ (i : Instr) (s : State) c n mine go o vs, startRow i = some (c, n, mine, go) → Begins s c n o 0 vs →
    mine o.desc = true → exec i s = .next (go (s.beginOp c o vs) o (s.opCtx c o) vs)

/-- The collective rows start with the group they name; its ranks and its list are those of the start check (R325). -/
def Obligations.CollectivesStart : Prop :=
  ∀ (i : Instr) (s : State) c n kind o d g vs, collRow i = some (c, n, kind) → o.desc = .coll d →
    kind d.ckind.toNat = true → s.groupOf c d.group.toNat = some g → Begins s c n o g.ranks vs →
    exec i s = .next (beginColl g (s.beginOp c o vs) o (s.opCtx c o) vs)

/-- An operation starts only under the start conditions: fewer than 16 earlier operations incomplete, no earlier WAIT
incomplete, FENCE and MARK behind all, no hazard by handle index, the list's step open. One that they hold back is not
started; one that its start check refuses completes with that status, an empty one with OK (R189, R197, R210). -/
def Obligations.OperationsHeldOrRefused : Prop :=
  (∀ (i : Instr) (s : State) c n mine go o, startRow i = some (c, n, mine, go) → s.op? c n = some o →
    (s.mayStart c o = false → exec i s = .next s) ∧
    (mine o.desc = true → s.mayStart c o = true →
      (∀ st, s.startCheck c none o ((s.ctx c).num.seedOf o.step).2.toNat 0 none = .error st →
        exec i s = .next (s.finishOp c o st false)) ∧
      (s.startCheck c none o ((s.ctx c).num.seedOf o.step).2.toNat 0 none = .ok none →
        exec i s = .next (s.finishOp c o St.ok false)))) ∧
  (∀ (s : State) (c : Slot) (o : OpRec), s.mayStart c o = true →
    let earlier := (s.ctx c).stream.ops.filter (fun e => e.n < o.n && !e.finished)
    (s.ctx c).st = .bound ∧ s.boot.life = .ready ∧ o.st = .waiting ∧ earlier.length < 16 ∧
    (∀ e ∈ earlier, e.isWait = false) ∧ ((o.hdr.fence || o.isMark) = true → earlier = []) ∧
    (∀ e ∈ earlier, ∀ h ∈ o.desc.readIdx, h ∉ e.desc.writeIdx) ∧
    (∀ e ∈ earlier, ∀ h ∈ o.desc.writeIdx, h ∉ e.desc.readIdx ∧ h ∉ e.desc.writeIdx) ∧
    o.step ≤ (s.ctx c).stream.openStep)

/-- An operation that begins runs, with the operands it was checked with, on the seed and the mode of its step,
without a fault; the other operations of the stream stay (R139, R193). -/
def Obligations.OperationsRun : Prop :=
  ∀ (s : State) (c : Slot) (n : Nat) (o : OpRec) (vs : List (Nat × TView)), s.op? c n = some o →
    (∃ o' r, (s.beginOp c o vs).op? c n = some o' ∧ o'.st = .running ∧ o'.run = some r ∧ r.views = vs ∧
      (r.seed, r.mode) = (s.ctx c).num.seedOf o.step ∧ r.fault = none ∧ o'.desc = o.desc) ∧
    ∀ m, m ≠ n → (s.beginOp c o vs).op? c m = s.op? c m

/-- An operation whose work is done completes with its fault, with NUMERIC_INVALID, or with OK (R433). A WAIT ends
when its condition holds: all before it for DRAIN, the count for MERIDIAN, the word for WORD_GE and WORD_EQ; a
MERIDIAN wait of an unsynchronised module with MERIDIAN_LOST; any with EVENT_MISSED when its timeout has passed (R208;
which records follow is the model's reading, log entry 24). -/
def Obligations.OperationsEnd : Prop :=
  (∀ (s : State) (c : Slot) (n : Nat) (o : OpRec) (r : RunData), s.op? c n = some o → o.run = some r →
    o.st = .running → s.workDone c o r = true → exec (.operationComplete c n) s = .next (s.finishOp c o
      (match r.fault with | some st => st | none => if r.invalid then St.numericInvalid else St.ok) true)) ∧
  (∀ (s : State) (c : Slot) (n : Nat) (o : OpRec) (d : WaitD) (oc : OpCtx), s.waitOf c n = some (o, d, oc) →
    let u := s.touch c d.address.toNat 8
    (d.wkind = 0 → (∀ e ∈ (s.ctx c).stream.ops, e.n < n → e.finished = true) →
      exec (.waitSatisfied c n) s = .next (s.finishOp c o St.ok true)) ∧
    (d.wkind = 1 → s.mer.held = true → d.value ≤ s.mer.count →
      exec (.waitSatisfied c n) s = .next (s.finishOp c o St.ok true)) ∧
    (d.wkind = 1 → s.mer.held = false → exec (.waitSatisfied c n) s =
      .next ((s.finishOp c o St.meridianLost true).raiseStatus sevFault St.meridianLost
        { Event.blank with context := s.ctxId c, opId := o.hdr.opId, step := o.step })) ∧
    (d.wkind = 2 ∨ d.wkind = 3 → s.flashWaits c d.address.toNat 8 = false → u.poisoned c d.address.toNat = false →
      (if d.wkind = 2 then d.value.toNat ≤ u.num c d.address.toNat 8 else d.value.toNat = u.num c d.address.toNat 8) →
      exec (.waitSatisfied c n) s = .next (u.finishOp c o St.ok true)) ∧
    (d.timeout ≠ 0 → (d.wkind = 1 → s.mer.held = true) → exec (.waitTimeout c n) s =
      .next ((s.finishOp c o St.eventMissed true).raiseStatus sevNotice St.eventMissed
        { Event.blank with context := s.ctxId c, opId := o.hdr.opId, step := o.step })))

/-- The status of a list: the first, in list order, of an operation that ended it or would have without CONTINUE;
otherwise NUMERIC_INVALID if any reported it; otherwise OK. It does not depend on the order in which the operations
complete (R212). -/
def Obligations.ListStatus : Prop :=
  ∀ (l : ListRec) (ends : List (Nat × U32 × U16 × Bool)), l.decided = none → (ends.map (·.1)).Nodup →
    let out := (ends.foldl (fun (l : ListRec) e => l.take e.1 e.2.1 e.2.2.1 e.2.2.2) l).decided
    (∀ e ∈ ends, endsList e.2.2.1 = true → (∀ x ∈ ends, endsList x.2.2.1 = true → e.1 ≤ x.1) →
      out = some (e.2.2.1, e.2.1, e.1)) ∧
    (∀ e ∈ ends, (∀ x ∈ ends, endsList x.2.2.1 = false) → e.2.2.1 = St.numericInvalid →
      (∀ x ∈ ends, x.2.2.1 = St.numericInvalid → e.1 ≤ x.1) → out = some (e.2.2.1, e.2.1, e.1)) ∧
    ((∀ x ∈ ends, x.2.2.1 = St.ok) → out = none)

/-- A MARK that writes stores its value at its address, one that adds the sum modulo 2^64; one that does neither changes
nothing (R209). -/
def Obligations.MarksTakeEffect : Prop :=
  ∀ (s : State) (o : OpRec) (oc : OpCtx) (vs : List (Nat × TView)) (d : MarkD), o.desc = .mark d →
    (s.ctx oc.c).apertureAt d.address.toNat = none → s.poisoned oc.c d.address.toNat = false → MemInv s →
    d.address.toNat + 8 ≤ rangeBytes → d.address.toNat % 8 = 0 → s.readOnly oc.c d.address.toNat = false →
    (d.mflags.getLsbD 0 = true → (beginMark s o oc vs).bytes oc.c d.address.toNat 8 = natLe 8 d.value.toNat) ∧
    (d.mflags.getLsbD 0 = false → d.mflags.getLsbD 1 = true → (beginMark s o oc vs).bytes oc.c d.address.toNat 8 =
      natLe 8 (s.num oc.c d.address.toNat 8 + d.value.toNat)) ∧
    (d.mflags.getLsbD 0 = false → d.mflags.getLsbD 1 = false → beginMark s o oc vs = s) ∧
    ∀ c k, k < rangeBytes → ¬ (c = oc.c ∧ d.address.toNat ≤ k ∧ k < d.address.toNat + 8) →
      (beginMark s o oc vs).byte c k = s.byte c k

/-! ### Arrays and units (chapters 03, 04, 09) -/

/-- Unit u of a weight gradient with B bands is band u mod B of the tile of Hilbert rank u div B; the bands of one tile
are issued one after another, in ascending order (R177). -/
def Obligations.UnitsOfBands : Prop :=
  ∀ tr tc b u : Nat, 0 < b →
    unitTile tr tc b u = ((hilbertOrder tr tc)[u / b]?).map (fun p => (p.1, p.2, u % b)) ∧
    (u % b + 1 < b → ∀ p, unitTile tr tc b u = some p → unitTile tr tc b (u + 1) = some (p.1, p.2.1, p.2.2 + 1)) ∧
    ((hilbertOrder tr tc).length ≤ u / b → unitTile tr tc b u = none)

/-- A pass at the head of an array ends: its tile waits in the array's shadow for the drain, and the pass leaves the
queue, or goes on with its next sub-tile (R65), also where its operation has met what it cannot read (R64, R211). A core
whose die does not run, and work whose flash is out of reach, wait (R287). A shadow drains, and is free again unless a check is to read its tile; of an
operation that has met a fault no plate is written. A plate on its way is added at its home (R54, R62, R184). A claim
takes a reissued unit first, from the sub-tile it had reached, then the next; past the last unit the core's share has
ended (R178 to R180). A waiting Blink check of a core whose wide array is free and whose die runs is made (R69). -/
def Obligations.ArraysWork : Prop :=
  (∀ (s : State) (core : Fin 512) (w : PWork), core.val < s.sku.cores → s.dieRuns (core.val / 64) = true →
    (∀ (a : ArrayKind) p rest, kvGetD s.arrays.queues (arrKey core.val a) [] = p :: rest →
      kvGet s.arrays.shadows (arrKey core.val a) = none → s.workWaits p.c p.n = false → s.workOf p.c p.n = some w →
      let q := w.runPass s core.val p
      exec (.arrayPassEnd core a) s = .next (match q.2 with
        | none => q.1.nextPass core.val (arrKey core.val a) (w.moreSubs p)
        | some sh => (q.1.nextPass core.val (arrKey core.val a) (w.moreSubs p)).holdShadow core.val a sh)) ∧
    (∀ k rest sh, kvGetD s.arrays.drains core.val [] = k :: rest → kvGet s.arrays.shadows (4 * core.val + k) = some sh →
      s.workWaits sh.pass.c sh.pass.n = false →
      let u : State := { s with arrays := { s.arrays with drains := kvSet s.arrays.drains core.val rest } }
      let v := (w.drain u core.val sh).unitDone w sh.pass
      u.workOf sh.pass.c sh.pass.n = some w →
      exec (.tileDrain core) s = .next (if u.faulted w.o then u.freeShadow (4 * core.val + k)
        else if sh.blink.isSome then v else v.freeShadow (4 * core.val + k))) ∧
    (∀ k h, s.arrays.adds[k]? = some h → s.workWaits h.c h.n = false →
      let u : State := { s with arrays := { s.arrays with adds := s.arrays.adds.eraseIdx k } }
      u.workOf h.c h.n = some w → ∃ f, exec (.plateHomeAdd k) s = .next ((w.homeAdd u h).modRun h.c h.n f))) ∧
  (∀ (s : State) (core : Fin 512), core.val < s.sku.cores →
    (∀ c n w r, s.workOf c n = some w → s.run? c n = some r → w.claims = true → r.fault = none →
      core.val ∈ r.cores → s.dieRuns (core.val / 64) = true → s.workWaits c n = false → s.arrays.mayClaim (arrKey core.val w.arr) c n = true →
      (∀ x rest, r.reissue = x :: rest → ∃ t, exec (.claimUnit c n core) s = .next t ∧
        (∀ r', t.run? c n = some r' → r'.reissue = rest) ∧
        ∀ p, unitTile w.tr w.tc w.bands x.1 = some p → ∃ q : Pass, q.unit = x.1 ∧ q.sub = x.2 ∧ q.tr = p.1 ∧
          q.tc = p.2.1 ∧ q.band = p.2.2 ∧ t.arrays = s.arrays.push (arrKey core.val w.arr) [q]) ∧
      (r.reissue = [] → core.val ∉ r.ended → w.tr * w.tc * w.bands ≤ r.nextUnit → exec (.claimUnit c n core) s =
        .next (s.modRun c n (fun r => { r with ended := insertNat r.ended core.val }))) ∧
      (r.reissue = [] → core.val ∉ r.ended → r.nextUnit < w.tr * w.tc * w.bands → (r.nextUnit % w.bands ≠ 0 ∨ w.bands ≤ 1) →
        ∃ t, exec (.claimUnit c n core) s = .next t ∧
        ∀ p, unitTile w.tr w.tc w.bands r.nextUnit = some p → ∃ q : Pass, q.unit = r.nextUnit ∧ q.tr = p.1 ∧ q.tc = p.2.1 ∧
          q.band = p.2.2 ∧ t.arrays = s.arrays.push (arrKey core.val w.arr) [q])) ∧
    ∀ b rest, kvGetD s.arrays.blinks core.val [] = b :: rest →
      kvGetD s.arrays.queues (arrKey core.val .wide) [] = [] → core.val ∉ s.res.coresFailed →
      s.dieRuns (core.val / 64) = true → exec (.blinkCheck core) s = .next (((({ s with arrays := { s.arrays with
        blinks := kvSet s.arrays.blinks core.val rest } } : State).freeShadow b.key).blinkCompare b)))

/-! ### Completions and interrupts (chapter 15) -/

/-- A completion is written while its ring has room and nothing waits before it; otherwise it waits, the first 4,096
(that it waits behind others although there is room is the model's reading, log entry 57); one that finds the backlog
full is dropped and counted, and the next one written says so: bit 2 of its CFLAGS is set, and of no other (R304, R306). The message of a ring goes out when
`moderation_time` has passed with entries unsignalled; a vector unmasked sends what is pending (R308). The backlog of
any ring drains from its oldest entry on, in order, until none is left or the ring has no room; one of a generation
that has been released is counted in place of being written (R280, R306). -/
def Obligations.CompletionsAndInterrupts : Prop :=
  (∀ (s : State) (r : Ring) (e : Cmpl),
    ((s.ringOf r).backlog = [] → s.ringRoom r = true → s.post r e = s.writeCmpl r e) ∧
    ((s.ringOf r).backlog ≠ [] ∨ s.ringRoom r = false → (s.ringOf r).backlog.length < 4096 →
      s.post r e = s.setRing r { s.ringOf r with backlog := (s.ringOf r).backlog ++ [e] }) ∧
    (4096 ≤ (s.ringOf r).backlog.length →
      s.post r e = s.setRing r { s.ringOf r with dropped := (s.ringOf r).dropped + 1, dropNext := true }) ∧
    (∃ phase, .hostWrite (s.ringFunc r) ((s.ringOf r).base +
        BitVec.ofNat 64 (32 * ((s.ringOf r).cmpTail.toNat % (s.ringOf r).entries.toNat)))
      (e.bytes phase (s.ringOf r).dropNext) ∈ (s.writeCmpl r e).out) ∧
    ∀ phase drop, ((e.bytes phase drop).getD 0 0).getLsbD 2 = drop) ∧
  (∀ (s : State) (r : Ring), (s.ringOf r).p ≠ 0 → (s.ringOf r).modTime ≠ 0 →
    exec (.moderationTimeout r) s =
      .next ((s.setRing r { s.ringOf r with p := 0 }).sendMsix (s.ringFunc r) (s.ringOf r).vector)) ∧
  (∀ (s : State) (f : Func) (v : Fin 64), s.hasFunc f = true → v.val < funcVectors f →
    ∃ t, exec (.msixUnmask f v) s = .next t ∧
      t.msixVec f v.val = { s.msixVec f v.val with masked := false, pending := false } ∧ t.ctxs = s.ctxs ∧ t.mem = s.mem ∧
      t.out = s.out ++ (if (s.msixVec f v.val).pending then [.msix f (BitVec.ofNat 8 v.val)] else [])) ∧
  (∀ (s : State) (r : Ring), ∃ sent left t, (s.ringOf r).backlog = sent ++ left ∧
    exec (.completionBacklogDrain r) s = .next t ∧ t = sent.foldl (fun u e => u.sendWaiting r e) s ∧
    (t.ringOf r).backlog = left ∧ (left = [] ∨ t.ringRoom r = false) ∧
    (s.ringRoom r = true → (s.ringOf r).backlog ≠ [] → sent ≠ []))

/-! ### Step closes, snapshots, replay, pages (chapters 05, 11, 12) -/

/-- The oldest closing step closes once its operations have settled and no table it needs lies in flash out of reach
(R287; the model's reading, log entry 49); a page is captured, while neither it nor its image is out of reach, an image without pages left
is committed, an image asked for is restored between lists; a replay runs, and is compared (R98, R190, R221, R222,
R226, R228). -/
def Obligations.StepWork : Prop :=
  ∀ (s : State) (c : Slot),
    (∀ t rest, (s.ctx c).stream.closing = t :: rest → (s.ctx c).st.holds = true → s.boot.life = .ready →
      (s.ctx c).stream.settled t = true → s.closeWaits c = false → exec (.stepClose c) s =
        .next ((s.closeStep c t (rest.headD (s.ctx c).stream.openStep)).modStream c (fun y => { y with closing := rest }))) ∧
    (∀ img, s.images.find? (fun i => !i.committed && i.owner == s.ctxId c) = some img →
      (img.left = [] → s.image? img.id = some img → s.captureWaits c img none = false →
        exec (.snapshotCapturePage c) s = .next (s.commitImage c img)) ∧
      (∀ p q rest, img.left = p :: q :: rest → s.image? img.id = some img → s.captureWaits c img (some p) = false →
        exec (.snapshotCapturePage c) s = .next (s.captureFirst c p))) ∧
    (∀ page, (∀ img, s.openImage c = some img → s.captureWaits c img (some page) = false) →
      exec (.snapshotDemandCapture c page) s = .next (s.captureFirst c page)) ∧
    (∀ id i, (s.ctx c).train.restoring = some id → (s.ctx c).stream.lists = [] → (s.ctx c).stream.subQueue = [] →
      s.boot.life.dead = false → s.image? id = some i → s.imageReadable i = true → exec (.restoreExecute c) s = .next (s.restoreImage c i)) ∧
    (∀ r, (s.ctx c).train.replay = some r →
      (r.running = false → (s.ctx c).st = .bound → (s.ctx c).pausing = false → s.boot.life = .ready →
        (∀ o ∈ (s.ctx c).stream.ops, o.finished = true) → exec (.replayRun c) s = .next (s.replayGo c r)) ∧
      (r.ran = true → exec (.replayCompare c) s = .next (s.replayCompare c r)))

/-- A move that is done leaves its page in the new tier, with no mark more, unless either of its places is in flash out of
reach (R287; the model's reading, log entry 49); a free slice frame takes the next waiting page; refresh and
retraining change nothing. A scrub period counts the one before it as done and marks what that left, and the
uncorrectable plate it finds; an error that it does not find waits for a reader; a round of flash work takes over its
figures (R231 to R238, R249 to R251, R255). Moves as one switch are the model's reading (log entry 58), and so are the
errors that wait, their end with the period, and the figures that come with the command (log entry 59). -/
def Obligations.PagesAndBackground : Prop :=
  (∀ (s : State) (c : Slot),
    (∀ p pg x, (s.ctx c).page p = some pg → pg.moving = some x → s.lostPage c p = false → s.flashLost x = false →
      ∃ t, exec (.pageMoveSwitch c p) s = .next t ∧ (t.ctx c).page p = some { pg with tier := x, moving := none } ∧
        t.mem = s.mem ∧ (LatentInv s → t.poison = s.poison) ∧ ∀ d, d ≠ c → t.ctx d = s.ctx d) ∧
    (∀ p d sl, (s.ctx c).st = .bound → (s.ctx c).pausing = false → s.moveIn? c = some (p, d, sl) →
      exec (.residentMoveIn c) s = .next (s.moveIn c p d sl) ∧ (s.moveIn c p d sl).mem = s.mem) ∧
    ∀ k : Fin 40, k.val < s.sku.positions → exec (.ddrRetrain k) s = .next s ∧ exec (.dramRefresh k) s = .next s) ∧
  (∀ s : State, s.boot.life = .ready →
    (∃ t, exec (.scrubPeriodStart [] ⟨[], [], []⟩) s = .next t ∧ t.tiers.scrubbing = true ∧
      ((∀ x ∈ s.tiers.latent, x.2 ≠ .hard) → t.mem = s.mem ∧ t.ctxs = s.ctxs) ∧
      t.tiers.latent = s.tiers.latent.filter (fun x => x.2.isFlash) ∧
      (∀ x ∈ s.tiers.latent, x.2 = .hard ∨ x.2 = .met → x.1 ∈ t.poison) ∧
      t.tiers.scrubPasses = if s.tiers.scrubbing then s.tiers.scrubPasses + 1 else s.tiers.scrubPasses) ∧
    (∀ c a, (∀ x ∈ s.tiers.latent, x.2 ≠ .hard) → s.inRam c a = true →
      (∃ t, exec (.scrubPeriodStart [] ⟨[(c, a)], [], []⟩) s = .next t ∧ t.poisoned c a = true) ∧
      (∃ t, exec (.scrubPeriodStart [] ⟨[], [(c, a)], []⟩) s = .next t ∧ t.poisoned c a = true) ∧
      (s.tiers.latent = [] → s.poisoned c a = false → ∃ t, exec (.scrubPeriodStart [] ⟨[], [], [(c, a)]⟩) s = .next t ∧
        t.tiers.latent = [(memKey c (a / 64 * 64), .soft)] ∧ t.mem = s.mem ∧ t.ctxs = s.ctxs)) ∧
    ∀ (d : Fin 8) (w : FlashWork), d.val < s.sku.dies → s.dieRuns d.val = true → w.failed = [] →
      ∃ t, exec (.flashBackgroundWork d w) s = .next t ∧ (t.flashDie d.val).sparePct = w.sparePct ∧
        (t.flashDie d.val).wearPct = w.wearPct ∧
        (t.flashDie d.val).readRetries = (s.flashDie d.val).readRetries + BitVec.ofNat 64 w.retries ∧
        (t.flashDie d.val).bytesWritten = (s.flashDie d.val).bytesWritten + BitVec.ofNat 64 w.bytesWritten ∧
        t.poison = s.poison)

/-! ### Slots, plans, repair (chapter 14) -/

/-- A releasing slot without a running operation becomes FREE: no list, operation, page, entry or binding is left; its
generation, its floors and its energy stay (R279, R437). A pausing one whose core operations are done becomes PAUSED
(R279). That its entries already due are discarded, and that a pause waits for operations on cores only, is the model's
reading (log entry 46). -/
def Obligations.SlotsFreedAndPaused : Prop :=
  ∀ (s : State) (c : Slot),
    ((s.ctx c).st = .releasing → (s.ctx c).runningOps = [] → ∃ t, exec (.slotFreed c) s = .next t ∧
      let x := t.ctx c
      x.st = .free ∧ x.stream = CtxStream.reset ∧ x.pool.pages = [] ∧ x.eph = EphRing.reset ∧ x.sub = SubRing.reset ∧
      x.ring = CmplRing.reset ∧ x.num = CtxNum.reset ∧ x.train = CtxTrain.reset ∧
      x.groups = 0 ∧ x.slices = 0 ∧ x.endpoints = 0 ∧ x.gen = (s.ctx c).gen ∧ x.energy = (s.ctx c).energy ∧
      x.pool.floorDdr = (s.ctx c).pool.floorDdr ∧ x.pool.floorFlash = (s.ctx c).pool.floorFlash ∧
      ∀ d ∈ t.due, d.ring ≠ .ctx c) ∧
    ((s.ctx c).pausing = true → (s.ctx c).st = .bound → (s.ctx c).drained = true → ∃ t, exec (.pauseDone c) s = .next t ∧
      (t.ctx c).st = .paused ∧ (t.ctx c).pausing = false ∧ (t.ctx c).stream = (s.ctx c).stream ∧ t.mem = s.mem ∧
      ∀ d, d ≠ c → t.ctx d = s.ctx d)

/-- The next plan starts when none runs: checked again, it drains, and its slots are REBINDING. Its drain ends when the
operations it waits for are gone and the leaving cores hold nothing, and not before; the records of those cores are
then clear. The switch gives every slot its units, and one that was REBINDING is BOUND, unless it waits for a BIND of
its own (R283 to R286). A slot that is being released stays RELEASING, and one that was freed stays FREE (the model's
reading, log entry 45). -/
def Obligations.PlansProgress : Prop :=
  ∀ (s : State) (p : PlanRun) (us wb upd : U32),
    (∀ rest, s.res.planRunning = none → s.res.planQueue = p :: rest → s.boot.life = .ready →
      exec .rebindPlanStart s = .next (s.startPlan p) ∧
      let u := s.modRes (fun r => { r with planQueue := rest })
      (u.planCheck p.bind? false p.record = none → ∃ q, (s.startPlan p).res.planRunning = some q ∧
        q.assigns = p.assigns ∧ q.affected = u.affectedBy (u.assignAll p.assigns) p.assigns ∧
        (s.startPlan p).res.planPhase = 2 ∧ (s.startPlan p).res.planQueue = rest ∧
        (s.startPlan p).res.rebindStatus.state = 2 ∧
        ∀ c, ((s.startPlan p).ctx c).st = (if c ∈ q.affected ∧ (s.ctx c).st ≠ .releasing then .rebinding
          else (s.ctx c).st))) ∧
    (s.res.planRunning = some p → s.res.planPhase = 2 →
      let leaving := p.affected.flatMap (fun c => coresOf (s.leaving (s.assignAll p.assigns) 1 c))
      let idle := s.coresIdle (leaving.filter (fun k => !s.res.coresFailed.contains k))
      ((∀ q ∈ p.waits, s.opGone q = true) → idle = true →
        ∃ t, exec (.rebindDrainDone us) s = .next t ∧ t.res.planPhase = 3 ∧
          t.res.planRunning = some { p with drainUs := us } ∧ t.res.rebindStatus.state = 3 ∧
          t.res.rebindStatus.drainUs = us ∧ t.mem = s.mem ∧
          (∀ k ∈ leaving, ∀ e, e < 8 → kvGet t.watch (8 * k + e) = none) ∧
          ∀ c, (t.ctx c).st = (s.ctx c).st ∧ (t.ctx c).stream = (s.ctx c).stream ∧ (t.ctx c).pool = (s.ctx c).pool ∧
            (t.ctx c).groups = (s.ctx c).groups) ∧
      ((∃ q ∈ p.waits, s.opGone q = false) ∨ idle = false → exec (.rebindDrainDone us) s = .next s)) ∧
    (s.res.planRunning = some p → s.res.planPhase = 3 → ∃ t, exec (.rebindSwitch wb upd) s = .next t ∧
      t.res.planRunning = none ∧ t.res.rebindStatus.state = 5 ∧ t.res.rebindStatus.totalUs = p.drainUs + wb + upd ∧
      (∀ c ∈ p.affected, (t.ctx c).st = (if (s.ctx c).st = .rebinding ∧
        (∀ q ∈ s.res.planQueue, q.bind? ≠ some c) then .bound else (s.ctx c).st)) ∧
      ∀ c, (t.ctx c).groups = ((s.assignAll p.assigns).ctx c).groups ∧
        (t.ctx c).slices = ((s.assignAll p.assigns).ctx c).slices ∧
        (t.ctx c).endpoints = ((s.assignAll p.assigns).ctx c).endpoints)

/-- A unit lies with at most one slot after it is assigned (R275, R281). -/
def Obligations.UnitsHaveOneOwner : Prop :=
  ∀ (s : State) (a : Assign) (k : U8), k = 1 ∨ k = 2 ∨ k = 3 →
    (∀ c d, c ≠ d → (s.ctx c).units k &&& (s.ctx d).units k = 0) →
    ∀ c d, c ≠ d → ((s.assign a).ctx c).units k &&& ((s.assign a).ctx d).units k = 0

/-- A core that fails is absent; what it held is dropped, and each of its units is issued again, unless its operation
has met a fault; a die leaves when its repair's plan,
drains and lines are over, and returns with its contexts running (R180, R290, R291). -/
def Obligations.CoresAndDies : Prop :=
  ∀ s : State,
    (∀ k : Fin 512, k.val < s.sku.cores → k.val ∉ s.res.coresFailed → ∃ t, exec (.coreFailure k) s = .next t ∧
      k.val ∈ t.res.coresFailed ∧ (∀ x : Fin 4, kvGetD t.arrays.queues (4 * k.val + x.val) [] = ([] : List Pass)) ∧
      (∀ x : Fin 4, kvGet t.arrays.shadows (4 * k.val + x.val) = none) ∧
      (∀ x, x ∈ s.res.coresFailed → x ∈ t.res.coresFailed) ∧
      ((∀ h ∈ s.arrays.adds, h.core ≠ k.val) → ∀ p ∈ s.arrays.passesOf k.val, ∀ r, s.run? p.c p.n = some r →
        r.fault = none → ∃ r', t.run? p.c p.n = some r' ∧ (p.unit, p.sub) ∈ r'.reissue ∧ k.val ∉ r'.cores)) ∧
    (∀ r, s.res.repair = some r → r.ahead = 0 → s.res.dieOut = none → s.res.repairPlan = false → s.repairPausing r = false →
      s.lineOn r.die = false → ∃ t, exec .dieOutOfService s = .next t ∧ t.res.dieOut = some r.die ∧
        t.dieRuns r.die = false ∧ ∀ n ∈ State.portsOf r.die, (t.port n).state = 3) ∧
    ∀ r d ok f ms, s.res.repair = some r → s.res.dieOut = some d → ∃ t, exec (.dieReturn ok f ms) s = .next t ∧
      t.res.repair = none ∧ t.res.dieOut = none ∧ t.res.repairStatus.outMs = ms ∧
      (ok = false → t.res.repairStatus.state = 8) ∧
      ∀ c, r.pauseMask.getLsbD c.val = true → (t.ctx c).pausing = false ∧ (t.ctx c).st ≠ .paused

/-! ### Host link (chapter 15) -/

/-- An FLR of a VF empties its slot's stream of what had not begun, silences what had, and clears the rings' bases;
the PF's does so for every slot and turns the VFs off; a link that goes down counts, resets the PCIe state and leaves
the contexts' operations and the completions that wait. The link comes up at a rate and a width that exist; FLRs, VF
Enable and NumVFs follow configuration writes while the module is open (R293 to R296, R410). Which operations an FLR
drops, which lists it silences, and that a backlog outlives the link, is the model's reading (log entry 56); the
correctable errors (log entry 78) and the sizes of BAR2 (log entry 53) that come with the link are its choice. -/
def Obligations.FunctionsAndLink : Prop :=
  (∀ (s : State) (c : Slot),
    (s.hasFunc (.vf c) = true → s.boot.life.open = true → ∃ t, exec (.flrVf c) s = .next t ∧ (t.ctx c).sub.base = 0 ∧ (t.ctx c).ring.base = 0 ∧
      (t.ctx c).ring.backlog = [] ∧ (t.ctx c).stream.subQueue = [] ∧ (∀ l ∈ (t.ctx c).stream.lists, l.silent = true) ∧
      (∀ o ∈ (t.ctx c).stream.ops, o.silent = true ∧ o.st ≠ .waiting) ∧
      (∀ q ∈ t.cat.requests, q.ch ≠ .vf c) ∧ (t.ctx c).gen = (s.ctx c).gen ∧ (t.ctx c).st = (s.ctx c).st ∧
      t.mem = s.mem ∧ ∀ d, d ≠ c → t.ctx d = s.ctx d) ∧
    (s.hasFunc .pf = true → s.boot.life.open = true → ∃ t, exec .flrPf s = .next t ∧ t.host.vfEnable = false ∧ t.host.windowBase = 0 ∧
      t.host.ring.base = 0 ∧ (t.ctx c).sub.base = 0 ∧ (t.ctx c).ring.base = 0 ∧ t.mem = s.mem) ∧
    (s.host.up = true → ∃ t, exec .hostLinkDown s = .next t ∧ t.host.up = false ∧
      t.host.downs = s.host.downs + 1 ∧ t.host.correctable = s.host.correctable ∧
      t.host.rate = 0 ∧ t.host.width = 0 ∧ t.host.vfEnable = false ∧ (t.ctx c).sub.base = 0 ∧
      (t.ctx c).ring.base = 0 ∧ (t.ctx c).stream = (s.ctx c).stream ∧ (s.ctx c).ring.backlog <+: (t.ctx c).ring.backlog ∧
      t.mem = s.mem)) ∧
  (∀ (s : State) (rate : U16) (width : U8) (link : LinkSetting) (en : Bool) (n : Fin 17),
    (s.host.up = false → s.boot.life.hasLink = true → rate ∈ linkRates → width ∈ linkWidths →
      exec (.hostLinkUp rate width link) s =
        .next (s.modHost (fun h => { h with
          up := true, rate := rate, width := width, ltssm := link.ltssm
          correctable := h.correctable + link.corrected.setWidth 64
          barPf := link.barPf, barVf := link.barVf }))) ∧
    (s.host.up = true → s.boot.life.open = true → exec (.vfEnableChange en n) s =
      .next { s with host := { s.host with vfEnable := en, numVfs := n } }))

/-! ### Power and starts (chapters 18, 21) -/

/-- The device keeps the sum of the envelopes within the cap: a write that would break this is refused with
ENVELOPE_LIMIT and changes nothing, and one that is accepted keeps it (R361). -/
def Obligations.EnvelopesKeepTheCap : Prop :=
  ∀ (s : State) (v : U32) (b : Nat),
    (v.toNat < s.envelopeSum → s.writeCap v = (s, St.envelopeLimit)) ∧
    (s.envelopeSum ≤ v.toNat → (s.writeCap v).2 = St.ok ∧ (s.writeCap v).1.capOf = v.toNat ∧
      (s.writeCap v).1.envelopeSum = s.envelopeSum) ∧
    (s.sku.blockKind b = some 0 → 15000 ≤ v.toNat → v.toNat ≤ 100000 →
      (s.capOf < (s.modBlock b (fun x => { x with envelope := some v })).envelopeSum →
        s.writeEnvelope b v = (s, St.envelopeLimit)) ∧
      ((s.modBlock b (fun x => { x with envelope := some v })).envelopeSum ≤ s.capOf →
        s.writeEnvelope b v = (s.modBlock b (fun x => { x with envelope := some v }), St.ok)))

/-- A window ends: operating time goes on by 1 ms (the model's reading, log entry 62), the measured sensors are taken
over, and the power of the module is that of its blocks (R358, R364, R366). The conditions of cooling, of supply and of
a die's heat: each sets its bit once, and its end, as the sensors show it, clears that bit alone (R367, R368). -/
def Obligations.PowerAndCooling : Prop :=
  (∀ (s : State) (r : WindowReadings), s.boot.life ≠ .off → ∃ t, exec (.powerWindowEnd r) s = .next t ∧
    t.ident.operatingMs = s.ident.operatingMs + 1 ∧ t.power.busbarMv = r.busbarMv ∧ t.power.inletMc = r.inletMc ∧
    t.power.outletMc = r.outletMc ∧ t.power.dpPa = r.dpPa ∧
    t.power.modulePower = BitVec.ofNat 32 (sumNat (fun b => (t.block b).power.toNat) t.sku.blocks)) ∧
  (∀ (s : State) (d : Fin 8) (v f : U32), s.boot.life ≠ .off →
    (d.val < s.sku.dies → 95000 ≤ v.toInt → s.power.thermalDies.getLsbD d.val = false →
      ∃ t, exec (.thermalCap d v) s = .next t ∧ t.power.thermalDies = s.power.thermalDies ||| BitVec.ofNat 8 (2 ^ d.val)) ∧
    (s.power.coolantDerate = false → 45000 < v.toInt ∨ f.toNat < 10000 →
      ∃ t, exec (.coolantDerate v f) s = .next t ∧ t.power.coolantDerate = true) ∧
    (s.power.supplyDerate = false → 44000 ≤ v.toNat → v.toNat < 48000 →
      ∃ t, exec (.supplyDerate v) s = .next t ∧ t.power.supplyDerate = true) ∧
    (s.power.busbarHigh = false → 58000 < v.toNat → v.toNat ≤ 60000 →
      ∃ t, exec (.busbarHigh v) s = .next t ∧ t.power.busbarHigh = true) ∧
    (s.power.coolantDerate = true → s.power.inletMc.toInt ≤ 44000 → 11000 ≤ s.power.flowMl.toNat →
      ∃ t, exec (.conditionCleared 1 none) s = .next t ∧ t.power.coolantDerate = false ∧
        t.power.supplyDerate = s.power.supplyDerate ∧ t.power.thermalDies = s.power.thermalDies) ∧
    (s.power.supplyDerate = true → 48500 ≤ s.power.busbarMv.toNat →
      ∃ t, exec (.conditionCleared 2 none) s = .next t ∧ t.power.supplyDerate = false ∧
        t.power.coolantDerate = s.power.coolantDerate ∧ t.power.thermalDies = s.power.thermalDies) ∧
    (s.power.thermalDies.getLsbD d.val = true → (s.power.dieMc.getD d.val 0).toInt ≤ 90000 →
      ∃ t, exec (.conditionCleared 4 (some d)) s = .next t ∧
        t.power.thermalDies = s.power.thermalDies ^^^ BitVec.ofNat 8 (2 ^ d.val) ∧
        t.power.coolantDerate = s.power.coolantDerate ∧ t.power.supplyDerate = s.power.supplyDerate))

/-- A thermal stop, or a leak: no operation runs any more, the arrays and the device ranges are empty, committed
images stay, and the module is stopped until it is started cold (R369, R426); a start that holds for its coolant stops
at once for a leak or the heat of a die only (R427), and what the stop of a start, or of recovery, leaves is the model's
reading (log entry 60). With main power gone the module is off,
with nothing of its device ranges; generations, the Logbook's watermarks, the rollback counter and committed images
stay (R370, R379, R405). -/
def Obligations.ModuleStops : Prop :=
  (∀ (s : State) (cause : StopCause) (i : Instr), s.boot.life.stoppable = true → (i = .thermalStop cause ∧ stopReached cause = true ∧
      (s.boot.life = .held → waitsForHold cause = false)) ∨ i = .leakDetected →
    ∃ t, exec i s = .next t ∧ t.boot.life = s.boot.life.afterStop ∧ (s.boot.life = .ready → t.boot.life = .stopped) ∧
      t.boot.afterThermal = true ∧ t.mem = [] ∧ t.poison = [] ∧
      t.arrays = .empty ∧ t.images = s.images.filter (fun x => x.committed) ∧
      ∀ c, (t.ctx c).pool.pages = [] ∧ ∀ o ∈ (t.ctx c).stream.ops, o.st ≠ .running) ∧
  (∀ (s : State) (mv : U32) (ov : Bool), s.boot.life ≠ .off → (if ov then 60000 < mv.toNat else mv.toNat < 44000) →
    ∃ t, exec (.powerLoss mv ov) s = .next t ∧ t.boot.life = .off ∧ t.mem = [] ∧ t.log.queue = [] ∧
      t.sec.rollback = s.sec.rollback ∧ t.ident = s.ident ∧ t.images = s.images.filter (fun x => x.committed) ∧
      t.log.watermarks = s.log.watermarks ∧ ∀ c, (t.ctx c).gen = (s.ctx c).gen ∧ (t.ctx c).st = .free)

/-- Main power starts the module, and counts a power cycle; a coolant hold ends in the rest of the start when the
coolant is at its rating, and in a stop when it is not; a start whose Meridian does not come is Ready all the same
(R401, R402, R427). -/
def Obligations.StartsEnd : Prop :=
  ∀ (s : State) (f : StartFindings) (now : Coolant),
    (s.boot.life = .off → exec (.powerOn f) s = .next ((s.keep false).start 0 false true f) ∧
      ((s.keep false).start 0 false true f).ident.powerCycles = s.ident.powerCycles + 1 ∧
      ((s.keep false).start 0 false true f).boot.life ≠ .off) ∧
    (s.boot.life = .held → now.flowMl.toNat < 11000 ∨ now.inletMc.toInt < 20000 ∨ 45000 < now.inletMc.toInt →
      ∃ t, exec (.coolantStartHoldExpiry now f) s = .next t ∧ t.boot.life = .cut false ∧ t.boot.afterThermal = true) ∧
    (s.boot.life = .held → 11000 ≤ now.flowMl.toNat → 20000 ≤ now.inletMc.toInt → now.inletMc.toInt ≤ 45000 →
      f.diesFailed = [] → ∃ t, exec (.coolantStartHoldExpiry now f) s = .next t ∧
      (t.boot.life = .acquiring ∨ t.boot.life = .ready)) ∧
    (s.boot.life = .acquiring → ∃ t, exec .meridianAcquireTimeout s = .next t ∧ t.boot.life = .ready ∧
      t.boot.record.phase = 8)

/-! ### Logbook, attestation (chapters 19, 20) -/

/-- LOGBOOK_COMMIT, with main power or in hold-up, takes the oldest record from the queue and commits it, into the slot
that R377 gives it, from where the mirror is to have it; no notice leaves during hold-up (R379). MIRROR_WRITE, while die
0 runs and its flash has not failed, puts the next committed record into its slot of the mirror; with main power the hold-up energy becomes ready; a
report asked for is signed, and becomes readable (R372, R373, R377 to R379, R394). That a command commits or mirrors one
record, and that a stopped module mirrors none, is the model's reading (log entry 63). -/
def Obligations.LogbookWork : Prop :=
  (∀ (s : State) (r : LogRec) (rest : List LogRec), s.boot.life ≠ .off → s.log.queue = r :: rest →
    ∃ t, exec .logbookCommit s = .next t ∧
      t = (s.modLog (fun l => { l with queue := rest })).commitRecord r true ∧
      t.log.queue = rest ∧ t.log.nextSeq = s.log.nextSeq ∧
      ∀ slot old, s.log.cleared r = false → placeOf s.log.primary primaryQuarter r = some (slot, old) →
        kvGet t.log.primary slot = some r ∧ r ∈ t.log.mirrorQueue) ∧
  (∀ (s : State) (r : LogRec) (rest : List LogRec), s.boot.life = .off → s.log.holdup = true →
    s.log.queue = r :: rest → ∃ t, exec .logbookCommit s = .next t ∧
      t = (s.modLog (fun l => { l with queue := rest })).commitRecord r false ∧ t.log.queue = rest ∧ t.out = s.out) ∧
  (∀ (s : State) (r : LogRec) (rest : List LogRec), s.boot.life ≠ .off → s.flashUp 0 = true →
    s.log.mirrorQueue = r :: rest →
    ∃ t, exec .mirrorWrite s = .next t ∧ t.log.mirrorQueue = rest ∧ t.log.primary = s.log.primary ∧ t.mem = s.mem ∧
      t.ctxs = s.ctxs ∧
      ∀ slot old, s.log.cleared r = false → placeOf s.log.mirror mirrorQuarter r = some (slot, old) →
        kvGet t.log.mirror slot = some r) ∧
  (∀ s : State, s.boot.life ≠ .off →
    exec .holdupReady s = .next { s with log := { s.log with holdupReady := true } }) ∧
  ∀ (s : State) (body : Bytes) (ch : Channel) (mask : U8), s.sec.attest.signing = some (body, ch, mask) →
    ∃ t, exec .attestSignComplete s = .next t ∧ t.sec.attest.signing = none ∧ t.sec.attest.state = 2 ∧
      t.sec.attest.report = body ++ natLe 49856 (Config.identitySign body) ∧ t.sec.measurements = s.sec.measurements ∧
      t.mem = s.mem ∧ t.ctxs = s.ctxs

/-- `logbook_clear` clears the severities its mask selects: no record of them up to the newest SEQ is readable any more,
but for the records of clears, and every other readable record that no earlier clear covers stays (R383, R384). A mask of 0, or with bits [7:4]
set, is refused with VALUE_OUT_OF_RANGE; while die 0 is out of service the write is answered ACCESS_DENIED and changes
nothing (R383); that such a mask is answered VALUE_OUT_OF_RANGE then too is the model's choice (log entry 63). -/
def Obligations.LogbookClears : Prop :=
  ∀ (s : State) (ch : Channel) (auth : U64) (mask : U8),
    (mask = 0 ∨ 15 < mask.toNat → s.clearLog ch auth mask = (s, St.valueOutOfRange)) ∧
    (mask ≠ 0 → mask.toNat ≤ 15 → s.dieRuns 0 = false → s.clearLog ch auth mask = (s, St.accessDenied)) ∧
    (mask ≠ 0 → mask.toNat ≤ 15 → s.dieRuns 0 = true → (s.clearLog ch auth mask).2 = St.ok ∧
      (∀ r ∈ (s.clearLog ch auth mask).1.log.readable, mask.getLsbD r.severity.toNat = true → r.clearRec = false →
        s.log.nextSeq - 1 < r.seq) ∧
      ∀ r ∈ s.log.readable, mask.getLsbD r.severity.toNat = false ∨ r.clearRec = true → s.log.cleared r = false →
        r ∈ (s.clearLog ch auth mask).1.log.readable)

/-! ### The fabric (chapter 16) -/

/-- An endpoint address is the die address in [23:4] and the endpoint in [3:0]; the die address is the module number and
the die (R319). -/
def Obligations.EndpointAddresses : Prop :=
  ∀ (s : State) (d e : Nat), d < 8 → e < 16 → s.fab.moduleNumber.toNat < 2 ^ 17 →
    (s.endpointAddr d e).toNat / 16 = 8 * s.fab.moduleNumber.toNat + d ∧ (s.endpointAddr d e).toNat % 16 = e ∧
    destModule (s.endpointAddr d e) = s.fab.moduleNumber.toNat ∧ destDie (s.endpointAddr d e) = d ∧
    destEndpoint (s.endpointAddr d e) = e

/-- The link layer of a port that is up: codewords are received, an acknowledgement releases what it covers, a timeout
replays, on each codeword's lane and with its header, and retrains the link at the eighth time; the interval
acknowledges with a LINK_CTRL slot that returns the credits owed (R313 to R317), in a codeword of its own (the model's
reading, log entry 70). -/
def Obligations.LinkLayer : Prop :=
  ∀ (s : State) (n : Fin 32), n.val < s.sku.ports → (s.port n.val).state = 2 →
    let resent := fun (p : Port) (w : SentWord) =>
      Out.codeword n.val (p.laneOf w.seq) (linkHeader w.seq (p.llane w.seq) w.beacon) w.slots
    (∀ cw, exec (.codewordReceive n cw) s = .next (s.receiveCodeword n cw) ∧
      (cw.uncorrectable = true → ((s.receiveCodeword n cw).port n.val).uncorrectable =
          (s.port n.val).uncorrectable + 1 ∧ (s.receiveCodeword n cw).fab.arrived = s.fab.arrived)) ∧
    (∀ ctl, ctl.nak = false → (s.port n.val).waiting = [] → (s.port n.val).beaconDue = 0 → (s.port n.val).ctrlDue = none →
      ∃ t, exec (.linkCtrl n ctl) s = .next t ∧
      (t.port n.val).credit0 = (s.port n.val).credit0 + ctl.credit0.toNat ∧
      (t.port n.val).credit1 = (s.port n.val).credit1 + ctl.credit1.toNat ∧
      (t.port n.val).credit2 = (s.port n.val).credit2 + ctl.credit2.toNat ∧
      (t.port n.val).replay = ((s.port n.val).release ctl.ackSeq).replay ∧ t.out = s.out) ∧
    ((s.port n.val).replay ≠ [] → (s.port n.val).stuck < 7 → ∃ t, exec (.ackTimeoutReplay n) s = .next t ∧
      (t.port n.val).replays = (s.port n.val).replays + 1 ∧ (t.port n.val).state = 2 ∧
      t.out = s.out ++ (s.port n.val).replay.map (resent (s.port n.val))) ∧
    ((s.port n.val).replay ≠ [] → 7 ≤ (s.port n.val).stuck → ∃ t, exec (.ackTimeoutReplay n) s = .next t ∧
      (t.port n.val).state = 1 ∧ t.out = s.out ++ (s.port n.val).replay.map (resent (s.port n.val))) ∧
    ((s.port n.val).sinceAck ≠ 0 → (s.port n.val).ctrlDue = none → (s.port n.val).room = true →
      ∃ t, exec (.linkAcknowledgement n) s = .next t ∧ (t.port n.val).sinceAck = 0 ∧
      (t.port n.val).owed0 = 0 ∧ (t.port n.val).owed1 = 0 ∧ (t.port n.val).owed2 = 0 ∧
      (t.port n.val).txSeq = (s.port n.val).txSeq + 1 ∧
      ∃ l : LinkCtrl, ∃ w : SentWord, w.slots = l.slot :: List.replicate 9 idleSlot ∧ w.seq = (s.port n.val).txSeq ∧
        w.beacon = false ∧ t.out = s.out ++ [resent (s.port n.val) w] ∧ (t.port n.val).replay = (s.port n.val).replay ++ [w] ∧
        l.ackSeq = (s.port n.val).rxSeq - 1 ∧ l.nak = false ∧
        l.credit0 = BitVec.ofNat 16 (s.port n.val).owed0 ∧ l.credit1 = BitVec.ofNat 16 (s.port n.val).owed1 ∧
        l.credit2 = BitVec.ofNat 16 (s.port n.val).owed2)

/-- A port that trains with both ends agreed and a lane left is up with the lanes that locked; a port that was down
starts its link layer anew (the model's reading, log entry 71), and sends nothing but the beacon of the boundary just
passed, if there is one (R318); one that fails its third training goes down. The far end is told the die's address (R312,
R317, R322). -/
def Obligations.PortsTrain : Prop :=
  ∀ (s : State) (n : Fin 32) (t : Training), n.val < s.sku.ports → s.boot.life.hasLink = true →
    s.dieRuns (n.val / 4) = true →
    let p := s.port n.val
    (t.ok = true → p.live &&& t.locked ≠ 0 → p.waiting = [] → p.beaconDue = 0 → p.ctrlDue = none →
      (p.state = 1 → p.width ≠ 0 → ∃ u, exec (.linkTraining n t) s = .next u ∧ (u.port n.val).state = 2 ∧
        (u.port n.val).live = p.live &&& t.locked ∧
        (s.beaconNow n.val = none → (u.port n.val).replay = p.replay ∧ (u.port n.val).txSeq = p.txSeq) ∧
        (u.port n.val).peer = t.peer ∧ (u.port n.val).delayNs = t.delayNs ∧
        (u.port n.val).retrains = p.retrains + 1 ∧ Out.training n.val (s.dieAddr (n.val / 4)) ∈ u.out) ∧
      (p.state = 0 → p.width = 0 → ∃ u, exec (.downPortRetry n t) s = .next u ∧ (u.port n.val).state = 2 ∧
        (s.beaconNow n.val = none → (u.port n.val).replay = [] ∧ (u.port n.val).txSeq = 0) ∧
        (u.port n.val).rxSeq = 0)) ∧
    (t.ok = false → p.state = 1 → 2 ≤ p.fails → ∃ u, exec (.linkTraining n t) s = .next u ∧
      (u.port n.val).state = 0 ∧ (u.port n.val).width = 0) ∧
    (t.ok = false → p.state = 0 → ∃ u, exec (.downPortRetry n t) s = .next u ∧ (u.port n.val).state = 0)

/-- A WRITE packet for the current id of its endpoint's owner stores its payload where that is allocated, and is
acknowledged; a plate it writes whole is no longer poisoned (R234), and no byte of a page that shows an image changes
(R229, R253). An ADD adds to its word modulo 2^64. One to a page that is not allocated, or for a module that is stopped,
changes no byte of memory (R324, R330, R369), and neither does a word for a poisoned plate (the model's reading, log entry 70). One for flash out of reach
waits (R287). A packet whose DEST_CONTEXT is not the current id of its endpoint's owner acts on no byte and on no
operation: it is dropped and counted, whatever its kind, also in `stale_discards` (R280, R330); an acknowledgement of
the drop that finds no way is counted as one drop more (the model's reading, log entry 70). -/
def Obligations.RemoteWrites : Prop :=
  (∀ (s : State) (p : Packet) (c : Slot), s.isMine p.dest = true → p.hops.toNat ≤ 63 →
    s.ownerOf (destDie p.dest) (destEndpoint p.dest) = some c → p.destContext = s.ctxId c →
    let u := s.takeArrived p
    let a := p.address.toNat
    (p.kind = 0x10 →
      (s.flashWaits c a p.payload.length = true → exec (.writePacket p) s = .next s) ∧
      (s.flashWaits c a p.payload.length = false →
        (s.boot.life.dead = false → s.allocated c a p.payload.length = true →
          (p.isWord = true → s.poisoned c a = false) →
          exec (.writePacket p) s = .next ((u.store c a p.payload).ackPacket p St.ok) ∧
          (MemInv s → ∀ k, k < rangeBytes → s.readOnly c k = true →
            ((u.store c a p.payload).ackPacket p St.ok).byte c k = s.byte c k) ∧
          ((∀ x ∈ pagesOf a p.payload.length, s.shows c x = false) →
            ∀ k, k % 64 = 0 → a ≤ k → k + 64 ≤ a + p.payload.length →
              ((u.store c a p.payload).ackPacket p St.ok).poisoned c k = false)) ∧
        (s.boot.life.dead = true ∨ s.allocated c a p.payload.length = false ∨
            (p.isWord = true ∧ s.poisoned c a = true) →
          ∃ t, exec (.writePacket p) s = .next t ∧ t.mem = s.mem))) ∧
    (p.kind = 0x11 → s.flashWaits c a 8 = false →
      let v := u.touch c a 8
      (s.boot.life.dead = false → s.allocated c a 8 = true → v.poisoned c a = false → exec (.addPacket p) s =
        .next ((v.store c a (natLe 8 (s.num c a 8 + p.value.toNat))).ackPacket p St.ok)) ∧
      (s.boot.life.dead = true ∨ s.allocated c a 8 = false ∨ v.poisoned c a = true → ∃ t, exec (.addPacket p) s = .next t ∧ t.mem = s.mem))) ∧
  (∀ (i : Instr) (s : State) (p : Packet) (c : Slot),
    (i = .writePacket p ∧ p.kind = 0x10) ∨ (i = .addPacket p ∧ p.kind = 0x11) ∨ (i = .collReady p ∧ p.kind = 0x20) ∨
      (i = .collData p ∧ p.kind = 0x21) ∨ (i = .ack p ∧ p.kind = kindAck) ∨ (i = .loss p ∧ p.kind = kindLoss) →
    s.isMine p.dest = true → p.hops.toNat ≤ 63 → s.ownerOf (destDie p.dest) (destEndpoint p.dest) = some c →
    p.destContext ≠ s.ctxId c → (∀ f ∈ s.res.forwards, f.context ≠ p.destContext) →
    ∃ t, exec i s = .next t ∧ t.mem = s.mem ∧
      (t.fab.dropped = s.fab.dropped + 1 ∨ t.fab.dropped = s.fab.dropped + 2) ∧
      (t.ctx c).staleDiscards = (s.ctx c).staleDiscards + 1 ∧ (∀ d, d ≠ c → t.ctx d = s.ctx d) ∧
      ∀ d, (t.ctx d).stream = (s.ctx d).stream ∧ (t.ctx d).pool = (s.ctx d).pool)

/-- The other packets: a result reaches the operation that sent the packet; a COLL_READY and a COLL_DATA their
collective; a packet for another die of the module has arrived there over a bridge, one for elsewhere goes on with one
hop more, or is lost. What waits too long ends: a collective with LINK_DOWN, a forwarding after 100 ms (R285, R320,
R321, R324 to R330). That a packet for another die stands among those arrived, at no port, until its row acts is the
model's reading (log entry 69). -/
def Obligations.PacketsAndTimeouts : Prop :=
  ∀ (s : State) (p : Packet) (c : Slot),
    (s.isMine p.dest = true → p.hops.toNat ≤ 63 → s.ownerOf (destDie p.dest) (destEndpoint p.dest) = some c →
      p.destContext = s.ctxId c →
      (p.kind = kindAck → exec (.ack p) s = .next ((s.takeArrived p).resultOf p.opTag p.status)) ∧
      (p.kind = kindLoss → exec (.loss p) s = .next ((s.takeArrived p).resultOf p.opTag p.status)) ∧
      (p.kind = 0x20 → ∀ w, ((s.takeArrived p).colls c).find? (fun w => w.matches_ p) = some w →
        exec (.collReady p) s = .next ((s.takeArrived p).takeReady w p)) ∧
      (p.kind = 0x21 → ∀ w q, (s.takeArrived p).dataColl c p = some w →
        w.rankOf p.src = some q → w.agrees p = true → w.awaits q p = true → w.waits s = false →
        exec (.collData p) s = .next ((s.takeArrived p).takeData w q p))) ∧
    (∀ n w, s.collOf c n = some w → exec (.collectiveTimeout c n) s = .next (s.faultOp w.o St.linkDown w.dstHandle 0 [])) ∧
    (∀ n : Fin 32, n.val < s.sku.ports →
      (s.isMine p.dest = true → exec (.packetForward n p) s = .next ((s.takeArrived p).route p).1 ∧
        (none, p) ∈ ((s.takeArrived p).route p).1.fab.arrived) ∧
      (s.isMine p.dest = false → p.hops.toNat < 63 →
        ((s.takeArrived p).route { p with hops := p.hops + 1 }).2 = true →
        exec (.packetForward n p) s = .next ((s.takeArrived p).route { p with hops := p.hops + 1 }).1) ∧
      (s.isMine p.dest = false → 63 ≤ p.hops.toNat →
        exec (.packetForward n p) s = .next ((s.takeArrived p).countDropped.tell (n.val / 4) p St.latePacketDropped))) ∧
    ∀ (d : Fin 8) (e : Fin 16), d.val < s.sku.dies → ∃ t, exec (.endpointForwardExpiry d e) s = .next t ∧
      (∀ f ∈ t.res.forwards, ¬ (f.die = d.val ∧ f.endpoint = e.val)) ∧
      (∀ f ∈ s.res.forwards, ¬ (f.die = d.val ∧ f.endpoint = e.val) → f ∈ t.res.forwards) ∧ t.ctxs = s.ctxs ∧ t.mem = s.mem
end

