-- ==== Sys2Proof/Laws/State.lean ====
section
/-! SUPPORT. What each named update of the state leaves: one lemma per field per update. -/

namespace Sys2Proof.Machine

/-! ### `setCtx` -/

@[simp] theorem State.setCtx_pending (s : State) (c : Slot) (x : Ctx) : (s.setCtx c x).pending = s.pending := rfl
@[simp] theorem State.setCtx_sku (s : State) (c : Slot) (x : Ctx) : (s.setCtx c x).sku = s.sku := rfl
@[simp] theorem State.setCtx_ident (s : State) (c : Slot) (x : Ctx) : (s.setCtx c x).ident = s.ident := rfl
@[simp] theorem State.setCtx_ctxs (s : State) (c : Slot) (x : Ctx) : (s.setCtx c x).ctxs = s.ctxs.set c x := rfl
@[simp] theorem State.setCtx_mem (s : State) (c : Slot) (x : Ctx) : (s.setCtx c x).mem = s.mem := rfl
@[simp] theorem State.setCtx_poison (s : State) (c : Slot) (x : Ctx) : (s.setCtx c x).poison = s.poison := rfl
@[simp] theorem State.setCtx_watch (s : State) (c : Slot) (x : Ctx) : (s.setCtx c x).watch = s.watch := rfl
@[simp] theorem State.setCtx_arrays (s : State) (c : Slot) (x : Ctx) : (s.setCtx c x).arrays = s.arrays := rfl
@[simp] theorem State.setCtx_tiers (s : State) (c : Slot) (x : Ctx) : (s.setCtx c x).tiers = s.tiers := rfl
@[simp] theorem State.setCtx_images (s : State) (c : Slot) (x : Ctx) : (s.setCtx c x).images = s.images := rfl
@[simp] theorem State.setCtx_mer (s : State) (c : Slot) (x : Ctx) : (s.setCtx c x).mer = s.mer := rfl
@[simp] theorem State.setCtx_modRing (s : State) (c : Slot) (x : Ctx) : (s.setCtx c x).modRing = s.modRing := rfl
@[simp] theorem State.setCtx_due (s : State) (c : Slot) (x : Ctx) : (s.setCtx c x).due = s.due := rfl
@[simp] theorem State.setCtx_host (s : State) (c : Slot) (x : Ctx) : (s.setCtx c x).host = s.host := rfl
@[simp] theorem State.setCtx_res (s : State) (c : Slot) (x : Ctx) : (s.setCtx c x).res = s.res := rfl
@[simp] theorem State.setCtx_fab (s : State) (c : Slot) (x : Ctx) : (s.setCtx c x).fab = s.fab := rfl
@[simp] theorem State.setCtx_cat (s : State) (c : Slot) (x : Ctx) : (s.setCtx c x).cat = s.cat := rfl
@[simp] theorem State.setCtx_power (s : State) (c : Slot) (x : Ctx) : (s.setCtx c x).power = s.power := rfl
@[simp] theorem State.setCtx_log (s : State) (c : Slot) (x : Ctx) : (s.setCtx c x).log = s.log := rfl
@[simp] theorem State.setCtx_sec (s : State) (c : Slot) (x : Ctx) : (s.setCtx c x).sec = s.sec := rfl
@[simp] theorem State.setCtx_boot (s : State) (c : Slot) (x : Ctx) : (s.setCtx c x).boot = s.boot := rfl
@[simp] theorem State.setCtx_out (s : State) (c : Slot) (x : Ctx) : (s.setCtx c x).out = s.out := rfl
@[simp] theorem State.setCtx_freeCtr (s : State) (c : Slot) (x : Ctx) : (s.setCtx c x).freeCtr = s.freeCtr := rfl

/-! ### `modCtx` -/

@[simp] theorem State.modCtx_pending (s : State) (c : Slot) (f : Ctx → Ctx) : (s.modCtx c f).pending = s.pending := rfl
@[simp] theorem State.modCtx_sku (s : State) (c : Slot) (f : Ctx → Ctx) : (s.modCtx c f).sku = s.sku := rfl
@[simp] theorem State.modCtx_ident (s : State) (c : Slot) (f : Ctx → Ctx) : (s.modCtx c f).ident = s.ident := rfl
@[simp] theorem State.modCtx_ctxs (s : State) (c : Slot) (f : Ctx → Ctx) : (s.modCtx c f).ctxs = s.ctxs.set c (f (s.ctx c)) := rfl
@[simp] theorem State.modCtx_mem (s : State) (c : Slot) (f : Ctx → Ctx) : (s.modCtx c f).mem = s.mem := rfl
@[simp] theorem State.modCtx_poison (s : State) (c : Slot) (f : Ctx → Ctx) : (s.modCtx c f).poison = s.poison := rfl
@[simp] theorem State.modCtx_watch (s : State) (c : Slot) (f : Ctx → Ctx) : (s.modCtx c f).watch = s.watch := rfl
@[simp] theorem State.modCtx_arrays (s : State) (c : Slot) (f : Ctx → Ctx) : (s.modCtx c f).arrays = s.arrays := rfl
@[simp] theorem State.modCtx_tiers (s : State) (c : Slot) (f : Ctx → Ctx) : (s.modCtx c f).tiers = s.tiers := rfl
@[simp] theorem State.modCtx_images (s : State) (c : Slot) (f : Ctx → Ctx) : (s.modCtx c f).images = s.images := rfl
@[simp] theorem State.modCtx_mer (s : State) (c : Slot) (f : Ctx → Ctx) : (s.modCtx c f).mer = s.mer := rfl
@[simp] theorem State.modCtx_modRing (s : State) (c : Slot) (f : Ctx → Ctx) : (s.modCtx c f).modRing = s.modRing := rfl
@[simp] theorem State.modCtx_due (s : State) (c : Slot) (f : Ctx → Ctx) : (s.modCtx c f).due = s.due := rfl
@[simp] theorem State.modCtx_host (s : State) (c : Slot) (f : Ctx → Ctx) : (s.modCtx c f).host = s.host := rfl
@[simp] theorem State.modCtx_res (s : State) (c : Slot) (f : Ctx → Ctx) : (s.modCtx c f).res = s.res := rfl
@[simp] theorem State.modCtx_fab (s : State) (c : Slot) (f : Ctx → Ctx) : (s.modCtx c f).fab = s.fab := rfl
@[simp] theorem State.modCtx_cat (s : State) (c : Slot) (f : Ctx → Ctx) : (s.modCtx c f).cat = s.cat := rfl
@[simp] theorem State.modCtx_power (s : State) (c : Slot) (f : Ctx → Ctx) : (s.modCtx c f).power = s.power := rfl
@[simp] theorem State.modCtx_log (s : State) (c : Slot) (f : Ctx → Ctx) : (s.modCtx c f).log = s.log := rfl
@[simp] theorem State.modCtx_sec (s : State) (c : Slot) (f : Ctx → Ctx) : (s.modCtx c f).sec = s.sec := rfl
@[simp] theorem State.modCtx_boot (s : State) (c : Slot) (f : Ctx → Ctx) : (s.modCtx c f).boot = s.boot := rfl
@[simp] theorem State.modCtx_out (s : State) (c : Slot) (f : Ctx → Ctx) : (s.modCtx c f).out = s.out := rfl
@[simp] theorem State.modCtx_freeCtr (s : State) (c : Slot) (f : Ctx → Ctx) : (s.modCtx c f).freeCtr = s.freeCtr := rfl

/-! ### `modStream` -/

@[simp] theorem State.modStream_pending (s : State) (c : Slot) (f : CtxStream → CtxStream) : (s.modStream c f).pending = s.pending := rfl
@[simp] theorem State.modStream_sku (s : State) (c : Slot) (f : CtxStream → CtxStream) : (s.modStream c f).sku = s.sku := rfl
@[simp] theorem State.modStream_ident (s : State) (c : Slot) (f : CtxStream → CtxStream) : (s.modStream c f).ident = s.ident := rfl
@[simp] theorem State.modStream_mem (s : State) (c : Slot) (f : CtxStream → CtxStream) : (s.modStream c f).mem = s.mem := rfl
@[simp] theorem State.modStream_poison (s : State) (c : Slot) (f : CtxStream → CtxStream) : (s.modStream c f).poison = s.poison := rfl
@[simp] theorem State.modStream_watch (s : State) (c : Slot) (f : CtxStream → CtxStream) : (s.modStream c f).watch = s.watch := rfl
@[simp] theorem State.modStream_arrays (s : State) (c : Slot) (f : CtxStream → CtxStream) : (s.modStream c f).arrays = s.arrays := rfl
@[simp] theorem State.modStream_tiers (s : State) (c : Slot) (f : CtxStream → CtxStream) : (s.modStream c f).tiers = s.tiers := rfl
@[simp] theorem State.modStream_images (s : State) (c : Slot) (f : CtxStream → CtxStream) : (s.modStream c f).images = s.images := rfl
@[simp] theorem State.modStream_mer (s : State) (c : Slot) (f : CtxStream → CtxStream) : (s.modStream c f).mer = s.mer := rfl
@[simp] theorem State.modStream_modRing (s : State) (c : Slot) (f : CtxStream → CtxStream) : (s.modStream c f).modRing = s.modRing := rfl
@[simp] theorem State.modStream_due (s : State) (c : Slot) (f : CtxStream → CtxStream) : (s.modStream c f).due = s.due := rfl
@[simp] theorem State.modStream_host (s : State) (c : Slot) (f : CtxStream → CtxStream) : (s.modStream c f).host = s.host := rfl
@[simp] theorem State.modStream_res (s : State) (c : Slot) (f : CtxStream → CtxStream) : (s.modStream c f).res = s.res := rfl
@[simp] theorem State.modStream_fab (s : State) (c : Slot) (f : CtxStream → CtxStream) : (s.modStream c f).fab = s.fab := rfl
@[simp] theorem State.modStream_cat (s : State) (c : Slot) (f : CtxStream → CtxStream) : (s.modStream c f).cat = s.cat := rfl
@[simp] theorem State.modStream_power (s : State) (c : Slot) (f : CtxStream → CtxStream) : (s.modStream c f).power = s.power := rfl
@[simp] theorem State.modStream_log (s : State) (c : Slot) (f : CtxStream → CtxStream) : (s.modStream c f).log = s.log := rfl
@[simp] theorem State.modStream_sec (s : State) (c : Slot) (f : CtxStream → CtxStream) : (s.modStream c f).sec = s.sec := rfl
@[simp] theorem State.modStream_boot (s : State) (c : Slot) (f : CtxStream → CtxStream) : (s.modStream c f).boot = s.boot := rfl
@[simp] theorem State.modStream_out (s : State) (c : Slot) (f : CtxStream → CtxStream) : (s.modStream c f).out = s.out := rfl
@[simp] theorem State.modStream_freeCtr (s : State) (c : Slot) (f : CtxStream → CtxStream) : (s.modStream c f).freeCtr = s.freeCtr := rfl

/-! ### `modNum` -/

@[simp] theorem State.modNum_pending (s : State) (c : Slot) (f : CtxNum → CtxNum) : (s.modNum c f).pending = s.pending := rfl
@[simp] theorem State.modNum_sku (s : State) (c : Slot) (f : CtxNum → CtxNum) : (s.modNum c f).sku = s.sku := rfl
@[simp] theorem State.modNum_ident (s : State) (c : Slot) (f : CtxNum → CtxNum) : (s.modNum c f).ident = s.ident := rfl
@[simp] theorem State.modNum_mem (s : State) (c : Slot) (f : CtxNum → CtxNum) : (s.modNum c f).mem = s.mem := rfl
@[simp] theorem State.modNum_poison (s : State) (c : Slot) (f : CtxNum → CtxNum) : (s.modNum c f).poison = s.poison := rfl
@[simp] theorem State.modNum_watch (s : State) (c : Slot) (f : CtxNum → CtxNum) : (s.modNum c f).watch = s.watch := rfl
@[simp] theorem State.modNum_arrays (s : State) (c : Slot) (f : CtxNum → CtxNum) : (s.modNum c f).arrays = s.arrays := rfl
@[simp] theorem State.modNum_tiers (s : State) (c : Slot) (f : CtxNum → CtxNum) : (s.modNum c f).tiers = s.tiers := rfl
@[simp] theorem State.modNum_images (s : State) (c : Slot) (f : CtxNum → CtxNum) : (s.modNum c f).images = s.images := rfl
@[simp] theorem State.modNum_mer (s : State) (c : Slot) (f : CtxNum → CtxNum) : (s.modNum c f).mer = s.mer := rfl
@[simp] theorem State.modNum_modRing (s : State) (c : Slot) (f : CtxNum → CtxNum) : (s.modNum c f).modRing = s.modRing := rfl
@[simp] theorem State.modNum_due (s : State) (c : Slot) (f : CtxNum → CtxNum) : (s.modNum c f).due = s.due := rfl
@[simp] theorem State.modNum_host (s : State) (c : Slot) (f : CtxNum → CtxNum) : (s.modNum c f).host = s.host := rfl
@[simp] theorem State.modNum_res (s : State) (c : Slot) (f : CtxNum → CtxNum) : (s.modNum c f).res = s.res := rfl
@[simp] theorem State.modNum_fab (s : State) (c : Slot) (f : CtxNum → CtxNum) : (s.modNum c f).fab = s.fab := rfl
@[simp] theorem State.modNum_cat (s : State) (c : Slot) (f : CtxNum → CtxNum) : (s.modNum c f).cat = s.cat := rfl
@[simp] theorem State.modNum_power (s : State) (c : Slot) (f : CtxNum → CtxNum) : (s.modNum c f).power = s.power := rfl
@[simp] theorem State.modNum_log (s : State) (c : Slot) (f : CtxNum → CtxNum) : (s.modNum c f).log = s.log := rfl
@[simp] theorem State.modNum_sec (s : State) (c : Slot) (f : CtxNum → CtxNum) : (s.modNum c f).sec = s.sec := rfl
@[simp] theorem State.modNum_boot (s : State) (c : Slot) (f : CtxNum → CtxNum) : (s.modNum c f).boot = s.boot := rfl
@[simp] theorem State.modNum_out (s : State) (c : Slot) (f : CtxNum → CtxNum) : (s.modNum c f).out = s.out := rfl
@[simp] theorem State.modNum_freeCtr (s : State) (c : Slot) (f : CtxNum → CtxNum) : (s.modNum c f).freeCtr = s.freeCtr := rfl

/-! ### `modTrain` -/

@[simp] theorem State.modTrain_pending (s : State) (c : Slot) (f : CtxTrain → CtxTrain) : (s.modTrain c f).pending = s.pending := rfl
@[simp] theorem State.modTrain_sku (s : State) (c : Slot) (f : CtxTrain → CtxTrain) : (s.modTrain c f).sku = s.sku := rfl
@[simp] theorem State.modTrain_ident (s : State) (c : Slot) (f : CtxTrain → CtxTrain) : (s.modTrain c f).ident = s.ident := rfl
@[simp] theorem State.modTrain_mem (s : State) (c : Slot) (f : CtxTrain → CtxTrain) : (s.modTrain c f).mem = s.mem := rfl
@[simp] theorem State.modTrain_poison (s : State) (c : Slot) (f : CtxTrain → CtxTrain) : (s.modTrain c f).poison = s.poison := rfl
@[simp] theorem State.modTrain_watch (s : State) (c : Slot) (f : CtxTrain → CtxTrain) : (s.modTrain c f).watch = s.watch := rfl
@[simp] theorem State.modTrain_arrays (s : State) (c : Slot) (f : CtxTrain → CtxTrain) : (s.modTrain c f).arrays = s.arrays := rfl
@[simp] theorem State.modTrain_tiers (s : State) (c : Slot) (f : CtxTrain → CtxTrain) : (s.modTrain c f).tiers = s.tiers := rfl
@[simp] theorem State.modTrain_images (s : State) (c : Slot) (f : CtxTrain → CtxTrain) : (s.modTrain c f).images = s.images := rfl
@[simp] theorem State.modTrain_mer (s : State) (c : Slot) (f : CtxTrain → CtxTrain) : (s.modTrain c f).mer = s.mer := rfl
@[simp] theorem State.modTrain_modRing (s : State) (c : Slot) (f : CtxTrain → CtxTrain) : (s.modTrain c f).modRing = s.modRing := rfl
@[simp] theorem State.modTrain_due (s : State) (c : Slot) (f : CtxTrain → CtxTrain) : (s.modTrain c f).due = s.due := rfl
@[simp] theorem State.modTrain_host (s : State) (c : Slot) (f : CtxTrain → CtxTrain) : (s.modTrain c f).host = s.host := rfl
@[simp] theorem State.modTrain_res (s : State) (c : Slot) (f : CtxTrain → CtxTrain) : (s.modTrain c f).res = s.res := rfl
@[simp] theorem State.modTrain_fab (s : State) (c : Slot) (f : CtxTrain → CtxTrain) : (s.modTrain c f).fab = s.fab := rfl
@[simp] theorem State.modTrain_cat (s : State) (c : Slot) (f : CtxTrain → CtxTrain) : (s.modTrain c f).cat = s.cat := rfl
@[simp] theorem State.modTrain_power (s : State) (c : Slot) (f : CtxTrain → CtxTrain) : (s.modTrain c f).power = s.power := rfl
@[simp] theorem State.modTrain_log (s : State) (c : Slot) (f : CtxTrain → CtxTrain) : (s.modTrain c f).log = s.log := rfl
@[simp] theorem State.modTrain_sec (s : State) (c : Slot) (f : CtxTrain → CtxTrain) : (s.modTrain c f).sec = s.sec := rfl
@[simp] theorem State.modTrain_boot (s : State) (c : Slot) (f : CtxTrain → CtxTrain) : (s.modTrain c f).boot = s.boot := rfl
@[simp] theorem State.modTrain_out (s : State) (c : Slot) (f : CtxTrain → CtxTrain) : (s.modTrain c f).out = s.out := rfl
@[simp] theorem State.modTrain_freeCtr (s : State) (c : Slot) (f : CtxTrain → CtxTrain) : (s.modTrain c f).freeCtr = s.freeCtr := rfl

/-! ### `modEph` -/

@[simp] theorem State.modEph_pending (s : State) (c : Slot) (f : EphRing → EphRing) : (s.modEph c f).pending = s.pending := rfl
@[simp] theorem State.modEph_sku (s : State) (c : Slot) (f : EphRing → EphRing) : (s.modEph c f).sku = s.sku := rfl
@[simp] theorem State.modEph_ident (s : State) (c : Slot) (f : EphRing → EphRing) : (s.modEph c f).ident = s.ident := rfl
@[simp] theorem State.modEph_mem (s : State) (c : Slot) (f : EphRing → EphRing) : (s.modEph c f).mem = s.mem := rfl
@[simp] theorem State.modEph_poison (s : State) (c : Slot) (f : EphRing → EphRing) : (s.modEph c f).poison = s.poison := rfl
@[simp] theorem State.modEph_watch (s : State) (c : Slot) (f : EphRing → EphRing) : (s.modEph c f).watch = s.watch := rfl
@[simp] theorem State.modEph_arrays (s : State) (c : Slot) (f : EphRing → EphRing) : (s.modEph c f).arrays = s.arrays := rfl
@[simp] theorem State.modEph_tiers (s : State) (c : Slot) (f : EphRing → EphRing) : (s.modEph c f).tiers = s.tiers := rfl
@[simp] theorem State.modEph_images (s : State) (c : Slot) (f : EphRing → EphRing) : (s.modEph c f).images = s.images := rfl
@[simp] theorem State.modEph_mer (s : State) (c : Slot) (f : EphRing → EphRing) : (s.modEph c f).mer = s.mer := rfl
@[simp] theorem State.modEph_modRing (s : State) (c : Slot) (f : EphRing → EphRing) : (s.modEph c f).modRing = s.modRing := rfl
@[simp] theorem State.modEph_due (s : State) (c : Slot) (f : EphRing → EphRing) : (s.modEph c f).due = s.due := rfl
@[simp] theorem State.modEph_host (s : State) (c : Slot) (f : EphRing → EphRing) : (s.modEph c f).host = s.host := rfl
@[simp] theorem State.modEph_res (s : State) (c : Slot) (f : EphRing → EphRing) : (s.modEph c f).res = s.res := rfl
@[simp] theorem State.modEph_fab (s : State) (c : Slot) (f : EphRing → EphRing) : (s.modEph c f).fab = s.fab := rfl
@[simp] theorem State.modEph_cat (s : State) (c : Slot) (f : EphRing → EphRing) : (s.modEph c f).cat = s.cat := rfl
@[simp] theorem State.modEph_power (s : State) (c : Slot) (f : EphRing → EphRing) : (s.modEph c f).power = s.power := rfl
@[simp] theorem State.modEph_log (s : State) (c : Slot) (f : EphRing → EphRing) : (s.modEph c f).log = s.log := rfl
@[simp] theorem State.modEph_sec (s : State) (c : Slot) (f : EphRing → EphRing) : (s.modEph c f).sec = s.sec := rfl
@[simp] theorem State.modEph_boot (s : State) (c : Slot) (f : EphRing → EphRing) : (s.modEph c f).boot = s.boot := rfl
@[simp] theorem State.modEph_out (s : State) (c : Slot) (f : EphRing → EphRing) : (s.modEph c f).out = s.out := rfl
@[simp] theorem State.modEph_freeCtr (s : State) (c : Slot) (f : EphRing → EphRing) : (s.modEph c f).freeCtr = s.freeCtr := rfl

/-! ### `modSub` -/

@[simp] theorem State.modSub_pending (s : State) (c : Slot) (f : SubRing → SubRing) : (s.modSub c f).pending = s.pending := rfl
@[simp] theorem State.modSub_sku (s : State) (c : Slot) (f : SubRing → SubRing) : (s.modSub c f).sku = s.sku := rfl
@[simp] theorem State.modSub_ident (s : State) (c : Slot) (f : SubRing → SubRing) : (s.modSub c f).ident = s.ident := rfl
@[simp] theorem State.modSub_mem (s : State) (c : Slot) (f : SubRing → SubRing) : (s.modSub c f).mem = s.mem := rfl
@[simp] theorem State.modSub_poison (s : State) (c : Slot) (f : SubRing → SubRing) : (s.modSub c f).poison = s.poison := rfl
@[simp] theorem State.modSub_watch (s : State) (c : Slot) (f : SubRing → SubRing) : (s.modSub c f).watch = s.watch := rfl
@[simp] theorem State.modSub_arrays (s : State) (c : Slot) (f : SubRing → SubRing) : (s.modSub c f).arrays = s.arrays := rfl
@[simp] theorem State.modSub_tiers (s : State) (c : Slot) (f : SubRing → SubRing) : (s.modSub c f).tiers = s.tiers := rfl
@[simp] theorem State.modSub_images (s : State) (c : Slot) (f : SubRing → SubRing) : (s.modSub c f).images = s.images := rfl
@[simp] theorem State.modSub_mer (s : State) (c : Slot) (f : SubRing → SubRing) : (s.modSub c f).mer = s.mer := rfl
@[simp] theorem State.modSub_modRing (s : State) (c : Slot) (f : SubRing → SubRing) : (s.modSub c f).modRing = s.modRing := rfl
@[simp] theorem State.modSub_due (s : State) (c : Slot) (f : SubRing → SubRing) : (s.modSub c f).due = s.due := rfl
@[simp] theorem State.modSub_host (s : State) (c : Slot) (f : SubRing → SubRing) : (s.modSub c f).host = s.host := rfl
@[simp] theorem State.modSub_res (s : State) (c : Slot) (f : SubRing → SubRing) : (s.modSub c f).res = s.res := rfl
@[simp] theorem State.modSub_fab (s : State) (c : Slot) (f : SubRing → SubRing) : (s.modSub c f).fab = s.fab := rfl
@[simp] theorem State.modSub_cat (s : State) (c : Slot) (f : SubRing → SubRing) : (s.modSub c f).cat = s.cat := rfl
@[simp] theorem State.modSub_power (s : State) (c : Slot) (f : SubRing → SubRing) : (s.modSub c f).power = s.power := rfl
@[simp] theorem State.modSub_log (s : State) (c : Slot) (f : SubRing → SubRing) : (s.modSub c f).log = s.log := rfl
@[simp] theorem State.modSub_sec (s : State) (c : Slot) (f : SubRing → SubRing) : (s.modSub c f).sec = s.sec := rfl
@[simp] theorem State.modSub_boot (s : State) (c : Slot) (f : SubRing → SubRing) : (s.modSub c f).boot = s.boot := rfl
@[simp] theorem State.modSub_out (s : State) (c : Slot) (f : SubRing → SubRing) : (s.modSub c f).out = s.out := rfl
@[simp] theorem State.modSub_freeCtr (s : State) (c : Slot) (f : SubRing → SubRing) : (s.modSub c f).freeCtr = s.freeCtr := rfl

/-! ### `modCtxFab` -/

@[simp] theorem State.modCtxFab_pending (s : State) (c : Slot) (f : CtxFabric → CtxFabric) : (s.modCtxFab c f).pending = s.pending := rfl
@[simp] theorem State.modCtxFab_sku (s : State) (c : Slot) (f : CtxFabric → CtxFabric) : (s.modCtxFab c f).sku = s.sku := rfl
@[simp] theorem State.modCtxFab_ident (s : State) (c : Slot) (f : CtxFabric → CtxFabric) : (s.modCtxFab c f).ident = s.ident := rfl
@[simp] theorem State.modCtxFab_mem (s : State) (c : Slot) (f : CtxFabric → CtxFabric) : (s.modCtxFab c f).mem = s.mem := rfl
@[simp] theorem State.modCtxFab_poison (s : State) (c : Slot) (f : CtxFabric → CtxFabric) : (s.modCtxFab c f).poison = s.poison := rfl
@[simp] theorem State.modCtxFab_watch (s : State) (c : Slot) (f : CtxFabric → CtxFabric) : (s.modCtxFab c f).watch = s.watch := rfl
@[simp] theorem State.modCtxFab_arrays (s : State) (c : Slot) (f : CtxFabric → CtxFabric) : (s.modCtxFab c f).arrays = s.arrays := rfl
@[simp] theorem State.modCtxFab_tiers (s : State) (c : Slot) (f : CtxFabric → CtxFabric) : (s.modCtxFab c f).tiers = s.tiers := rfl
@[simp] theorem State.modCtxFab_images (s : State) (c : Slot) (f : CtxFabric → CtxFabric) : (s.modCtxFab c f).images = s.images := rfl
@[simp] theorem State.modCtxFab_mer (s : State) (c : Slot) (f : CtxFabric → CtxFabric) : (s.modCtxFab c f).mer = s.mer := rfl
@[simp] theorem State.modCtxFab_modRing (s : State) (c : Slot) (f : CtxFabric → CtxFabric) : (s.modCtxFab c f).modRing = s.modRing := rfl
@[simp] theorem State.modCtxFab_due (s : State) (c : Slot) (f : CtxFabric → CtxFabric) : (s.modCtxFab c f).due = s.due := rfl
@[simp] theorem State.modCtxFab_host (s : State) (c : Slot) (f : CtxFabric → CtxFabric) : (s.modCtxFab c f).host = s.host := rfl
@[simp] theorem State.modCtxFab_res (s : State) (c : Slot) (f : CtxFabric → CtxFabric) : (s.modCtxFab c f).res = s.res := rfl
@[simp] theorem State.modCtxFab_fab (s : State) (c : Slot) (f : CtxFabric → CtxFabric) : (s.modCtxFab c f).fab = s.fab := rfl
@[simp] theorem State.modCtxFab_cat (s : State) (c : Slot) (f : CtxFabric → CtxFabric) : (s.modCtxFab c f).cat = s.cat := rfl
@[simp] theorem State.modCtxFab_power (s : State) (c : Slot) (f : CtxFabric → CtxFabric) : (s.modCtxFab c f).power = s.power := rfl
@[simp] theorem State.modCtxFab_log (s : State) (c : Slot) (f : CtxFabric → CtxFabric) : (s.modCtxFab c f).log = s.log := rfl
@[simp] theorem State.modCtxFab_sec (s : State) (c : Slot) (f : CtxFabric → CtxFabric) : (s.modCtxFab c f).sec = s.sec := rfl
@[simp] theorem State.modCtxFab_boot (s : State) (c : Slot) (f : CtxFabric → CtxFabric) : (s.modCtxFab c f).boot = s.boot := rfl
@[simp] theorem State.modCtxFab_out (s : State) (c : Slot) (f : CtxFabric → CtxFabric) : (s.modCtxFab c f).out = s.out := rfl
@[simp] theorem State.modCtxFab_freeCtr (s : State) (c : Slot) (f : CtxFabric → CtxFabric) : (s.modCtxFab c f).freeCtr = s.freeCtr := rfl

/-! ### `modPage` -/

@[simp] theorem State.modPage_pending (s : State) (c : Slot) (p : Nat) (f : Page → Page) : (s.modPage c p f).pending = s.pending := rfl
@[simp] theorem State.modPage_sku (s : State) (c : Slot) (p : Nat) (f : Page → Page) : (s.modPage c p f).sku = s.sku := rfl
@[simp] theorem State.modPage_ident (s : State) (c : Slot) (p : Nat) (f : Page → Page) : (s.modPage c p f).ident = s.ident := rfl
@[simp] theorem State.modPage_mem (s : State) (c : Slot) (p : Nat) (f : Page → Page) : (s.modPage c p f).mem = s.mem := rfl
@[simp] theorem State.modPage_poison (s : State) (c : Slot) (p : Nat) (f : Page → Page) : (s.modPage c p f).poison = s.poison := rfl
@[simp] theorem State.modPage_watch (s : State) (c : Slot) (p : Nat) (f : Page → Page) : (s.modPage c p f).watch = s.watch := rfl
@[simp] theorem State.modPage_arrays (s : State) (c : Slot) (p : Nat) (f : Page → Page) : (s.modPage c p f).arrays = s.arrays := rfl
@[simp] theorem State.modPage_tiers (s : State) (c : Slot) (p : Nat) (f : Page → Page) : (s.modPage c p f).tiers = s.tiers := rfl
@[simp] theorem State.modPage_images (s : State) (c : Slot) (p : Nat) (f : Page → Page) : (s.modPage c p f).images = s.images := rfl
@[simp] theorem State.modPage_mer (s : State) (c : Slot) (p : Nat) (f : Page → Page) : (s.modPage c p f).mer = s.mer := rfl
@[simp] theorem State.modPage_modRing (s : State) (c : Slot) (p : Nat) (f : Page → Page) : (s.modPage c p f).modRing = s.modRing := rfl
@[simp] theorem State.modPage_due (s : State) (c : Slot) (p : Nat) (f : Page → Page) : (s.modPage c p f).due = s.due := rfl
@[simp] theorem State.modPage_host (s : State) (c : Slot) (p : Nat) (f : Page → Page) : (s.modPage c p f).host = s.host := rfl
@[simp] theorem State.modPage_res (s : State) (c : Slot) (p : Nat) (f : Page → Page) : (s.modPage c p f).res = s.res := rfl
@[simp] theorem State.modPage_fab (s : State) (c : Slot) (p : Nat) (f : Page → Page) : (s.modPage c p f).fab = s.fab := rfl
@[simp] theorem State.modPage_cat (s : State) (c : Slot) (p : Nat) (f : Page → Page) : (s.modPage c p f).cat = s.cat := rfl
@[simp] theorem State.modPage_power (s : State) (c : Slot) (p : Nat) (f : Page → Page) : (s.modPage c p f).power = s.power := rfl
@[simp] theorem State.modPage_log (s : State) (c : Slot) (p : Nat) (f : Page → Page) : (s.modPage c p f).log = s.log := rfl
@[simp] theorem State.modPage_sec (s : State) (c : Slot) (p : Nat) (f : Page → Page) : (s.modPage c p f).sec = s.sec := rfl
@[simp] theorem State.modPage_boot (s : State) (c : Slot) (p : Nat) (f : Page → Page) : (s.modPage c p f).boot = s.boot := rfl
@[simp] theorem State.modPage_out (s : State) (c : Slot) (p : Nat) (f : Page → Page) : (s.modPage c p f).out = s.out := rfl
@[simp] theorem State.modPage_freeCtr (s : State) (c : Slot) (p : Nat) (f : Page → Page) : (s.modPage c p f).freeCtr = s.freeCtr := rfl

/-! ### `modOp` -/

@[simp] theorem State.modOp_pending (s : State) (c : Slot) (n : Nat) (f : OpRec → OpRec) : (s.modOp c n f).pending = s.pending := rfl
@[simp] theorem State.modOp_sku (s : State) (c : Slot) (n : Nat) (f : OpRec → OpRec) : (s.modOp c n f).sku = s.sku := rfl
@[simp] theorem State.modOp_ident (s : State) (c : Slot) (n : Nat) (f : OpRec → OpRec) : (s.modOp c n f).ident = s.ident := rfl
@[simp] theorem State.modOp_mem (s : State) (c : Slot) (n : Nat) (f : OpRec → OpRec) : (s.modOp c n f).mem = s.mem := rfl
@[simp] theorem State.modOp_poison (s : State) (c : Slot) (n : Nat) (f : OpRec → OpRec) : (s.modOp c n f).poison = s.poison := rfl
@[simp] theorem State.modOp_watch (s : State) (c : Slot) (n : Nat) (f : OpRec → OpRec) : (s.modOp c n f).watch = s.watch := rfl
@[simp] theorem State.modOp_arrays (s : State) (c : Slot) (n : Nat) (f : OpRec → OpRec) : (s.modOp c n f).arrays = s.arrays := rfl
@[simp] theorem State.modOp_tiers (s : State) (c : Slot) (n : Nat) (f : OpRec → OpRec) : (s.modOp c n f).tiers = s.tiers := rfl
@[simp] theorem State.modOp_images (s : State) (c : Slot) (n : Nat) (f : OpRec → OpRec) : (s.modOp c n f).images = s.images := rfl
@[simp] theorem State.modOp_mer (s : State) (c : Slot) (n : Nat) (f : OpRec → OpRec) : (s.modOp c n f).mer = s.mer := rfl
@[simp] theorem State.modOp_modRing (s : State) (c : Slot) (n : Nat) (f : OpRec → OpRec) : (s.modOp c n f).modRing = s.modRing := rfl
@[simp] theorem State.modOp_due (s : State) (c : Slot) (n : Nat) (f : OpRec → OpRec) : (s.modOp c n f).due = s.due := rfl
@[simp] theorem State.modOp_host (s : State) (c : Slot) (n : Nat) (f : OpRec → OpRec) : (s.modOp c n f).host = s.host := rfl
@[simp] theorem State.modOp_res (s : State) (c : Slot) (n : Nat) (f : OpRec → OpRec) : (s.modOp c n f).res = s.res := rfl
@[simp] theorem State.modOp_fab (s : State) (c : Slot) (n : Nat) (f : OpRec → OpRec) : (s.modOp c n f).fab = s.fab := rfl
@[simp] theorem State.modOp_cat (s : State) (c : Slot) (n : Nat) (f : OpRec → OpRec) : (s.modOp c n f).cat = s.cat := rfl
@[simp] theorem State.modOp_power (s : State) (c : Slot) (n : Nat) (f : OpRec → OpRec) : (s.modOp c n f).power = s.power := rfl
@[simp] theorem State.modOp_log (s : State) (c : Slot) (n : Nat) (f : OpRec → OpRec) : (s.modOp c n f).log = s.log := rfl
@[simp] theorem State.modOp_sec (s : State) (c : Slot) (n : Nat) (f : OpRec → OpRec) : (s.modOp c n f).sec = s.sec := rfl
@[simp] theorem State.modOp_boot (s : State) (c : Slot) (n : Nat) (f : OpRec → OpRec) : (s.modOp c n f).boot = s.boot := rfl
@[simp] theorem State.modOp_out (s : State) (c : Slot) (n : Nat) (f : OpRec → OpRec) : (s.modOp c n f).out = s.out := rfl
@[simp] theorem State.modOp_freeCtr (s : State) (c : Slot) (n : Nat) (f : OpRec → OpRec) : (s.modOp c n f).freeCtr = s.freeCtr := rfl

/-! ### `modRun` -/

@[simp] theorem State.modRun_pending (s : State) (c : Slot) (n : Nat) (f : RunData → RunData) : (s.modRun c n f).pending = s.pending := rfl
@[simp] theorem State.modRun_sku (s : State) (c : Slot) (n : Nat) (f : RunData → RunData) : (s.modRun c n f).sku = s.sku := rfl
@[simp] theorem State.modRun_ident (s : State) (c : Slot) (n : Nat) (f : RunData → RunData) : (s.modRun c n f).ident = s.ident := rfl
@[simp] theorem State.modRun_mem (s : State) (c : Slot) (n : Nat) (f : RunData → RunData) : (s.modRun c n f).mem = s.mem := rfl
@[simp] theorem State.modRun_poison (s : State) (c : Slot) (n : Nat) (f : RunData → RunData) : (s.modRun c n f).poison = s.poison := rfl
@[simp] theorem State.modRun_watch (s : State) (c : Slot) (n : Nat) (f : RunData → RunData) : (s.modRun c n f).watch = s.watch := rfl
@[simp] theorem State.modRun_arrays (s : State) (c : Slot) (n : Nat) (f : RunData → RunData) : (s.modRun c n f).arrays = s.arrays := rfl
@[simp] theorem State.modRun_tiers (s : State) (c : Slot) (n : Nat) (f : RunData → RunData) : (s.modRun c n f).tiers = s.tiers := rfl
@[simp] theorem State.modRun_images (s : State) (c : Slot) (n : Nat) (f : RunData → RunData) : (s.modRun c n f).images = s.images := rfl
@[simp] theorem State.modRun_mer (s : State) (c : Slot) (n : Nat) (f : RunData → RunData) : (s.modRun c n f).mer = s.mer := rfl
@[simp] theorem State.modRun_modRing (s : State) (c : Slot) (n : Nat) (f : RunData → RunData) : (s.modRun c n f).modRing = s.modRing := rfl
@[simp] theorem State.modRun_due (s : State) (c : Slot) (n : Nat) (f : RunData → RunData) : (s.modRun c n f).due = s.due := rfl
@[simp] theorem State.modRun_host (s : State) (c : Slot) (n : Nat) (f : RunData → RunData) : (s.modRun c n f).host = s.host := rfl
@[simp] theorem State.modRun_res (s : State) (c : Slot) (n : Nat) (f : RunData → RunData) : (s.modRun c n f).res = s.res := rfl
@[simp] theorem State.modRun_fab (s : State) (c : Slot) (n : Nat) (f : RunData → RunData) : (s.modRun c n f).fab = s.fab := rfl
@[simp] theorem State.modRun_cat (s : State) (c : Slot) (n : Nat) (f : RunData → RunData) : (s.modRun c n f).cat = s.cat := rfl
@[simp] theorem State.modRun_power (s : State) (c : Slot) (n : Nat) (f : RunData → RunData) : (s.modRun c n f).power = s.power := rfl
@[simp] theorem State.modRun_log (s : State) (c : Slot) (n : Nat) (f : RunData → RunData) : (s.modRun c n f).log = s.log := rfl
@[simp] theorem State.modRun_sec (s : State) (c : Slot) (n : Nat) (f : RunData → RunData) : (s.modRun c n f).sec = s.sec := rfl
@[simp] theorem State.modRun_boot (s : State) (c : Slot) (n : Nat) (f : RunData → RunData) : (s.modRun c n f).boot = s.boot := rfl
@[simp] theorem State.modRun_out (s : State) (c : Slot) (n : Nat) (f : RunData → RunData) : (s.modRun c n f).out = s.out := rfl
@[simp] theorem State.modRun_freeCtr (s : State) (c : Slot) (n : Nat) (f : RunData → RunData) : (s.modRun c n f).freeCtr = s.freeCtr := rfl

/-! ### `modStepAcc` -/

@[simp] theorem State.modStepAcc_pending (s : State) (c : Slot) (t : U64) (f : StepAcc → StepAcc) : (s.modStepAcc c t f).pending = s.pending := rfl
@[simp] theorem State.modStepAcc_sku (s : State) (c : Slot) (t : U64) (f : StepAcc → StepAcc) : (s.modStepAcc c t f).sku = s.sku := rfl
@[simp] theorem State.modStepAcc_ident (s : State) (c : Slot) (t : U64) (f : StepAcc → StepAcc) : (s.modStepAcc c t f).ident = s.ident := rfl
@[simp] theorem State.modStepAcc_mem (s : State) (c : Slot) (t : U64) (f : StepAcc → StepAcc) : (s.modStepAcc c t f).mem = s.mem := rfl
@[simp] theorem State.modStepAcc_poison (s : State) (c : Slot) (t : U64) (f : StepAcc → StepAcc) : (s.modStepAcc c t f).poison = s.poison := rfl
@[simp] theorem State.modStepAcc_watch (s : State) (c : Slot) (t : U64) (f : StepAcc → StepAcc) : (s.modStepAcc c t f).watch = s.watch := rfl
@[simp] theorem State.modStepAcc_arrays (s : State) (c : Slot) (t : U64) (f : StepAcc → StepAcc) : (s.modStepAcc c t f).arrays = s.arrays := rfl
@[simp] theorem State.modStepAcc_tiers (s : State) (c : Slot) (t : U64) (f : StepAcc → StepAcc) : (s.modStepAcc c t f).tiers = s.tiers := rfl
@[simp] theorem State.modStepAcc_images (s : State) (c : Slot) (t : U64) (f : StepAcc → StepAcc) : (s.modStepAcc c t f).images = s.images := rfl
@[simp] theorem State.modStepAcc_mer (s : State) (c : Slot) (t : U64) (f : StepAcc → StepAcc) : (s.modStepAcc c t f).mer = s.mer := rfl
@[simp] theorem State.modStepAcc_modRing (s : State) (c : Slot) (t : U64) (f : StepAcc → StepAcc) : (s.modStepAcc c t f).modRing = s.modRing := rfl
@[simp] theorem State.modStepAcc_due (s : State) (c : Slot) (t : U64) (f : StepAcc → StepAcc) : (s.modStepAcc c t f).due = s.due := rfl
@[simp] theorem State.modStepAcc_host (s : State) (c : Slot) (t : U64) (f : StepAcc → StepAcc) : (s.modStepAcc c t f).host = s.host := rfl
@[simp] theorem State.modStepAcc_res (s : State) (c : Slot) (t : U64) (f : StepAcc → StepAcc) : (s.modStepAcc c t f).res = s.res := rfl
@[simp] theorem State.modStepAcc_fab (s : State) (c : Slot) (t : U64) (f : StepAcc → StepAcc) : (s.modStepAcc c t f).fab = s.fab := rfl
@[simp] theorem State.modStepAcc_cat (s : State) (c : Slot) (t : U64) (f : StepAcc → StepAcc) : (s.modStepAcc c t f).cat = s.cat := rfl
@[simp] theorem State.modStepAcc_power (s : State) (c : Slot) (t : U64) (f : StepAcc → StepAcc) : (s.modStepAcc c t f).power = s.power := rfl
@[simp] theorem State.modStepAcc_log (s : State) (c : Slot) (t : U64) (f : StepAcc → StepAcc) : (s.modStepAcc c t f).log = s.log := rfl
@[simp] theorem State.modStepAcc_sec (s : State) (c : Slot) (t : U64) (f : StepAcc → StepAcc) : (s.modStepAcc c t f).sec = s.sec := rfl
@[simp] theorem State.modStepAcc_boot (s : State) (c : Slot) (t : U64) (f : StepAcc → StepAcc) : (s.modStepAcc c t f).boot = s.boot := rfl
@[simp] theorem State.modStepAcc_out (s : State) (c : Slot) (t : U64) (f : StepAcc → StepAcc) : (s.modStepAcc c t f).out = s.out := rfl
@[simp] theorem State.modStepAcc_freeCtr (s : State) (c : Slot) (t : U64) (f : StepAcc → StepAcc) : (s.modStepAcc c t f).freeCtr = s.freeCtr := rfl

/-! ### `modModRing` -/

@[simp] theorem State.modModRing_pending (s : State) (f : ModuleRing → ModuleRing) : (s.modModRing f).pending = s.pending := rfl
@[simp] theorem State.modModRing_sku (s : State) (f : ModuleRing → ModuleRing) : (s.modModRing f).sku = s.sku := rfl
@[simp] theorem State.modModRing_ident (s : State) (f : ModuleRing → ModuleRing) : (s.modModRing f).ident = s.ident := rfl
@[simp] theorem State.modModRing_ctxs (s : State) (f : ModuleRing → ModuleRing) : (s.modModRing f).ctxs = s.ctxs := rfl
@[simp] theorem State.modModRing_mem (s : State) (f : ModuleRing → ModuleRing) : (s.modModRing f).mem = s.mem := rfl
@[simp] theorem State.modModRing_poison (s : State) (f : ModuleRing → ModuleRing) : (s.modModRing f).poison = s.poison := rfl
@[simp] theorem State.modModRing_watch (s : State) (f : ModuleRing → ModuleRing) : (s.modModRing f).watch = s.watch := rfl
@[simp] theorem State.modModRing_arrays (s : State) (f : ModuleRing → ModuleRing) : (s.modModRing f).arrays = s.arrays := rfl
@[simp] theorem State.modModRing_tiers (s : State) (f : ModuleRing → ModuleRing) : (s.modModRing f).tiers = s.tiers := rfl
@[simp] theorem State.modModRing_images (s : State) (f : ModuleRing → ModuleRing) : (s.modModRing f).images = s.images := rfl
@[simp] theorem State.modModRing_mer (s : State) (f : ModuleRing → ModuleRing) : (s.modModRing f).mer = s.mer := rfl
@[simp] theorem State.modModRing_modRing (s : State) (f : ModuleRing → ModuleRing) : (s.modModRing f).modRing = f s.modRing := rfl
@[simp] theorem State.modModRing_due (s : State) (f : ModuleRing → ModuleRing) : (s.modModRing f).due = s.due := rfl
@[simp] theorem State.modModRing_host (s : State) (f : ModuleRing → ModuleRing) : (s.modModRing f).host = s.host := rfl
@[simp] theorem State.modModRing_res (s : State) (f : ModuleRing → ModuleRing) : (s.modModRing f).res = s.res := rfl
@[simp] theorem State.modModRing_fab (s : State) (f : ModuleRing → ModuleRing) : (s.modModRing f).fab = s.fab := rfl
@[simp] theorem State.modModRing_cat (s : State) (f : ModuleRing → ModuleRing) : (s.modModRing f).cat = s.cat := rfl
@[simp] theorem State.modModRing_power (s : State) (f : ModuleRing → ModuleRing) : (s.modModRing f).power = s.power := rfl
@[simp] theorem State.modModRing_log (s : State) (f : ModuleRing → ModuleRing) : (s.modModRing f).log = s.log := rfl
@[simp] theorem State.modModRing_sec (s : State) (f : ModuleRing → ModuleRing) : (s.modModRing f).sec = s.sec := rfl
@[simp] theorem State.modModRing_boot (s : State) (f : ModuleRing → ModuleRing) : (s.modModRing f).boot = s.boot := rfl
@[simp] theorem State.modModRing_out (s : State) (f : ModuleRing → ModuleRing) : (s.modModRing f).out = s.out := rfl
@[simp] theorem State.modModRing_freeCtr (s : State) (f : ModuleRing → ModuleRing) : (s.modModRing f).freeCtr = s.freeCtr := rfl

/-! ### `modMer` -/

@[simp] theorem State.modMer_pending (s : State) (f : Meridian → Meridian) : (s.modMer f).pending = s.pending := rfl
@[simp] theorem State.modMer_sku (s : State) (f : Meridian → Meridian) : (s.modMer f).sku = s.sku := rfl
@[simp] theorem State.modMer_ident (s : State) (f : Meridian → Meridian) : (s.modMer f).ident = s.ident := rfl
@[simp] theorem State.modMer_ctxs (s : State) (f : Meridian → Meridian) : (s.modMer f).ctxs = s.ctxs := rfl
@[simp] theorem State.modMer_mem (s : State) (f : Meridian → Meridian) : (s.modMer f).mem = s.mem := rfl
@[simp] theorem State.modMer_poison (s : State) (f : Meridian → Meridian) : (s.modMer f).poison = s.poison := rfl
@[simp] theorem State.modMer_watch (s : State) (f : Meridian → Meridian) : (s.modMer f).watch = s.watch := rfl
@[simp] theorem State.modMer_arrays (s : State) (f : Meridian → Meridian) : (s.modMer f).arrays = s.arrays := rfl
@[simp] theorem State.modMer_tiers (s : State) (f : Meridian → Meridian) : (s.modMer f).tiers = s.tiers := rfl
@[simp] theorem State.modMer_images (s : State) (f : Meridian → Meridian) : (s.modMer f).images = s.images := rfl
@[simp] theorem State.modMer_mer (s : State) (f : Meridian → Meridian) : (s.modMer f).mer = f s.mer := rfl
@[simp] theorem State.modMer_modRing (s : State) (f : Meridian → Meridian) : (s.modMer f).modRing = s.modRing := rfl
@[simp] theorem State.modMer_due (s : State) (f : Meridian → Meridian) : (s.modMer f).due = s.due := rfl
@[simp] theorem State.modMer_host (s : State) (f : Meridian → Meridian) : (s.modMer f).host = s.host := rfl
@[simp] theorem State.modMer_res (s : State) (f : Meridian → Meridian) : (s.modMer f).res = s.res := rfl
@[simp] theorem State.modMer_fab (s : State) (f : Meridian → Meridian) : (s.modMer f).fab = s.fab := rfl
@[simp] theorem State.modMer_cat (s : State) (f : Meridian → Meridian) : (s.modMer f).cat = s.cat := rfl
@[simp] theorem State.modMer_power (s : State) (f : Meridian → Meridian) : (s.modMer f).power = s.power := rfl
@[simp] theorem State.modMer_log (s : State) (f : Meridian → Meridian) : (s.modMer f).log = s.log := rfl
@[simp] theorem State.modMer_sec (s : State) (f : Meridian → Meridian) : (s.modMer f).sec = s.sec := rfl
@[simp] theorem State.modMer_boot (s : State) (f : Meridian → Meridian) : (s.modMer f).boot = s.boot := rfl
@[simp] theorem State.modMer_out (s : State) (f : Meridian → Meridian) : (s.modMer f).out = s.out := rfl
@[simp] theorem State.modMer_freeCtr (s : State) (f : Meridian → Meridian) : (s.modMer f).freeCtr = s.freeCtr := rfl

/-! ### `modHost` -/

@[simp] theorem State.modHost_pending (s : State) (f : HostLink → HostLink) : (s.modHost f).pending = s.pending := rfl
@[simp] theorem State.modHost_sku (s : State) (f : HostLink → HostLink) : (s.modHost f).sku = s.sku := rfl
@[simp] theorem State.modHost_ident (s : State) (f : HostLink → HostLink) : (s.modHost f).ident = s.ident := rfl
@[simp] theorem State.modHost_ctxs (s : State) (f : HostLink → HostLink) : (s.modHost f).ctxs = s.ctxs := rfl
@[simp] theorem State.modHost_mem (s : State) (f : HostLink → HostLink) : (s.modHost f).mem = s.mem := rfl
@[simp] theorem State.modHost_poison (s : State) (f : HostLink → HostLink) : (s.modHost f).poison = s.poison := rfl
@[simp] theorem State.modHost_watch (s : State) (f : HostLink → HostLink) : (s.modHost f).watch = s.watch := rfl
@[simp] theorem State.modHost_arrays (s : State) (f : HostLink → HostLink) : (s.modHost f).arrays = s.arrays := rfl
@[simp] theorem State.modHost_tiers (s : State) (f : HostLink → HostLink) : (s.modHost f).tiers = s.tiers := rfl
@[simp] theorem State.modHost_images (s : State) (f : HostLink → HostLink) : (s.modHost f).images = s.images := rfl
@[simp] theorem State.modHost_mer (s : State) (f : HostLink → HostLink) : (s.modHost f).mer = s.mer := rfl
@[simp] theorem State.modHost_modRing (s : State) (f : HostLink → HostLink) : (s.modHost f).modRing = s.modRing := rfl
@[simp] theorem State.modHost_due (s : State) (f : HostLink → HostLink) : (s.modHost f).due = s.due := rfl
@[simp] theorem State.modHost_host (s : State) (f : HostLink → HostLink) : (s.modHost f).host = f s.host := rfl
@[simp] theorem State.modHost_res (s : State) (f : HostLink → HostLink) : (s.modHost f).res = s.res := rfl
@[simp] theorem State.modHost_fab (s : State) (f : HostLink → HostLink) : (s.modHost f).fab = s.fab := rfl
@[simp] theorem State.modHost_cat (s : State) (f : HostLink → HostLink) : (s.modHost f).cat = s.cat := rfl
@[simp] theorem State.modHost_power (s : State) (f : HostLink → HostLink) : (s.modHost f).power = s.power := rfl
@[simp] theorem State.modHost_log (s : State) (f : HostLink → HostLink) : (s.modHost f).log = s.log := rfl
@[simp] theorem State.modHost_sec (s : State) (f : HostLink → HostLink) : (s.modHost f).sec = s.sec := rfl
@[simp] theorem State.modHost_boot (s : State) (f : HostLink → HostLink) : (s.modHost f).boot = s.boot := rfl
@[simp] theorem State.modHost_out (s : State) (f : HostLink → HostLink) : (s.modHost f).out = s.out := rfl
@[simp] theorem State.modHost_freeCtr (s : State) (f : HostLink → HostLink) : (s.modHost f).freeCtr = s.freeCtr := rfl

/-! ### `modRes` -/

@[simp] theorem State.modRes_pending (s : State) (f : Resources → Resources) : (s.modRes f).pending = s.pending := rfl
@[simp] theorem State.modRes_sku (s : State) (f : Resources → Resources) : (s.modRes f).sku = s.sku := rfl
@[simp] theorem State.modRes_ident (s : State) (f : Resources → Resources) : (s.modRes f).ident = s.ident := rfl
@[simp] theorem State.modRes_ctxs (s : State) (f : Resources → Resources) : (s.modRes f).ctxs = s.ctxs := rfl
@[simp] theorem State.modRes_mem (s : State) (f : Resources → Resources) : (s.modRes f).mem = s.mem := rfl
@[simp] theorem State.modRes_poison (s : State) (f : Resources → Resources) : (s.modRes f).poison = s.poison := rfl
@[simp] theorem State.modRes_watch (s : State) (f : Resources → Resources) : (s.modRes f).watch = s.watch := rfl
@[simp] theorem State.modRes_arrays (s : State) (f : Resources → Resources) : (s.modRes f).arrays = s.arrays := rfl
@[simp] theorem State.modRes_tiers (s : State) (f : Resources → Resources) : (s.modRes f).tiers = s.tiers := rfl
@[simp] theorem State.modRes_images (s : State) (f : Resources → Resources) : (s.modRes f).images = s.images := rfl
@[simp] theorem State.modRes_mer (s : State) (f : Resources → Resources) : (s.modRes f).mer = s.mer := rfl
@[simp] theorem State.modRes_modRing (s : State) (f : Resources → Resources) : (s.modRes f).modRing = s.modRing := rfl
@[simp] theorem State.modRes_due (s : State) (f : Resources → Resources) : (s.modRes f).due = s.due := rfl
@[simp] theorem State.modRes_host (s : State) (f : Resources → Resources) : (s.modRes f).host = s.host := rfl
@[simp] theorem State.modRes_res (s : State) (f : Resources → Resources) : (s.modRes f).res = f s.res := rfl
@[simp] theorem State.modRes_fab (s : State) (f : Resources → Resources) : (s.modRes f).fab = s.fab := rfl
@[simp] theorem State.modRes_cat (s : State) (f : Resources → Resources) : (s.modRes f).cat = s.cat := rfl
@[simp] theorem State.modRes_power (s : State) (f : Resources → Resources) : (s.modRes f).power = s.power := rfl
@[simp] theorem State.modRes_log (s : State) (f : Resources → Resources) : (s.modRes f).log = s.log := rfl
@[simp] theorem State.modRes_sec (s : State) (f : Resources → Resources) : (s.modRes f).sec = s.sec := rfl
@[simp] theorem State.modRes_boot (s : State) (f : Resources → Resources) : (s.modRes f).boot = s.boot := rfl
@[simp] theorem State.modRes_out (s : State) (f : Resources → Resources) : (s.modRes f).out = s.out := rfl
@[simp] theorem State.modRes_freeCtr (s : State) (f : Resources → Resources) : (s.modRes f).freeCtr = s.freeCtr := rfl

/-! ### `modLog` -/

@[simp] theorem State.modLog_pending (s : State) (f : Logbook → Logbook) : (s.modLog f).pending = s.pending := rfl
@[simp] theorem State.modLog_sku (s : State) (f : Logbook → Logbook) : (s.modLog f).sku = s.sku := rfl
@[simp] theorem State.modLog_ident (s : State) (f : Logbook → Logbook) : (s.modLog f).ident = s.ident := rfl
@[simp] theorem State.modLog_ctxs (s : State) (f : Logbook → Logbook) : (s.modLog f).ctxs = s.ctxs := rfl
@[simp] theorem State.modLog_mem (s : State) (f : Logbook → Logbook) : (s.modLog f).mem = s.mem := rfl
@[simp] theorem State.modLog_poison (s : State) (f : Logbook → Logbook) : (s.modLog f).poison = s.poison := rfl
@[simp] theorem State.modLog_watch (s : State) (f : Logbook → Logbook) : (s.modLog f).watch = s.watch := rfl
@[simp] theorem State.modLog_arrays (s : State) (f : Logbook → Logbook) : (s.modLog f).arrays = s.arrays := rfl
@[simp] theorem State.modLog_tiers (s : State) (f : Logbook → Logbook) : (s.modLog f).tiers = s.tiers := rfl
@[simp] theorem State.modLog_images (s : State) (f : Logbook → Logbook) : (s.modLog f).images = s.images := rfl
@[simp] theorem State.modLog_mer (s : State) (f : Logbook → Logbook) : (s.modLog f).mer = s.mer := rfl
@[simp] theorem State.modLog_modRing (s : State) (f : Logbook → Logbook) : (s.modLog f).modRing = s.modRing := rfl
@[simp] theorem State.modLog_due (s : State) (f : Logbook → Logbook) : (s.modLog f).due = s.due := rfl
@[simp] theorem State.modLog_host (s : State) (f : Logbook → Logbook) : (s.modLog f).host = s.host := rfl
@[simp] theorem State.modLog_res (s : State) (f : Logbook → Logbook) : (s.modLog f).res = s.res := rfl
@[simp] theorem State.modLog_fab (s : State) (f : Logbook → Logbook) : (s.modLog f).fab = s.fab := rfl
@[simp] theorem State.modLog_cat (s : State) (f : Logbook → Logbook) : (s.modLog f).cat = s.cat := rfl
@[simp] theorem State.modLog_power (s : State) (f : Logbook → Logbook) : (s.modLog f).power = s.power := rfl
@[simp] theorem State.modLog_log (s : State) (f : Logbook → Logbook) : (s.modLog f).log = f s.log := rfl
@[simp] theorem State.modLog_sec (s : State) (f : Logbook → Logbook) : (s.modLog f).sec = s.sec := rfl
@[simp] theorem State.modLog_boot (s : State) (f : Logbook → Logbook) : (s.modLog f).boot = s.boot := rfl
@[simp] theorem State.modLog_out (s : State) (f : Logbook → Logbook) : (s.modLog f).out = s.out := rfl
@[simp] theorem State.modLog_freeCtr (s : State) (f : Logbook → Logbook) : (s.modLog f).freeCtr = s.freeCtr := rfl

/-! ### `modBoot` -/

@[simp] theorem State.modBoot_pending (s : State) (f : Boot → Boot) : (s.modBoot f).pending = s.pending := rfl
@[simp] theorem State.modBoot_sku (s : State) (f : Boot → Boot) : (s.modBoot f).sku = s.sku := rfl
@[simp] theorem State.modBoot_ident (s : State) (f : Boot → Boot) : (s.modBoot f).ident = s.ident := rfl
@[simp] theorem State.modBoot_ctxs (s : State) (f : Boot → Boot) : (s.modBoot f).ctxs = s.ctxs := rfl
@[simp] theorem State.modBoot_mem (s : State) (f : Boot → Boot) : (s.modBoot f).mem = s.mem := rfl
@[simp] theorem State.modBoot_poison (s : State) (f : Boot → Boot) : (s.modBoot f).poison = s.poison := rfl
@[simp] theorem State.modBoot_watch (s : State) (f : Boot → Boot) : (s.modBoot f).watch = s.watch := rfl
@[simp] theorem State.modBoot_arrays (s : State) (f : Boot → Boot) : (s.modBoot f).arrays = s.arrays := rfl
@[simp] theorem State.modBoot_tiers (s : State) (f : Boot → Boot) : (s.modBoot f).tiers = s.tiers := rfl
@[simp] theorem State.modBoot_images (s : State) (f : Boot → Boot) : (s.modBoot f).images = s.images := rfl
@[simp] theorem State.modBoot_mer (s : State) (f : Boot → Boot) : (s.modBoot f).mer = s.mer := rfl
@[simp] theorem State.modBoot_modRing (s : State) (f : Boot → Boot) : (s.modBoot f).modRing = s.modRing := rfl
@[simp] theorem State.modBoot_due (s : State) (f : Boot → Boot) : (s.modBoot f).due = s.due := rfl
@[simp] theorem State.modBoot_host (s : State) (f : Boot → Boot) : (s.modBoot f).host = s.host := rfl
@[simp] theorem State.modBoot_res (s : State) (f : Boot → Boot) : (s.modBoot f).res = s.res := rfl
@[simp] theorem State.modBoot_fab (s : State) (f : Boot → Boot) : (s.modBoot f).fab = s.fab := rfl
@[simp] theorem State.modBoot_cat (s : State) (f : Boot → Boot) : (s.modBoot f).cat = s.cat := rfl
@[simp] theorem State.modBoot_power (s : State) (f : Boot → Boot) : (s.modBoot f).power = s.power := rfl
@[simp] theorem State.modBoot_log (s : State) (f : Boot → Boot) : (s.modBoot f).log = s.log := rfl
@[simp] theorem State.modBoot_sec (s : State) (f : Boot → Boot) : (s.modBoot f).sec = s.sec := rfl
@[simp] theorem State.modBoot_boot (s : State) (f : Boot → Boot) : (s.modBoot f).boot = f s.boot := rfl
@[simp] theorem State.modBoot_out (s : State) (f : Boot → Boot) : (s.modBoot f).out = s.out := rfl
@[simp] theorem State.modBoot_freeCtr (s : State) (f : Boot → Boot) : (s.modBoot f).freeCtr = s.freeCtr := rfl

/-! ### `modCat` -/

@[simp] theorem State.modCat_pending (s : State) (f : CatState → CatState) : (s.modCat f).pending = s.pending := rfl
@[simp] theorem State.modCat_sku (s : State) (f : CatState → CatState) : (s.modCat f).sku = s.sku := rfl
@[simp] theorem State.modCat_ident (s : State) (f : CatState → CatState) : (s.modCat f).ident = s.ident := rfl
@[simp] theorem State.modCat_ctxs (s : State) (f : CatState → CatState) : (s.modCat f).ctxs = s.ctxs := rfl
@[simp] theorem State.modCat_mem (s : State) (f : CatState → CatState) : (s.modCat f).mem = s.mem := rfl
@[simp] theorem State.modCat_poison (s : State) (f : CatState → CatState) : (s.modCat f).poison = s.poison := rfl
@[simp] theorem State.modCat_watch (s : State) (f : CatState → CatState) : (s.modCat f).watch = s.watch := rfl
@[simp] theorem State.modCat_arrays (s : State) (f : CatState → CatState) : (s.modCat f).arrays = s.arrays := rfl
@[simp] theorem State.modCat_tiers (s : State) (f : CatState → CatState) : (s.modCat f).tiers = s.tiers := rfl
@[simp] theorem State.modCat_images (s : State) (f : CatState → CatState) : (s.modCat f).images = s.images := rfl
@[simp] theorem State.modCat_mer (s : State) (f : CatState → CatState) : (s.modCat f).mer = s.mer := rfl
@[simp] theorem State.modCat_modRing (s : State) (f : CatState → CatState) : (s.modCat f).modRing = s.modRing := rfl
@[simp] theorem State.modCat_due (s : State) (f : CatState → CatState) : (s.modCat f).due = s.due := rfl
@[simp] theorem State.modCat_host (s : State) (f : CatState → CatState) : (s.modCat f).host = s.host := rfl
@[simp] theorem State.modCat_res (s : State) (f : CatState → CatState) : (s.modCat f).res = s.res := rfl
@[simp] theorem State.modCat_fab (s : State) (f : CatState → CatState) : (s.modCat f).fab = s.fab := rfl
@[simp] theorem State.modCat_cat (s : State) (f : CatState → CatState) : (s.modCat f).cat = f s.cat := rfl
@[simp] theorem State.modCat_power (s : State) (f : CatState → CatState) : (s.modCat f).power = s.power := rfl
@[simp] theorem State.modCat_log (s : State) (f : CatState → CatState) : (s.modCat f).log = s.log := rfl
@[simp] theorem State.modCat_sec (s : State) (f : CatState → CatState) : (s.modCat f).sec = s.sec := rfl
@[simp] theorem State.modCat_boot (s : State) (f : CatState → CatState) : (s.modCat f).boot = s.boot := rfl
@[simp] theorem State.modCat_out (s : State) (f : CatState → CatState) : (s.modCat f).out = s.out := rfl
@[simp] theorem State.modCat_freeCtr (s : State) (f : CatState → CatState) : (s.modCat f).freeCtr = s.freeCtr := rfl

/-! ### `setBlock` -/

@[simp] theorem State.setBlock_pending (s : State) (b : Nat) (x : Block) : (s.setBlock b x).pending = s.pending := rfl
@[simp] theorem State.setBlock_sku (s : State) (b : Nat) (x : Block) : (s.setBlock b x).sku = s.sku := rfl
@[simp] theorem State.setBlock_ident (s : State) (b : Nat) (x : Block) : (s.setBlock b x).ident = s.ident := rfl
@[simp] theorem State.setBlock_ctxs (s : State) (b : Nat) (x : Block) : (s.setBlock b x).ctxs = s.ctxs := rfl
@[simp] theorem State.setBlock_mem (s : State) (b : Nat) (x : Block) : (s.setBlock b x).mem = s.mem := rfl
@[simp] theorem State.setBlock_poison (s : State) (b : Nat) (x : Block) : (s.setBlock b x).poison = s.poison := rfl
@[simp] theorem State.setBlock_watch (s : State) (b : Nat) (x : Block) : (s.setBlock b x).watch = s.watch := rfl
@[simp] theorem State.setBlock_arrays (s : State) (b : Nat) (x : Block) : (s.setBlock b x).arrays = s.arrays := rfl
@[simp] theorem State.setBlock_tiers (s : State) (b : Nat) (x : Block) : (s.setBlock b x).tiers = s.tiers := rfl
@[simp] theorem State.setBlock_images (s : State) (b : Nat) (x : Block) : (s.setBlock b x).images = s.images := rfl
@[simp] theorem State.setBlock_mer (s : State) (b : Nat) (x : Block) : (s.setBlock b x).mer = s.mer := rfl
@[simp] theorem State.setBlock_modRing (s : State) (b : Nat) (x : Block) : (s.setBlock b x).modRing = s.modRing := rfl
@[simp] theorem State.setBlock_due (s : State) (b : Nat) (x : Block) : (s.setBlock b x).due = s.due := rfl
@[simp] theorem State.setBlock_host (s : State) (b : Nat) (x : Block) : (s.setBlock b x).host = s.host := rfl
@[simp] theorem State.setBlock_res (s : State) (b : Nat) (x : Block) : (s.setBlock b x).res = s.res := rfl
@[simp] theorem State.setBlock_fab (s : State) (b : Nat) (x : Block) : (s.setBlock b x).fab = s.fab := rfl
@[simp] theorem State.setBlock_cat (s : State) (b : Nat) (x : Block) : (s.setBlock b x).cat = s.cat := rfl
@[simp] theorem State.setBlock_log (s : State) (b : Nat) (x : Block) : (s.setBlock b x).log = s.log := rfl
@[simp] theorem State.setBlock_sec (s : State) (b : Nat) (x : Block) : (s.setBlock b x).sec = s.sec := rfl
@[simp] theorem State.setBlock_boot (s : State) (b : Nat) (x : Block) : (s.setBlock b x).boot = s.boot := rfl
@[simp] theorem State.setBlock_out (s : State) (b : Nat) (x : Block) : (s.setBlock b x).out = s.out := rfl
@[simp] theorem State.setBlock_freeCtr (s : State) (b : Nat) (x : Block) : (s.setBlock b x).freeCtr = s.freeCtr := rfl

/-! ### `modBlock` -/

@[simp] theorem State.modBlock_pending (s : State) (b : Nat) (f : Block → Block) : (s.modBlock b f).pending = s.pending := rfl
@[simp] theorem State.modBlock_sku (s : State) (b : Nat) (f : Block → Block) : (s.modBlock b f).sku = s.sku := rfl
@[simp] theorem State.modBlock_ident (s : State) (b : Nat) (f : Block → Block) : (s.modBlock b f).ident = s.ident := rfl
@[simp] theorem State.modBlock_ctxs (s : State) (b : Nat) (f : Block → Block) : (s.modBlock b f).ctxs = s.ctxs := rfl
@[simp] theorem State.modBlock_mem (s : State) (b : Nat) (f : Block → Block) : (s.modBlock b f).mem = s.mem := rfl
@[simp] theorem State.modBlock_poison (s : State) (b : Nat) (f : Block → Block) : (s.modBlock b f).poison = s.poison := rfl
@[simp] theorem State.modBlock_watch (s : State) (b : Nat) (f : Block → Block) : (s.modBlock b f).watch = s.watch := rfl
@[simp] theorem State.modBlock_arrays (s : State) (b : Nat) (f : Block → Block) : (s.modBlock b f).arrays = s.arrays := rfl
@[simp] theorem State.modBlock_tiers (s : State) (b : Nat) (f : Block → Block) : (s.modBlock b f).tiers = s.tiers := rfl
@[simp] theorem State.modBlock_images (s : State) (b : Nat) (f : Block → Block) : (s.modBlock b f).images = s.images := rfl
@[simp] theorem State.modBlock_mer (s : State) (b : Nat) (f : Block → Block) : (s.modBlock b f).mer = s.mer := rfl
@[simp] theorem State.modBlock_modRing (s : State) (b : Nat) (f : Block → Block) : (s.modBlock b f).modRing = s.modRing := rfl
@[simp] theorem State.modBlock_due (s : State) (b : Nat) (f : Block → Block) : (s.modBlock b f).due = s.due := rfl
@[simp] theorem State.modBlock_host (s : State) (b : Nat) (f : Block → Block) : (s.modBlock b f).host = s.host := rfl
@[simp] theorem State.modBlock_res (s : State) (b : Nat) (f : Block → Block) : (s.modBlock b f).res = s.res := rfl
@[simp] theorem State.modBlock_fab (s : State) (b : Nat) (f : Block → Block) : (s.modBlock b f).fab = s.fab := rfl
@[simp] theorem State.modBlock_cat (s : State) (b : Nat) (f : Block → Block) : (s.modBlock b f).cat = s.cat := rfl
@[simp] theorem State.modBlock_log (s : State) (b : Nat) (f : Block → Block) : (s.modBlock b f).log = s.log := rfl
@[simp] theorem State.modBlock_sec (s : State) (b : Nat) (f : Block → Block) : (s.modBlock b f).sec = s.sec := rfl
@[simp] theorem State.modBlock_boot (s : State) (b : Nat) (f : Block → Block) : (s.modBlock b f).boot = s.boot := rfl
@[simp] theorem State.modBlock_out (s : State) (b : Nat) (f : Block → Block) : (s.modBlock b f).out = s.out := rfl
@[simp] theorem State.modBlock_freeCtr (s : State) (b : Nat) (f : Block → Block) : (s.modBlock b f).freeCtr = s.freeCtr := rfl

/-! ### `setPort` -/

@[simp] theorem State.setPort_pending (s : State) (n : Nat) (p : Port) : (s.setPort n p).pending = s.pending := rfl
@[simp] theorem State.setPort_sku (s : State) (n : Nat) (p : Port) : (s.setPort n p).sku = s.sku := rfl
@[simp] theorem State.setPort_ident (s : State) (n : Nat) (p : Port) : (s.setPort n p).ident = s.ident := rfl
@[simp] theorem State.setPort_ctxs (s : State) (n : Nat) (p : Port) : (s.setPort n p).ctxs = s.ctxs := rfl
@[simp] theorem State.setPort_mem (s : State) (n : Nat) (p : Port) : (s.setPort n p).mem = s.mem := rfl
@[simp] theorem State.setPort_poison (s : State) (n : Nat) (p : Port) : (s.setPort n p).poison = s.poison := rfl
@[simp] theorem State.setPort_watch (s : State) (n : Nat) (p : Port) : (s.setPort n p).watch = s.watch := rfl
@[simp] theorem State.setPort_arrays (s : State) (n : Nat) (p : Port) : (s.setPort n p).arrays = s.arrays := rfl
@[simp] theorem State.setPort_tiers (s : State) (n : Nat) (p : Port) : (s.setPort n p).tiers = s.tiers := rfl
@[simp] theorem State.setPort_images (s : State) (n : Nat) (p : Port) : (s.setPort n p).images = s.images := rfl
@[simp] theorem State.setPort_mer (s : State) (n : Nat) (p : Port) : (s.setPort n p).mer = s.mer := rfl
@[simp] theorem State.setPort_modRing (s : State) (n : Nat) (p : Port) : (s.setPort n p).modRing = s.modRing := rfl
@[simp] theorem State.setPort_due (s : State) (n : Nat) (p : Port) : (s.setPort n p).due = s.due := rfl
@[simp] theorem State.setPort_host (s : State) (n : Nat) (p : Port) : (s.setPort n p).host = s.host := rfl
@[simp] theorem State.setPort_res (s : State) (n : Nat) (p : Port) : (s.setPort n p).res = s.res := rfl
@[simp] theorem State.setPort_cat (s : State) (n : Nat) (p : Port) : (s.setPort n p).cat = s.cat := rfl
@[simp] theorem State.setPort_power (s : State) (n : Nat) (p : Port) : (s.setPort n p).power = s.power := rfl
@[simp] theorem State.setPort_log (s : State) (n : Nat) (p : Port) : (s.setPort n p).log = s.log := rfl
@[simp] theorem State.setPort_sec (s : State) (n : Nat) (p : Port) : (s.setPort n p).sec = s.sec := rfl
@[simp] theorem State.setPort_boot (s : State) (n : Nat) (p : Port) : (s.setPort n p).boot = s.boot := rfl
@[simp] theorem State.setPort_out (s : State) (n : Nat) (p : Port) : (s.setPort n p).out = s.out := rfl
@[simp] theorem State.setPort_freeCtr (s : State) (n : Nat) (p : Port) : (s.setPort n p).freeCtr = s.freeCtr := rfl

/-! ### `modPort` -/

@[simp] theorem State.modPort_pending (s : State) (n : Nat) (f : Port → Port) : (s.modPort n f).pending = s.pending := rfl
@[simp] theorem State.modPort_sku (s : State) (n : Nat) (f : Port → Port) : (s.modPort n f).sku = s.sku := rfl
@[simp] theorem State.modPort_ident (s : State) (n : Nat) (f : Port → Port) : (s.modPort n f).ident = s.ident := rfl
@[simp] theorem State.modPort_ctxs (s : State) (n : Nat) (f : Port → Port) : (s.modPort n f).ctxs = s.ctxs := rfl
@[simp] theorem State.modPort_mem (s : State) (n : Nat) (f : Port → Port) : (s.modPort n f).mem = s.mem := rfl
@[simp] theorem State.modPort_poison (s : State) (n : Nat) (f : Port → Port) : (s.modPort n f).poison = s.poison := rfl
@[simp] theorem State.modPort_watch (s : State) (n : Nat) (f : Port → Port) : (s.modPort n f).watch = s.watch := rfl
@[simp] theorem State.modPort_arrays (s : State) (n : Nat) (f : Port → Port) : (s.modPort n f).arrays = s.arrays := rfl
@[simp] theorem State.modPort_tiers (s : State) (n : Nat) (f : Port → Port) : (s.modPort n f).tiers = s.tiers := rfl
@[simp] theorem State.modPort_images (s : State) (n : Nat) (f : Port → Port) : (s.modPort n f).images = s.images := rfl
@[simp] theorem State.modPort_mer (s : State) (n : Nat) (f : Port → Port) : (s.modPort n f).mer = s.mer := rfl
@[simp] theorem State.modPort_modRing (s : State) (n : Nat) (f : Port → Port) : (s.modPort n f).modRing = s.modRing := rfl
@[simp] theorem State.modPort_due (s : State) (n : Nat) (f : Port → Port) : (s.modPort n f).due = s.due := rfl
@[simp] theorem State.modPort_host (s : State) (n : Nat) (f : Port → Port) : (s.modPort n f).host = s.host := rfl
@[simp] theorem State.modPort_res (s : State) (n : Nat) (f : Port → Port) : (s.modPort n f).res = s.res := rfl
@[simp] theorem State.modPort_cat (s : State) (n : Nat) (f : Port → Port) : (s.modPort n f).cat = s.cat := rfl
@[simp] theorem State.modPort_power (s : State) (n : Nat) (f : Port → Port) : (s.modPort n f).power = s.power := rfl
@[simp] theorem State.modPort_log (s : State) (n : Nat) (f : Port → Port) : (s.modPort n f).log = s.log := rfl
@[simp] theorem State.modPort_sec (s : State) (n : Nat) (f : Port → Port) : (s.modPort n f).sec = s.sec := rfl
@[simp] theorem State.modPort_boot (s : State) (n : Nat) (f : Port → Port) : (s.modPort n f).boot = s.boot := rfl
@[simp] theorem State.modPort_out (s : State) (n : Nat) (f : Port → Port) : (s.modPort n f).out = s.out := rfl
@[simp] theorem State.modPort_freeCtr (s : State) (n : Nat) (f : Port → Port) : (s.modPort n f).freeCtr = s.freeCtr := rfl

/-! ### `emit` -/

@[simp] theorem State.emit_pending (s : State) (o : Out) : (s.emit o).pending = s.pending := rfl
@[simp] theorem State.emit_sku (s : State) (o : Out) : (s.emit o).sku = s.sku := rfl
@[simp] theorem State.emit_ident (s : State) (o : Out) : (s.emit o).ident = s.ident := rfl
@[simp] theorem State.emit_ctxs (s : State) (o : Out) : (s.emit o).ctxs = s.ctxs := rfl
@[simp] theorem State.emit_mem (s : State) (o : Out) : (s.emit o).mem = s.mem := rfl
@[simp] theorem State.emit_poison (s : State) (o : Out) : (s.emit o).poison = s.poison := rfl
@[simp] theorem State.emit_watch (s : State) (o : Out) : (s.emit o).watch = s.watch := rfl
@[simp] theorem State.emit_arrays (s : State) (o : Out) : (s.emit o).arrays = s.arrays := rfl
@[simp] theorem State.emit_tiers (s : State) (o : Out) : (s.emit o).tiers = s.tiers := rfl
@[simp] theorem State.emit_images (s : State) (o : Out) : (s.emit o).images = s.images := rfl
@[simp] theorem State.emit_mer (s : State) (o : Out) : (s.emit o).mer = s.mer := rfl
@[simp] theorem State.emit_modRing (s : State) (o : Out) : (s.emit o).modRing = s.modRing := rfl
@[simp] theorem State.emit_due (s : State) (o : Out) : (s.emit o).due = s.due := rfl
@[simp] theorem State.emit_host (s : State) (o : Out) : (s.emit o).host = s.host := rfl
@[simp] theorem State.emit_res (s : State) (o : Out) : (s.emit o).res = s.res := rfl
@[simp] theorem State.emit_fab (s : State) (o : Out) : (s.emit o).fab = s.fab := rfl
@[simp] theorem State.emit_cat (s : State) (o : Out) : (s.emit o).cat = s.cat := rfl
@[simp] theorem State.emit_power (s : State) (o : Out) : (s.emit o).power = s.power := rfl
@[simp] theorem State.emit_log (s : State) (o : Out) : (s.emit o).log = s.log := rfl
@[simp] theorem State.emit_sec (s : State) (o : Out) : (s.emit o).sec = s.sec := rfl
@[simp] theorem State.emit_boot (s : State) (o : Out) : (s.emit o).boot = s.boot := rfl
@[simp] theorem State.emit_out (s : State) (o : Out) : (s.emit o).out = s.out ++ [o] := rfl
@[simp] theorem State.emit_freeCtr (s : State) (o : Out) : (s.emit o).freeCtr = s.freeCtr := rfl

/-! ### `setMsix` -/

@[simp] theorem State.setMsix_pending (s : State) (g : Func) (v : Nat) (x : MsixVec) : (s.setMsix g v x).pending = s.pending := rfl
@[simp] theorem State.setMsix_sku (s : State) (g : Func) (v : Nat) (x : MsixVec) : (s.setMsix g v x).sku = s.sku := rfl
@[simp] theorem State.setMsix_ident (s : State) (g : Func) (v : Nat) (x : MsixVec) : (s.setMsix g v x).ident = s.ident := rfl
@[simp] theorem State.setMsix_ctxs (s : State) (g : Func) (v : Nat) (x : MsixVec) : (s.setMsix g v x).ctxs = s.ctxs := rfl
@[simp] theorem State.setMsix_mem (s : State) (g : Func) (v : Nat) (x : MsixVec) : (s.setMsix g v x).mem = s.mem := rfl
@[simp] theorem State.setMsix_poison (s : State) (g : Func) (v : Nat) (x : MsixVec) : (s.setMsix g v x).poison = s.poison := rfl
@[simp] theorem State.setMsix_watch (s : State) (g : Func) (v : Nat) (x : MsixVec) : (s.setMsix g v x).watch = s.watch := rfl
@[simp] theorem State.setMsix_arrays (s : State) (g : Func) (v : Nat) (x : MsixVec) : (s.setMsix g v x).arrays = s.arrays := rfl
@[simp] theorem State.setMsix_tiers (s : State) (g : Func) (v : Nat) (x : MsixVec) : (s.setMsix g v x).tiers = s.tiers := rfl
@[simp] theorem State.setMsix_images (s : State) (g : Func) (v : Nat) (x : MsixVec) : (s.setMsix g v x).images = s.images := rfl
@[simp] theorem State.setMsix_mer (s : State) (g : Func) (v : Nat) (x : MsixVec) : (s.setMsix g v x).mer = s.mer := rfl
@[simp] theorem State.setMsix_modRing (s : State) (g : Func) (v : Nat) (x : MsixVec) : (s.setMsix g v x).modRing = s.modRing := rfl
@[simp] theorem State.setMsix_due (s : State) (g : Func) (v : Nat) (x : MsixVec) : (s.setMsix g v x).due = s.due := rfl
@[simp] theorem State.setMsix_res (s : State) (g : Func) (v : Nat) (x : MsixVec) : (s.setMsix g v x).res = s.res := rfl
@[simp] theorem State.setMsix_fab (s : State) (g : Func) (v : Nat) (x : MsixVec) : (s.setMsix g v x).fab = s.fab := rfl
@[simp] theorem State.setMsix_cat (s : State) (g : Func) (v : Nat) (x : MsixVec) : (s.setMsix g v x).cat = s.cat := rfl
@[simp] theorem State.setMsix_power (s : State) (g : Func) (v : Nat) (x : MsixVec) : (s.setMsix g v x).power = s.power := rfl
@[simp] theorem State.setMsix_log (s : State) (g : Func) (v : Nat) (x : MsixVec) : (s.setMsix g v x).log = s.log := rfl
@[simp] theorem State.setMsix_sec (s : State) (g : Func) (v : Nat) (x : MsixVec) : (s.setMsix g v x).sec = s.sec := rfl
@[simp] theorem State.setMsix_boot (s : State) (g : Func) (v : Nat) (x : MsixVec) : (s.setMsix g v x).boot = s.boot := rfl
@[simp] theorem State.setMsix_out (s : State) (g : Func) (v : Nat) (x : MsixVec) : (s.setMsix g v x).out = s.out := rfl
@[simp] theorem State.setMsix_freeCtr (s : State) (g : Func) (v : Nat) (x : MsixVec) : (s.setMsix g v x).freeCtr = s.freeCtr := rfl

/-! ### `setPoison` -/

@[simp] theorem State.setPoison_pending (s : State) (c : Slot) (a : Nat) : (s.setPoison c a).pending = s.pending := rfl
@[simp] theorem State.setPoison_sku (s : State) (c : Slot) (a : Nat) : (s.setPoison c a).sku = s.sku := rfl
@[simp] theorem State.setPoison_ident (s : State) (c : Slot) (a : Nat) : (s.setPoison c a).ident = s.ident := rfl
@[simp] theorem State.setPoison_ctxs (s : State) (c : Slot) (a : Nat) : (s.setPoison c a).ctxs = s.ctxs := rfl
@[simp] theorem State.setPoison_mem (s : State) (c : Slot) (a : Nat) : (s.setPoison c a).mem = s.mem := rfl
@[simp] theorem State.setPoison_watch (s : State) (c : Slot) (a : Nat) : (s.setPoison c a).watch = s.watch := rfl
@[simp] theorem State.setPoison_arrays (s : State) (c : Slot) (a : Nat) : (s.setPoison c a).arrays = s.arrays := rfl
@[simp] theorem State.setPoison_tiers (s : State) (c : Slot) (a : Nat) : (s.setPoison c a).tiers = s.tiers := rfl
@[simp] theorem State.setPoison_images (s : State) (c : Slot) (a : Nat) : (s.setPoison c a).images = s.images := rfl
@[simp] theorem State.setPoison_mer (s : State) (c : Slot) (a : Nat) : (s.setPoison c a).mer = s.mer := rfl
@[simp] theorem State.setPoison_modRing (s : State) (c : Slot) (a : Nat) : (s.setPoison c a).modRing = s.modRing := rfl
@[simp] theorem State.setPoison_due (s : State) (c : Slot) (a : Nat) : (s.setPoison c a).due = s.due := rfl
@[simp] theorem State.setPoison_host (s : State) (c : Slot) (a : Nat) : (s.setPoison c a).host = s.host := rfl
@[simp] theorem State.setPoison_res (s : State) (c : Slot) (a : Nat) : (s.setPoison c a).res = s.res := rfl
@[simp] theorem State.setPoison_fab (s : State) (c : Slot) (a : Nat) : (s.setPoison c a).fab = s.fab := rfl
@[simp] theorem State.setPoison_cat (s : State) (c : Slot) (a : Nat) : (s.setPoison c a).cat = s.cat := rfl
@[simp] theorem State.setPoison_power (s : State) (c : Slot) (a : Nat) : (s.setPoison c a).power = s.power := rfl
@[simp] theorem State.setPoison_log (s : State) (c : Slot) (a : Nat) : (s.setPoison c a).log = s.log := rfl
@[simp] theorem State.setPoison_sec (s : State) (c : Slot) (a : Nat) : (s.setPoison c a).sec = s.sec := rfl
@[simp] theorem State.setPoison_boot (s : State) (c : Slot) (a : Nat) : (s.setPoison c a).boot = s.boot := rfl
@[simp] theorem State.setPoison_out (s : State) (c : Slot) (a : Nat) : (s.setPoison c a).out = s.out := rfl
@[simp] theorem State.setPoison_freeCtr (s : State) (c : Slot) (a : Nat) : (s.setPoison c a).freeCtr = s.freeCtr := rfl

/-! ### Slots -/

@[simp] theorem State.setCtx_ctx (s : State) (c d : Slot) (x : Ctx) :
    (s.setCtx c x).ctx d = if d = c then x else s.ctx d := by
  simp only [State.ctx, State.setCtx, Fin.getElem_fin, Vector.getElem_set]
  by_cases h : d = c
  · simp [h]
  · have : c.val ≠ d.val := fun e => h (Fin.ext e.symm)
    simp [h, this]

@[simp] theorem State.modCtx_ctx (s : State) (c d : Slot) (f : Ctx → Ctx) :
    (s.modCtx c f).ctx d = if d = c then f (s.ctx c) else s.ctx d := by simp [State.modCtx]

@[simp] theorem State.modStream_ctx (s : State) (c d : Slot) (f : CtxStream → CtxStream) :
    (s.modStream c f).ctx d = if d = c then { s.ctx c with stream := f (s.ctx c).stream } else s.ctx d := by
  simp [State.modStream]

@[simp] theorem State.modNum_ctx (s : State) (c d : Slot) (f : CtxNum → CtxNum) :
    (s.modNum c f).ctx d = if d = c then { s.ctx c with num := f (s.ctx c).num } else s.ctx d := by
  simp [State.modNum]

@[simp] theorem State.modTrain_ctx (s : State) (c d : Slot) (f : CtxTrain → CtxTrain) :
    (s.modTrain c f).ctx d = if d = c then { s.ctx c with train := f (s.ctx c).train } else s.ctx d := by
  simp [State.modTrain]

@[simp] theorem State.modEph_ctx (s : State) (c d : Slot) (f : EphRing → EphRing) :
    (s.modEph c f).ctx d = if d = c then { s.ctx c with eph := f (s.ctx c).eph } else s.ctx d := by
  simp [State.modEph]

@[simp] theorem State.modSub_ctx (s : State) (c d : Slot) (f : SubRing → SubRing) :
    (s.modSub c f).ctx d = if d = c then { s.ctx c with sub := f (s.ctx c).sub } else s.ctx d := by
  simp [State.modSub]

@[simp] theorem State.modCtxFab_ctx (s : State) (c d : Slot) (f : CtxFabric → CtxFabric) :
    (s.modCtxFab c f).ctx d = if d = c then { s.ctx c with fab := f (s.ctx c).fab } else s.ctx d := by
  simp [State.modCtxFab]

end Sys2Proof.Machine
end

