-- ==== Sys2Proof/Laws/Memory.lean ====
section
/-! SUPPORT. The bytes of the device ranges: every operation on them keeps the canonical form, a read after
a write gives the byte written, and no other byte changes. -/

namespace Sys2Proof.Machine

theorem Memory.wf_nil : Memory.wf [] := ⟨List.Pairwise.nil, fun _ h => absurd h (by simp)⟩

theorem Memory.wf_tail {x : Host.Cell} {m : List Host.Cell} (h : Memory.wf (x :: m)) : Memory.wf m :=
  ⟨(List.pairwise_cons.mp h.1).2, fun y hy => h.2 y (List.mem_cons_of_mem _ hy)⟩

theorem Memory.wf_head {x : Host.Cell} {m : List Host.Cell} (h : Memory.wf (x :: m)) :
    ∀ y ∈ m, x.1 < y.1 := (List.pairwise_cons.mp h.1).1

theorem Memory.wf_cons {x : Host.Cell} {m : List Host.Cell} (h : Memory.wf m) (hk : ∀ y ∈ m, x.1 < y.1)
    (hx : x.2 ≠ 0) : Memory.wf (x :: m) :=
  ⟨List.pairwise_cons.mpr ⟨hk, h.1⟩, fun y hy => by
    rcases List.mem_cons.mp hy with rfl | hy
    · exact hx
    · exact h.2 y hy⟩

/-- Where the entries of a list with one byte written come from. -/
theorem mem_memSet {m : List Host.Cell} {k : Nat} {v : Byte} {y : Host.Cell} (h : y ∈ memSet m k v) :
    y = (k, v) ∨ y ∈ m := by
  induction m with
  | nil =>
    simp only [memSet] at h
    split at h <;> simp_all
  | cons a m ih =>
    obtain ⟨j, x⟩ := a
    simp only [memSet] at h
    split at h
    · split at h <;> simp_all
    · split at h
      · split at h <;> simp_all
        tauto
      · rcases List.mem_cons.mp h with rfl | h
        · simp
        · rcases ih h with h | h <;> simp [h]

/-- A write keeps the canonical form. -/
theorem memSet_wf {m : List Host.Cell} (k : Nat) (v : Byte) (h : Memory.wf m) : Memory.wf (memSet m k v) := by
  induction m with
  | nil =>
    simp only [memSet]
    split
    · exact h
    · exact Memory.wf_cons h (by simp) ‹_›
  | cons a m ih =>
    obtain ⟨j, x⟩ := a
    simp only [memSet]
    split
    · split
      · exact h
      · refine Memory.wf_cons h (fun y hy => ?_) ‹_›
        rcases List.mem_cons.mp hy with rfl | hy
        · assumption
        · exact Nat.lt_trans ‹_› (Memory.wf_head h y hy)
    · split
      · subst_vars
        split
        · exact Memory.wf_tail h
        · exact Memory.wf_cons (Memory.wf_tail h) (fun y hy => Memory.wf_head h y hy) ‹_›
      · refine Memory.wf_cons (ih (Memory.wf_tail h)) (fun y hy => ?_) (h.2 (j, x) (by simp))
        rcases mem_memSet hy with rfl | hy
        · show j < k
          omega
        · exact Memory.wf_head h y hy

theorem memWrite_wf {m : List Host.Cell} (k : Nat) (b : Bytes) (h : Memory.wf m) : Memory.wf (memWrite m k b) := by
  induction b generalizing m k with
  | nil => exact h
  | cons v b ih => exact ih (k + 1) (memSet_wf k v h)

theorem filter_wf {m : List Host.Cell} (p : Host.Cell → Bool) (h : Memory.wf m) : Memory.wf (m.filter p) :=
  ⟨h.1.filter p, fun x hx => h.2 x (List.mem_filter.mp hx).1⟩

theorem memClear_wf {m : List Host.Cell} (lo hi : Nat) (h : Memory.wf m) : Memory.wf (memClear m lo hi) :=
  filter_wf _ h

/-- A byte below every listed key reads zero. -/
theorem memGet_below {m : List Host.Cell} {k : Nat} (h : ∀ y ∈ m, k < y.1) : memGet m k = 0 := by
  induction m with
  | nil => rfl
  | cons a m ih =>
    obtain ⟨j, x⟩ := a
    have hj : k < j := h (j, x) (by simp)
    simp only [memGet, if_neg (Nat.ne_of_gt hj)]
    exact ih (fun y hy => h y (by simp [hy]))

/-- A read after a write of one byte. -/
theorem memGet_memSet {m : List Host.Cell} (k j : Nat) (v : Byte) (h : Memory.wf m) :
    memGet (memSet m k v) j = if j = k then v else memGet m j := by
  induction m with
  | nil =>
    simp only [memSet]
    split
    · simp_all [memGet]
    · simp only [memGet, eq_comm]
  | cons a m ih =>
    obtain ⟨i, x⟩ := a
    have ht := Memory.wf_head h
    simp only [memSet]
    split
    · rename_i hk
      split
      · rename_i hv
        split
        · subst_vars
          refine memGet_below (fun y hy => ?_)
          rcases List.mem_cons.mp hy with rfl | hy
          · exact hk
          · exact Nat.lt_trans hk (ht y hy)
        · rfl
      · simp only [memGet, eq_comm]
    · split
      · subst_vars
        split
        · split
          · subst_vars
            exact memGet_below ht
          · rename_i hne
            simp [memGet, Ne.symm hne]
        · simp only [memGet, eq_comm]
          split <;> rfl
      · rename_i h1 h2
        simp only [memGet, ih (Memory.wf_tail h)]
        split
        · subst_vars
          rw [if_neg (fun e => h2 e.symm)]
        · rfl

/-- Bytes outside a written range keep their values. -/
theorem memGet_memWrite_out {m : List Host.Cell} (k j : Nat) (b : Bytes) (h : Memory.wf m)
    (hj : j < k ∨ k + b.length ≤ j) : memGet (memWrite m k b) j = memGet m j := by
  induction b generalizing m k with
  | nil => rfl
  | cons v b ih =>
    simp only [List.length_cons] at hj
    rw [memWrite, ih (k + 1) (memSet_wf k v h) (by omega), memGet_memSet k j v h, if_neg (by omega)]

/-- Bytes of a written range read as written. -/
theorem memGet_memWrite_in {m : List Host.Cell} (k i : Nat) (b : Bytes) (h : Memory.wf m)
    (hi : i < b.length) : memGet (memWrite m k b) (k + i) = b.getD i 0 := by
  induction b generalizing m k i with
  | nil => simp at hi
  | cons v b ih =>
    cases i with
    | zero =>
      rw [Nat.add_zero, memWrite, memGet_memWrite_out (k + 1) k b (memSet_wf k v h) (by omega),
        memGet_memSet k k v h]
      simp
    | succ i =>
      have : k + (i + 1) = (k + 1) + i := by omega
      rw [memWrite, this, ih (k + 1) i (memSet_wf k v h) (by simpa using hi)]
      simp

/-! ### Which operations touch no byte -/

/-- A fold of steps that touch no byte touches none. -/
theorem foldl_mem {α : Type} (f : State → α → State) (hf : ∀ s x, (f s x).mem = s.mem) (l : List α) (s : State) :
    (l.foldl f s).mem = s.mem := by
  induction l generalizing s with
  | nil => rfl
  | cons x l ih => rw [List.foldl_cons, ih, hf]

@[simp] theorem State.countBad_mem (s : State) (c : Slot) (a : Nat) : (s.countBad c a).mem = s.mem := by
  unfold State.countBad
  split
  · simp only
    split <;> rfl
  · rfl

@[simp] theorem State.scrubCorrected_mem (s : State) (q : Slot × Nat) : (s.scrubCorrected q).mem = s.mem := by
  unfold State.scrubCorrected
  split <;> rfl

@[simp] theorem State.correct_mem (s : State) (c : Slot) (a n : Nat) : (s.correct c a n).mem = s.mem :=
  foldl_mem (fun s (x : Nat × Latent) =>
    ({ s with tiers := { s.tiers with latent := kvErase s.tiers.latent x.1 } } : State).scrubCorrected (c, x.1 - memKey c 0))
    (fun _ _ => State.scrubCorrected_mem ..) _ s

@[simp] theorem State.meet_mem (s : State) (c : Slot) (a : Nat) : (s.meet c a).mem = s.mem := by
  unfold State.meet
  simp only
  split
  · exact State.countBad_mem ..
  · rfl
  · rfl

@[simp] theorem State.meetPage_mem (s : State) (c : Slot) (p : Nat) : (s.meetPage c p).mem = s.mem :=
  (foldl_mem (fun s (x : Nat × Latent) => s.meet c (x.1 - memKey c 0)) (fun _ _ => State.meet_mem ..) _ _).trans
    (State.correct_mem ..)

@[simp] theorem State.leaveFrame_mem (s : State) (c : Slot) (p : Nat) : (s.leaveFrame c p).mem = s.mem := by
  unfold State.leaveFrame
  simp only
  split
  · exact State.meetPage_mem ..
  · exact State.meetPage_mem ..

@[simp] theorem State.ddrFrame_mem (s : State) (d : Nat) : (s.ddrFrame d).1.mem = s.mem := by
  unfold State.ddrFrame
  split
  · rfl
  · split
    · rfl
    · simp only
      split
      · rfl
      · exact State.leaveFrame_mem ..

@[simp] theorem State.placePage_mem (s : State) (c : Slot) (p : Nat) (pg : Page) (t : Tier) :
    (s.placePage c p pg t).mem = s.mem := by
  have h := State.ddrFrame_mem s (homeOf s.sku.dies p pg)
  unfold State.placePage
  simp only
  repeat' split
  all_goals simp_all

@[simp] theorem State.switchPage_mem (s : State) (c : Slot) (p : Nat) (pg : Page) (t : Tier) :
    (s.switchPage c p pg t).mem = s.mem := by
  unfold State.switchPage
  simp only
  repeat' split
  all_goals simp

@[simp] theorem State.touchResident_mem (s : State) (c : Slot) (p : Nat) (pg : Page) (x : Nat) :
    (s.touchResident c p pg x).mem = s.mem := by
  unfold State.touchResident
  split <;> simp

@[simp] theorem State.touchPage_mem (s : State) (c : Slot) (p : Nat) : (s.touchPage c p).mem = s.mem := by
  unfold State.touchPage
  simp only
  repeat' split
  all_goals simp

@[simp] theorem State.writePage_mem (s : State) (c : Slot) (p : Nat) : (s.writePage c p).mem = s.mem := by
  have h : (s.captureFirst c p).mem = s.mem := rfl
  unfold State.writePage
  simp only
  repeat' split
  all_goals simp [h]

@[simp] theorem State.touch_mem (s : State) (c : Slot) (a n : Nat) : (s.touch c a n).mem = s.mem :=
  (State.correct_mem ..).trans (foldl_mem _ (fun s p => State.touchPage_mem s c p) _ _)

@[simp] theorem State.land_mem (s : State) (c : Slot) (a : Nat) (b : Bytes) :
    (s.land c a b).mem = memWrite s.mem (memKey c a) b := by
  unfold State.land
  simp only
  rw [foldl_mem _ (fun s p => State.writePage_mem s c p)]

/-- What a store that meets no page showing an image does to the bytes. -/
theorem State.store_mem (s : State) (c : Slot) (a : Nat) (b : Bytes) (hr : a + b.length ≤ rangeBytes)
    (hs : ∀ p ∈ pagesOf a b.length, s.shows c p = false) :
    (s.store c a b).mem = memWrite s.mem (memKey c a) b := by
  have hs' : ((pagesOf a b.length).any (s.shows c)) = false := by simpa [List.any_eq_false] using hs
  unfold State.store
  rw [if_neg (by omega), hs']
  exact State.land_mem ..

/-- A store all of whose pages show an image, or that runs past the range, changes no byte. -/
theorem State.store_mem_shown (s : State) (c : Slot) (a : Nat) (b : Bytes)
    (h : rangeBytes < a + b.length ∨ ∀ p ∈ pagesOf a b.length, s.shows c p = true) : (s.store c a b).mem = s.mem ∨ b = [] := by
  unfold State.store
  split
  · exact .inl rfl
  · rcases h with h | h
    · omega
    · split
      · rename_i hn
        right
        have : pagesOf a b.length = [] := by
          cases hl : pagesOf a b.length with
          | nil => rfl
          | cons p l => simp [hl] at hn h; simp_all
        cases b with
        | nil => rfl
        | cons x l => simp [pagesOf] at this
      · left
        rw [List.filter_eq_nil_iff.2 (by simpa using h)]
        rfl

/-- Landing keeps the canonical form. -/
theorem State.land_wf (s : State) (c : Slot) (a : Nat) (b : Bytes) (h : Memory.wf s.mem) : Memory.wf (s.land c a b).mem := by
  rw [State.land_mem]
  exact memWrite_wf _ _ h

/-- A fold of steps that keep the canonical form keeps it. -/
theorem foldl_wf {α : Type} (f : State → α → State) (hf : ∀ s x, Memory.wf s.mem → Memory.wf (f s x).mem) (l : List α)
    (s : State) (h : Memory.wf s.mem) : Memory.wf (l.foldl f s).mem := by
  induction l generalizing s with
  | nil => exact h
  | cons x l ih => exact ih _ (hf _ _ h)

/-- A store keeps the canonical form. -/
theorem State.store_wf (s : State) (c : Slot) (a : Nat) (b : Bytes) (h : Memory.wf s.mem) :
    Memory.wf (s.store c a b).mem := by
  unfold State.store
  split
  · exact h
  · split
    · exact State.land_wf _ _ _ _ h
    · exact foldl_wf _ (fun s p hs => State.land_wf s c _ _ hs) _ _ h

end Sys2Proof.Machine
end

