-- ==== Sys2Proof/Laws/Keeps.lean ====
section
/-! SUPPORT. What every operation shared by the commands keeps: the queue, the SKU, the rollback counter from falling,
the canonical form of the bytes, the envelopes within the cap. One lemma per operation, from the chapters on memory to
those on operations. -/

set_option Elab.async false

namespace Sys2Proof.Machine

/-- `t` comes from `s` by effects that leave the queue, the SKU and what the invariants ask. -/
structure Keeps (s t : State) : Prop where
  pending : t.pending = s.pending
  follows : Follows s t
  mem : MemInv s → MemInv t
  env : EnvelopeInv s → EnvelopeInv t
  lat : LatentInv s → LatentInv t

theorem Keeps.refl (s : State) : Keeps s s := ⟨rfl, ⟨rfl, BitVec.le_refl _, Nat.le_refl _⟩, id, id, id⟩

theorem Keeps.trans {s t u : State} (h : Keeps s t) (k : Keeps t u) : Keeps s u :=
  ⟨k.pending.trans h.pending,
   ⟨k.follows.sku.trans h.follows.sku, BitVec.le_trans h.follows.rollback k.follows.rollback,
    Nat.le_trans h.follows.free k.follows.free⟩,
   fun x => k.mem (h.mem x), fun x => k.env (h.env x), fun x => k.lat (h.lat x)⟩

/-- The envelopes are those of the table of blocks, the cap and the SKU. -/
theorem EnvelopeInv.of_eq {s t : State} (hk : t.sku = s.sku) (hb : t.power.blocks = s.power.blocks)
    (hc : t.power.cap = s.power.cap) (h : EnvelopeInv s) : EnvelopeInv t := by
  have e : t.envelopeOf = s.envelopeOf := by
    funext b; simp only [State.envelopeOf, State.block, State.blockMax, hb, hk]
  have m : t.blockMax = s.blockMax := by funext b; simp only [State.blockMax, hk]
  refine ⟨by rw [hb]; exact h.1, ?_⟩
  have := h.2
  simp only [State.envelopeSum, State.capOf] at this ⊢
  rw [e, m, hk, hc]
  exact this

/-- The bytes and the errors that wait for a reader may change if their form stays. -/
theorem Keeps.updLat {s0 s : State} (h : Keeps s0 s) {p : Power} {q : Security}
    {i cs po wa ar ti im me mr du ho re fa ca lo bo ou} {m : List Host.Cell}
    (hm : Memory.wf s.mem → Memory.wf m) (hl : LatentOk s.tiers.latent → LatentOk ti.latent)
    (hb : p.blocks = s.power.blocks) (hc : p.cap = s.power.cap) (hq : q.rollback = s.sec.rollback) :
    Keeps s0 ⟨s.pending, s.sku, i, cs, m, po, wa, ar, ti, im, me, mr, du, ho, re, fa, ca, p, lo, q, bo, ou,
      s.freeCtr⟩ :=
  h.trans ⟨rfl, ⟨rfl, by simp only [hq]; exact BitVec.le_refl _, Nat.le_refl _⟩, hm,
    EnvelopeInv.of_eq rfl hb hc, hl⟩

/-- The bytes may change if their form stays. -/
theorem Keeps.updMem {s0 s : State} (h : Keeps s0 s) {p : Power} {q : Security}
    {i cs po wa ar ti im me mr du ho re fa ca lo bo ou} {m : List Host.Cell}
    (hm : Memory.wf s.mem → Memory.wf m)
    (hb : p.blocks = s.power.blocks) (hc : p.cap = s.power.cap) (hq : q.rollback = s.sec.rollback)
    (hl : ti.latent = s.tiers.latent := by rfl) :
    Keeps s0 ⟨s.pending, s.sku, i, cs, m, po, wa, ar, ti, im, me, mr, du, ho, re, fa, ca, p, lo, q, bo, ou,
      s.freeCtr⟩ :=
  h.updLat hm (fun x => hl ▸ x) hb hc hq

/-- Fields that nothing here speaks of may take any value. -/
theorem Keeps.upd {s0 s : State} (h : Keeps s0 s) {p : Power} {q : Security}
    {i cs po wa ar ti im me mr du ho re fa ca lo bo ou}
    (hb : p.blocks = s.power.blocks) (hc : p.cap = s.power.cap) (hq : q.rollback = s.sec.rollback)
    (hl : ti.latent = s.tiers.latent := by rfl) :
    Keeps s0 ⟨s.pending, s.sku, i, cs, s.mem, po, wa, ar, ti, im, me, mr, du, ho, re, fa, ca, p, lo, q, bo, ou,
      s.freeCtr⟩ :=
  h.updMem id hb hc hq hl

theorem Keeps.fst {s0 : State} {α : Type} {p : State × α} {a : State} {b : α} (e : p = (a, b))
    (h : Keeps s0 p.1) : Keeps s0 a := by rw [e] at h; exact h

theorem Keeps.foldl {s0 s : State} {α : Type} {f : State → α → State} {l : List α}
    (hf : ∀ s x, Keeps s0 s → Keeps s0 (f s x)) (h : Keeps s0 s) : Keeps s0 (l.foldl f s) := by
  induction l generalizing s with
  | nil => exact h
  | cons x l ih => exact ih (hf s x h)

theorem Keeps.foldl₁ {s0 : State} {α β : Type} {f : State × β → α → State × β} {l : List α} {a : State × β}
    (hf : ∀ a x, Keeps s0 a.1 → Keeps s0 (f a x).1) (h : Keeps s0 a.1) : Keeps s0 (l.foldl f a).1 := by
  induction l generalizing a with
  | nil => exact h
  | cons x l ih => exact ih (hf a x h)

theorem Keeps.ite {s0 a b : State} {c : Prop} [Decidable c] (ha : c → Keeps s0 a) (hb : ¬c → Keeps s0 b) :
    Keeps s0 (if c then a else b) := by
  by_cases h : c
  · rw [if_pos h]; exact ha h
  · rw [if_neg h]; exact hb h

/-! ### Blocks -/

theorem kvGet_kvSet {α : Type} (l : List (Nat × α)) (hs : l.Pairwise (fun a b => a.1 < b.1)) (k j : Nat) (v : α) :
    kvGet (kvSet l k v) j = if j = k then some v else kvGet l j := by
  induction l with
  | nil =>
    simp only [kvSet, kvGet]
    by_cases e : j = k
    · rw [if_pos e, if_pos e.symm]
    · rw [if_neg e, if_neg (Ne.symm e)]
  | cons a l ih =>
    obtain ⟨n, x⟩ := a
    have ih := ih (List.pairwise_cons.mp hs).2
    simp only [kvSet]
    by_cases e : j = k
    · rw [if_pos e]
      by_cases h1 : k < n
      · rw [if_pos h1, kvGet, if_pos e.symm]
      · rw [if_neg h1]
        by_cases h2 : k = n
        · rw [if_pos h2, kvGet, if_pos (by omega)]
        · rw [if_neg h2, kvGet, if_neg (by omega), ih, if_pos e]
    · rw [if_neg e]
      by_cases h1 : k < n
      · rw [if_pos h1, kvGet, if_neg (Ne.symm e)]
      · rw [if_neg h1]
        by_cases h2 : k = n
        · rw [if_pos h2, kvGet, if_neg (by omega), kvGet, if_neg (by omega)]
        · rw [if_neg h2, kvGet, kvGet, ih, if_neg e]

theorem mem_kvSet {α : Type} {l : List (Nat × α)} {k : Nat} {v : α} {y : Nat × α} (h : y ∈ kvSet l k v) :
    y = (k, v) ∨ y ∈ l := by
  induction l with
  | nil => simp only [kvSet, List.mem_singleton] at h; exact .inl h
  | cons a l ih =>
    obtain ⟨n, x⟩ := a
    simp only [kvSet] at h
    split at h
    · rcases List.mem_cons.mp h with h | h
      · exact .inl h
      · exact .inr h
    · split at h
      · rcases List.mem_cons.mp h with h | h
        · exact .inl h
        · exact .inr (List.mem_cons_of_mem _ h)
      · rcases List.mem_cons.mp h with h | h
        · exact .inr (h ▸ List.mem_cons_self)
        · rcases ih h with h | h
          · exact .inl h
          · exact .inr (List.mem_cons_of_mem _ h)

theorem kvSet_pairwise {α : Type} {l : List (Nat × α)} (hs : l.Pairwise (fun a b => a.1 < b.1)) (k : Nat) (v : α) :
    (kvSet l k v).Pairwise (fun a b => a.1 < b.1) := by
  induction l with
  | nil => simp [kvSet]
  | cons a l ih =>
    obtain ⟨n, x⟩ := a
    have hh := (List.pairwise_cons.mp hs).1
    have ht := (List.pairwise_cons.mp hs).2
    simp only [kvSet]
    split
    · rename_i hk
      refine List.pairwise_cons.mpr ⟨fun y hy => ?_, hs⟩
      rcases List.mem_cons.mp hy with rfl | hy
      · exact hk
      · exact Nat.lt_trans hk (hh y hy)
    · split
      · subst_vars; exact List.pairwise_cons.mpr ⟨hh, ht⟩
      · refine List.pairwise_cons.mpr ⟨fun y hy => ?_, ih ht⟩
        rcases mem_kvSet hy with rfl | hy
        · show n < k; omega
        · exact hh y hy

/-! ### The errors that wait for a reader -/

theorem LatentOk.set {l : List (Nat × Latent)} (h : LatentOk l) {k : Nat} (hk : k % 64 = 0) (v : Latent) :
    LatentOk (kvSet l k v) :=
  ⟨kvSet_pairwise h.1 k v, fun x hx => by
    rcases mem_kvSet hx with rfl | hx
    · exact hk
    · exact h.2 x hx⟩

theorem LatentOk.filter {l : List (Nat × Latent)} (h : LatentOk l) (p : Nat × Latent → Bool) : LatentOk (l.filter p) :=
  ⟨h.1.filter _, fun x hx => h.2 x (List.mem_filter.mp hx).1⟩

theorem LatentOk.nil : LatentOk [] := ⟨List.Pairwise.nil, fun _ h => absurd h List.not_mem_nil⟩

/-- Every plate lies at a multiple of its 64 bytes. -/
theorem memKey_plate (c : Slot) (a : Nat) : memKey c (a / 64 * 64) % 64 = 0 := by
  unfold memKey; omega

/-- A block with its envelope as it was. -/
theorem State.setBlock_keeps {s0 s : State} (b : Nat) (x : Block) (h : Keeps s0 s)
    (hx : x.envelope = (s.block b).envelope) : Keeps s0 (s.setBlock b x) := by
  refine h.trans ⟨rfl, ⟨rfl, BitVec.le_refl _, Nat.le_refl _⟩, id, fun e => ?_, id⟩
  have hb : ∀ j, ((s.setBlock b x).block j).envelope = (s.block j).envelope := by
    intro j
    simp only [State.block, State.setBlock, kvGetD, kvGet_kvSet _ e.1]
    split
    · subst_vars; exact hx
    · rfl
  have he : (s.setBlock b x).envelopeOf = s.envelopeOf := by
    funext j; simp only [State.envelopeOf, Block.envelopeOf, hb]; rfl
  refine ⟨kvSet_pairwise e.1 b x, ?_⟩
  have := e.2
  simp only [State.envelopeSum, State.capOf] at this ⊢
  rw [he]; exact this

theorem State.modBlock_keeps {s0 s : State} (b : Nat) (f : Block → Block) (h : Keeps s0 s)
    (hf : ∀ x, (f x).envelope = x.envelope) : Keeps s0 (s.modBlock b f) := State.setBlock_keeps b _ h (hf _)

/-! ### Free values and stores -/

theorem State.draw_keeps {s0 s : State} (h : Keeps s0 s) : Keeps s0 s.draw.1 :=
  h.trans ⟨rfl, ⟨rfl, BitVec.le_refl _, Nat.le_succ _⟩, id, EnvelopeInv.of_eq rfl rfl rfl, id⟩

theorem State.drawBytes_keeps {s0 s : State} (n : Nat) (h : Keeps s0 s) : Keeps s0 (s.drawBytes n).1 :=
  h.trans ⟨rfl, ⟨rfl, BitVec.le_refl _, Nat.le_add_right _ _⟩, id, EnvelopeInv.of_eq rfl rfl rfl, id⟩

/-! ### `Mem` -/

theorem foldl_memSet_wf {α : Type} (k : α → Nat) (v : α → Byte) (l : List α) {m : List Host.Cell} (h : Memory.wf m) :
    Memory.wf (l.foldl (fun m x => memSet m (k x) (v x)) m) := by
  induction l generalizing m with
  | nil => exact h
  | cons x l ih => exact ih (memSet_wf _ _ h)

theorem State.setCtx_keeps {s0 : State} {s : State} (c : Slot) (x : Ctx) (hk : Keeps s0 s) :
    Keeps s0 (State.setCtx s c x) := Keeps.upd hk rfl rfl rfl

theorem State.modCtx_keeps {s0 : State} {s : State} (c : Slot) (f : Ctx → Ctx) (hk : Keeps s0 s) :
    Keeps s0 (State.modCtx s c f) := by
  unfold State.modCtx
  repeat' (first
    | with_reducible assumption | with_reducible apply State.setCtx_keeps)

theorem State.setPoison_keeps {s0 : State} {s : State} (c : Slot) (a : Nat) (hk : Keeps s0 s) :
    Keeps s0 (State.setPoison s c a) := Keeps.upd hk rfl rfl rfl

theorem State.modPage_keeps {s0 : State} {s : State} (c : Slot) (p : Nat) (f : Page → Page) (hk : Keeps s0 s) :
    Keeps s0 (State.modPage s c p f) := by
  unfold State.modPage
  repeat' (first
    | with_reducible assumption | with_reducible apply State.modCtx_keeps)

theorem State.modPosition_keeps {s0 : State} {s : State} (p : Nat) (f : DdrPosition → DdrPosition) (hk : Keeps s0 s) :
    Keeps s0 (State.modPosition s p f) := Keeps.upd hk rfl rfl rfl

theorem State.countBad_keeps {s0 : State} {s : State} (c : Slot) (a : Nat) (hk : Keeps s0 s) :
    Keeps s0 (State.countBad s c a) := by
  unfold State.countBad
  repeat' (first
    | with_reducible assumption | with_reducible apply State.modPosition_keeps | with_reducible apply Keeps.ite
    | intro _ | refine Keeps.fst (by with_reducible assumption) ?_ | with_reducible rfl | exact rfl | dsimp only
    | split | with_reducible apply Keeps.upd)

theorem State.scrubCorrected_keeps {s0 : State} {s : State} (q : Slot × Nat) (hk : Keeps s0 s) :
    Keeps s0 (State.scrubCorrected s q) := by
  unfold State.scrubCorrected
  repeat' (first
    | with_reducible assumption | with_reducible apply State.modPosition_keeps | with_reducible apply Keeps.ite
    | intro _)

theorem State.correct_keeps {s0 : State} {s : State} (c : Slot) (a n : Nat) (h : Keeps s0 s) :
    Keeps s0 (State.correct s c a n) := by
  unfold State.correct
  exact Keeps.foldl (fun _ _ k => State.scrubCorrected_keeps _ (Keeps.updLat k id (fun l => l.filter _) rfl rfl rfl)) h

theorem State.flashPoison_keeps {s0 : State} {s : State} (d : Nat) (c : Slot) (a : Nat) (hk : Keeps s0 s) :
    Keeps s0 (State.flashPoison s d c a) := by
  unfold State.flashPoison
  exact Keeps.updLat (State.setPoison_keeps c a hk) id (fun l => l.filter _) rfl rfl rfl

theorem State.meet_keeps {s0 : State} {s : State} (c : Slot) (a : Nat) (hk : Keeps s0 s) :
    Keeps s0 (State.meet s c a) := by
  unfold State.meet
  dsimp only
  split
  · exact State.countBad_keeps _ _ (Keeps.updLat hk id (fun l => l.set (memKey_plate c a) _) rfl rfl rfl)
  · exact State.flashPoison_keeps _ _ _ hk
  · exact hk

theorem State.meetPage_keeps {s0 : State} {s : State} (c : Slot) (p : Nat) (hk : Keeps s0 s) :
    Keeps s0 (State.meetPage s c p) := by
  unfold State.meetPage
  repeat' (first
    | with_reducible assumption | with_reducible apply State.correct_keeps | with_reducible apply State.meet_keeps
    | with_reducible apply Keeps.ite | intro _ | with_reducible apply Keeps.foldl)

theorem State.leaveFrame_keeps {s0 : State} {s : State} (c : Slot) (p : Nat) (hk : Keeps s0 s) :
    Keeps s0 (State.leaveFrame s c p) := by
  unfold State.leaveFrame
  repeat' (first
    | with_reducible assumption | with_reducible apply State.meetPage_keeps | with_reducible apply Keeps.ite
    | intro _ | refine Keeps.fst (by with_reducible assumption) ?_ | with_reducible rfl | exact rfl | dsimp only
    | split | with_reducible apply Keeps.upd)

theorem State.ddrFrame_keeps {s0 : State} {s : State} (d : Nat) (hk : Keeps s0 s) :
    Keeps s0 (State.ddrFrame s d).1 := by
  unfold State.ddrFrame
  repeat' (first
    | with_reducible assumption | with_reducible apply State.leaveFrame_keeps
    | with_reducible apply State.modCtx_keeps | with_reducible apply State.modPage_keeps
    | with_reducible apply Keeps.ite | intro _ | refine Keeps.fst (by with_reducible assumption) ?_
    | with_reducible rfl | exact rfl | dsimp only | split)

theorem State.placePage_keeps {s0 : State} {s : State} (c : Slot) (p : Nat) (pg : Page) (stay : Tier)
    (hk : Keeps s0 s) :
    Keeps s0 (State.placePage s c p pg stay) := by
  unfold State.placePage
  repeat' (first
    | with_reducible assumption | with_reducible apply PWork.put_keeps | with_reducible apply State.modPage_keeps
    | with_reducible apply State.ddrFrame_keeps | with_reducible apply Keeps.ite | intro _
    | refine Keeps.fst (by with_reducible assumption) ?_ | with_reducible rfl | exact rfl | dsimp only | split)

theorem State.switchPage_keeps {s0 : State} {s : State} (c : Slot) (p : Nat) (pg : Page) (t : Tier) (hk : Keeps s0 s) :
    Keeps s0 (State.switchPage s c p pg t) := by
  unfold State.switchPage
  repeat' (first
    | with_reducible assumption | with_reducible apply State.leaveFrame_keeps
    | with_reducible apply State.meetPage_keeps | with_reducible apply State.modPage_keeps
    | with_reducible apply Keeps.ite | intro _ | refine Keeps.fst (by with_reducible assumption) ?_
    | with_reducible rfl | exact rfl | dsimp only | split)

theorem State.touchResident_keeps {s0 : State} {s : State} (c : Slot) (p : Nat) (pg : Page) (x : Nat)
    (hk : Keeps s0 s) :
    Keeps s0 (State.touchResident s c p pg x) := by
  unfold State.touchResident
  repeat' (first
    | with_reducible assumption | with_reducible apply State.leaveFrame_keeps
    | with_reducible apply State.modPage_keeps | with_reducible apply Keeps.ite | intro _
    | refine Keeps.fst (by with_reducible assumption) ?_ | with_reducible rfl | exact rfl | dsimp only | split)

theorem State.touchPage_keeps {s0 : State} {s : State} (c : Slot) (p : Nat) (hk : Keeps s0 s) :
    Keeps s0 (State.touchPage s c p) := by
  unfold State.touchPage
  repeat' (first
    | with_reducible assumption | with_reducible apply State.modPage_keeps
    | with_reducible apply State.placePage_keeps | with_reducible apply State.touchResident_keeps
    | with_reducible apply Keeps.ite | intro _ | refine Keeps.fst (by with_reducible assumption) ?_
    | with_reducible rfl | exact rfl | dsimp only | split)

theorem State.captureFirst_keeps {s0 : State} {s : State} (c : Slot) (p : Nat) (hk : Keeps s0 s) :
    Keeps s0 (State.captureFirst s c p) := Keeps.upd hk rfl rfl rfl

theorem State.writePage_keeps {s0 : State} {s : State} (c : Slot) (p : Nat) (hk : Keeps s0 s) :
    Keeps s0 (State.writePage s c p) := by
  unfold State.writePage
  repeat' (first
    | with_reducible assumption | with_reducible apply State.captureFirst_keeps
    | with_reducible apply State.touchPage_keeps | with_reducible apply State.placePage_keeps
    | with_reducible apply State.switchPage_keeps | with_reducible apply Keeps.ite | intro _
    | refine Keeps.fst (by with_reducible assumption) ?_ | with_reducible rfl | exact rfl | dsimp only | split)

theorem State.land_keeps {s0 : State} {s : State} (c : Slot) (a : Nat) (b : Bytes) (h : Keeps s0 s) :
    Keeps s0 (State.land s c a b) := by
  unfold State.land
  exact Keeps.updLat (Keeps.foldl (fun _ x k => State.writePage_keeps c x k) h) (memWrite_wf _ _)
    (fun l => l.filter _) rfl rfl rfl

theorem State.store_keeps {s0 : State} {s : State} (c : Slot) (a : Nat) (b : Bytes) (h : Keeps s0 s) :
    Keeps s0 (State.store s c a b) := by
  unfold State.store
  split
  · exact h
  · split
    · exact State.land_keeps _ _ _ h
    · exact Keeps.foldl (fun _ _ k => State.land_keeps _ _ _ k) h

theorem State.touch_keeps {s0 : State} {s : State} (c : Slot) (a n : Nat) (hk : Keeps s0 s) :
    Keeps s0 (State.touch s c a n) := by
  unfold State.touch
  repeat' (first
    | with_reducible assumption | with_reducible apply State.touchPage_keeps
    | with_reducible apply State.correct_keeps | with_reducible apply Keeps.ite | intro _
    | with_reducible apply Keeps.foldl)

theorem State.storeAt_keeps {s0 : State} {s : State} (c : Slot) (a : Nat) (b : List (Nat × Byte)) (h : Keeps s0 s) :
    Keeps s0 (State.storeAt s c a b) := by
  unfold State.storeAt
  dsimp only
  split
  · exact h
  · exact Keeps.updMem (Keeps.foldl (fun _ x k => State.writePage_keeps c x k) h) (foldl_memSet_wf _ _ b) rfl rfl rfl

theorem State.undefine_keeps {s0 : State} {s : State} (c : Slot) (a n : Nat) (hk : Keeps s0 s) :
    Keeps s0 (State.undefine s c a n) := by
  unfold State.undefine
  repeat' (first
    | with_reducible assumption | with_reducible apply State.drawBytes_keeps
    | with_reducible apply State.store_keeps)

/-! ### `Links` -/

theorem State.emit_keeps {s0 : State} {s : State} (o : Out) (hk : Keeps s0 s) :
    Keeps s0 (State.emit s o) := Keeps.upd hk rfl rfl rfl

theorem State.setPort_keeps {s0 : State} {s : State} (n : Nat) (p : Port) (hk : Keeps s0 s) :
    Keeps s0 (State.setPort s n p) := Keeps.upd hk rfl rfl rfl

theorem State.modPort_keeps {s0 : State} {s : State} (n : Nat) (f : Port → Port) (hk : Keeps s0 s) :
    Keeps s0 (State.modPort s n f) := by
  unfold State.modPort
  repeat' (first
    | with_reducible assumption | with_reducible apply State.setPort_keeps)

theorem State.putWord_keeps {s0 : State} {s : State} (n : Nat) (w : SentWord) (hk : Keeps s0 s) :
    Keeps s0 (State.putWord s n w) := by
  unfold State.putWord
  repeat' (first
    | with_reducible assumption | with_reducible apply State.emit_keeps)

theorem State.sendCodeword_keeps {s0 : State} {s : State} (n : Nat) (beacon : Bool) (slots : List Bytes)
    (hk : Keeps s0 s) :
    Keeps s0 (State.sendCodeword s n beacon slots) := by
  unfold State.sendCodeword
  repeat' (first
    | with_reducible assumption | with_reducible apply State.setPort_keeps
    | with_reducible apply State.putWord_keeps)

theorem State.putBeacons_keeps {s0 s : State} (n k : Nat) (hk : Keeps s0 s) :
    Keeps s0 (State.putBeacons s n k) := by
  induction k generalizing s with
  | zero => exact hk
  | succ k ih =>
    unfold State.putBeacons
    repeat' (first
      | with_reducible assumption | with_reducible apply ih | with_reducible apply State.modPort_keeps
      | with_reducible apply State.sendCodeword_keeps | with_reducible apply State.draw_keeps
      | with_reducible apply Keeps.ite | intro _ | dsimp only | split)

theorem State.putCtrl_keeps {s0 : State} {s : State} (n : Nat) (hk : Keeps s0 s) :
    Keeps s0 (State.putCtrl s n) := by
  unfold State.putCtrl
  repeat' (first
    | with_reducible assumption | with_reducible apply State.nak_keeps | with_reducible apply State.setPort_keeps
    | with_reducible apply State.sendCodeword_keeps | with_reducible apply Keeps.ite | intro _
    | refine Keeps.fst (by with_reducible assumption) ?_ | with_reducible rfl | exact rfl | dsimp only | split)

theorem State.issue_keeps {s0 : State} {s : State} (n : Nat) (pk : Packet) (hk : Keeps s0 s) :
    Keeps s0 (State.issue s n pk) := by
  unfold State.issue
  repeat' (first
    | with_reducible assumption | with_reducible apply State.modPort_keeps
    | with_reducible apply State.sendCodeword_keeps | with_reducible apply Keeps.ite | intro _
    | with_reducible apply Keeps.foldl)

theorem State.pumpPort_keeps {s0 s : State} (n : Nat) (hk : Keeps s0 s) : Keeps s0 (State.pumpPort s n) := by
  unfold State.pumpPort
  dsimp only
  refine State.modPort_keeps _ _ (Keeps.foldl₁ (fun a x h => ?_) ?_)
  · split
    · exact h
    · exact State.issue_keeps _ _ h
  · dsimp only
    with_reducible apply State.modPort_keeps
    with_reducible apply State.putCtrl_keeps
    with_reducible apply State.putBeacons_keeps
    exact hk

theorem State.countDropped_keeps {s0 : State} {s : State} (hk : Keeps s0 s) :
    Keeps s0 (State.countDropped s) := Keeps.upd hk rfl rfl rfl

theorem State.route_keeps {s0 : State} {s : State} (p : Packet) (hk : Keeps s0 s) :
    Keeps s0 (State.route s p).1 := by
  unfold State.route
  repeat' (first
    | with_reducible assumption | with_reducible apply State.modPort_keeps
    | with_reducible apply State.pumpPort_keeps | with_reducible apply Keeps.ite | intro _
    | refine Keeps.fst (by with_reducible assumption) ?_ | with_reducible rfl | exact rfl | dsimp only | split
    | with_reducible apply Keeps.upd)

theorem State.mgmtPacket_keeps {s0 : State} {s : State} (dest : BitVec 24) (b : Bytes) (hk : Keeps s0 s) :
    Keeps s0 (State.mgmtPacket s dest b) := by
  unfold State.mgmtPacket
  repeat' (first
    | with_reducible assumption | with_reducible apply State.route_keeps
    | with_reducible apply State.countDropped_keeps | with_reducible apply Keeps.ite | intro _)

/-! ### `Ops` -/

theorem State.setMsix_keeps {s0 : State} {s : State} (f : Func) (v : Nat) (x : MsixVec) (hk : Keeps s0 s) :
    Keeps s0 (State.setMsix s f v x) := Keeps.upd hk rfl rfl rfl

theorem State.sendMsix_keeps {s0 : State} {s : State} (f : Func) (v : U8) (hk : Keeps s0 s) :
    Keeps s0 (State.sendMsix s f v) := by
  unfold State.sendMsix
  repeat' (first
    | with_reducible assumption | with_reducible apply State.setMsix_keeps | with_reducible apply State.emit_keeps
    | with_reducible apply Keeps.ite | intro _)

theorem State.setRing_keeps {s0 : State} {s : State} (r : Ring) (x : CmplRing) (hk : Keeps s0 s) :
    Keeps s0 (State.setRing s r x) := by
  unfold State.setRing
  repeat' (first
    | with_reducible assumption | with_reducible apply State.modCtx_keeps | with_reducible apply Keeps.ite
    | intro _ | refine Keeps.fst (by with_reducible assumption) ?_ | with_reducible rfl | exact rfl | dsimp only
    | split | with_reducible apply Keeps.upd)

theorem State.ringMessage_keeps {s0 : State} {s : State} (r : Ring) (hk : Keeps s0 s) :
    Keeps s0 (State.ringMessage s r) := by
  unfold State.ringMessage
  repeat' (first
    | with_reducible assumption | with_reducible apply State.setRing_keeps
    | with_reducible apply State.sendMsix_keeps)

theorem State.writeCmpl_keeps {s0 : State} {s : State} (r : Ring) (e : Cmpl) (hk : Keeps s0 s) :
    Keeps s0 (State.writeCmpl s r e) := by
  unfold State.writeCmpl
  repeat' (first
    | with_reducible assumption | with_reducible apply State.setRing_keeps | with_reducible apply State.emit_keeps
    | with_reducible apply State.store_keeps | with_reducible apply State.ringMessage_keeps
    | with_reducible apply Keeps.ite | intro _ | refine Keeps.fst (by with_reducible assumption) ?_
    | with_reducible rfl | exact rfl | dsimp only | split)

theorem State.post_keeps {s0 : State} {s : State} (r : Ring) (e : Cmpl) (hk : Keeps s0 s) :
    Keeps s0 (State.post s r e) := by
  unfold State.post
  repeat' (first
    | with_reducible assumption | with_reducible apply State.writeCmpl_keeps
    | with_reducible apply State.setRing_keeps | with_reducible apply Keeps.ite | intro _)

theorem State.postCtx_keeps {s0 : State} {s : State} (c : Slot) (e : Cmpl) (hk : Keeps s0 s) :
    Keeps s0 (State.postCtx s c e) := by
  unfold State.postCtx
  repeat' (first
    | with_reducible assumption | with_reducible apply State.post_keeps | with_reducible apply State.modCtx_keeps
    | with_reducible apply Keeps.ite | intro _)

theorem State.noticeMessages_keeps {s0 : State} {s : State} (r : LogRec) (hk : Keeps s0 s) :
    Keeps s0 (State.noticeMessages s r) := by
  unfold State.noticeMessages
  repeat' (first
    | with_reducible assumption | with_reducible apply State.mgmtPacket_keeps
    | with_reducible apply State.emit_keeps | with_reducible apply Keeps.ite | intro _
    | with_reducible apply Keeps.foldl | with_reducible apply Keeps.foldl₁
    | refine Keeps.fst (by with_reducible assumption) ?_ | with_reducible rfl | exact rfl | dsimp only | split
    | with_reducible apply Keeps.upd)

theorem State.noticeCompletions_keeps {s0 : State} {s : State} (r : LogRec) (hk : Keeps s0 s) :
    Keeps s0 (State.noticeCompletions s r) := by
  unfold State.noticeCompletions
  repeat' (first
    | with_reducible assumption | with_reducible apply State.post_keeps | with_reducible apply State.postCtx_keeps
    | with_reducible apply Keeps.ite | intro _)

theorem State.dropRecord_keeps {s0 : State} {s : State} (r : LogRec) (hk : Keeps s0 s) :
    Keeps s0 (State.dropRecord s r) := by
  unfold State.dropRecord
  repeat' (first
    | with_reducible assumption | with_reducible apply State.noticeMessages_keeps
    | with_reducible apply State.noticeCompletions_keeps | with_reducible apply Keeps.ite | intro _
    | refine Keeps.fst (by with_reducible assumption) ?_ | with_reducible rfl | exact rfl | dsimp only | split
    | with_reducible apply Keeps.upd)

theorem State.raise_keeps {s0 : State} {s : State} (e : Event) (hk : Keeps s0 s) :
    Keeps s0 (State.raise s e) := by
  unfold State.raise
  repeat' (first
    | with_reducible assumption | with_reducible apply State.dropRecord_keeps | with_reducible apply Keeps.ite
    | intro _ | refine Keeps.fst (by with_reducible assumption) ?_ | with_reducible rfl | exact rfl | dsimp only
    | split | with_reducible apply Keeps.upd)

theorem State.raiseStatus_keeps {s0 : State} {s : State} (sev : BitVec 2) (st : U16) (e : Event) (hk : Keeps s0 s) :
    Keeps s0 (State.raiseStatus s sev st e) := by
  unfold State.raiseStatus
  repeat' (first
    | with_reducible assumption | with_reducible apply State.raise_keeps)

/-! ### `Flags` -/

theorem State.modNum_keeps {s0 : State} {s : State} (c : Slot) (f : CtxNum → CtxNum) (hk : Keeps s0 s) :
    Keeps s0 (State.modNum s c f) := by
  unfold State.modNum
  repeat' (first
    | with_reducible assumption | with_reducible apply State.modCtx_keeps)

theorem State.modStepAcc_keeps {s0 : State} {s : State} (c : Slot) (step : U64) (f : StepAcc → StepAcc)
    (hk : Keeps s0 s) :
    Keeps s0 (State.modStepAcc s c step f) := by
  unfold State.modStepAcc
  repeat' (first
    | with_reducible assumption | with_reducible apply State.modNum_keeps)

theorem State.noteStep_keeps {s0 : State} {s : State} (c : Slot) (step : U64) (bit : Nat) (hk : Keeps s0 s) :
    Keeps s0 (State.noteStep s c step bit) := by
  unfold State.noteStep
  repeat' (first
    | with_reducible assumption | with_reducible apply State.modStepAcc_keeps)

theorem State.modStream_keeps {s0 : State} {s : State} (c : Slot) (f : CtxStream → CtxStream) (hk : Keeps s0 s) :
    Keeps s0 (State.modStream s c f) := by
  unfold State.modStream
  repeat' (first
    | with_reducible assumption | with_reducible apply State.modCtx_keeps)

theorem State.modOp_keeps {s0 : State} {s : State} (c : Slot) (n : Nat) (f : OpRec → OpRec) (hk : Keeps s0 s) :
    Keeps s0 (State.modOp s c n f) := by
  unfold State.modOp
  repeat' (first
    | with_reducible assumption | with_reducible apply State.modStream_keeps)

theorem State.modRun_keeps {s0 : State} {s : State} (c : Slot) (n : Nat) (f : RunData → RunData) (hk : Keeps s0 s) :
    Keeps s0 (State.modRun s c n f) := by
  unfold State.modRun
  repeat' (first
    | with_reducible assumption | with_reducible apply State.modOp_keeps)

theorem State.noteInvalid_keeps {s0 : State} {s : State} (o : OpCtx) (r : FaultRec) (hk : Keeps s0 s) :
    Keeps s0 (State.noteInvalid s o r) := by
  unfold State.noteInvalid
  repeat' (first
    | with_reducible assumption | with_reducible apply State.noteStep_keeps
    | with_reducible apply State.modRun_keeps | with_reducible apply State.modStepAcc_keeps
    | with_reducible apply State.raiseStatus_keeps | with_reducible apply Keeps.ite | intro _)

theorem State.event_keeps {s0 : State} {s : State} (o : OpCtx) (unit kind : Nat) (e : FEv) (hk : Keeps s0 s) :
    Keeps s0 (State.event s o unit kind e) := by
  unfold State.event
  repeat' (first
    | with_reducible assumption | with_reducible apply State.modRun_keeps
    | with_reducible apply State.modStepAcc_keeps | with_reducible apply State.noteInvalid_keeps
    | with_reducible apply Keeps.ite | intro _ | refine Keeps.fst (by with_reducible assumption) ?_
    | with_reducible rfl | exact rfl | dsimp only | split | with_reducible apply Keeps.upd)

theorem State.events_keeps {s0 : State} {s : State} (o : OpCtx) (unit kind : Nat) (es : List FEv) (hk : Keeps s0 s) :
    Keeps s0 (State.events s o unit kind es) := by
  unfold State.events
  repeat' (first
    | with_reducible assumption | with_reducible apply State.event_keeps | with_reducible apply Keeps.ite | intro _
    | with_reducible apply Keeps.foldl)

theorem State.cleanCore_keeps {s0 : State} {s : State} (core : Nat) (hk : Keeps s0 s) :
    Keeps s0 (State.cleanCore s core) := Keeps.upd hk rfl rfl rfl

/-! ### `Drain` -/

theorem Keeps.foldlOn {s0 : State} {α β : Type} (g : β → State) {f : β → α → β} {l : List α} {a : β}
    (hf : ∀ b x, Keeps s0 (g b) → Keeps s0 (g (f b x))) (h : Keeps s0 (g a)) : Keeps s0 (g (l.foldl f a)) := by
  induction l generalizing a with
  | nil => exact h
  | cons x l ih => exact ih (hf a x h)

theorem Keeps.iteOn {s0 : State} {β : Type} (g : β → State) {a b : β} {c : Prop} [Decidable c]
    (ha : c → Keeps s0 (g a)) (hb : ¬c → Keeps s0 (g b)) : Keeps s0 (g (if c then a else b)) := by
  by_cases h : c
  · rw [if_pos h]; exact ha h
  · rw [if_neg h]; exact hb h

theorem Keeps.fstOf {s0 : State} {α β : Type} (g : β → State) {p : β × α} {a : β} {b : α} (e : p = (a, b))
    (h : Keeps s0 (g p.1)) : Keeps s0 (g a) := by rw [e] at h; exact h

theorem WStat.new_keeps {s0 s : State} (tagged : List Nat) (hk : Keeps s0 s) : Keeps s0 (WStat.new s tagged).s := hk

theorem WStat.see_keeps {s0 : State} {w : WStat} (y : F32) (hk : Keeps s0 w.s) : Keeps s0 (w.see y).s := by
  unfold WStat.see
  repeat' (first
    | exact hk | split)

theorem WStat.put_keeps {s0 : State} {w : WStat} (cfg : WCfg) (a : Nat) (b : Bytes) (full : Bool) (hk : Keeps s0 w.s) :
    Keeps s0 (w.put cfg a b full).s := by
  unfold WStat.put
  split
  · exact hk
  · split
    · exact hk
    · exact State.store_keeps _ _ _ hk

theorem WStat.block_keeps {s0 : State} {w : WStat} (cfg : WCfg) (mk : Nat → Nat → Nat × FEv) (tr b : Nat)
    (cells : List (Option Cell)) (hk : Keeps s0 w.s) : Keeps s0 (w.block cfg mk tr b cells).1.s := by
  have hs : Keeps s0 (cells.foldl (fun w x => match x with | some e => w.see e.y | none => w) w).s := by
    refine Keeps.foldlOn (WStat.s) (fun b x h => ?_) hk
    split
    · exact WStat.see_keeps _ h
    · exact h
  unfold WStat.block
  try dsimp only
  split
  · exact hs
  · split
    · exact WStat.put_keeps _ _ _ _ hs
    · exact hs

theorem WStat.plate_keeps {s0 : State} {w : WStat} (cfg : WCfg) (tr j : Nat) (bs : List OutBlock) (hk : Keeps s0 w.s) :
    Keeps s0 (w.plate cfg tr j bs).s := WStat.put_keeps _ _ _ _ hk

theorem WStat.scaledRow_keeps {s0 : State} {w : WStat} (cfg : WCfg) (mk : Nat → Nat → Nat → Nat × FEv) (tr c0 : Nat)
    (cells : List (Option Cell)) (hk : Keeps s0 w.s) : Keeps s0 (w.scaledRow cfg mk tr c0 cells).s := by
  unfold WStat.scaledRow
  try dsimp only
  refine Keeps.foldlOn WStat.s (fun b x h => WStat.plate_keeps _ _ _ _ h) ?_
  refine Keeps.foldlOn (fun (q : WStat × List OutBlock) => q.1.s) (fun b x h => ?_) hk
  try dsimp only
  split
  · exact h
  · exact WStat.block_keeps _ _ _ _ _ h

theorem WStat.wideRow_keeps {s0 : State} {w : WStat} (cfg : WCfg) (mk : Nat → Nat → Nat → Nat × FEv) (dark : Bool)
    (tr c0 : Nat)
    (cells : List (Option Cell)) (hk : Keeps s0 w.s) : Keeps s0 (w.wideRow cfg mk dark tr c0 cells).s := by
  unfold WStat.wideRow
  try dsimp only
  refine Keeps.foldlOn WStat.s (fun b x h => ?_) ?_
  · try dsimp only
    split
    · exact WStat.put_keeps _ _ _ _ h
    · exact WStat.put_keeps _ _ _ _ h
  · refine Keeps.foldlOn (fun (q : WStat × List Nat) => q.1.s) (fun b x h => ?_) hk
    try dsimp only
    split
    · exact h
    · exact WStat.see_keeps _ h

theorem WStat.maskRow_keeps {s0 : State} {w : WStat} (cfg : WCfg) (tr c0 : Nat) (bits : List Bool) (hk : Keeps s0 w.s) :
    Keeps s0 (w.maskRow cfg tr c0 bits).s := by
  unfold WStat.maskRow
  exact Keeps.iteOn WStat.s (fun _ => hk) (fun _ => Keeps.foldlOn WStat.s (fun _ _ h => WStat.put_keeps _ _ _ _ h) hk)

theorem WStat.endRegions_keeps {s0 : State} {w : WStat} (cfg : WCfg) (tr0 c0 width : Nat) (hk : Keeps s0 w.s) :
    Keeps s0 (w.endRegions cfg tr0 c0 width).s := by
  unfold WStat.endRegions
  split
  · exact hk
  · split
    · exact hk
    · refine Keeps.foldlOn WStat.s (fun b x h => ?_) hk
      try dsimp only
      split
      · exact WStat.put_keeps _ _ _ _ h
      · exact h

theorem WStat.tileRows_keeps {s0 : State} {w : WStat} (cfg : WCfg) (tileR tileC : Nat) (dark : Bool) (tr0 c0 : Nat)
    (rows : List (Option (List (Option Cell)))) (hk : Keeps s0 w.s) :
    Keeps s0 (w.tileRows cfg tileR tileC dark tr0 c0 rows).s := by
  unfold WStat.tileRows
  refine Keeps.foldlOn WStat.s (fun b x h => ?_) hk
  try dsimp only
  split
  · exact h
  · split
    · exact h
    · split
      · exact WStat.scaledRow_keeps _ _ _ _ _ h
      · exact WStat.wideRow_keeps _ _ _ _ _ _ h

theorem WStat.tile_keeps {s0 : State} {w : WStat} (cfg : WCfg) (tileR tileC : Nat) (dark : Bool) (tr0 c0 width : Nat)
    (rows : List (Option (List (Option Cell)))) (hk : Keeps s0 w.s) :
    Keeps s0 (w.tile cfg tileR tileC dark tr0 c0 width rows).s :=
  WStat.endRegions_keeps _ _ _ _ (WStat.tileRows_keeps _ _ _ _ _ _ _ hk)

theorem WStat.report_keeps {s0 : State} {w : WStat} (o : OpCtx) (cfg : WCfg) (hk : Keeps s0 w.s) :
    Keeps s0 (WStat.report w o cfg) := by
  unfold WStat.report
  repeat' (first
    | with_reducible assumption | with_reducible apply State.modNum_keeps
    | with_reducible apply State.noteStep_keeps | with_reducible apply State.raiseStatus_keeps
    | with_reducible apply Keeps.ite | intro _ | dsimp only | split)

/-! ### `Journal` -/

theorem State.modTrain_keeps {s0 : State} {s : State} (c : Slot) (f : CtxTrain → CtxTrain) (hk : Keeps s0 s) :
    Keeps s0 (State.modTrain s c f) := by
  unfold State.modTrain
  repeat' (first
    | with_reducible assumption | with_reducible apply State.modCtx_keeps)

theorem State.journalWrite_keeps {s0 : State} {s : State} (c : Slot) (e : JEntry) (hk : Keeps s0 s) :
    Keeps s0 (State.journalWrite s c e) := by
  unfold State.journalWrite
  repeat' (first
    | with_reducible assumption | with_reducible apply State.store_keeps | with_reducible apply Keeps.ite | intro _)

theorem State.journalMod_keeps {s0 : State} {s : State} (c : Slot) (step : U64) (f : JEntry → JEntry)
    (hk : Keeps s0 s) :
    Keeps s0 (State.journalMod s c step f) := by
  unfold State.journalMod
  repeat' (first
    | with_reducible assumption | with_reducible apply State.train_keeps
    | with_reducible apply State.modTrain_keeps | with_reducible apply State.journalWrite_keeps
    | with_reducible apply Keeps.ite | intro _ | refine Keeps.fst (by with_reducible assumption) ?_
    | with_reducible rfl | exact rfl | dsimp only | split)

theorem State.journalOp_keeps {s0 : State} {s : State} (c : Slot) (step : U64) (list : Nat) (d : Desc)
    (hk : Keeps s0 s) :
    Keeps s0 (State.journalOp s c step list d) := by
  unfold State.journalOp
  repeat' (first
    | with_reducible assumption | with_reducible apply State.journalMod_keeps)

theorem State.journalList_keeps {s0 : State} {s : State} (c : Slot) (step : U64) (l : JList) (hk : Keeps s0 s) :
    Keeps s0 (State.journalList s c step l).1 := by
  unfold State.journalList
  repeat' (first
    | with_reducible assumption | with_reducible apply State.train_keeps
    | with_reducible apply State.journalMod_keeps | with_reducible apply Keeps.ite | intro _
    | refine Keeps.fst (by with_reducible assumption) ?_ | with_reducible rfl | exact rfl | dsimp only | split)

theorem State.stashStart_keeps {s0 : State} {s : State} (c : Slot) (d : Desc) (up : Bool) (hk : Keeps s0 s) :
    Keeps s0 (State.stashStart s c d up) := by
  unfold State.stashStart
  repeat' (first
    | with_reducible assumption | with_reducible apply State.modTrain_keeps | with_reducible apply Keeps.ite
    | intro _)

theorem State.stashWrite_keeps {s0 : State} {s : State} (c : Slot) (r : StashRing) (hk : Keeps s0 s) :
    Keeps s0 (State.stashWrite s c r) := by
  unfold State.stashWrite
  repeat' (first
    | with_reducible assumption | with_reducible apply State.train_keeps | with_reducible apply State.store_keeps
    | with_reducible apply Keeps.ite | intro _)

theorem State.stashMod_keeps {s0 : State} {s : State} (c : Slot) (q : Nat × Nat) (f : StashRing → StashRing)
    (hk : Keeps s0 s) :
    Keeps s0 (State.stashMod s c q f) := by
  unfold State.stashMod
  repeat' (first
    | with_reducible assumption | with_reducible apply State.modTrain_keeps
    | with_reducible apply State.train_keeps | with_reducible apply State.stashWrite_keeps
    | with_reducible apply Keeps.ite | intro _ | refine Keeps.fst (by with_reducible assumption) ?_
    | with_reducible rfl | exact rfl | dsimp only | split)

theorem State.stashComplete_keeps {s0 : State} {s : State} (c : Slot) (d : Desc) (hk : Keeps s0 s) :
    Keeps s0 (State.stashComplete s c d) := by
  unfold State.stashComplete
  repeat' (first
    | with_reducible assumption | with_reducible apply State.train_keeps
    | with_reducible apply State.stashMod_keeps | with_reducible apply Keeps.ite | intro _
    | with_reducible apply Keeps.foldl)

/-! ### `Pool` -/

theorem State.addPages_keeps {s0 : State} {s : State} (c : Slot) (first n : Nat) (pg : Page) (hk : Keeps s0 s) :
    Keeps s0 (State.addPages s c first n pg) := by
  unfold State.addPages
  repeat' (first
    | with_reducible assumption | with_reducible apply State.modCtx_keeps)

theorem State.freePages_keeps {s0 : State} {s : State} (c : Slot) (ps : List Nat) (hk : Keeps s0 s) :
    Keeps s0 (State.freePages s c ps) := by
  unfold State.freePages
  exact Keeps.foldl (fun _ _ k => Keeps.updLat k (memClear_wf _ _) (fun l => l.filter _) rfl rfl rfl)
    (State.modCtx_keeps _ _ (Keeps.foldl (fun _ _ k => State.captureFirst_keeps _ _ k) hk))

theorem State.freeAfter_keeps {s0 : State} {s : State} (c : Slot) (n : Nat) (hk : Keeps s0 s) :
    Keeps s0 (State.freeAfter s c n) := by
  unfold State.freeAfter
  repeat' (first
    | with_reducible assumption | with_reducible apply State.modCtx_keeps
    | with_reducible apply State.freePages_keeps | with_reducible apply Keeps.ite | intro _
    | with_reducible apply Keeps.foldl)

theorem State.classTarget_keeps {s0 : State} {s : State} (p : Nat) (pg : Page) (hk : Keeps s0 s) :
    Keeps s0 (State.classTarget s p pg).1 := by
  unfold State.classTarget
  repeat' (first
    | with_reducible assumption | with_reducible apply State.pinned_keeps
    | with_reducible apply State.ddrFrame_keeps | with_reducible apply Keeps.ite | intro _
    | refine Keeps.fst (by with_reducible assumption) ?_ | with_reducible rfl | exact rfl | dsimp only | split)

theorem State.startMove_keeps {s0 : State} {s : State} (c : Slot) (p : Nat) (hk : Keeps s0 s) :
    Keeps s0 (State.startMove s c p) := by
  unfold State.startMove
  repeat' (first
    | with_reducible assumption | with_reducible apply State.classTarget_keeps
    | with_reducible apply State.modPage_keeps | with_reducible apply Keeps.ite | intro _
    | refine Keeps.fst (by with_reducible assumption) ?_ | with_reducible rfl | exact rfl | dsimp only | split)

theorem State.reclass_keeps {s0 : State} {s : State} (c : Slot) (p : Nat) (f : Page → Page) (hk : Keeps s0 s) :
    Keeps s0 (State.reclass s c p f) := by
  unfold State.reclass
  repeat' (first
    | with_reducible assumption | with_reducible apply State.modPage_keeps
    | with_reducible apply State.startMove_keeps)

theorem State.setPoolResult_keeps {s0 : State} {s : State} (c : Slot) (r : PoolReq) (status : U16) (state : U8)
    (hk : Keeps s0 s) :
    Keeps s0 (State.setPoolResult s c r status state) := by
  unfold State.setPoolResult
  repeat' (first
    | with_reducible assumption | with_reducible apply State.modCtx_keeps)

theorem State.poolAct_keeps {s0 : State} {s : State} (c : Slot) (r : PoolReq) (hk : Keeps s0 s) :
    Keeps s0 (State.poolAct s c r).1 := by
  unfold State.poolAct
  repeat' (first
    | with_reducible assumption | with_reducible apply State.addPages_keeps
    | with_reducible apply State.pinned_keeps | with_reducible apply State.freePages_keeps
    | with_reducible apply State.modCtx_keeps | with_reducible apply State.modPage_keeps
    | with_reducible apply State.reclass_keeps | with_reducible apply Keeps.ite | intro _
    | with_reducible apply Keeps.foldl | with_reducible apply Keeps.foldl₁
    | refine Keeps.fst (by with_reducible assumption) ?_ | with_reducible rfl | exact rfl | dsimp only | split)

theorem State.poolRequest_keeps {s0 : State} {s : State} (c : Slot) (r : PoolReq) (hk : Keeps s0 s) :
    Keeps s0 (State.poolRequest s c r).1 := by
  unfold State.poolRequest
  repeat' (first
    | with_reducible assumption | with_reducible apply State.setPoolResult_keeps
    | with_reducible apply State.poolAct_keeps | with_reducible apply Keeps.ite | intro _
    | refine Keeps.fst (by with_reducible assumption) ?_ | with_reducible rfl | exact rfl | dsimp only | split)

theorem State.writeFloor_keeps {s0 : State} {s : State} (c : Slot) (ddr : Bool) (v : U32) (hk : Keeps s0 s) :
    Keeps s0 (State.writeFloor s c ddr v).1 := by
  unfold State.writeFloor
  repeat' (first
    | with_reducible assumption | with_reducible apply State.modCtx_keeps | with_reducible apply Keeps.ite
    | intro _ | refine Keeps.fst (by with_reducible assumption) ?_ | with_reducible rfl | exact rfl | dsimp only
    | split)

theorem State.poolReserve_keeps {s0 : State} {s : State} (c : Slot) (base plates : Nat) (hk : Keeps s0 s) :
    Keeps s0 (State.poolReserve s c base plates).1 := by
  unfold State.poolReserve
  repeat' (first
    | with_reducible assumption | with_reducible apply State.modCtx_keeps | with_reducible apply Keeps.ite
    | intro _ | with_reducible apply Keeps.foldl | with_reducible apply Keeps.foldl₁
    | refine Keeps.fst (by with_reducible assumption) ?_ | with_reducible rfl | exact rfl | dsimp only | split)

/-! ### `Stream` -/

theorem State.completeLists_keeps {s0 : State} {s : State} (c : Slot) (hk : Keeps s0 s) :
    Keeps s0 (State.completeLists s c) := by
  unfold State.completeLists
  repeat' (first
    | with_reducible assumption | with_reducible apply State.modStream_keeps
    | with_reducible apply State.lastStatus_keeps | with_reducible apply State.postCtx_keeps
    | with_reducible apply Keeps.ite | intro _ | with_reducible apply Keeps.foldl)

theorem State.scratchUndefined_keeps {s0 : State} {s : State} (c : Slot) (d : Desc) (run : Option RunData)
    (hk : Keeps s0 s) :
    Keeps s0 (State.scratchUndefined s c d run) := by
  unfold State.scratchUndefined
  repeat' (first
    | with_reducible assumption | with_reducible apply VJob.run_keeps | with_reducible apply State.undefine_keeps
    | with_reducible apply Keeps.ite | intro _ | refine Keeps.fst (by with_reducible assumption) ?_
    | with_reducible rfl | exact rfl | dsimp only | split)

theorem State.finishOp_keeps {s0 : State} {s : State} (c : Slot) (o : OpRec) (status : U16) (started : Bool)
    (hk : Keeps s0 s) :
    Keeps s0 (State.finishOp s c o status started) := by
  unfold State.finishOp
  repeat' (first
    | with_reducible assumption | with_reducible apply State.scratchUndefined_keeps
    | with_reducible apply VJob.run_keeps | with_reducible apply State.modOp_keeps
    | with_reducible apply State.modStepAcc_keeps | with_reducible apply State.stashStart_keeps
    | with_reducible apply State.stashComplete_keeps | with_reducible apply State.modStream_keeps
    | with_reducible apply State.take_keeps | with_reducible apply State.freeAfter_keeps
    | with_reducible apply State.post_keeps | with_reducible apply State.complete_keeps
    | with_reducible apply State.postCtx_keeps | with_reducible apply State.completeLists_keeps
    | with_reducible apply Keeps.ite | intro _)

theorem State.endFaulted_keeps {s0 : State} {s : State} (o : OpCtx) (status : U16) (hk : Keeps s0 s) :
    Keeps s0 (State.endFaulted s o status) := by
  unfold State.endFaulted
  repeat' (first
    | with_reducible assumption | with_reducible apply State.modRun_keeps | with_reducible apply Keeps.ite
    | intro _ | refine Keeps.fst (by with_reducible assumption) ?_ | with_reducible rfl | exact rfl | dsimp only
    | split | with_reducible apply Keeps.upd)

theorem State.faultOp_keeps {s0 : State} {s : State} (o : OpCtx) (status : U16) (handle : U32) (addr : Nat)
    (args : List U64) (hk : Keeps s0 s) :
    Keeps s0 (State.faultOp s o status handle addr args) := by
  unfold State.faultOp
  repeat' (first
    | with_reducible assumption | with_reducible apply VJob.run_keeps | with_reducible apply State.meet_keeps
    | with_reducible apply State.endFaulted_keeps | with_reducible apply State.raiseStatus_keeps
    | with_reducible apply Keeps.ite | intro _ | refine Keeps.fst (by with_reducible assumption) ?_
    | with_reducible rfl | exact rfl | dsimp only | split)

theorem State.countStale_keeps {s0 : State} {s : State} (o : OpCtx) (n : Nat) (hk : Keeps s0 s) :
    Keeps s0 (State.countStale s o n) := by
  unfold State.countStale
  repeat' (first
    | with_reducible assumption | with_reducible apply State.modStepAcc_keeps | with_reducible apply Keeps.ite
    | intro _)

theorem State.touchWindow_keeps {s0 : State} {s : State} (c : Slot) (w : Window) (hk : Keeps s0 s) :
    Keeps s0 (State.touchWindow s c w) := by
  unfold State.touchWindow
  repeat' (first
    | with_reducible assumption | with_reducible apply State.touch_keeps | with_reducible apply Keeps.ite | intro _
    | with_reducible apply Keeps.foldl | with_reducible apply Keeps.foldl₁
    | refine Keeps.fst (by with_reducible assumption) ?_ | with_reducible rfl | exact rfl | dsimp only | split)

theorem State.noteStale_keeps {s0 : State} {s : State} (o : OpCtx) (plates : List (Nat × BadPlate)) (hk : Keeps s0 s) :
    Keeps s0 (State.noteStale s o plates) := by
  unfold State.noteStale
  repeat' (first
    | with_reducible assumption | with_reducible apply VJob.run_keeps | with_reducible apply State.countStale_keeps
    | with_reducible apply State.modRun_keeps | with_reducible apply State.raiseStatus_keeps
    | with_reducible apply Keeps.ite | intro _ | refine Keeps.fst (by with_reducible assumption) ?_
    | with_reducible rfl | exact rfl | dsimp only | split)

theorem State.noteWindows_keeps {s0 : State} {s : State} (o : OpCtx) (time : Nat → Nat → Nat → Nat) (ws : List
    (Nat × Window)) (hk : Keeps s0 s) :
    Keeps s0 (State.noteWindows s o time ws).1 := by
  unfold State.noteWindows
  repeat' (first
    | with_reducible assumption | with_reducible apply VJob.run_keeps
    | with_reducible apply State.touchWindow_keeps | with_reducible apply State.noteStale_keeps
    | with_reducible apply State.countStale_keeps | with_reducible apply State.faultOp_keeps
    | with_reducible apply Keeps.ite | intro _ | with_reducible apply Keeps.foldl
    | with_reducible apply Keeps.foldl₁ | refine Keeps.fst (by with_reducible assumption) ?_ | with_reducible rfl
    | exact rfl | dsimp only | split)

theorem State.beginOp_keeps {s0 : State} {s : State} (c : Slot) (o : OpRec) (vs : List (Nat × TView))
    (hk : Keeps s0 s) :
    Keeps s0 (State.beginOp s c o vs) := by
  unfold State.beginOp
  repeat' (first
    | with_reducible assumption | with_reducible apply VJob.run_keeps | with_reducible apply State.modOp_keeps
    | with_reducible apply State.stashStart_keeps | with_reducible apply State.journalOp_keeps)

theorem State.startOp_keeps {s0 : State} {s : State} (c : Slot) (n : Nat) (mine : Desc → Bool) (ranks : Nat)
    (extra : Option U16) {go : State → OpRec → OpCtx → List (Nat × TView) → State} (h : Keeps s0 s)
    (hg : ∀ s o oc vs, Keeps s0 s → Keeps s0 (go s o oc vs)) : Keeps s0 (State.startOp s c n mine ranks extra go) := by
  unfold State.startOp
  repeat' (first
    | with_reducible assumption | with_reducible apply State.finishOp_keeps | with_reducible apply hg
    | with_reducible apply State.beginOp_keeps | with_reducible apply Keeps.ite | intro _ | dsimp only | split)

theorem State.postList_keeps {s0 : State} {s : State} (c : Slot) (tag : U32) (status : U16) (opId : U32)
    (step : U64) (hk : Keeps s0 s) :
    Keeps s0 (State.postList s c tag status opId step) := by
  unfold State.postList
  repeat' (first
    | with_reducible assumption | with_reducible apply State.postCtx_keeps)

theorem State.refuseList_keeps {s0 : State} {s : State} (c : Slot) (tag : U32) (status : U16) (opId : U32)
    (step : U64) (hk : Keeps s0 s) :
    Keeps s0 (State.refuseList s c tag status opId step) := by
  unfold State.refuseList
  repeat' (first
    | with_reducible assumption | with_reducible apply State.modStream_keeps
    | with_reducible apply State.lastStatus_keeps | with_reducible apply State.postList_keeps)

theorem State.acceptList_keeps {s0 : State} {s : State} (c : Slot) (e : SubEntry) (w : Walked) (hk : Keeps s0 s) :
    Keeps s0 (State.acceptList s c e w) := by
  unfold State.acceptList
  repeat' (first
    | with_reducible assumption | with_reducible apply State.refuseList_keeps
    | with_reducible apply State.raiseStatus_keeps | with_reducible apply State.journalList_keeps
    | with_reducible apply VJob.run_keeps | with_reducible apply State.modStream_keeps
    | with_reducible apply State.completeLists_keeps | with_reducible apply Keeps.ite | intro _)

end Sys2Proof.Machine
end

