-- ==== Sys2Proof/Laws/Frame.lean ====
section
/-! SUPPORT. What operations leave of the slots they do not act for: every register that only a slot's own work changes,
and every byte of its device range but the CMP_TAIL word of its submission ring. One lemma per operation. -/

set_option Elab.async false

namespace Sys2Proof.Machine

theorem SameSlot.refl (x : Ctx) : SameSlot x x := ⟨rfl, rfl, ⟨rfl, rfl, rfl⟩, rfl, rfl, rfl, rfl, rfl, rfl, ⟨rfl, rfl⟩⟩

theorem SameSlot.trans {x y z : Ctx} (h : SameSlot x y) (k : SameSlot y z) : SameSlot x z :=
  ⟨k.gen.trans h.gen, k.st.trans h.st,
   ⟨k.units.1.trans h.units.1, k.units.2.1.trans h.units.2.1, k.units.2.2.trans h.units.2.2⟩,
   k.num.trans h.num, k.stream.trans h.stream, k.train.trans h.train, k.eph.trans h.eph, k.sub.trans h.sub,
   k.fab.trans h.fab, ⟨k.floors.1.trans h.floors.1, k.floors.2.trans h.floors.2⟩⟩

/-- `t` comes from `s` by effects that act for the slots of `P` only. -/
structure Frame (P : Slot → Prop) (s t : State) : Prop where
  mem : MemInv s → MemInv t
  slot : ∀ c, ¬P c → SameSlot (s.ctx c) (t.ctx c)
  byte : MemInv s → ∀ c k, ¬P c → k < rangeBytes → ¬s.cmplWord c k → t.byte c k = s.byte c k
  out : s.out.IsPrefix t.out

theorem Frame.refl (P : Slot → Prop) (s : State) : Frame P s s :=
  ⟨id, fun _ _ => .refl _, fun _ _ _ _ _ _ => rfl, List.prefix_rfl⟩

theorem Frame.trans {P : Slot → Prop} {s t u : State} (h : Frame P s t) (k : Frame P t u) : Frame P s u where
  mem := fun m => k.mem (h.mem m)
  slot := fun c n => (h.slot c n).trans (k.slot c n)
  byte := fun m c i n hi hc =>
    (k.byte (h.mem m) c i n hi (by unfold State.cmplWord at hc ⊢; rw [(h.slot c n).sub]; exact hc)).trans
      (h.byte m c i n hi hc)
  out := h.out.trans k.out

theorem Frame.fst {P : Slot → Prop} {s0 : State} {α : Type} {p : State × α} {a : State} {b : α} (e : p = (a, b))
    (h : Frame P s0 p.1) : Frame P s0 a := by rw [e] at h; exact h

theorem Frame.foldl {P : Slot → Prop} {s0 s : State} {α : Type} {f : State → α → State} {l : List α}
    (hf : ∀ s x, Frame P s0 s → Frame P s0 (f s x)) (h : Frame P s0 s) : Frame P s0 (l.foldl f s) := by
  induction l generalizing s with
  | nil => exact h
  | cons x l ih => exact ih (hf s x h)

theorem Frame.foldlOn {P : Slot → Prop} {s0 : State} {α β : Type} (g : β → State) {f : β → α → β} {l : List α} {a : β}
    (hf : ∀ b x, Frame P s0 (g b) → Frame P s0 (g (f b x))) (h : Frame P s0 (g a)) : Frame P s0 (g (l.foldl f a)) := by
  induction l generalizing a with
  | nil => exact h
  | cons x l ih => exact ih (hf a x h)

theorem Frame.foldl₁ {P : Slot → Prop} {s0 : State} {α β : Type} {f : State × β → α → State × β} {l : List α}
    {a : State × β} (hf : ∀ a x, Frame P s0 a.1 → Frame P s0 (f a x).1) (h : Frame P s0 a.1) :
    Frame P s0 (l.foldl f a).1 := Frame.foldlOn (fun (q : State × β) => q.1) hf h

theorem Frame.iteOn {P : Slot → Prop} {s0 : State} {β : Type} (g : β → State) {a b : β} {c : Prop} [Decidable c]
    (ha : c → Frame P s0 (g a)) (hb : ¬c → Frame P s0 (g b)) : Frame P s0 (g (if c then a else b)) := by
  by_cases h : c
  · rw [if_pos h]; exact ha h
  · rw [if_neg h]; exact hb h

theorem Frame.ite {P : Slot → Prop} {s0 a b : State} {c : Prop} [Decidable c] (ha : c → Frame P s0 a)
    (hb : ¬c → Frame P s0 b) : Frame P s0 (if c then a else b) := Frame.iteOn id ha hb

/-- What lies outside the slots and their bytes may take any value; what has left the block stays. -/
theorem Frame.upd {P : Slot → Prop} {s0 s : State} (h : Frame P s0 s)
    {pe sk i po wa ar ti im me mr du ho re fa ca pw lo se bo ou fr}
    (hout : s.out.IsPrefix ou := by exact List.prefix_rfl) :
    Frame P s0 ⟨pe, sk, i, s.ctxs, s.mem, po, wa, ar, ti, im, me, mr, du, ho, re, fa, ca, pw, lo, se, bo, ou, fr⟩ :=
  h.trans ⟨id, fun _ _ => .refl _, fun _ _ _ _ _ _ => rfl, hout⟩

/-- A slot's own registers change. -/
theorem State.modCtx_frame {P : Slot → Prop} {s0 s : State} {c : Slot} {f : Ctx → Ctx} (hc : P c) (hk : Frame P s0 s) :
    Frame P s0 (s.modCtx c f) :=
  hk.trans ⟨id, fun d hd => by
    rw [State.modCtx_ctx, if_neg (fun e : d = c => hd (e.symm ▸ hc))]; exact .refl _, fun _ _ _ _ _ _ => rfl, List.prefix_rfl⟩

/-- Registers of a slot change that are not of its own work only. -/
theorem State.modCtx_quiet {P : Slot → Prop} {s0 s : State} {c : Slot} {f : Ctx → Ctx}
    (hf : ∀ x, SameSlot x (f x)) (hk : Frame P s0 s) : Frame P s0 (s.modCtx c f) :=
  hk.trans ⟨id, fun d _ => by
    rw [State.modCtx_ctx]
    split
    · subst_vars; exact hf _
    · exact .refl _, fun _ _ _ _ _ _ => rfl, List.prefix_rfl⟩

theorem Ctx.modPage_same (x : Ctx) (p : Nat) (f : Page → Page) : SameSlot x (x.modPage p f) := by
  unfold Ctx.modPage
  split <;> exact ⟨rfl, rfl, ⟨rfl, rfl, rfl⟩, rfl, rfl, rfl, rfl, rfl, rfl, ⟨rfl, rfl⟩⟩

theorem State.modPage_frame {P : Slot → Prop} {s0 s : State} {c : Slot} {p : Nat} {f : Page → Page}
    (hk : Frame P s0 s) : Frame P s0 (s.modPage c p f) := State.modCtx_quiet (fun x => x.modPage_same p f) hk

theorem State.countBad_frame {P : Slot → Prop} {s0 s : State} {c : Slot} {a : Nat} (hk : Frame P s0 s) :
    Frame P s0 (s.countBad c a) := by
  unfold State.countBad
  split
  · dsimp only
    split
    · exact Frame.upd hk
    · exact Frame.upd (Frame.upd hk)
  · exact hk

theorem State.meet_frame {P : Slot → Prop} {s0 s : State} {c : Slot} {a : Nat} (hk : Frame P s0 s) :
    Frame P s0 (s.meet c a) := by
  unfold State.meet
  dsimp only
  split
  · exact State.countBad_frame (Frame.upd hk)
  · exact Frame.upd hk
  · exact hk

theorem State.scrubCorrected_frame {P : Slot → Prop} {s0 s : State} {q : Slot × Nat} (hk : Frame P s0 s) :
    Frame P s0 (s.scrubCorrected q) := by
  unfold State.scrubCorrected
  split
  · exact Frame.upd hk
  · exact hk

theorem State.correct_frame {P : Slot → Prop} {s0 s : State} {c : Slot} {a n : Nat} (hk : Frame P s0 s) :
    Frame P s0 (s.correct c a n) := by
  unfold State.correct
  exact Frame.foldl (fun _ _ k => State.scrubCorrected_frame (Frame.upd k)) hk

theorem State.meetPage_frame {P : Slot → Prop} {s0 s : State} {c : Slot} {p : Nat} (hk : Frame P s0 s) :
    Frame P s0 (s.meetPage c p) := by
  unfold State.meetPage
  exact Frame.foldl (fun _ _ k => State.meet_frame k) (State.correct_frame hk)

theorem State.leaveFrame_frame {P : Slot → Prop} {s0 s : State} {c : Slot} {p : Nat} (hk : Frame P s0 s) :
    Frame P s0 (s.leaveFrame c p) := by
  unfold State.leaveFrame
  dsimp only
  split
  · exact State.meetPage_frame hk
  · exact Frame.upd (State.meetPage_frame hk)

theorem State.ddrFrame_frame {P : Slot → Prop} {s0 s : State} {d : Nat} (hk : Frame P s0 s) :
    Frame P s0 (s.ddrFrame d).1 := by
  unfold State.ddrFrame
  split
  · exact hk
  · split
    · exact hk
    · dsimp only
      split
      · exact hk
      · dsimp only
        refine State.modCtx_quiet (fun x => ?_) (State.leaveFrame_frame hk)
        have h := Ctx.modPage_same x
        exact ⟨(h _ _).gen, (h _ _).st, (h _ _).units, (h _ _).num, (h _ _).stream, (h _ _).train, (h _ _).eph,
          (h _ _).sub, (h _ _).fab, (h _ _).floors⟩

theorem State.placePage_frame {P : Slot → Prop} {s0 s : State} {c : Slot} {p : Nat} {pg : Page} {stay : Tier}
    (hk : Frame P s0 s) : Frame P s0 (s.placePage c p pg stay) := by
  unfold State.placePage
  dsimp only
  repeat' (first
    | with_reducible assumption | with_reducible apply State.modPage_frame
    | with_reducible apply State.ddrFrame_frame | with_reducible apply Frame.ite | intro _ | dsimp only | split)

theorem State.touchResident_frame {P : Slot → Prop} {s0 s : State} {c : Slot} {p : Nat} {pg : Page} {x : Nat}
    (hk : Frame P s0 s) : Frame P s0 (s.touchResident c p pg x) := by
  unfold State.touchResident
  split
  · exact State.modPage_frame (State.leaveFrame_frame hk)
  · exact hk

theorem State.touchPage_frame {P : Slot → Prop} {s0 s : State} {c : Slot} {p : Nat} (hk : Frame P s0 s) :
    Frame P s0 (s.touchPage c p) := by
  unfold State.touchPage
  repeat' (first
    | with_reducible assumption | with_reducible apply State.modPage_frame
    | with_reducible apply State.placePage_frame | with_reducible apply State.touchResident_frame
    | with_reducible apply State.meetPage_frame | with_reducible apply Frame.ite | intro _ | dsimp only | split)

theorem State.touch_frame {P : Slot → Prop} {s0 s : State} {c : Slot} {a n : Nat} (hk : Frame P s0 s) :
    Frame P s0 (s.touch c a n) := by
  unfold State.touch
  exact State.correct_frame (Frame.foldl (fun _ _ k => State.touchPage_frame k) hk)

theorem State.switchPage_frame {P : Slot → Prop} {s0 s : State} {c : Slot} {p : Nat} {pg : Page} {t : Tier}
    (hk : Frame P s0 s) : Frame P s0 (s.switchPage c p pg t) := by
  unfold State.switchPage
  repeat' (first
    | with_reducible assumption | with_reducible apply State.modPage_frame | with_reducible apply State.leaveFrame_frame
    | with_reducible apply State.meetPage_frame | with_reducible apply Frame.ite | intro _ | dsimp only | split)

theorem State.writePage_frame {P : Slot → Prop} {s0 s : State} {c : Slot} {p : Nat} (hk : Frame P s0 s) :
    Frame P s0 (s.writePage c p) := by
  unfold State.writePage
  have h1 : Frame P s0 (s.captureFirst c p) := Frame.upd hk
  repeat' (first
    | with_reducible assumption | with_reducible apply State.touchPage_frame
    | with_reducible apply State.placePage_frame | with_reducible apply State.switchPage_frame
    | with_reducible apply Frame.ite | intro _ | dsimp only | split)

/-- Two addresses of device ranges have the same key only if they are the same. -/
theorem memKey_ne {c d : Slot} {a k : Nat} {n : Nat} (ha : a + n ≤ rangeBytes) (hk : k < rangeBytes)
    (h : d ≠ c ∨ k < a ∨ a + n ≤ k) : memKey d k < memKey c a ∨ memKey c a + n ≤ memKey d k := by
  unfold memKey
  unfold rangeBytes at ha hk
  rcases h with h | h
  · rcases Nat.lt_or_gt_of_ne (fun e => h (Fin.ext e)) with h | h <;> omega
  · by_cases e : d = c
    · subst e; omega
    · rcases Nat.lt_or_gt_of_ne (fun e' => e (Fin.ext e')) with h | h <;> omega

/-- A landing changes only the bytes that land. -/
theorem State.land_other {s : State} {c : Slot} {a : Nat} {b : Bytes} (h : MemInv s) (ha : a + b.length ≤ rangeBytes)
    {d : Slot} {k : Nat} (hk : k < rangeBytes) (ho : d ≠ c ∨ k < a ∨ a + b.length ≤ k) :
    (s.land c a b).byte d k = s.byte d k := by
  unfold State.byte
  rw [State.land_mem]
  exact memGet_memWrite_out _ _ _ h (memKey_ne ha hk ho)

/-- The part of a store that falls in one of its pages lies within the store. -/
theorem pagePart_within {a p : Nat} {b : Bytes} (hp : p ∈ pagesOf a b.length) :
    a ≤ (pagePart a b p).1 ∧ (pagePart a b p).1 + (pagePart a b p).2.length ≤ a + b.length := by
  have hlt : p * pageBytes < a + b.length := by
    unfold pagesOf at hp
    split at hp
    · simp at hp
    · simp only [List.mem_map, List.mem_range] at hp
      obtain ⟨i, hi, rfl⟩ := hp
      have h0 : a / pageBytes ≤ (a + b.length - 1) / pageBytes := Nat.div_le_div_right (by omega)
      have h1 := Nat.div_mul_le_self (a + b.length - 1) pageBytes
      have h2 : (a / pageBytes + i) * pageBytes ≤ (a + b.length - 1) / pageBytes * pageBytes :=
        Nat.mul_le_mul_right _ (by omega)
      omega
  simp only [pagePart, List.length_take, List.length_drop]
  have e : Nat.max a (p * pageBytes) = max a (p * pageBytes) := rfl
  rw [e]
  omega

/-- A store changes only the bytes it stores. -/
theorem State.store_other {s : State} {c : Slot} {a : Nat} {b : Bytes} (h : MemInv s) {d : Slot} {k : Nat}
    (hk : k < rangeBytes) (ho : d ≠ c ∨ k < a ∨ a + b.length ≤ k) : (s.store c a b).byte d k = s.byte d k := by
  unfold State.store
  split
  · rfl
  · rename_i hr
    split
    · exact State.land_other h (by omega) hk ho
    · suffices ∀ (l : List Nat), (∀ p ∈ l, p ∈ pagesOf a b.length) → ∀ u : State, MemInv u →
          (l.foldl (fun s p => let q := pagePart a b p; s.land c q.1 q.2) u).byte d k = u.byte d k from
        this _ (fun p hp => (List.mem_filter.1 hp).1) s h
      intro l
      induction l with
      | nil => exact fun _ _ _ => rfl
      | cons p l ih =>
        intro hl u hu
        have hw := pagePart_within (hl p (by simp))
        refine (ih (fun q hq => hl q (by simp [hq])) _ (State.land_wf _ _ _ _ hu)).trans ?_
        exact State.land_other hu (by omega) hk (ho.imp_right (fun h => by omega))

theorem State.store_slot {P : Slot → Prop} (s : State) (c : Slot) (a : Nat) (b : Bytes) (d : Slot) (hd : ¬P d) :
    SameSlot (s.ctx d) ((s.store c a b).ctx d) := by
  have hl : ∀ (u : State) (x : Nat) (y : Bytes), SameSlot (u.ctx d) ((u.land c x y).ctx d) := fun u x y =>
    (Frame.foldl (fun _ _ k => State.writePage_frame k) (Frame.refl P u)).slot d hd
  unfold State.store
  split
  · exact .refl _
  · split
    · exact hl ..
    · generalize ((pagesOf a b.length).filter (fun p => !s.shows c p)) = l
      suffices ∀ u : State, SameSlot (s.ctx d) (u.ctx d) → SameSlot (s.ctx d) ((l.foldl (fun (s : State) p =>
          let q := pagePart a b p; s.land c q.1 q.2) u).ctx d) from this s (.refl _)
      induction l with
      | nil => exact fun _ h => h
      | cons p l ih => exact fun u h => ih _ (h.trans (hl ..))

/-- A store leaves what has left the block. -/
theorem State.store_out (s : State) (c : Slot) (a : Nat) (b : Bytes) : s.out.IsPrefix (s.store c a b).out := by
  have hl : ∀ (u : State) (x : Nat) (y : Bytes), u.out.IsPrefix (u.land c x y).out := fun u _ _ =>
    (Frame.foldl (fun _ _ k => State.writePage_frame k) (Frame.refl (fun _ => True) u)).out
  unfold State.store
  split
  · exact List.prefix_rfl
  · split
    · exact hl ..
    · generalize ((pagesOf a b.length).filter (fun p => !s.shows c p)) = l
      suffices ∀ u : State, s.out.IsPrefix u.out → s.out.IsPrefix (l.foldl (fun (s : State) p =>
          let q := pagePart a b p; s.land c q.1 q.2) u).out from this s List.prefix_rfl
      induction l with
      | nil => exact fun _ h => h
      | cons p l ih => exact fun u h => ih _ (h.trans (hl ..))

theorem State.store_frame {P : Slot → Prop} {s0 s : State} {c : Slot} {a : Nat} {b : Bytes} (hc : P c)
    (hk : Frame P s0 s) : Frame P s0 (s.store c a b) :=
  hk.trans ⟨State.store_wf s c a b, fun d hd => State.store_slot s c a b d hd,
    fun m _ _ hd hi _ => State.store_other m hi (.inl (fun e => hd (e ▸ hc))), State.store_out s c a b⟩

/-- The CMP_TAIL word of a slot. -/
theorem State.storeTail_frame {P : Slot → Prop} {s0 s : State} {c : Slot} {b : Bytes} (hb : b.length = 4)
    (h0 : (s.ctx c).sub.base.toNat ≠ 0) (hk : Frame P s0 s) :
    Frame P s0 (s.store c ((s.ctx c).sub.base.toNat + 12) b) := by
  refine hk.trans ⟨State.store_wf s c _ b, fun d hd => State.store_slot s c _ b d hd, fun m d k _ hi hw => ?_,
    State.store_out s c _ b⟩
  refine State.store_other m hi ?_
  by_cases e : d = c
  · subst e
    refine .inr ?_
    by_contra hx
    exact hw ⟨fun z => h0 (by rw [z]; rfl), by omega, by omega⟩
  · exact .inl e

/-! ### Completions -/

theorem State.emit_frame {P : Slot → Prop} {s0 s : State} {o : Out} (hk : Frame P s0 s) : Frame P s0 (s.emit o) :=
  Frame.upd hk (List.prefix_append _ _)

theorem State.setMsix_frame {P : Slot → Prop} {s0 s : State} {f : Func} {v : Nat} {x : MsixVec} (hk : Frame P s0 s) :
    Frame P s0 (s.setMsix f v x) := Frame.upd hk

theorem State.sendMsix_frame {P : Slot → Prop} {s0 s : State} {f : Func} {v : U8} (hk : Frame P s0 s) :
    Frame P s0 (s.sendMsix f v) := by
  unfold State.sendMsix
  repeat' (first
    | with_reducible assumption | with_reducible apply State.setMsix_frame | with_reducible apply State.emit_frame
    | with_reducible apply Frame.ite | intro _)

theorem State.setRing_frame {P : Slot → Prop} {s0 s : State} {r : Ring} {x : CmplRing} (hk : Frame P s0 s) :
    Frame P s0 (s.setRing r x) := by
  unfold State.setRing
  split
  · exact Frame.upd hk
  · exact State.modCtx_quiet (fun x => ⟨rfl, rfl, ⟨rfl, rfl, rfl⟩, rfl, rfl, rfl, rfl, rfl, rfl, ⟨rfl, rfl⟩⟩) hk

theorem State.ringMessage_frame {P : Slot → Prop} {s0 s : State} {r : Ring} (hk : Frame P s0 s) :
    Frame P s0 (s.ringMessage r) := State.sendMsix_frame (State.setRing_frame hk)

theorem bvLe_length {w : Nat} (n : Nat) (v : BitVec w) : (bvLe n v).length = n := by
  unfold bvLe
  generalize v.toNat = k
  induction n generalizing k with
  | zero => rfl
  | succ n ih => simp only [natLe, List.length_cons, ih]

theorem State.writeCmpl_frame {P : Slot → Prop} {s0 s : State} {r : Ring} {e : Cmpl} (hk : Frame P s0 s) :
    Frame P s0 (s.writeCmpl r e) := by
  unfold State.writeCmpl
  dsimp only
  refine Frame.ite (fun _ => State.ringMessage_frame ?_) (fun _ => ?_)
  all_goals
    split
    · exact State.emit_frame (State.setRing_frame hk)
    · split
      · rename_i hb
        refine State.storeTail_frame (bvLe_length _ _) ?_ (State.emit_frame (State.setRing_frame hk))
        simp only [Bool.and_eq_true, bne_iff_ne] at hb
        exact hb.1.1
      · exact State.emit_frame (State.setRing_frame hk)

theorem State.post_frame {P : Slot → Prop} {s0 s : State} {r : Ring} {e : Cmpl} (hk : Frame P s0 s) :
    Frame P s0 (s.post r e) := by
  unfold State.post
  repeat' (first
    | with_reducible assumption | with_reducible apply State.writeCmpl_frame
    | with_reducible apply State.setRing_frame | with_reducible apply Frame.ite | intro _)

theorem State.postCtx_frame {P : Slot → Prop} {s0 s : State} {c : Slot} {e : Cmpl} (hk : Frame P s0 s) :
    Frame P s0 (s.postCtx c e) := by
  unfold State.postCtx
  split
  · exact State.post_frame hk
  · exact State.modCtx_quiet (fun x => ⟨rfl, rfl, ⟨rfl, rfl, rfl⟩, rfl, rfl, rfl, rfl, rfl, rfl, ⟨rfl, rfl⟩⟩) hk

end Sys2Proof.Machine
end

