-- ==== Sys2Proof/Laws/KeepsRings.lean ====
section
/-! SUPPORT. What the operations of the fabric, the rings, the Meridian and the numerics records keep: one lemma per operation. -/

set_option Elab.async false

namespace Sys2Proof.Machine

/-! ### `Blocks` -/

theorem kvGet_none {α : Type} (l : List (Nat × α)) (n : Nat) (h : ∀ y ∈ l, n < y.1) : kvGet l n = none := by
  induction l with
  | nil => rfl
  | cons y l ih =>
    have hy := h y List.mem_cons_self
    rw [kvGet, if_neg (by omega)]
    exact ih (fun z hz => h z (List.mem_cons_of_mem _ hz))

/-- Entries without the envelopes' default that a table loses leave every envelope. -/
theorem kvGet_filter_map (p : Nat × Block → Bool) (g : Block → Block) (hp : ∀ q, p q = false → q.2.envelope = none)
    (hg : ∀ x, (g x).envelope = x.envelope) (l : List (Nat × Block)) (hs : l.Pairwise (fun a b => a.1 < b.1)) (b : Nat) :
    (kvGetD ((l.filter p).map (fun q => (q.1, g q.2))) b .reset).envelope = (kvGetD l b .reset).envelope := by
  induction l with
  | nil => rfl
  | cons a l ih =>
    obtain ⟨n, x⟩ := a
    have ht := (List.pairwise_cons.mp hs).2
    have hh := (List.pairwise_cons.mp hs).1
    have ih := ih ht
    by_cases e : n = b
    · subst e
      by_cases hx : p (n, x) = true
      · simp only [List.filter_cons_of_pos hx, List.map_cons, kvGetD, kvGet, if_true, Option.getD_some, hg]
      · have hn : kvGet l n = none := by
          exact kvGet_none l n hh
        rw [List.filter_cons_of_neg hx, ih, kvGetD, hn, kvGetD, kvGet, if_pos rfl]
        exact (hp _ (by simpa using hx)).symm
    · have r : kvGetD ((n, x) :: l) b Block.reset = kvGetD l b Block.reset := by
        simp only [kvGetD, kvGet, if_neg e]
      rw [r, ← ih]
      by_cases hx : p (n, x) = true
      · simp only [List.filter_cons_of_pos hx, List.map_cons, kvGetD, kvGet, if_neg e]
      · rw [List.filter_cons_of_neg hx]

/-- Every block is changed and keeps its envelope. -/
theorem State.mapBlocks_keeps {s0 s : State} (g : Block → Block) (hk : Keeps s0 s)
    (hg : ∀ x, (g x).envelope = x.envelope) : Keeps s0 (State.mapBlocks s g) := by
  unfold State.mapBlocks
  refine hk.trans ⟨rfl, ⟨rfl, BitVec.le_refl _, Nat.le_refl _⟩, id, fun e => ⟨?_, ?_⟩, id⟩
  · exact List.pairwise_map.mpr e.1
  · have h2 := e.2
    simp only [State.envelopeSum, State.capOf] at h2 ⊢
    have he : ∀ b, State.envelopeOf { s with power := { s.power with
        blocks := s.power.blocks.map (fun q => (q.1, g q.2)) } } b = s.envelopeOf b := by
      intro b
      have := kvGet_filter_map (fun _ => true) g (fun _ h => by cases h) hg s.power.blocks e.1 b
      rw [List.filter_true] at this
      simp only [State.envelopeOf, Block.envelopeOf, State.block, this]
      rfl
    exact (congrArg (fun f => sumNat f s.sku.blocks) (funext he)).trans_le h2

theorem State.setLimit_keeps {s0 : State} {s : State} (b : Nat) (hk : Keeps s0 s) :
    Keeps s0 (State.setLimit s b) := by
  unfold State.setLimit
  repeat' (first
    | with_reducible assumption | with_reducible apply State.modBlock_keeps | with_reducible apply Keeps.ite
    | intro _ | refine Keeps.fst (by with_reducible assumption) ?_ | with_reducible rfl | exact rfl)

theorem State.lowerLimit_keeps {s0 : State} {s : State} (b : Nat) (hk : Keeps s0 s) :
    Keeps s0 (State.lowerLimit s b) := by
  unfold State.lowerLimit
  repeat' (first
    | with_reducible assumption | with_reducible apply State.modBlock_keeps | with_reducible apply Keeps.ite
    | intro _ | refine Keeps.fst (by with_reducible assumption) ?_ | with_reducible rfl | exact rfl)

theorem State.lowerAll_keeps {s0 : State} {s : State} (hk : Keeps s0 s) :
    Keeps s0 (State.lowerAll s) := by
  unfold State.lowerAll
  repeat' (first
    | with_reducible assumption | with_reducible apply State.lowerLimit_keeps | with_reducible apply Keeps.ite
    | intro _ | with_reducible apply Keeps.foldl)

/-! ### `Fabric` -/

theorem State.resultOf_keeps {s0 : State} {s : State} (tag : U32) (status : U16) (hk : Keeps s0 s) :
    Keeps s0 (State.resultOf s tag status) := by
  unfold State.resultOf
  repeat' (first
    | with_reducible assumption | with_reducible apply State.countDropped_keeps
    | with_reducible apply State.modRun_keeps | with_reducible apply State.faultOp_keeps
    | with_reducible apply Keeps.ite | intro _ | refine Keeps.fst (by with_reducible assumption) ?_
    | with_reducible rfl | exact rfl | dsimp only | split)

theorem State.tellLoss_keeps {s0 : State} {s : State} (d : Nat) (p : Packet) (status : U16) (hk : Keeps s0 s) :
    Keeps s0 (State.tellLoss s d p status).1 := by
  unfold State.tellLoss
  repeat' (first
    | with_reducible assumption | with_reducible apply State.route_keeps | with_reducible apply Keeps.ite | intro _
    | refine Keeps.fst (by with_reducible assumption) ?_ | with_reducible rfl | exact rfl | dsimp only | split)

theorem State.tell_keeps {s0 : State} {s : State} (d : Nat) (p : Packet) (status : U16) (hk : Keeps s0 s) :
    Keeps s0 (State.tell s d p status) := by
  unfold State.tell
  repeat' (first
    | with_reducible assumption | with_reducible apply State.tellLoss_keeps)

theorem State.lose_keeps {s0 : State} {s : State} (d : Nat) (p : Packet) (status : U16) (hk : Keeps s0 s) :
    Keeps s0 (State.lose s d p status) := by
  unfold State.lose
  repeat' (first
    | with_reducible assumption | with_reducible apply State.tellLoss_keeps
    | with_reducible apply State.countDropped_keeps | with_reducible apply Keeps.ite | intro _)

theorem State.ownLost_keeps {s0 : State} {s : State} (p : Packet) (hk : Keeps s0 s) :
    Keeps s0 (State.ownLost s p) := by
  unfold State.ownLost
  repeat' (first
    | with_reducible assumption | with_reducible apply State.countDropped_keeps
    | with_reducible apply State.resultOf_keeps | with_reducible apply State.linkDown_keeps
    | with_reducible apply Keeps.ite | intro _)

theorem State.sendPacket_keeps {s0 : State} {s : State} (p : Packet) (hk : Keeps s0 s) :
    Keeps s0 (State.sendPacket s p) := by
  unfold State.sendPacket
  repeat' (first
    | with_reducible assumption | with_reducible apply State.route_keeps | with_reducible apply State.ownLost_keeps
    | with_reducible apply Keeps.ite | intro _)

theorem State.freshTag_keeps {s0 : State} {s : State} (hk : Keeps s0 s) :
    Keeps s0 (State.freshTag s).1 := by
  unfold State.freshTag
  repeat' (first
    | with_reducible assumption | with_reducible apply Keeps.ite | intro _
    | refine Keeps.fst (by with_reducible assumption) ?_ | with_reducible rfl | exact rfl | dsimp only | split
    | with_reducible apply Keeps.upd)

theorem State.sendFor_keeps {s0 : State} {s : State} (c : Slot) (n : Nat) (p : Packet) (hk : Keeps s0 s) :
    Keeps s0 (State.sendFor s c n p) := by
  unfold State.sendFor
  repeat' (first
    | with_reducible assumption | with_reducible apply State.freshTag_keeps
    | with_reducible apply State.modRun_keeps | with_reducible apply State.sendPacket_keeps)

theorem State.acknowledge_keeps {s0 : State} {s : State} (n : Nat) (nak : Bool) (hk : Keeps s0 s) :
    Keeps s0 (State.acknowledge s n nak) := by
  unfold State.acknowledge
  repeat' (first
    | with_reducible assumption | with_reducible apply State.modPort_keeps | with_reducible apply State.nak_keeps
    | with_reducible apply State.putCtrl_keeps)

theorem State.retrain_keeps {s0 : State} {s : State} (n : Nat) (hk : Keeps s0 s) :
    Keeps s0 (State.retrain s n) := by
  unfold State.retrain
  repeat' (first
    | with_reducible assumption | with_reducible apply State.modPort_keeps)

theorem State.replayAll_keeps {s0 : State} {s : State} (n : Nat) (hk : Keeps s0 s) :
    Keeps s0 (State.replayAll s n) := by
  unfold State.replayAll
  repeat' (first
    | with_reducible assumption | with_reducible apply State.putWord_keeps | with_reducible apply Keeps.ite
    | intro _ | with_reducible apply Keeps.foldl)

theorem State.replayFrom_keeps {s0 : State} {s : State} (n : Nat) (hk : Keeps s0 s) :
    Keeps s0 (State.replayFrom s n) := by
  unfold State.replayFrom
  repeat' (first
    | with_reducible assumption | with_reducible apply State.modPort_keeps
    | with_reducible apply State.replayAll_keeps | with_reducible apply State.retrain_keeps
    | with_reducible apply Keeps.ite | intro _)

theorem State.nak_keeps {s0 : State} {s : State} (n : Nat) (hk : Keeps s0 s) :
    Keeps s0 (State.nak s n) := by
  unfold State.nak
  repeat' (first
    | with_reducible assumption | with_reducible apply State.acknowledge_keeps | with_reducible apply Keeps.ite
    | intro _)

theorem State.receiveCodeword_keeps {s0 : State} {s : State} (port : Fin 32) (cw : Codeword) (hk : Keeps s0 s) :
    Keeps s0 (State.receiveCodeword s port cw) := by
  unfold State.receiveCodeword
  repeat' (first
    | with_reducible assumption | with_reducible apply State.modPort_keeps
    | with_reducible apply State.setPort_keeps | with_reducible apply State.nak_keeps
    | with_reducible apply State.retrain_keeps | with_reducible apply VJob.run_keeps
    | with_reducible apply State.acknowledge_keeps | with_reducible apply Keeps.ite | intro _
    | refine Keeps.fst (by with_reducible assumption) ?_ | with_reducible rfl | exact rfl | dsimp only | split
    | with_reducible apply Keeps.upd)

theorem State.portStops_keeps {s0 : State} {s : State} (n : Nat) (state : U8) (hk : Keeps s0 s) :
    Keeps s0 (State.portStops s n state) := by
  unfold State.portStops
  repeat' (first
    | with_reducible assumption | with_reducible apply State.setPort_keeps
    | with_reducible apply State.ownLost_keeps | with_reducible apply State.lose_keeps
    | with_reducible apply State.linkDown_keeps | with_reducible apply State.route_keeps
    | with_reducible apply Keeps.ite | intro _ | with_reducible apply Keeps.foldl)

theorem State.portDown_keeps {s0 : State} {s : State} (n : Nat) (hk : Keeps s0 s) :
    Keeps s0 (State.portDown s n) := by
  unfold State.portDown
  repeat' (first
    | with_reducible assumption | with_reducible apply State.raiseStatus_keeps
    | with_reducible apply State.linkDown_keeps | with_reducible apply State.portStops_keeps)

theorem State.sendBeacon_keeps {s0 : State} {s : State} (n : Nat) (b : Beacon) (hk : Keeps s0 s) :
    Keeps s0 (State.sendBeacon s n b) := by
  unfold State.sendBeacon
  repeat' (first
    | with_reducible assumption | with_reducible apply State.modPort_keeps
    | with_reducible apply State.pumpPort_keeps)

theorem State.lateBeacon_keeps {s0 : State} {s : State} (n : Nat) (hk : Keeps s0 s) :
    Keeps s0 (State.lateBeacon s n) := by
  unfold State.lateBeacon
  repeat' (first
    | with_reducible assumption | with_reducible apply State.sendBeacon_keeps
    | with_reducible apply State.pumpPort_keeps | with_reducible apply Keeps.ite | intro _
    | refine Keeps.fst (by with_reducible assumption) ?_ | with_reducible rfl | exact rfl | dsimp only | split)

theorem State.train_keeps {s0 : State} {s : State} (n : Nat) (t : Training) (count : Bool) (hk : Keeps s0 s) :
    Keeps s0 (State.train s n t count) := by
  unfold State.train
  repeat' (first
    | with_reducible assumption | with_reducible apply State.setPort_keeps | with_reducible apply State.emit_keeps
    | with_reducible apply State.replayAll_keeps | with_reducible apply State.lateBeacon_keeps
    | with_reducible apply State.portDown_keeps | with_reducible apply Keeps.ite | intro _)

theorem State.beginTraining_keeps {s0 : State} {s : State} (n : Nat) (hk : Keeps s0 s) :
    Keeps s0 (State.beginTraining s n) := by
  unfold State.beginTraining
  repeat' (first
    | with_reducible assumption | with_reducible apply State.modPort_keeps
    | with_reducible apply State.portDown_keeps | with_reducible apply Keeps.ite | intro _)

theorem State.takeArrived_keeps {s0 : State} {s : State} (p : Packet) (hk : Keeps s0 s) :
    Keeps s0 (State.takeArrived s p) := by
  unfold State.takeArrived
  repeat' (first
    | with_reducible assumption | with_reducible apply State.modPort_keeps | with_reducible apply Keeps.ite
    | intro _ | refine Keeps.fst (by with_reducible assumption) ?_ | with_reducible rfl | exact rfl | dsimp only
    | split | with_reducible apply Keeps.upd)

theorem State.countDropAt_keeps {s0 : State} {s : State} (c : Option Slot) (hk : Keeps s0 s) :
    Keeps s0 (State.countDropAt s c) := by
  unfold State.countDropAt
  repeat' (first
    | with_reducible assumption | with_reducible apply State.countDropped_keeps
    | with_reducible apply State.modCtx_keeps | with_reducible apply Keeps.ite | intro _
    | refine Keeps.fst (by with_reducible assumption) ?_ | with_reducible rfl | exact rfl | dsimp only | split)

theorem State.dropStale_keeps {s0 : State} {s : State} (p : Packet) (hk : Keeps s0 s) :
    Keeps s0 (State.dropStale s p) := by
  unfold State.dropStale
  repeat' (first
    | with_reducible assumption | with_reducible apply State.countDropAt_keeps
    | with_reducible apply State.modCtx_keeps)

theorem State.ackPacket_keeps {s0 : State} {s : State} (p : Packet) (status : U16) (hk : Keeps s0 s) :
    Keeps s0 (State.ackPacket s p status) := by
  unfold State.ackPacket
  repeat' (first
    | with_reducible assumption | with_reducible apply State.sendPacket_keeps)

theorem State.deliver_keeps {s0 : State} {s : State} (p : Packet) (acks : Bool) {act : State → Slot → State}
    (h : Keeps s0 s) (ha : ∀ s c, Keeps s0 s → Keeps s0 (act s c)) : Keeps s0 (State.deliver s p acks act) := by
  unfold State.deliver
  repeat' (first
    | with_reducible assumption | with_reducible apply State.takeArrived_keeps
    | with_reducible apply State.tell_keeps | with_reducible apply State.countDropAt_keeps
    | with_reducible apply State.route_keeps | with_reducible apply State.dropStale_keeps
    | with_reducible apply State.ackPacket_keeps | with_reducible apply ha | with_reducible apply Keeps.ite
    | intro _ | dsimp only | split)

theorem State.dropLate_keeps {s0 : State} {s : State} (c : Slot) (p : Packet) (hk : Keeps s0 s) :
    Keeps s0 (State.dropLate s c p) := by
  unfold State.dropLate
  repeat' (first
    | with_reducible assumption | with_reducible apply State.countDropAt_keeps
    | with_reducible apply State.ackPacket_keeps)

/-! ### `Ephemeris` -/

theorem State.entryNotice_keeps {s0 : State} {s : State} (r : Ring) (e : EphEntry) (pos : U32) (status : U16)
    (late : Nat) (hk : Keeps s0 s) :
    Keeps s0 (State.entryNotice s r e pos status late) := by
  unfold State.entryNotice
  repeat' (first
    | with_reducible assumption | with_reducible apply State.raiseStatus_keeps)

theorem State.modEph_keeps {s0 : State} {s : State} (c : Slot) (f : EphRing → EphRing) (hk : Keeps s0 s) :
    Keeps s0 (State.modEph s c f) := by
  unfold State.modEph
  repeat' (first
    | with_reducible assumption | with_reducible apply State.modCtx_keeps)

theorem State.modModRing_keeps {s0 : State} {s : State} (f : ModuleRing → ModuleRing) (hk : Keeps s0 s) :
    Keeps s0 (State.modModRing s f) := Keeps.upd hk rfl rfl rfl

theorem State.arrive_keeps {s0 : State} {s : State} (r : Ring) (pos : U32) (e : EphEntry) (hk : Keeps s0 s) :
    Keeps s0 (State.arrive s r pos e) := by
  unfold State.arrive
  repeat' (first
    | with_reducible assumption | with_reducible apply State.modModRing_keeps
    | with_reducible apply State.modEph_keeps | with_reducible apply State.entryNotice_keeps
    | with_reducible apply Keeps.ite | intro _ | refine Keeps.fst (by with_reducible assumption) ?_
    | with_reducible rfl | exact rfl | dsimp only | split)

theorem State.beyondNotice_keeps {s0 : State} {s : State} (c : Slot) (v : U32) (hk : Keeps s0 s) :
    Keeps s0 (State.beyondNotice s c v) := by
  unfold State.beyondNotice
  repeat' (first
    | with_reducible assumption | with_reducible apply State.raiseStatus_keeps)

theorem State.swapRing_keeps {s0 : State} {s : State} (c : Slot) (hk : Keeps s0 s) :
    Keeps s0 (State.swapRing s c) := by
  unfold State.swapRing
  repeat' (first
    | with_reducible assumption | with_reducible apply State.modEph_keeps | with_reducible apply Keeps.ite
    | intro _)

theorem State.takeEph_keeps {s0 : State} {s : State} (c : Slot) (hk : Keeps s0 s) :
    Keeps s0 (State.takeEph s c) := by
  unfold State.takeEph
  repeat' (first
    | with_reducible assumption | with_reducible apply State.swapRing_keeps
    | with_reducible apply State.modEph_keeps | with_reducible apply State.beyondNotice_keeps
    | with_reducible apply State.arrive_keeps | with_reducible apply Keeps.ite | intro _
    | with_reducible apply Keeps.foldl)

theorem State.modSub_keeps {s0 : State} {s : State} (c : Slot) (f : SubRing → SubRing) (hk : Keeps s0 s) :
    Keeps s0 (State.modSub s c f) := by
  unfold State.modSub
  repeat' (first
    | with_reducible assumption | with_reducible apply State.modCtx_keeps)

theorem State.writeSubHeader_keeps {s0 : State} {s : State} (c : Slot) (hk : Keeps s0 s) :
    Keeps s0 (State.writeSubHeader s c) := by
  unfold State.writeSubHeader
  repeat' (first
    | with_reducible assumption | with_reducible apply State.store_keeps | with_reducible apply Keeps.ite | intro _)

theorem State.postEntry_keeps {s0 : State} {s : State} (c : Slot) (tag : U32) (status : U16) (hk : Keeps s0 s) :
    Keeps s0 (State.postEntry s c tag status) := by
  unfold State.postEntry
  repeat' (first
    | with_reducible assumption | with_reducible apply State.postCtx_keeps)

theorem State.takeSubEntry_keeps {s0 : State} {s : State} (c : Slot) (b : Bytes) (hk : Keeps s0 s) :
    Keeps s0 (State.takeSubEntry s c b) := by
  unfold State.takeSubEntry
  repeat' (first
    | with_reducible assumption | with_reducible apply State.modSub_keeps | with_reducible apply State.modCtx_keeps
    | with_reducible apply State.postEntry_keeps | with_reducible apply State.modStream_keeps
    | with_reducible apply Keeps.ite | intro _)

theorem State.takeCmpHead_keeps {s0 : State} {s : State} (c : Slot) (v : U32) (hk : Keeps s0 s) :
    Keeps s0 (State.takeCmpHead s c v) := by
  unfold State.takeCmpHead
  repeat' (first
    | with_reducible assumption | with_reducible apply State.modCtx_keeps | with_reducible apply State.modSub_keeps
    | with_reducible apply State.beyondNotice_keeps | with_reducible apply Keeps.ite | intro _)

theorem State.takeSub_keeps {s0 : State} {s : State} (c : Slot) (hk : Keeps s0 s) :
    Keeps s0 (State.takeSub s c) := by
  unfold State.takeSub
  repeat' (first
    | with_reducible assumption | with_reducible apply State.takeCmpHead_keeps
    | with_reducible apply State.train_keeps | with_reducible apply State.modSub_keeps
    | with_reducible apply State.beyondNotice_keeps | with_reducible apply State.takeSubEntry_keeps
    | with_reducible apply State.writeSubHeader_keeps | with_reducible apply Keeps.ite | intro _
    | with_reducible apply Keeps.foldl)

theorem State.writeEphHeader_keeps {s0 : State} {s : State} (c : Slot) (tag : U32) (status : U16)
    (count : Option U64) (hk : Keeps s0 s) :
    Keeps s0 (State.writeEphHeader s c tag status count) := by
  unfold State.writeEphHeader
  repeat' (first
    | with_reducible assumption | with_reducible apply State.store_keeps | with_reducible apply Keeps.ite | intro _
    | refine Keeps.fst (by with_reducible assumption) ?_ | with_reducible rfl | exact rfl | dsimp only | split)

theorem State.headMoves_keeps {s0 : State} {s : State} (r : Ring) (e : EphEntry) (status : U16) (count : Option U64)
    (hk : Keeps s0 s) :
    Keeps s0 (State.headMoves s r e status count) := by
  unfold State.headMoves
  repeat' (first
    | with_reducible assumption | with_reducible apply State.modEph_keeps
    | with_reducible apply State.writeEphHeader_keeps | with_reducible apply Keeps.ite | intro _
    | refine Keeps.fst (by with_reducible assumption) ?_ | with_reducible rfl | exact rfl | dsimp only | split)

theorem State.miss_keeps {s0 : State} {s : State} (r : Ring) (e : EphEntry) (pos : U32) (late : Nat) (hk : Keeps s0 s) :
    Keeps s0 (State.miss s r e pos late) := by
  unfold State.miss
  repeat' (first
    | with_reducible assumption | with_reducible apply State.modModRing_keeps
    | with_reducible apply State.modEph_keeps | with_reducible apply State.entryNotice_keeps
    | with_reducible apply Keeps.ite | intro _ | refine Keeps.fst (by with_reducible assumption) ?_
    | with_reducible rfl | exact rfl | dsimp only | split | with_reducible apply Keeps.upd)

theorem State.postEph_keeps {s0 : State} {s : State} (r : Ring) (e : EphEntry) (status : U16) (late : Bool)
    (count : U64) (hk : Keeps s0 s) :
    Keeps s0 (State.postEph s r e status late count) := by
  unfold State.postEph
  repeat' (first
    | with_reducible assumption | with_reducible apply State.post_keeps | with_reducible apply State.postCtx_keeps
    | with_reducible apply Keeps.ite | intro _ | refine Keeps.fst (by with_reducible assumption) ?_
    | with_reducible rfl | exact rfl | dsimp only | split)

theorem State.countFired_keeps {s0 : State} {s : State} (r : Ring) (late : Bool) (hk : Keeps s0 s) :
    Keeps s0 (State.countFired s r late) := by
  unfold State.countFired
  repeat' (first
    | with_reducible assumption | with_reducible apply State.modModRing_keeps
    | with_reducible apply State.modEph_keeps | with_reducible apply Keeps.ite | intro _
    | refine Keeps.fst (by with_reducible assumption) ?_ | with_reducible rfl | exact rfl | dsimp only | split)

theorem State.setPending_keeps {s0 : State} {s : State} (r : Ring) (l : List EphPending) (hk : Keeps s0 s) :
    Keeps s0 (State.setPending s r l) := by
  unfold State.setPending
  repeat' (first
    | with_reducible assumption | with_reducible apply State.modModRing_keeps
    | with_reducible apply State.modEph_keeps | with_reducible apply Keeps.ite | intro _
    | refine Keeps.fst (by with_reducible assumption) ?_ | with_reducible rfl | exact rfl | dsimp only | split)

theorem State.fireEntry_keeps {s0 : State} {s : State} (r : Ring) (p : EphPending) (late : Nat) (missed : Bool)
    (hk : Keeps s0 s) :
    Keeps s0 (State.fireEntry s r p late missed) := by
  unfold State.fireEntry
  repeat' (first
    | with_reducible assumption | with_reducible apply State.countFired_keeps
    | with_reducible apply State.headMoves_keeps | with_reducible apply Keeps.ite | intro _
    | refine Keeps.fst (by with_reducible assumption) ?_ | with_reducible rfl | exact rfl | dsimp only | split
    | with_reducible apply Keeps.upd)

theorem State.fireList_keeps {s0 : State} {s : State} (r : Ring) (l : List EphPending) (h : Keeps s0 s) :
    Keeps s0 (State.fireList s r l) := by
  induction l generalizing s with
  | nil => exact State.setPending_keeps r [] h
  | cons p l ih =>
    unfold State.fireList
    repeat' (first
      | with_reducible assumption | with_reducible apply ih | with_reducible apply State.headMoves_keeps
      | with_reducible apply State.setPending_keeps | with_reducible apply State.miss_keeps
      | with_reducible apply State.postEph_keeps | with_reducible apply State.fireEntry_keeps
      | with_reducible apply State.countFired_keeps | with_reducible apply State.modEph_keeps
      | with_reducible apply State.modModRing_keeps | with_reducible apply Keeps.ite | intro _ | dsimp only | split)

theorem State.fireCtx_keeps {s0 : State} {s : State} (c : Slot) (hk : Keeps s0 s) :
    Keeps s0 (State.fireCtx s c) := by
  unfold State.fireCtx
  repeat' (first
    | with_reducible assumption | with_reducible apply State.fireList_keeps
    | with_reducible apply State.modEph_keeps | with_reducible apply State.postEph_keeps
    | with_reducible apply Keeps.ite | intro _ | refine Keeps.fst (by with_reducible assumption) ?_
    | with_reducible rfl | exact rfl | dsimp only | split)

theorem State.rootBeacons_keeps {s0 : State} {s : State} (hk : Keeps s0 s) :
    Keeps s0 (State.rootBeacons s) := by
  unfold State.rootBeacons
  repeat' (first
    | with_reducible assumption | with_reducible apply State.sendBeacon_keeps | with_reducible apply Keeps.ite
    | intro _ | with_reducible apply Keeps.foldl)

theorem State.takeIn_keeps {s0 : State} {s : State} (hk : Keeps s0 s) :
    Keeps s0 (State.takeIn s) := by
  unfold State.takeIn
  repeat' (first
    | with_reducible assumption | with_reducible apply State.train_keeps | with_reducible apply State.takeEph_keeps
    | with_reducible apply Keeps.ite | intro _ | with_reducible apply Keeps.foldl)

theorem State.fireAll_keeps {s0 : State} {s : State} (hk : Keeps s0 s) :
    Keeps s0 (State.fireAll s) := by
  unfold State.fireAll
  repeat' (first
    | with_reducible assumption | with_reducible apply State.fireList_keeps
    | with_reducible apply State.fireCtx_keeps | with_reducible apply Keeps.ite | intro _
    | with_reducible apply Keeps.foldl)

theorem State.boundary_keeps {s0 : State} {s : State} (advanced : Bool) (hk : Keeps s0 s) :
    Keeps s0 (State.boundary s advanced) := by
  unfold State.boundary
  repeat' (first
    | with_reducible assumption | with_reducible apply State.takeIn_keeps
    | with_reducible apply State.fireAll_keeps | with_reducible apply State.takeSub_keeps
    | with_reducible apply Keeps.ite | intro _ | with_reducible apply Keeps.foldl)

theorem State.lastStatus_keeps {s0 : State} {s : State} (d : DueEntry) (st : U16) (hk : Keeps s0 s) :
    Keeps s0 (State.lastStatus s d st) := by
  unfold State.lastStatus
  repeat' (first
    | with_reducible assumption | with_reducible apply State.store_keeps | with_reducible apply Keeps.ite | intro _
    | refine Keeps.fst (by with_reducible assumption) ?_ | with_reducible rfl | exact rfl | dsimp only | split)

theorem State.actDue_keeps {s0 : State} {s : State} (mine : DueEntry → Bool) {act : State → DueEntry → State × U16}
    (h : Keeps s0 s) (ha : ∀ s d, Keeps s0 s → Keeps s0 (act s d).1) : Keeps s0 (State.actDue s mine act) := by
  unfold State.actDue
  repeat' (first
    | with_reducible assumption | with_reducible apply State.postEph_keeps | with_reducible apply ha
    | with_reducible apply Keeps.ite | intro _ | with_reducible rfl
    | refine Keeps.fst (by with_reducible assumption) ?_ | dsimp only | split | with_reducible apply Keeps.upd)

theorem State.openJournal_keeps {s0 : State} {s : State} (c : Slot) (step seed : U64) (mode : U8) (count : U64)
    (hk : Keeps s0 s) :
    Keeps s0 (State.openJournal s c step seed mode count) := by
  unfold State.openJournal
  repeat' (first
    | with_reducible assumption | with_reducible apply State.train_keeps
    | with_reducible apply State.modTrain_keeps | with_reducible apply State.journalWrite_keeps
    | with_reducible apply State.journalList_keeps | with_reducible apply State.modStream_keeps
    | with_reducible apply Keeps.ite | intro _ | with_reducible apply Keeps.foldl)

theorem State.startStep_keeps {s0 : State} {s : State} (c : Slot) (step tokens count : U64) (energy : Nat)
    (num : U64 × U8) (hk : Keeps s0 s) :
    Keeps s0 (State.startStep s c step tokens count energy num) := by
  unfold State.startStep
  repeat' (first
    | with_reducible assumption | with_reducible apply State.train_keeps
    | with_reducible apply State.modStream_keeps | with_reducible apply State.modTrain_keeps
    | with_reducible apply State.modNum_keeps | with_reducible apply State.modCtx_keeps
    | with_reducible apply State.openJournal_keeps)

theorem actStartStep_keeps {s0 : State} {s : State} (d : DueEntry) (hk : Keeps s0 s) :
    Keeps s0 (actStartStep s d).1 := by
  unfold actStartStep
  repeat' (first
    | with_reducible assumption | with_reducible apply State.startStep_keeps | with_reducible apply Keeps.ite
    | intro _ | refine Keeps.fst (by with_reducible assumption) ?_ | with_reducible rfl | exact rfl | dsimp only
    | split)

theorem actRamp_keeps {s0 : State} {s : State} (d : DueEntry) (hk : Keeps s0 s) :
    Keeps s0 (actRamp s d).1 := by
  unfold actRamp
  repeat' (first
    | with_reducible assumption | with_reducible apply State.draw_keeps | with_reducible apply State.modBlock_keeps
    | with_reducible apply State.lowerLimit_keeps | with_reducible apply Keeps.ite | intro _
    | with_reducible apply Keeps.foldl | with_reducible apply Keeps.foldl₁
    | refine Keeps.fst (by with_reducible assumption) ?_ | with_reducible rfl | exact rfl | dsimp only | split)

theorem actSample_keeps {s0 : State} {s : State} (d : DueEntry) (hk : Keeps s0 s) :
    Keeps s0 (actSample s d).1 := by
  unfold actSample
  repeat' (first
    | with_reducible assumption | with_reducible apply State.modModRing_keeps
    | with_reducible apply State.store_keeps | with_reducible apply Keeps.ite | intro _
    | refine Keeps.fst (by with_reducible assumption) ?_ | with_reducible rfl | exact rfl | dsimp only | split)

theorem actMark_keeps {s0 : State} {s : State} (d : DueEntry) (hk : Keeps s0 s) :
    Keeps s0 (actMark s d).1 := by
  unfold actMark
  repeat' (first
    | with_reducible assumption | with_reducible apply State.raise_keeps | with_reducible apply State.event_keeps
    | with_reducible apply Keeps.ite | intro _ | refine Keeps.fst (by with_reducible assumption) ?_
    | with_reducible rfl | exact rfl | dsimp only | split)

theorem actPhase_keeps {s0 : State} {s : State} (d : DueEntry) (hk : Keeps s0 s) :
    Keeps s0 (actPhase s d).1 := by
  unfold actPhase
  repeat' (first
    | with_reducible assumption | with_reducible apply State.modTrain_keeps
    | with_reducible apply State.train_keeps | with_reducible apply State.store_keeps
    | with_reducible apply Keeps.ite | intro _ | refine Keeps.fst (by with_reducible assumption) ?_
    | with_reducible rfl | exact rfl | dsimp only | split)

theorem State.appendModuleEntry_keeps {s0 : State} {s : State} (b : Bytes) (hk : Keeps s0 s) :
    Keeps s0 (State.appendModuleEntry s b).1 := by
  unfold State.appendModuleEntry
  repeat' (first
    | with_reducible assumption | with_reducible apply State.modModRing_keeps
    | with_reducible apply State.arrive_keeps | with_reducible apply Keeps.ite | intro _
    | refine Keeps.fst (by with_reducible assumption) ?_ | with_reducible rfl | exact rfl | dsimp only | split)

/-! ### `Mover` -/

theorem State.copyPlate_keeps {s0 : State} {s : State} (c : Slot) (src dst : Nat) (hk : Keeps s0 s) :
    Keeps s0 (State.copyPlate s c src dst) := by
  unfold State.copyPlate
  repeat' (first
    | with_reducible assumption | with_reducible apply State.touch_keeps | with_reducible apply State.meet_keeps
    | with_reducible apply State.store_keeps | with_reducible apply State.setPoison_keeps
    | with_reducible apply Keeps.ite | intro _)

theorem State.copyPlates_keeps {s0 : State} {s : State} (o : OpCtx) (h : U32) (src dst n : Nat) (hk : Keeps s0 s) :
    Keeps s0 (State.copyPlates s o h src dst n) := by
  unfold State.copyPlates
  repeat' (first
    | with_reducible assumption | with_reducible apply State.copyPlate_keeps
    | with_reducible apply State.faultOp_keeps | with_reducible apply Keeps.ite | intro _
    | with_reducible apply Keeps.foldl | with_reducible apply Keeps.foldl₁
    | refine Keeps.fst (by with_reducible assumption) ?_ | with_reducible rfl | exact rfl | dsimp only | split)

theorem State.sendBatch_keeps {s0 : State} {s : State} (o : OpCtx) (h : U32) (src dst k m : Nat) (hk : Keeps s0 s) :
    Keeps s0 (State.sendBatch s o h src dst k m) := by
  unfold State.sendBatch
  repeat' (first
    | with_reducible assumption | with_reducible apply State.touch_keeps | with_reducible apply State.sendFor_keeps
    | with_reducible apply State.faultOp_keeps | with_reducible apply Keeps.ite | intro _
    | refine Keeps.fst (by with_reducible assumption) ?_ | with_reducible rfl | exact rfl | dsimp only | split)

theorem State.sendPlates_keeps {s0 s : State} (o : OpCtx) (hd : U32) (src dst n fuel k : Nat) (hk : Keeps s0 s) :
    Keeps s0 (State.sendPlates s o hd src dst n fuel k) := by
  induction fuel generalizing s k with
  | zero => exact hk
  | succ f ih =>
    unfold State.sendPlates
    exact Keeps.ite (fun _ => hk) (fun _ => Keeps.ite (fun _ => State.sendBatch_keeps _ _ _ _ _ _ hk)
      (fun _ => ih _ (State.sendBatch_keeps _ _ _ _ _ _ hk)))

theorem beginCopy_keeps {s0 : State} {s : State} (o : OpRec) (oc : OpCtx) (vs : List (Nat × TView)) (hk : Keeps s0 s) :
    Keeps s0 (beginCopy s o oc vs) := by
  unfold beginCopy
  repeat' (first
    | with_reducible assumption | with_reducible apply State.sendPlates_keeps
    | with_reducible apply State.copyPlates_keeps | with_reducible apply Keeps.ite | intro _
    | refine Keeps.fst (by with_reducible assumption) ?_ | with_reducible rfl | exact rfl | dsimp only | split)

theorem beginWait_keeps {s0 : State} {s : State} (u1 : OpRec) (u2 : OpCtx) (u3 : List (Nat × TView)) (hk : Keeps s0 s) :
    Keeps s0 (beginWait s u1 u2 u3) := by
  unfold beginWait
  repeat' (first
    | with_reducible assumption)

theorem State.endWait_keeps {s0 : State} {s : State} (c : Slot) (o : OpRec) (status : U16) (hk : Keeps s0 s) :
    Keeps s0 (State.endWait s c o status) := by
  unfold State.endWait
  repeat' (first
    | with_reducible assumption | with_reducible apply State.finishOp_keeps)

theorem State.waitLost_keeps {s0 : State} {s : State} (c : Slot) (o : OpRec) (hk : Keeps s0 s) :
    Keeps s0 (State.waitLost s c o) := by
  unfold State.waitLost
  repeat' (first
    | with_reducible assumption | with_reducible apply State.endWait_keeps
    | with_reducible apply State.raiseStatus_keeps)

theorem State.loseWaits_keeps {s0 : State} {s : State} (hk : Keeps s0 s) :
    Keeps s0 (State.loseWaits s) := by
  unfold State.loseWaits
  repeat' (first
    | with_reducible assumption | with_reducible apply State.waitLost_keeps | with_reducible apply Keeps.ite
    | intro _ | with_reducible apply Keeps.foldl)

theorem beginMark_keeps {s0 : State} {s : State} (o : OpRec) (oc : OpCtx) (u3 : List (Nat × TView)) (hk : Keeps s0 s) :
    Keeps s0 (beginMark s o oc u3) := by
  unfold beginMark
  repeat' (first
    | with_reducible assumption | with_reducible apply State.sendFor_keeps | with_reducible apply State.touch_keeps
    | with_reducible apply State.faultOp_keeps | with_reducible apply State.store_keeps
    | with_reducible apply Keeps.ite | intro _ | refine Keeps.fst (by with_reducible assumption) ?_
    | with_reducible rfl | exact rfl | dsimp only | split)

/-! ### `Meridian` -/

theorem State.modMer_keeps {s0 : State} {s : State} (f : Meridian → Meridian) (hk : Keeps s0 s) :
    Keeps s0 (State.modMer s f) := Keeps.upd hk rfl rfl rfl

theorem State.noticeSlots_keeps {s0 : State} {s : State} (status : U16) (seq : U64) (hk : Keeps s0 s) :
    Keeps s0 (State.noticeSlots s status seq) := by
  unfold State.noticeSlots
  repeat' (first
    | with_reducible assumption | with_reducible apply State.postCtx_keeps | with_reducible apply Keeps.ite
    | intro _ | with_reducible apply Keeps.foldl)

theorem State.enterHoldover_keeps {s0 : State} {s : State} (hk : Keeps s0 s) :
    Keeps s0 (State.enterHoldover s) := by
  unfold State.enterHoldover
  repeat' (first
    | with_reducible assumption | with_reducible apply State.modMer_keeps
    | with_reducible apply State.raiseStatus_keeps | with_reducible apply State.noticeSlots_keeps)

theorem State.enterLost_keeps {s0 : State} {s : State} (hk : Keeps s0 s) : Keeps s0 (State.enterLost s) :=
  State.loseWaits_keeps (State.noticeSlots_keeps _ _ (State.raiseStatus_keeps _ _ _ (State.modMer_keeps _ hk)))

theorem State.noteRoots_keeps {s0 : State} {s : State} (root : U32) (hk : Keeps s0 s) :
    Keeps s0 (State.noteRoots s root) := by
  unfold State.noteRoots
  repeat' (first
    | with_reducible assumption | with_reducible apply State.modMer_keeps | with_reducible apply State.raise_keeps
    | with_reducible apply State.event_keeps | with_reducible apply Keeps.ite | intro _
    | refine Keeps.fst (by with_reducible assumption) ?_ | with_reducible rfl | exact rfl | dsimp only | split)

theorem State.forwardBeacon_keeps {s0 : State} {s : State} (b : Beacon) (hk : Keeps s0 s) :
    Keeps s0 (State.forwardBeacon s b) := by
  unfold State.forwardBeacon
  repeat' (first
    | with_reducible assumption | with_reducible apply State.sendBeacon_keeps | with_reducible apply Keeps.ite
    | intro _ | with_reducible apply Keeps.foldl)

theorem State.useBeacon_keeps {s0 : State} {s : State} (b : Beacon) (hk : Keeps s0 s) :
    Keeps s0 (State.useBeacon s b) := by
  unfold State.useBeacon
  repeat' (first
    | with_reducible assumption | with_reducible apply State.modMer_keeps
    | with_reducible apply State.forwardBeacon_keeps)

theorem State.raiseResync_keeps {s0 : State} {s : State} (hk : Keeps s0 s) :
    Keeps s0 (State.raiseResync s) := by
  unfold State.raiseResync
  repeat' (first
    | with_reducible assumption | with_reducible apply State.raise_keeps)

theorem State.setRole_keeps {s0 : State} {s : State} (role : U8) (start : Bool) (hk : Keeps s0 s) :
    Keeps s0 (State.setRole s role start) := by
  unfold State.setRole
  repeat' (first
    | with_reducible assumption | with_reducible apply State.modMer_keeps | with_reducible apply State.start_keeps
    | with_reducible apply State.raiseResync_keeps | with_reducible apply State.loseWaits_keeps
    | with_reducible apply Keeps.ite | intro _)

/-! ### `Ledger` -/

theorem State.pinned_keeps {s0 : State} {s : State} (c : Slot) (ps : List Nat) (hk : Keeps s0 s) :
    Keeps s0 (State.pinned s c ps) := by
  unfold State.pinned
  repeat' (first
    | with_reducible assumption | with_reducible apply State.modCtx_keeps)

theorem State.movePins_keeps {s0 : State} {s : State} (c : Slot) (ps : List Nat) (hk : Keeps s0 s) :
    Keeps s0 (State.movePins s c ps) := by
  unfold State.movePins
  repeat' (first
    | with_reducible assumption | with_reducible apply State.reclass_keeps | with_reducible apply Keeps.ite
    | intro _ | with_reducible apply Keeps.foldl | with_reducible apply Keeps.foldl₁
    | refine Keeps.fst (by with_reducible assumption) ?_ | with_reducible rfl | exact rfl | dsimp only | split)

theorem State.writeRing_keeps {s0 : State} {s : State} (c : Slot) (r : StashRing) (rec_ : RingRec) (hk : Keeps s0 s) :
    Keeps s0 (State.writeRing s c r rec_) := by
  unfold State.writeRing
  repeat' (first
    | with_reducible assumption | with_reducible apply State.train_keeps
    | with_reducible apply State.stashWrite_keeps | with_reducible apply State.store_keeps
    | with_reducible apply Keeps.ite | intro _)

theorem State.closeLedger_keeps {s0 : State} {s : State} (c : Slot) (hk : Keeps s0 s) :
    Keeps s0 (State.closeLedger s c) := by
  unfold State.closeLedger
  repeat' (first
    | with_reducible assumption | with_reducible apply State.train_keeps
    | with_reducible apply State.modTrain_keeps | with_reducible apply State.movePins_keeps
    | with_reducible apply State.writeRing_keeps | with_reducible apply Keeps.ite | intro _
    | with_reducible apply Keeps.foldl | with_reducible apply Keeps.foldl₁
    | refine Keeps.fst (by with_reducible assumption) ?_ | with_reducible rfl | exact rfl | dsimp only | split)

theorem State.tableCheck_keeps {s0 : State} {s : State} (c : Slot) (base bytes : Nat) (hk : Keeps s0 s) :
    Keeps s0 (State.tableCheck s c base bytes).1 := by
  unfold State.tableCheck
  repeat' (first
    | with_reducible assumption | with_reducible apply State.raiseStatus_keeps | with_reducible apply Keeps.ite
    | intro _ | refine Keeps.fst (by with_reducible assumption) ?_ | with_reducible rfl | exact rfl | dsimp only
    | split)

theorem State.pinNew_keeps {s0 : State} {s : State} (c : Slot) (hk : Keeps s0 s) :
    Keeps s0 (State.pinNew s c) := by
  unfold State.pinNew
  repeat' (first
    | with_reducible assumption | with_reducible apply State.train_keeps | with_reducible apply State.pinned_keeps
    | with_reducible apply Keeps.ite | intro _)

theorem State.newTraining_keeps {s0 : State} {s : State} (c : Slot) (hk : Keeps s0 s) :
    Keeps s0 (State.newTraining s c) := by
  unfold State.newTraining
  repeat' (first
    | with_reducible assumption | with_reducible apply State.train_keeps
    | with_reducible apply State.tableCheck_keeps | with_reducible apply State.modTrain_keeps)

/-! ### `Numerics` -/

theorem State.releaseRec_keeps {s0 : State} {s : State} (c : Slot) (i : Nat) (hk : Keeps s0 s) :
    Keeps s0 (State.releaseRec s c i) := by
  unfold State.releaseRec
  repeat' (first
    | with_reducible assumption | with_reducible apply State.freePages_keeps
    | with_reducible apply State.modNum_keeps | with_reducible apply Keeps.ite | intro _
    | refine Keeps.fst (by with_reducible assumption) ?_ | with_reducible rfl | exact rfl | dsimp only | split)

theorem State.clearPromoted_keeps {s0 : State} {s : State} (c : Slot) (i : Nat) (hk : Keeps s0 s) :
    Keeps s0 (State.clearPromoted s c i) := by
  unfold State.clearPromoted
  repeat' (first
    | with_reducible assumption | with_reducible apply State.store_keeps | with_reducible apply Keeps.ite | intro _)

theorem State.dropRec_keeps {s0 : State} {s : State} (c : Slot) (i : Nat) (hk : Keeps s0 s) :
    Keeps s0 (State.dropRec s c i) := by
  unfold State.dropRec
  repeat' (first
    | with_reducible assumption | with_reducible apply State.releaseRec_keeps
    | with_reducible apply State.clearPromoted_keeps | with_reducible apply State.modNum_keeps)

theorem State.dropAllRecs_keeps {s0 : State} {s : State} (c : Slot) (hk : Keeps s0 s) :
    Keeps s0 (State.dropAllRecs s c) := by
  unfold State.dropAllRecs
  repeat' (first
    | with_reducible assumption | with_reducible apply State.dropRec_keeps | with_reducible apply Keeps.ite
    | intro _ | with_reducible apply Keeps.foldl)

theorem State.releaseAll_keeps {s0 : State} {s : State} (c : Slot) (hk : Keeps s0 s) :
    Keeps s0 (State.releaseAll s c) := by
  unfold State.releaseAll
  repeat' (first
    | with_reducible assumption | with_reducible apply State.releaseRec_keeps | with_reducible apply Keeps.ite
    | intro _ | with_reducible apply Keeps.foldl)

theorem State.recStatus_keeps {s0 : State} {s : State} (c : Slot) (i : Nat) (st : U16) (hk : Keeps s0 s) :
    Keeps s0 (State.recStatus s c i st) := by
  unfold State.recStatus
  repeat' (first
    | with_reducible assumption | with_reducible apply State.store_keeps)

theorem State.loadRec_keeps {s0 : State} {s : State} (c : Slot) (i : Nat) (hk : Keeps s0 s) :
    Keeps s0 (State.loadRec s c i) := by
  unfold State.loadRec
  repeat' (first
    | with_reducible assumption | with_reducible apply State.dropRec_keeps
    | with_reducible apply State.recStatus_keeps | with_reducible apply State.modNum_keeps
    | with_reducible apply Keeps.ite | intro _)

theorem State.loadLayers_keeps {s0 : State} {s : State} (c : Slot) (hk : Keeps s0 s) :
    Keeps s0 (State.loadLayers s c) := by
  unfold State.loadLayers
  repeat' (first
    | with_reducible assumption | with_reducible apply State.modNum_keeps)

theorem State.newSettings_keeps {s0 : State} {s : State} (c : Slot) (hk : Keeps s0 s) :
    Keeps s0 (State.newSettings s c) := by
  unfold State.newSettings
  repeat' (first
    | with_reducible assumption | with_reducible apply State.modNum_keeps
    | with_reducible apply State.releaseAll_keeps | with_reducible apply Keeps.ite | intro _)

theorem State.loadTable_keeps {s0 : State} {s : State} (c : Slot) (hk : Keeps s0 s) :
    Keeps s0 (State.loadTable s c) := by
  unfold State.loadTable
  repeat' (first
    | with_reducible assumption | with_reducible apply State.dropAllRecs_keeps
    | with_reducible apply State.modNum_keeps | with_reducible apply State.raiseStatus_keeps
    | with_reducible apply State.loadRec_keeps | with_reducible apply State.loadLayers_keeps
    | with_reducible apply Keeps.ite | intro _ | with_reducible apply Keeps.foldl)

theorem State.demote1_keeps {s0 : State} {s : State} (c : Slot) (wide : List Nat) (i : Nat) (hk : Keeps s0 s) :
    Keeps s0 (State.demote1 s c wide i) := by
  unfold State.demote1
  repeat' (first
    | with_reducible assumption | with_reducible apply State.releaseRec_keeps
    | with_reducible apply State.modNum_keeps | with_reducible apply Keeps.ite | intro _
    | refine Keeps.fst (by with_reducible assumption) ?_ | with_reducible rfl | exact rfl | dsimp only | split)

theorem State.reserveAll_keeps {s0 s : State} (c : Slot) (l : List Nat) (hk : Keeps s0 s) :
    Keeps s0 (State.reserveAll s c l).1 := by
  induction l generalizing s with
  | nil => exact hk
  | cons i l ih =>
    unfold State.reserveAll
    repeat' (first
      | with_reducible assumption | with_reducible apply ih | with_reducible apply State.poolReserve_keeps
      | refine Keeps.fst (by with_reducible assumption) ?_ | with_reducible apply Keeps.ite | intro _ | dsimp only
      | split)

theorem Grants.step_keeps {s0 : State} (c : Slot) {g : Grants} (q : Req) (hk : Keeps s0 g.s) :
    Keeps s0 (Grants.step c g q).s := by
  unfold Grants.step
  repeat' (first
    | with_reducible assumption | with_reducible apply State.modNum_keeps
    | with_reducible apply State.reserveAll_keeps | with_reducible apply Keeps.foldl
    | refine Keeps.fst (by with_reducible assumption) ?_ | with_reducible apply Keeps.ite | intro _ | dsimp only
    | split)

theorem State.alarmOf_keeps {s0 : State} {s : State} (c : Slot) (step : U64) (refused : List (Req × U16))
    (hk : Keeps s0 s) :
    Keeps s0 (State.alarmOf s c step refused) := by
  unfold State.alarmOf
  repeat' (first
    | with_reducible assumption | with_reducible apply State.modNum_keeps
    | with_reducible apply State.noteStep_keeps | with_reducible apply State.raiseStatus_keeps
    | with_reducible apply Keeps.ite | intro _ | refine Keeps.fst (by with_reducible assumption) ?_
    | with_reducible rfl | exact rfl | dsimp only | split)

theorem State.grantStep_keeps {s0 s : State} (c : Slot) (step : U64) (mode : U8) (hk : Keeps s0 s) :
    Keeps s0 (State.grantStep s c step mode) := by
  unfold State.grantStep
  dsimp only
  refine State.alarmOf_keeps _ _ _ (Keeps.foldlOn Grants.s (fun _ q h => Grants.step_keeps _ q h) ?_)
  dsimp only
  exact State.modNum_keeps _ _ (State.modNum_keeps _ _ hk)

theorem State.scale1_keeps {s0 : State} {s : State} (c : Slot) (i : Nat) (fmt0 : BitVec 3) (hk : Keeps s0 s) :
    Keeps s0 (State.scale1 s c i fmt0) := by
  unfold State.scale1
  repeat' (first
    | with_reducible assumption | with_reducible apply State.draw_keeps | with_reducible apply State.modNum_keeps
    | with_reducible apply State.raise_keeps | with_reducible apply State.event_keeps
    | with_reducible apply Keeps.ite | intro _ | refine Keeps.fst (by with_reducible assumption) ?_
    | with_reducible rfl | exact rfl | dsimp only | split)

theorem State.writeRecs_keeps {s0 : State} {s : State} (c : Slot) (hk : Keeps s0 s) :
    Keeps s0 (State.writeRecs s c) := by
  unfold State.writeRecs
  repeat' (first
    | with_reducible assumption | with_reducible apply State.store_keeps | with_reducible apply State.modNum_keeps
    | with_reducible apply Keeps.ite | intro _ | with_reducible apply Keeps.foldl)

theorem State.closeNumerics_keeps {s0 : State} {s : State} (c : Slot) (step : U64) (hk : Keeps s0 s) :
    Keeps s0 (State.closeNumerics s c step).1 := by
  unfold State.closeNumerics
  repeat' (first
    | with_reducible assumption | with_reducible apply State.newSettings_keeps
    | with_reducible apply State.loadTable_keeps | with_reducible apply State.modNum_keeps
    | with_reducible apply State.demote1_keeps | with_reducible apply State.grantStep_keeps
    | with_reducible apply State.scale1_keeps | with_reducible apply State.writeRecs_keeps
    | with_reducible apply Keeps.ite | intro _ | with_reducible apply Keeps.foldl)

end Sys2Proof.Machine
end

