-- ==== Sys2Proof/Laws/KeepsWork.lean ====
section
/-! SUPPORT. What the work of operations, images, firmware, tokens, the host link and replays keep: one lemma per operation. -/

set_option Elab.async false

namespace Sys2Proof.Machine

/-! ### `Products` -/

theorem State.pastPoison_keeps {s0 : State} {s : State} (c : Slot) (hk : Keeps s0 s) : Keeps s0
    (State.pastPoison s c) :=
  Keeps.foldl (fun _ _ k => State.undefine_keeps _ _ _ k) hk

/-- Free values drawn for a reader elsewhere stay drawn. -/
theorem Keeps.free {s0 s u : State} (h : Keeps s0 s) (hu : s.freeCtr ≤ u.freeCtr) :
    Keeps s0 { s with freeCtr := u.freeCtr } :=
  h.trans ⟨rfl, ⟨rfl, BitVec.le_refl _, hu⟩, id, EnvelopeInv.of_eq rfl rfl rfl, id⟩

theorem State.pastPoison_free (s : State) (c : Slot) (lost : Bool) :
    s.freeCtr ≤ (if lost then s.pastPoison c else s).freeCtr := by
  split
  · exact (State.pastPoison_keeps c (Keeps.refl s)).follows.free
  · exact Nat.le_refl _

theorem PWork.runPass_keeps {s0 : State} (w : PWork) {s : State} (core : Nat) (ps : Pass) (hk : Keeps s0 s) :
    Keeps s0 (PWork.runPass w s core ps).1 := by
  unfold PWork.runPass
  dsimp only
  generalize ((w.read s ps).windows.any fun x => x.2.poison.isSome) = lost
  have hf := State.pastPoison_free s w.o.c lost
  generalize (if lost = true then s.pastPoison w.o.c else s) = u at hf ⊢
  have hn := fun l => State.noteWindows_keeps w.o w.plateTime l (Keeps.free hk hf)
  repeat' (first
    | with_reducible assumption | with_reducible apply State.events_keeps | with_reducible apply hn
    | refine Keeps.fst (by with_reducible assumption) ?_ | with_reducible rfl | with_reducible apply Keeps.ite
    | intro _ | dsimp only | split)

theorem State.reportDark_keeps {s0 : State} {s : State} (o : OpCtx) (plates : Nat) (nonZero : Bool) (hk : Keeps s0 s) :
    Keeps s0 (State.reportDark s o plates nonZero) := by
  unfold State.reportDark
  repeat' (first
    | with_reducible assumption | with_reducible apply State.modNum_keeps | with_reducible apply Keeps.ite
    | intro _)

theorem State.closeWriter_keeps {s0 : State} (o : OpCtx) (cfg : WCfg) (unit : Nat) {w : WStat} (hk : Keeps s0 w.s) :
    Keeps s0 (State.closeWriter o cfg unit w) := by
  unfold State.closeWriter
  repeat' (first
    | with_reducible assumption | with_reducible apply State.faultOp_keeps
    | with_reducible apply State.modRun_keeps | with_reducible apply State.reportDark_keeps
    | with_reducible apply State.events_keeps | with_reducible apply WStat.report_keeps
    | with_reducible apply Keeps.ite | intro _ | dsimp only | split)

theorem PWork.put_keeps {s0 : State} (w : PWork) {s : State} (core : Nat) (x : Box) (ps : Pass) (dark : Bool)
    (rows : List (Option (List Cell))) (hk : Keeps s0 s) : Keeps s0 (PWork.put w s core x ps dark rows) := by
  unfold PWork.put
  refine State.closeWriter_keeps _ _ _ ?_
  dsimp only
  split
  · exact WStat.tileRows_keeps _ _ _ _ _ _ _ hk
  · exact WStat.endRegions_keeps _ _ _ _ (WStat.tileRows_keeps _ _ _ _ _ _ _ hk)

theorem PWork.writePlane_keeps {s0 : State} (w : PWork) {s : State} (core : Nat) (x : Box) (ps : Pass)
    (rank p : Nat) (v : Band) (hk : Keeps s0 s) :
    Keeps s0 (PWork.writePlane w s core x ps rank p v) := by
  unfold PWork.writePlane
  repeat' (first
    | with_reducible assumption | with_reducible apply PWork.put_keeps | with_reducible apply State.store_keeps
    | with_reducible apply State.reportDark_keeps | with_reducible apply Keeps.ite | intro _
    | with_reducible apply Keeps.foldl | with_reducible apply Keeps.foldl₁
    | refine Keeps.fst (by with_reducible assumption) ?_ | with_reducible rfl | exact rfl | dsimp only | split)

theorem PWork.fetchOr_keeps {s0 : State} (w : PWork) {s : State} (rank bit : Nat) (hk : Keeps s0 s) :
    Keeps s0 (PWork.fetchOr w s rank bit).1 := by
  unfold PWork.fetchOr
  repeat' (first
    | with_reducible assumption | with_reducible apply State.touch_keeps | with_reducible apply State.faultOp_keeps
    | with_reducible apply State.store_keeps | with_reducible apply Keeps.ite | intro _
    | refine Keeps.fst (by with_reducible assumption) ?_ | with_reducible rfl | exact rfl | dsimp only | split)

theorem PWork.touchPlane_keeps {s0 : State} (w : PWork) {s : State} (x : Box) (rank p : Nat) (hk : Keeps s0 s) :
    Keeps s0 (PWork.touchPlane w s x rank p) := by
  unfold PWork.touchPlane
  repeat' (first
    | with_reducible assumption | with_reducible apply State.touch_keeps | with_reducible apply Keeps.ite | intro _
    | with_reducible apply Keeps.foldl)

theorem PWork.completeBand_keeps {s0 : State} (w : PWork) (core : Nat) (x : Box) (ps : Pass) (rank fuel : Nat)
    {s : State}
    (l i n : Nat) (v : Band) (hk : Keeps s0 s) : Keeps s0 (w.completeBand core x ps rank fuel s l i n v) := by
  induction fuel generalizing s l i n v with
  | zero => exact PWork.writePlane_keeps _ _ _ _ _ _ _ hk
  | succ k ih =>
    unfold PWork.completeBand
    repeat' (first
      | with_reducible assumption | with_reducible apply ih | with_reducible apply PWork.writePlane_keeps
      | with_reducible apply State.faultOp_keeps | with_reducible apply State.events_keeps
      | with_reducible apply PWork.fetchOr_keeps | with_reducible apply PWork.touchPlane_keeps
      | refine Keeps.fst (by with_reducible assumption) ?_ | with_reducible apply Keeps.ite | intro _ | dsimp only
      | split)

theorem PWork.sendAdds_keeps {s0 : State} (w : PWork) {s : State} (core : Nat) (x : Box) (ps : Pass) (v : Band)
    (hk : Keeps s0 s) :
    Keeps s0 (PWork.sendAdds w s core x ps v) := by
  unfold PWork.sendAdds
  repeat' (first
    | with_reducible assumption | with_reducible apply State.take_keeps | with_reducible apply Keeps.ite | intro _
    | refine Keeps.fst (by with_reducible assumption) ?_ | with_reducible rfl | exact rfl | dsimp only | split
    | with_reducible apply Keeps.upd)

theorem PWork.sinkBand_keeps {s0 : State} (w : PWork) {s : State} (core : Nat) (x : Box) (ps : Pass) (v : Band)
    (hk : Keeps s0 s) :
    Keeps s0 (PWork.sinkBand w s core x ps v) := by
  unfold PWork.sinkBand
  repeat' (first
    | with_reducible assumption | with_reducible apply PWork.completeBand_keeps
    | with_reducible apply PWork.fetchOr_keeps | with_reducible apply PWork.writePlane_keeps
    | with_reducible apply PWork.sendAdds_keeps | with_reducible apply Keeps.ite | intro _
    | refine Keeps.fst (by with_reducible assumption) ?_ | with_reducible rfl | exact rfl | dsimp only | split)

theorem PWork.drain_keeps {s0 : State} (w : PWork) {s : State} (core : Nat) (sh : Shadow) (hk : Keeps s0 s) :
    Keeps s0 (PWork.drain w s core sh) := by
  unfold PWork.drain
  repeat' (first
    | with_reducible assumption | with_reducible apply PWork.put_keeps | with_reducible apply State.events_keeps
    | with_reducible apply PWork.sinkBand_keeps | with_reducible apply Keeps.ite | intro _
    | refine Keeps.fst (by with_reducible assumption) ?_ | with_reducible rfl | exact rfl | dsimp only | split
    | with_reducible apply Keeps.upd)

theorem beginProduct_keeps {s0 : State} {s : State} (o : OpRec) (oc : OpCtx) (vs : List (Nat × TView))
    (hk : Keeps s0 s) :
    Keeps s0 (beginProduct s o oc vs) := by
  unfold beginProduct
  repeat' (first
    | with_reducible assumption | with_reducible apply State.modRun_keeps | with_reducible apply Keeps.ite
    | intro _ | with_reducible apply Keeps.foldl | with_reducible apply Keeps.foldl₁
    | refine Keeps.fst (by with_reducible assumption) ?_ | with_reducible rfl | exact rfl | dsimp only | split
    | with_reducible apply Keeps.upd)

theorem State.passBoundary_keeps {s0 : State} {s : State} (core key : Nat) (hk : Keeps s0 s) :
    Keeps s0 (State.passBoundary s core key) := by
  unfold State.passBoundary
  repeat' (first
    | with_reducible assumption | with_reducible apply State.modBlock_keeps | with_reducible apply Keeps.ite
    | intro _ | refine Keeps.fst (by with_reducible assumption) ?_ | with_reducible rfl)

theorem State.nextPass_keeps {s0 : State} {s : State} (core key : Nat) (more : Bool) (hk : Keeps s0 s) :
    Keeps s0 (State.nextPass s core key more) := by
  unfold State.nextPass
  repeat' (first
    | with_reducible assumption | with_reducible apply State.passBoundary_keeps | with_reducible apply Keeps.ite
    | intro _ | refine Keeps.fst (by with_reducible assumption) ?_ | with_reducible rfl | exact rfl | dsimp only
    | split | with_reducible apply Keeps.upd)

theorem State.holdShadow_keeps {s0 : State} {s : State} (core : Nat) (a : ArrayKind) (sh : Shadow) (hk : Keeps s0 s) :
    Keeps s0 (State.holdShadow s core a sh) := Keeps.upd hk rfl rfl rfl

theorem State.unitDone_keeps {s0 : State} {s : State} (w : PWork) (ps : Pass) (hk : Keeps s0 s) :
    Keeps s0 (State.unitDone s w ps) := by
  unfold State.unitDone
  repeat' (first
    | with_reducible assumption | with_reducible apply State.modRun_keeps | with_reducible apply Keeps.ite
    | intro _)

theorem State.freeShadow_keeps {s0 : State} {s : State} (key : Nat) (hk : Keeps s0 s) :
    Keeps s0 (State.freeShadow s key) := Keeps.upd hk rfl rfl rfl

theorem PWork.homeAdd_keeps {s0 : State} (w : PWork) {s : State} (h : HomeAdd) (hk : Keeps s0 s) :
    Keeps s0 (PWork.homeAdd w s h) := by
  unfold PWork.homeAdd
  repeat' (first
    | with_reducible assumption | with_reducible apply State.touch_keeps | with_reducible apply State.faultOp_keeps
    | with_reducible apply State.store_keeps | with_reducible apply State.events_keeps
    | with_reducible apply State.reportDark_keeps | with_reducible apply Keeps.ite | intro _)

theorem State.landAdd_keeps {s0 : State} {s : State} (k : Nat) (hk : Keeps s0 s) :
    Keeps s0 (State.landAdd s k) := by
  unfold State.landAdd
  repeat' (first
    | with_reducible assumption | with_reducible apply PWork.homeAdd_keeps
    | with_reducible apply State.modRun_keeps | with_reducible apply Keeps.ite | intro _
    | refine Keeps.fst (by with_reducible assumption) ?_ | with_reducible rfl | exact rfl | dsimp only | split
    | with_reducible apply Keeps.upd)

theorem State.landAddsOf_keeps {s0 s : State} (core fuel : Nat) (hk : Keeps s0 s) :
    Keeps s0 (State.landAddsOf s core fuel) := by
  induction fuel generalizing s with
  | zero => exact hk
  | succ k ih =>
    unfold State.landAddsOf
    split
    · exact hk
    · exact ih (State.landAdd_keeps _ hk)

theorem State.blinkCompare_keeps {s0 : State} {s : State} (b : BlinkCheck) (hk : Keeps s0 s) :
    Keeps s0 (State.blinkCompare s b) := by
  unfold State.blinkCompare
  repeat' (first
    | with_reducible assumption | with_reducible apply State.keep_keeps | with_reducible apply State.modNum_keeps
    | with_reducible apply State.modStepAcc_keeps | with_reducible apply State.raiseStatus_keeps
    | with_reducible apply Keeps.ite | intro _)

theorem State.dropChecks_keeps {s0 : State} {s : State} (late : Nat → BlinkCheck → Bool) (hk : Keeps s0 s) :
    Keeps s0 (State.dropChecks s late) := by
  unfold State.dropChecks
  repeat' (first
    | with_reducible assumption | with_reducible apply State.modStepAcc_keeps | with_reducible apply Keeps.ite
    | intro _ | with_reducible apply Keeps.foldl | with_reducible apply Keeps.foldl₁
    | refine Keeps.fst (by with_reducible assumption) ?_ | with_reducible rfl | exact rfl | dsimp only | split
    | with_reducible apply Keeps.upd)

/-! ### `Snapshot` -/

theorem State.take_keeps {s0 : State} {s : State} (c : Slot) (id : U32) (hk : Keeps s0 s) :
    Keeps s0 (State.take s c id).1 := by
  unfold State.take
  repeat' (first
    | with_reducible assumption | with_reducible apply State.modTrain_keeps | with_reducible apply Keeps.ite
    | intro _ | refine Keeps.fst (by with_reducible assumption) ?_ | with_reducible rfl | exact rfl | dsimp only
    | split)

theorem State.snapshotPoint_keeps {s0 : State} {s : State} (c : Slot) (step next : U64) (hk : Keeps s0 s) :
    Keeps s0 (State.snapshotPoint s c step next) := by
  unfold State.snapshotPoint
  repeat' (first
    | with_reducible assumption | with_reducible apply State.train_keeps
    | with_reducible apply State.modTrain_keeps | with_reducible apply State.raiseStatus_keeps
    | with_reducible apply Keeps.ite | intro _ | refine Keeps.fst (by with_reducible assumption) ?_
    | with_reducible rfl | exact rfl | dsimp only | split | with_reducible apply Keeps.upd)

theorem State.commitImage_keeps {s0 : State} {s : State} (c : Slot) (img : Image) (hk : Keeps s0 s) :
    Keeps s0 (State.commitImage s c img) := by
  unfold State.commitImage
  repeat' (first
    | with_reducible assumption | with_reducible apply State.modTrain_keeps | with_reducible apply Keeps.ite
    | intro _ | refine Keeps.fst (by with_reducible assumption) ?_ | with_reducible rfl | exact rfl | dsimp only
    | split | with_reducible apply Keeps.upd)

theorem actSnapshot_keeps {s0 : State} {s : State} (d : DueEntry) (hk : Keeps s0 s) :
    Keeps s0 (actSnapshot s d).1 := by
  unfold actSnapshot
  repeat' (first
    | with_reducible assumption | with_reducible apply State.take_keeps
    | with_reducible apply State.entryNotice_keeps | with_reducible apply State.lastStatus_keeps
    | with_reducible apply Keeps.ite | intro _ | refine Keeps.fst (by with_reducible assumption) ?_
    | with_reducible rfl | exact rfl | dsimp only | split)

theorem State.deleteImage_keeps {s0 : State} {s : State} (c : Slot) (img : Image) (hk : Keeps s0 s) :
    Keeps s0 (State.deleteImage s c img) := by
  unfold State.deleteImage
  repeat' (first
    | with_reducible assumption | with_reducible apply State.freePages_keeps
    | with_reducible apply State.modTrain_keeps | with_reducible apply Keeps.ite | intro _
    | with_reducible apply Keeps.foldl | with_reducible apply Keeps.foldl₁
    | refine Keeps.fst (by with_reducible assumption) ?_ | with_reducible rfl | exact rfl | dsimp only | split
    | with_reducible apply Keeps.upd)

theorem State.mapImage_keeps {s0 s : State} (c : Slot) (img : Image) (a : Nat) (hk : Keeps s0 s) :
    Keeps s0 (State.mapImage s c img a).1 := by
  unfold State.mapImage
  split
  · exact hk
  · dsimp only
    exact State.modTrain_keeps _ _ (Keeps.updMem (State.modCtx_keeps _ _ hk) (foldl_memSet_wf _ _ _) rfl rfl rfl)

theorem State.importImage_keeps {s0 : State} {s : State} (c : Slot) (vf : Option Slot) (id : U32) (a : Nat)
    (len : U64) (hk : Keeps s0 s) :
    Keeps s0 (State.importImage s c vf id a len).1 := by
  unfold State.importImage
  repeat' (first
    | with_reducible assumption | with_reducible apply State.modTrain_keeps | with_reducible apply Keeps.ite
    | intro _ | refine Keeps.fst (by with_reducible assumption) ?_ | with_reducible rfl | exact rfl | dsimp only
    | split | with_reducible apply Keeps.upd)

theorem State.snapshotRequest_keeps {s0 : State} {s : State} (c : Slot) (vf : Option Slot) (b : Bytes)
    (hk : Keeps s0 s) :
    Keeps s0 (State.snapshotRequest s c vf b).1 := by
  unfold State.snapshotRequest
  repeat' (first
    | with_reducible assumption | with_reducible apply State.take_keeps | with_reducible apply State.modTrain_keeps
    | with_reducible apply State.deleteImage_keeps | with_reducible apply State.mapImage_keeps
    | with_reducible apply State.importImage_keeps | with_reducible apply Keeps.ite | intro _
    | refine Keeps.fst (by with_reducible assumption) ?_ | with_reducible rfl | exact rfl | dsimp only | split)

theorem State.restartRing_keeps {s0 : State} {s : State} (c : Slot) (hk : Keeps s0 s) :
    Keeps s0 (State.restartRing s c) := by
  unfold State.restartRing
  repeat' (first
    | with_reducible assumption | with_reducible apply State.modEph_keeps | with_reducible apply State.store_keeps
    | with_reducible apply Keeps.ite | intro _)

theorem State.noteResident_keeps {s0 : State} {s : State} (c : Slot) (hk : Keeps s0 s) :
    Keeps s0 (State.noteResident s c) := by
  unfold State.noteResident
  repeat' (first
    | with_reducible assumption | with_reducible apply State.raise_keeps | with_reducible apply State.event_keeps
    | with_reducible apply Keeps.ite | intro _)

theorem State.chargeRestored_keeps {s0 : State} {s : State} (c : Slot) (hk : Keeps s0 s) :
    Keeps s0 (State.chargeRestored s c) := by
  unfold State.chargeRestored
  repeat' (first
    | with_reducible assumption | with_reducible apply State.modNum_keeps)

theorem State.restoreFails_keeps {s0 : State} {s : State} (c : Slot) (st : U16) (hk : Keeps s0 s) :
    Keeps s0 (State.restoreFails s c st) := by
  unfold State.restoreFails
  repeat' (first
    | with_reducible assumption | with_reducible apply State.modTrain_keeps)

theorem State.imageReadFail_keeps {s0 : State} {s : State} (c : Slot) (d : Nat) (hk : Keeps s0 s) :
    Keeps s0 (State.imageReadFail s c d) := by
  unfold State.imageReadFail
  repeat' (first
    | with_reducible assumption | with_reducible apply State.raiseStatus_keeps
    | with_reducible apply State.restoreFails_keeps | with_reducible apply Keeps.ite | intro _
    | refine Keeps.fst (by with_reducible assumption) ?_ | with_reducible rfl | exact rfl | dsimp only | split
    | with_reducible apply Keeps.upd)

theorem State.restoreRings_keeps {s0 : State} {s : State} (c : Slot) (hk : Keeps s0 s) :
    Keeps s0 (State.restoreRings s c) := by
  unfold State.restoreRings
  repeat' (first
    | with_reducible assumption | with_reducible apply State.train_keeps
    | with_reducible apply State.modTrain_keeps | with_reducible apply State.stashWrite_keeps
    | with_reducible apply State.movePins_keeps | with_reducible apply Keeps.ite | intro _
    | with_reducible apply Keeps.foldl)

theorem State.restoreImage_keeps {s0 : State} {s : State} (c : Slot) (i : Image) (hk : Keeps s0 s) :
    Keeps s0 (State.restoreImage s c i) := by
  unfold State.restoreImage
  repeat' (first
    | with_reducible assumption | with_reducible apply State.restoreFails_keeps
    | with_reducible apply State.imageReadFail_keeps | with_reducible apply State.setCtx_keeps
    | with_reducible apply State.modCtx_keeps | with_reducible apply PWork.put_keeps
    | with_reducible apply State.store_keeps | with_reducible apply State.chargeRestored_keeps
    | with_reducible apply State.restoreRings_keeps | with_reducible apply State.restartRing_keeps
    | with_reducible apply State.noteResident_keeps | with_reducible apply Keeps.ite | intro _
    | with_reducible apply Keeps.foldl | with_reducible apply Keeps.foldl₁
    | refine Keeps.fst (by with_reducible assumption) ?_ | with_reducible rfl | exact rfl | dsimp only | split)

/-! ### `Firmware` -/

theorem State.modFw_keeps {s0 : State} {s : State} (d : Nat) (f : FwSlots → FwSlots) (hk : Keeps s0 s) :
    Keeps s0 (State.modFw s d f) := Keeps.upd hk rfl rfl rfl

theorem State.setStage_keeps {s0 : State} {s : State} (seq : U32) (state : U8) (status : U16) (img : Option Bytes)
    (hk : Keeps s0 s) :
    Keeps s0 (State.setStage s seq state status img) := Keeps.upd hk rfl rfl rfl

theorem State.noteStaged_keeps {s0 : State} {s : State} (img : Bytes) (hk : Keeps s0 s) :
    Keeps s0 (State.noteStaged s img) := by
  unfold State.noteStaged
  repeat' (first
    | with_reducible assumption | with_reducible apply State.raise_keeps | with_reducible apply State.event_keeps
    | with_reducible apply Keeps.ite | intro _)

theorem State.verifyStaged_keeps {s0 : State} {s : State} (hk : Keeps s0 s) :
    Keeps s0 (State.verifyStaged s) := by
  unfold State.verifyStaged
  repeat' (first
    | with_reducible assumption | with_reducible apply State.noteStaged_keeps
    | with_reducible apply State.setStage_keeps | with_reducible apply Keeps.ite | intro _
    | with_reducible apply Keeps.foldl | with_reducible apply Keeps.foldl₁
    | refine Keeps.fst (by with_reducible assumption) ?_ | with_reducible rfl | exact rfl | dsimp only | split
    | with_reducible apply Keeps.upd)

theorem State.extend_keeps {s0 : State} {s : State} (r : Nat) (d : BitVec 512) (hk : Keeps s0 s) :
    Keeps s0 (State.extend s r d) := by
  unfold State.extend
  repeat' (first
    | with_reducible assumption | with_reducible apply State.verifyStaged_keeps
    | with_reducible apply State.events_keeps | with_reducible apply State.raise_keeps
    | with_reducible apply State.event_keeps | with_reducible apply Keeps.ite | intro _
    | refine Keeps.fst (by with_reducible assumption) ?_ | with_reducible rfl | exact rfl | dsimp only | split
    | with_reducible apply Keeps.upd)

theorem State.extendAlmanac_keeps {s0 : State} {s : State} (hk : Keeps s0 s) :
    Keeps s0 (State.extendAlmanac s) := by
  unfold State.extendAlmanac
  repeat' (first
    | with_reducible assumption | with_reducible apply State.extend_keeps)

theorem State.extendSecurity_keeps {s0 : State} {s : State} (hk : Keeps s0 s) :
    Keeps s0 (State.extendSecurity s) := by
  unfold State.extendSecurity
  repeat' (first
    | with_reducible assumption | with_reducible apply State.extend_keeps)

theorem State.extendUser_keeps {s0 : State} {s : State} (hk : Keeps s0 s) :
    Keeps s0 (State.extendUser s) := by
  unfold State.extendUser
  repeat' (first
    | with_reducible assumption | with_reducible apply State.extend_keeps)

theorem State.extendLearned_keeps {s0 : State} {s : State} (hk : Keeps s0 s) :
    Keeps s0 (State.extendLearned s) := by
  unfold State.extendLearned
  repeat' (first
    | with_reducible assumption | with_reducible apply State.extend_keeps)

theorem State.tryFw_keeps {s0 : State} {s : State} (d : Nat) (slot : Bool) (hk : Keeps s0 s) :
    Keeps s0 (State.tryFw s d slot).1 := by
  unfold State.tryFw
  repeat' (first
    | with_reducible assumption | with_reducible apply State.modFw_keeps | with_reducible apply Keeps.ite | intro _
    | refine Keeps.fst (by with_reducible assumption) ?_ | with_reducible rfl | exact rfl | dsimp only | split)

theorem State.loadDie_keeps {s0 : State} {s : State} (d : Nat) (hk : Keeps s0 s) :
    Keeps s0 (State.loadDie s d).1 := by
  unfold State.loadDie
  repeat' (first
    | with_reducible assumption | with_reducible apply VJob.run_keeps | with_reducible apply State.modFw_keeps
    | with_reducible apply State.tryFw_keeps | with_reducible apply State.raise_keeps
    | with_reducible apply State.event_keeps | with_reducible apply Keeps.ite | intro _
    | refine Keeps.fst (by with_reducible assumption) ?_ | with_reducible rfl | exact rfl | dsimp only | split)

theorem State.stageImage_keeps {s0 : State} {s : State} (b : Bytes) (hk : Keeps s0 s) :
    Keeps s0 (State.stageImage s b).1 := by
  unfold State.stageImage
  repeat' (first
    | with_reducible assumption | with_reducible apply State.setStage_keeps
    | with_reducible apply State.touch_keeps | with_reducible apply Keeps.ite | intro _
    | refine Keeps.fst (by with_reducible assumption) ?_ | with_reducible rfl | exact rfl | dsimp only | split
    | with_reducible apply Keeps.upd)

theorem State.installAll_keeps {s0 : State} {s : State} (b : Bytes) (hk : Keeps s0 s) :
    Keeps s0 (State.installAll s b).1 := by
  unfold State.installAll
  repeat' (first
    | with_reducible assumption | with_reducible apply State.setStage_keeps
    | with_reducible apply State.modFw_keeps | with_reducible apply PWork.put_keeps
    | with_reducible apply State.raise_keeps | with_reducible apply State.event_keeps
    | with_reducible apply Keeps.ite | intro _ | with_reducible apply Keeps.foldl
    | with_reducible apply Keeps.foldl₁ | refine Keeps.fst (by with_reducible assumption) ?_ | with_reducible rfl
    | exact rfl | dsimp only | split)

theorem State.discardImage_keeps {s0 : State} {s : State} (b : Bytes) (hk : Keeps s0 s) :
    Keeps s0 (State.discardImage s b).1 := by
  unfold State.discardImage
  repeat' (first
    | with_reducible assumption | with_reducible apply State.setStage_keeps | with_reducible apply Keeps.ite
    | intro _ | refine Keeps.fst (by with_reducible assumption) ?_ | with_reducible rfl | exact rfl | dsimp only
    | split)

theorem State.stageRequest_keeps {s0 : State} {s : State} (b : Bytes) (hk : Keeps s0 s) :
    Keeps s0 (State.stageRequest s b).1 := by
  unfold State.stageRequest
  repeat' (first
    | with_reducible assumption | with_reducible apply State.stageImage_keeps
    | with_reducible apply State.installAll_keeps | with_reducible apply State.discardImage_keeps
    | with_reducible apply State.setStage_keeps | with_reducible apply Keeps.ite | intro _
    | refine Keeps.fst (by with_reducible assumption) ?_ | with_reducible rfl | exact rfl | dsimp only | split)

theorem State.raiseRollback_keeps {s0 s : State} (v : U32) (hk : Keeps s0 s) :
    Keeps s0 (State.raiseRollback s v).1 := by
  unfold State.raiseRollback
  dsimp only
  split
  · exact hk
  · rename_i hv
    split
    · exact Keeps.upd hk rfl rfl rfl
    · split
      · exact hk
      · refine State.extendSecurity_keeps (Keeps.upd
          (State.raise_keeps _ (Keeps.foldl (fun _ _ k => State.modFw_keeps _ _ k) ?_)) rfl rfl rfl)
        refine hk.trans ⟨rfl, ⟨rfl, ?_, Nat.le_refl _⟩, id, EnvelopeInv.of_eq rfl rfl rfl, id⟩
        exact BitVec.not_lt.mp hv

/-! ### `Security` -/

theorem State.modCat_keeps {s0 : State} {s : State} (f : CatState → CatState) (hk : Keeps s0 s) :
    Keeps s0 (State.modCat s f) := Keeps.upd hk rfl rfl rfl

theorem State.modChan_keeps {s0 : State} {s : State} (ch : Channel) (f : ChanState → ChanState) (hk : Keeps s0 s) :
    Keeps s0 (State.modChan s ch f) := by
  unfold State.modChan
  repeat' (first
    | with_reducible assumption | with_reducible apply State.modCat_keeps)

theorem State.resetChan_keeps {s0 : State} {s : State} (ch : Channel) (hk : Keeps s0 s) :
    Keeps s0 (State.resetChan s ch) := by
  unfold State.resetChan
  repeat' (first
    | with_reducible assumption | with_reducible apply State.modChan_keeps)

theorem State.authorise_keeps {s0 : State} {s : State} (ch : Channel) (b : Bytes) (hk : Keeps s0 s) :
    Keeps s0 (State.authorise s ch b).1 := by
  unfold State.authorise
  repeat' (first
    | with_reducible assumption | with_reducible apply State.modChan_keeps | with_reducible apply State.raise_keeps
    | with_reducible apply State.event_keeps | with_reducible apply Keeps.ite | intro _
    | refine Keeps.fst (by with_reducible assumption) ?_ | with_reducible rfl | exact rfl | dsimp only | split)

theorem State.cullAuths_keeps {s0 : State} {s : State} (hk : Keeps s0 s) :
    Keeps s0 (State.cullAuths s) := by
  unfold State.cullAuths
  repeat' (first
    | with_reducible assumption | with_reducible apply State.modCat_keeps)

theorem State.writeTokenKey_keeps {s0 : State} {s : State} (sub : Nat) (v : Bytes) (hk : Keeps s0 s) :
    Keeps s0 (State.writeTokenKey s sub v).1 := by
  unfold State.writeTokenKey
  repeat' (first
    | with_reducible assumption | with_reducible apply PWork.put_keeps | with_reducible apply State.cullAuths_keeps
    | with_reducible apply State.extendSecurity_keeps | with_reducible apply Keeps.ite | intro _
    | refine Keeps.fst (by with_reducible assumption) ?_ | with_reducible rfl | exact rfl | dsimp only | split
    | with_reducible apply Keeps.upd)

theorem State.attestRequest_keeps {s0 : State} {s : State} (ch : Channel) (v : Bytes) (hk : Keeps s0 s) :
    Keeps s0 (State.attestRequest s ch v).1 := by
  unfold State.attestRequest
  repeat' (first
    | with_reducible assumption | with_reducible apply Keeps.ite | intro _
    | refine Keeps.fst (by with_reducible assumption) ?_ | with_reducible rfl | exact rfl | dsimp only | split
    | with_reducible apply Keeps.upd)

/-! ### `HostLink` -/

theorem State.modHost_keeps {s0 : State} {s : State} (f : HostLink → HostLink) (hk : Keeps s0 s) :
    Keeps s0 (State.modHost s f) := Keeps.upd hk rfl rfl rfl

theorem State.maskVector_keeps {s0 : State} {s : State} (f : Func) (v : Nat) (mask : Bool) (hk : Keeps s0 s) :
    Keeps s0 (State.maskVector s f v mask) := by
  unfold State.maskVector
  repeat' (first
    | with_reducible assumption | with_reducible apply State.setMsix_keeps | with_reducible apply State.emit_keeps
    | with_reducible apply Keeps.ite | intro _)

theorem State.drainBacklog_keeps {s0 s : State} (r : Ring) (l : List Cmpl) (hk : Keeps s0 s) :
    Keeps s0 (State.drainBacklog s r l) := by
  induction l generalizing s with
  | nil => exact hk
  | cons e l ih =>
    unfold State.drainBacklog
    repeat' (first
      | with_reducible assumption | with_reducible apply ih | with_reducible apply State.modCtx_keeps
      | with_reducible apply State.setRing_keeps | with_reducible apply State.writeCmpl_keeps
      | with_reducible apply Keeps.ite | intro _ | dsimp only | split)

theorem State.countUnmapped_keeps {s0 : State} {s : State} (c : Slot) (hk : Keeps s0 s) :
    Keeps s0 (State.countUnmapped s c) := by
  unfold State.countUnmapped
  repeat' (first
    | with_reducible assumption | with_reducible apply State.modCtx_keeps)

theorem State.countRefused_keeps {s0 : State} {s : State} (hk : Keeps s0 s) :
    Keeps s0 (State.countRefused s) := by
  unfold State.countRefused
  repeat' (first
    | with_reducible assumption | with_reducible apply State.modHost_keeps)

theorem State.countPoison_keeps {s0 : State} {s : State} (c : Slot) (a n : Nat) (hk : Keeps s0 s) :
    Keeps s0 (State.countPoison s c a n) := by
  unfold State.countPoison
  repeat' (first
    | with_reducible assumption | with_reducible apply State.meet_keeps
    | with_reducible apply State.raiseStatus_keeps | with_reducible apply State.modPosition_keeps
    | with_reducible apply Keeps.ite | intro _ | with_reducible apply Keeps.foldl)

theorem State.readPart_keeps {s0 : State} {s : State} (c : Slot) (x : Nat × Nat × Nat) (hk : Keeps s0 s) :
    Keeps s0 (State.readPart s c x).1 := by
  unfold State.readPart
  repeat' (first
    | with_reducible assumption | with_reducible apply State.countUnmapped_keeps
    | with_reducible apply State.countRefused_keeps | with_reducible apply State.touch_keeps
    | with_reducible apply State.countPoison_keeps | with_reducible apply Keeps.ite | intro _
    | refine Keeps.fst (by with_reducible assumption) ?_ | with_reducible rfl | exact rfl | dsimp only | split)

theorem State.writePart_keeps {s0 : State} {s : State} (c : Slot) (x : Nat × Nat × Nat) (b : Bytes) (hk : Keeps s0 s) :
    Keeps s0 (State.writePart s c x b) := by
  unfold State.writePart
  repeat' (first
    | with_reducible assumption | with_reducible apply State.countUnmapped_keeps
    | with_reducible apply State.countRefused_keeps | with_reducible apply State.modHost_keeps
    | with_reducible apply State.raise_keeps | with_reducible apply State.event_keeps
    | with_reducible apply State.store_keeps | with_reducible apply Keeps.ite | intro _)

theorem State.modMailbox_keeps {s0 : State} {s : State} (f : Func) (g : Mailbox → Mailbox) (hk : Keeps s0 s) :
    Keeps s0 (State.modMailbox s f g) := by
  unfold State.modMailbox
  repeat' (first
    | with_reducible assumption | with_reducible apply State.modHost_keeps)

theorem State.resetMailbox_keeps {s0 : State} {s : State} (f : Func) (hk : Keeps s0 s) :
    Keeps s0 (State.resetMailbox s f) := by
  unfold State.resetMailbox
  repeat' (first
    | with_reducible assumption | with_reducible apply State.modHost_keeps
    | with_reducible apply State.modCat_keeps | with_reducible apply State.resetChan_keeps)

theorem State.resetMsix_keeps {s0 : State} {s : State} (f : Func) (hk : Keeps s0 s) :
    Keeps s0 (State.resetMsix s f) := by
  unfold State.resetMsix
  repeat' (first
    | with_reducible assumption | with_reducible apply State.modHost_keeps)

theorem State.flrSlot_keeps {s0 : State} {s : State} (c : Slot) (hk : Keeps s0 s) :
    Keeps s0 (State.flrSlot s c) := by
  unfold State.flrSlot
  repeat' (first
    | with_reducible assumption | with_reducible apply State.modCtx_keeps
    | with_reducible apply State.completeLists_keeps)

theorem State.flrPf_keeps {s0 : State} {s : State} (hk : Keeps s0 s) :
    Keeps s0 (State.flrPf s) := by
  unfold State.flrPf
  repeat' (first
    | with_reducible assumption | with_reducible apply State.flrSlot_keeps
    | with_reducible apply State.resetMailbox_keeps | with_reducible apply State.resetMsix_keeps
    | with_reducible apply State.modHost_keeps | with_reducible apply Keeps.ite | intro _
    | with_reducible apply Keeps.foldl)

theorem State.resetPcie_keeps {s0 : State} {s : State} (hk : Keeps s0 s) :
    Keeps s0 (State.resetPcie s) := by
  unfold State.resetPcie
  repeat' (first
    | with_reducible assumption | with_reducible apply State.resetMailbox_keeps
    | with_reducible apply State.resetMsix_keeps | with_reducible apply State.modCtx_keeps
    | with_reducible apply State.modHost_keeps | with_reducible apply Keeps.ite | intro _
    | with_reducible apply Keeps.foldl)

theorem State.linkDown_keeps {s0 : State} {s : State} (hk : Keeps s0 s) :
    Keeps s0 (State.linkDown s) := by
  unfold State.linkDown
  repeat' (first
    | with_reducible assumption | with_reducible apply State.resetPcie_keeps
    | with_reducible apply State.modHost_keeps | with_reducible apply State.raiseStatus_keeps
    | with_reducible apply State.enterHoldover_keeps | with_reducible apply Keeps.ite | intro _)

/-! ### `Background` -/

theorem State.moveIn_keeps {s0 : State} {s : State} (c : Slot) (p d sl : Nat) (hk : Keeps s0 s) :
    Keeps s0 (State.moveIn s c p d sl) := by
  unfold State.moveIn
  repeat' (first
    | with_reducible assumption | with_reducible apply State.switchPage_keeps
    | with_reducible apply State.ddrFrame_keeps | with_reducible apply Keeps.ite | intro _
    | refine Keeps.fst (by with_reducible assumption) ?_ | with_reducible rfl | exact rfl | dsimp only | split)

theorem State.badFound_keeps {s0 : State} {s : State} (c : Slot) (a : Nat) (hk : Keeps s0 s) :
    Keeps s0 (State.badFound s c a) := by
  unfold State.badFound
  repeat' (first
    | with_reducible assumption | with_reducible apply State.countBad_keeps
    | with_reducible apply State.raiseStatus_keeps)

theorem State.scrubBad_keeps {s0 : State} {s : State} (q : Slot × Nat) (hk : Keeps s0 s) :
    Keeps s0 (State.scrubBad s q) := by
  unfold State.scrubBad
  repeat' (first
    | with_reducible assumption | with_reducible apply State.setPoison_keeps
    | with_reducible apply State.badFound_keeps | with_reducible apply Keeps.ite | intro _)

theorem State.addLatent_keeps {s0 : State} {s : State} (e : Latent) (q : Slot × Nat) (hk : Keeps s0 s) :
    Keeps s0 (State.addLatent s e q) := by
  unfold State.addLatent
  dsimp only
  split
  · exact Keeps.updLat hk id (fun l => l.set (memKey_plate _ _) _) rfl rfl rfl
  · exact hk

theorem State.scrubFound_keeps {s0 : State} {s : State} (x : Nat × Latent) (hk : Keeps s0 s) :
    Keeps s0 (State.scrubFound s x) := by
  unfold State.scrubFound
  repeat' (first
    | with_reducible assumption | with_reducible apply State.scrubCorrected_keeps
    | with_reducible apply State.badFound_keeps | with_reducible apply Keeps.ite | intro _
    | refine Keeps.fst (by with_reducible assumption) ?_ | with_reducible rfl | exact rfl | dsimp only | split)

theorem State.endPeriod_keeps {s0 : State} {s : State}  (hk : Keeps s0 s) :
    Keeps s0 (State.endPeriod s) := by
  unfold State.endPeriod
  exact Keeps.foldl (fun _ _ k => State.scrubFound_keeps _ k)
    (Keeps.updLat hk id (fun l => l.filter _) rfl rfl rfl)

theorem State.flashFail_keeps {s0 : State} {s : State} (d : Nat) (q : Slot × Nat) (hk : Keeps s0 s) :
    Keeps s0 (State.flashFail s d q) := by
  unfold State.flashFail
  repeat' (first
    | with_reducible assumption | with_reducible apply State.flashPoison_keeps
    | with_reducible apply State.raiseStatus_keeps | with_reducible apply Keeps.ite | intro _)

theorem State.flashLatent_keeps {s0 : State} {s : State} (d : Nat) (q : Slot × Nat) (hk : Keeps s0 s) :
    Keeps s0 (State.flashLatent s d q) := by
  unfold State.flashLatent
  dsimp only
  split
  · exact Keeps.updLat hk id (fun l => l.set (memKey_plate _ _) _) rfl rfl rfl
  · exact hk

/-! ### `Report` -/

theorem State.dropBlinks_keeps {s0 : State} {s : State} (c : Slot) (step : U64) (hk : Keeps s0 s) :
    Keeps s0 (State.dropBlinks s c step) := by
  unfold State.dropBlinks
  repeat' (first
    | with_reducible assumption | with_reducible apply State.dropChecks_keeps)

theorem State.darkLayer_keeps {s0 : State} {s : State} (c : Slot) (step : U64) (j : Nat) (f : LayerWatch)
    (hk : Keeps s0 s) :
    Keeps s0 (State.darkLayer s c step j f) := by
  unfold State.darkLayer
  repeat' (first
    | with_reducible assumption | with_reducible apply State.modNum_keeps
    | with_reducible apply State.noteStep_keeps | with_reducible apply State.raiseStatus_keeps
    | with_reducible apply Keeps.ite | intro _)

theorem State.writeWatch_keeps {s0 : State} {s : State} (c : Slot) (fs : List (Nat × LayerWatch)) (hk : Keeps s0 s) :
    Keeps s0 (State.writeWatch s c fs).1 := by
  unfold State.writeWatch
  repeat' (first
    | with_reducible assumption | with_reducible apply State.store_keeps | with_reducible apply Keeps.ite | intro _
    | with_reducible apply Keeps.foldl | with_reducible apply Keeps.foldl₁
    | refine Keeps.fst (by with_reducible assumption) ?_ | with_reducible rfl | exact rfl | dsimp only | split)

theorem State.writeReport_keeps {s0 : State} {s : State} (c : Slot) (b : Bytes) (hk : Keeps s0 s) :
    Keeps s0 (State.writeReport s c b).1 := by
  unfold State.writeReport
  repeat' (first
    | with_reducible assumption | with_reducible apply State.modNum_keeps | with_reducible apply State.store_keeps
    | with_reducible apply State.postCtx_keeps | with_reducible apply Keeps.ite | intro _
    | refine Keeps.fst (by with_reducible assumption) ?_ | with_reducible rfl | exact rfl | dsimp only | split)

theorem State.closeWatch_keeps {s0 : State} {s : State} (c : Slot) (step count : U64) (m : CloseSums)
    (hk : Keeps s0 s) :
    Keeps s0 (State.closeWatch s c step count m) := by
  unfold State.closeWatch
  repeat' (first
    | with_reducible assumption | with_reducible apply State.darkLayer_keeps
    | with_reducible apply State.writeWatch_keeps | with_reducible apply State.writeReport_keeps
    | with_reducible apply State.modNum_keeps | with_reducible apply State.raiseStatus_keeps
    | with_reducible apply Keeps.ite | intro _ | with_reducible apply Keeps.foldl)

/-! ### `Close` -/

theorem State.journalClose_keeps {s0 : State} {s : State} (c : Slot) (step : U64) (hk : Keeps s0 s) :
    Keeps s0 (State.journalClose s c step) := by
  unfold State.journalClose
  repeat' (first
    | with_reducible assumption | with_reducible apply State.train_keeps
    | with_reducible apply State.modTrain_keeps | with_reducible apply State.journalWrite_keeps
    | with_reducible apply Keeps.ite | intro _ | refine Keeps.fst (by with_reducible assumption) ?_
    | with_reducible rfl | exact rfl | dsimp only | split)

theorem State.journalScales_keeps {s0 : State} {s : State} (c : Slot) (next : U64) (hk : Keeps s0 s) :
    Keeps s0 (State.journalScales s c next) := by
  unfold State.journalScales
  repeat' (first
    | with_reducible assumption | with_reducible apply State.journalMod_keeps)

theorem State.closeStep_keeps {s0 : State} {s : State} (c : Slot) (step next : U64) (hk : Keeps s0 s) :
    Keeps s0 (State.closeStep s c step next) := by
  unfold State.closeStep
  repeat' (first
    | with_reducible assumption | with_reducible apply State.dropBlinks_keeps
    | with_reducible apply State.modNum_keeps | with_reducible apply State.newTraining_keeps
    | with_reducible apply State.closeNumerics_keeps | with_reducible apply State.closeWatch_keeps
    | with_reducible apply State.closeLedger_keeps | with_reducible apply State.journalClose_keeps
    | with_reducible apply State.journalScales_keeps | with_reducible apply State.snapshotPoint_keeps)

/-! ### `Row` -/

theorem State.putRows_keeps {s0 s : State} (o : OpCtx) (v : TView) (round : U8) (core kind r0 : Nat)
    (rows : List (List Cell)) (hk : Keeps s0 s) : Keeps s0 (State.putRows s o v round core kind r0 rows) := by
  unfold State.putRows
  exact State.closeWriter_keeps _ _ _ (Keeps.foldlOn WStat.s (fun _ _ h => WStat.tile_keeps _ _ _ _ _ _ _ _ h) hk)

theorem State.putEntries_keeps {s0 s : State} (o : OpCtx) (v : TView) (r0 : Nat) (es : List (List F32))
    (hk : Keeps s0 s) : Keeps s0 (State.putEntries s o v r0 es) := by
  unfold State.putEntries
  exact State.closeWriter_keeps _ _ _ (Keeps.foldlOn WStat.s (fun _ _ h => WStat.put_keeps _ _ _ _ h) hk)

theorem State.putFp32Row_keeps {s0 : State} {s : State} (o : OpCtx) (v : TView) (row : Nat) (vals : List F32)
    (hk : Keeps s0 s) :
    Keeps s0 (State.putFp32Row s o v row vals) := by
  unfold State.putFp32Row
  repeat' (first
    | with_reducible assumption | with_reducible apply State.putRows_keeps)

theorem State.bandPartial_keeps {s0 : State} {s : State} (o : OpCtx) (v : TView) (core p k n : Nat)
    (bands : List BandSum) (hk : Keeps s0 s) :
    Keeps s0 (State.bandPartial s o v core p k n bands) := by
  unfold State.bandPartial
  repeat' (first
    | with_reducible assumption | with_reducible apply State.putFp32Row_keeps
    | with_reducible apply State.events_keeps | with_reducible apply Keeps.ite | intro _
    | refine Keeps.fst (by with_reducible assumption) ?_ | with_reducible rfl | exact rfl | dsimp only | split)

theorem State.dparam_keeps {s0 : State} {s : State} (o : OpCtx) (v : TView) (k : Nat) (bands : List BandSum)
    (hk : Keeps s0 s) :
    Keeps s0 (State.dparam s o v k bands) := by
  unfold State.dparam
  repeat' (first
    | with_reducible assumption | with_reducible apply State.putFp32Row_keeps
    | with_reducible apply State.reportDark_keeps | with_reducible apply Keeps.ite | intro _
    | refine Keeps.fst (by with_reducible assumption) ?_ | with_reducible rfl | exact rfl | dsimp only | split)

theorem State.dparamUndefined_keeps {s0 : State} {s : State} (o : OpCtx) (v : TView) (l lo hi : Nat) (hk : Keeps s0 s) :
    Keeps s0 (State.dparamUndefined s o v l lo hi) := by
  unfold State.dparamUndefined
  repeat' (first
    | with_reducible assumption | with_reducible apply State.undefine_keeps | with_reducible apply Keeps.ite
    | intro _ | with_reducible apply Keeps.foldl)

theorem rowGroup_keeps {s0 s : State} (o : OpCtx) (d : RowD) (vs : List (Nat × TView)) (core r0 n : Nat)
    (hk : Keeps s0 s) : Keeps s0 (rowGroup s o d vs core r0 n).s := by
  unfold rowGroup
  dsimp only
  generalize ((RowD.groupWindows s o.c d vs r0 n).any fun x => x.2.poison.isSome) = lost
  have hf := State.pastPoison_free s o.c lost
  generalize (if lost = true then s.pastPoison o.c else s) = u at hf ⊢
  have hn := fun l => State.noteWindows_keeps o rowOrder l (Keeps.free hk hf)
  repeat' (first
    | with_reducible assumption | with_reducible apply State.putRows_keeps
    | with_reducible apply State.putEntries_keeps | with_reducible apply State.events_keeps
    | with_reducible apply hn | refine Keeps.fst (by with_reducible assumption) ?_ | with_reducible apply Keeps.ite
    | intro _ | dsimp only | split)

theorem rowGroups_keeps {s0 : State} (o : OpCtx) (d : RowD) (vs : List (Nat × TView)) (core : Nat → Nat)
    (rEnd fuel : Nat)
    {g : GroupOut} (r : Nat) (hk : Keeps s0 g.s) : Keeps s0 (rowGroups o d vs core rEnd fuel g r).s := by
  induction fuel generalizing g r with
  | zero => exact hk
  | succ k ih =>
    unfold rowGroups
    split
    · exact hk
    · exact ih _ (rowGroup_keeps _ _ _ _ _ _ hk)

theorem runRow_keeps {s0 s : State} (o : OpCtx) (d : RowD) (vs : List (Nat × TView)) (hk : Keeps s0 s) :
    Keeps s0 (runRow s o d vs) := by
  unfold runRow
  cases viewAt vs 160 with
  | none => exact rowGroups_keeps _ _ _ _ _ _ _ hk
  | some v =>
    dsimp only
    repeat' (first
      | with_reducible apply State.dparamUndefined_keeps | with_reducible apply State.dparam_keeps
      | with_reducible apply Keeps.ite | intro _)
    all_goals
      refine Keeps.foldl₁ (fun a x h => ?_) hk
      split
      · exact h
      · have hg := fun n => rowGroups_keeps o d vs (fun row => natAt (s.participants o.c d.groupMask)
          (coreOfTile (ceilDiv d.rows.toNat 2048) 1 (s.participants o.c d.groupMask).length (row / 2048) 0))
          (Nat.min d.rows.toNat (2048 * x + 2048)) 17 (g := { s := a.1, dg := [], db := [], fault := false }) n h
        split
        · exact hg _
        · repeat' (first | exact hg _ | with_reducible apply State.bandPartial_keeps | with_reducible apply Keeps.ite | intro _)

theorem beginRow_keeps {s0 : State} {s : State} (o : OpRec) (oc : OpCtx) (vs : List (Nat × TView)) (hk : Keeps s0 s) :
    Keeps s0 (beginRow s o oc vs) := by
  unfold beginRow
  repeat' (first
    | with_reducible assumption | with_reducible apply runRow_keeps | with_reducible apply Keeps.ite | intro _
    | refine Keeps.fst (by with_reducible assumption) ?_ | with_reducible rfl | exact rfl | dsimp only | split)

/-! ### `Vector` -/

theorem State.putTile_keeps {s0 s : State} (o : OpCtx) (v : TView) (round : U8) (core r0 c0 : Nat)
    (rows : List (List Cell)) (met : List (Nat × FEv)) (hk : Keeps s0 s) :
    Keeps s0 (State.putTile s o v round core r0 c0 rows met) :=
  State.closeWriter_keeps _ _ _ (WStat.tile_keeps _ _ _ _ _ _ _ _ hk)

theorem State.putMask_keeps {s0 s : State} (o : OpCtx) (v : TView) (core r0 c0 : Nat) (rows : List (List Bool))
    (met : List (Nat × FEv)) (hk : Keeps s0 s) : Keeps s0 (State.putMask s o v core r0 c0 rows met) :=
  State.closeWriter_keeps _ _ _ (Keeps.foldlOn WStat.s (fun _ _ h => WStat.maskRow_keeps _ _ _ _ h) hk)

theorem State.bitOf_keeps {s0 : State} {s : State} (y : F32) (hk : Keeps s0 s) :
    Keeps s0 (State.bitOf s y).1 := by
  unfold State.bitOf
  repeat' (first
    | with_reducible assumption | with_reducible apply State.draw_keeps | with_reducible apply Keeps.ite | intro _
    | refine Keeps.fst (by with_reducible assumption) ?_ | with_reducible rfl | exact rfl | dsimp only | split)

theorem State.bitsOfRow_keeps {s0 : State} {s : State} (ys : List F32) (hk : Keeps s0 s) :
    Keeps s0 (State.bitsOfRow s ys).1 := by
  unfold State.bitsOfRow
  repeat' (first
    | with_reducible assumption | with_reducible apply State.bitOf_keeps | with_reducible apply Keeps.ite | intro _
    | with_reducible apply Keeps.foldl | with_reducible apply Keeps.foldl₁)

theorem State.bitsOfRows_keeps {s0 : State} {s : State} (yss : List (List F32)) (hk : Keeps s0 s) :
    Keeps s0 (State.bitsOfRows s yss).1 := by
  unfold State.bitsOfRows
  repeat' (first
    | with_reducible assumption | with_reducible apply State.bitsOfRow_keeps | with_reducible apply Keeps.ite
    | intro _ | with_reducible apply Keeps.foldl | with_reducible apply Keeps.foldl₁)

theorem vecRegion_keeps {s0 : State} (j : VJob) (o : OpCtx) (vs : List (Nat × TView)) (core : Nat) (t : Nat × Nat)
    (rs : List (Nat × VRead)) (bad : Bool) {s : State} (hk : Keeps s0 s) :
    Keeps s0 (vecRegion j o vs core t rs bad s) := by
  unfold vecRegion
  repeat' (first
    | with_reducible assumption | with_reducible apply State.events_keeps
    | with_reducible apply State.putTile_keeps | with_reducible apply State.bitsOfRows_keeps
    | with_reducible apply State.putMask_keeps | with_reducible apply Keeps.ite | intro _
    | refine Keeps.fst (by with_reducible assumption) ?_ | with_reducible rfl | exact rfl | dsimp only | split)

theorem State.pastPoisonFrom_free (s1 s : State) (c : Slot) (lost : Bool) :
    s.freeCtr ≤ (if lost then State.pastPoison { s1 with freeCtr := s.freeCtr } c else s).freeCtr := by
  split
  · exact (State.pastPoison_keeps c (Keeps.refl { s1 with freeCtr := s.freeCtr })).follows.free
  · exact Nat.le_refl _

theorem vecTile_keeps {s0 : State} (s1 : State) (j : VJob) (o : OpCtx) (vs : List (Nat × TView)) (core : Nat)
    (t : Nat × Nat) {s : State} (hk : Keeps s0 s) : Keeps s0 (vecTile s1 j o vs core t s) := by
  unfold vecTile
  dsimp only
  split
  · exact hk
  · generalize ((readWindows (s1.vecReads o.c j (128 * t.1) (128 * t.1 + Nat.min 128 (j.rows - 128 * t.1)) (128 * t.2)
      (128 * t.2 + Nat.min 128 (j.cols - 128 * t.2)))).any fun x => x.2.poison.isSome) = lost
    exact vecRegion_keeps _ _ _ _ _ _ _
      (State.noteWindows_keeps o rowOrder _ (Keeps.free hk (State.pastPoisonFrom_free s1 s o.c lost)))

theorem vecBand_keeps {s0 : State} (j : VJob) (o : OpCtx) (core b : Nat) {s : State} (hk : Keeps s0 s) :
    Keeps s0 (vecBand j o core b s).1 :=
  State.events_keeps _ _ _ _
    (State.noteWindows_keeps o rowOrder _ (Keeps.free hk (State.pastPoison_free s o.c _)))

theorem vecReduce_keeps {s0 : State} (j : VJob) (o : OpCtx) (vs : List (Nat × TView)) (cores : List Nat) {s : State}
    (hk : Keeps s0 s) : Keeps s0 (vecReduce j o vs cores s) := by
  unfold vecReduce
  dsimp only
  repeat' (first
    | with_reducible apply State.putTile_keeps | with_reducible apply Keeps.ite | intro _ | split)
  all_goals
    refine Keeps.foldl₁ (fun a x h => ?_) hk
    split
    · exact h
    · exact State.events_keeps _ _ _ _ (vecBand_keeps j o _ x h)

theorem VJob.run_keeps {s0 : State} (j : VJob) (o : OpCtx) (vs : List (Nat × TView)) {s : State} (hk : Keeps s0 s) :
    Keeps s0 (j.run o vs s) := by
  unfold VJob.run
  exact Keeps.ite (fun _ => vecReduce_keeps _ _ _ _ hk)
    (fun _ => Keeps.foldl (fun _ _ h => vecTile_keeps _ _ _ _ _ _ h) hk)

theorem beginVector_keeps {s0 : State} {s : State} (o : OpRec) (oc : OpCtx) (vs : List (Nat × TView))
    (hk : Keeps s0 s) :
    Keeps s0 (beginVector s o oc vs) := by
  unfold beginVector
  repeat' (first
    | with_reducible assumption | with_reducible apply VJob.run_keeps | with_reducible apply Keeps.ite | intro _
    | refine Keeps.fst (by with_reducible assumption) ?_ | with_reducible rfl | exact rfl | dsimp only | split)

/-! ### `Replay` -/

theorem State.replayRequest_keeps {s0 : State} {s : State} (c : Slot) (b : Bytes) (hk : Keeps s0 s) :
    Keeps s0 (State.replayRequest s c b).1 := by
  unfold State.replayRequest
  repeat' (first
    | with_reducible assumption | with_reducible apply State.train_keeps
    | with_reducible apply State.modTrain_keeps | with_reducible apply Keeps.ite | intro _
    | refine Keeps.fst (by with_reducible assumption) ?_ | with_reducible rfl | exact rfl | dsimp only | split)

theorem State.fillShadows_keeps {s0 : State} {s : State} (c : Slot) (r : Replay) (real idxs : List Nat)
    (hk : Keeps s0 s) :
    Keeps s0 (State.fillShadows s c r real idxs) := by
  unfold State.fillShadows
  repeat' (first
    | with_reducible assumption | with_reducible apply State.store_keeps | with_reducible apply Keeps.ite | intro _
    | with_reducible apply Keeps.foldl | with_reducible apply Keeps.foldl₁
    | refine Keeps.fst (by with_reducible assumption) ?_ | with_reducible rfl | exact rfl | dsimp only | split)

theorem PWork.passNow_keeps {s0 : State} (w : PWork) (core fuel : Nat) {s : State} (ps : Pass) (hk : Keeps s0 s) :
    Keeps s0 (PWork.passNow w core fuel s ps) := by
  induction fuel generalizing s ps with
  | zero => exact hk
  | succ k ih =>
    unfold PWork.passNow
    split
    · rename_i e; exact Keeps.fst e (PWork.runPass_keeps _ _ _ hk)
    · rename_i u sh e
      have hu : Keeps s0 u := Keeps.fst e (PWork.runPass_keeps _ _ _ hk)
      split
      · exact hu
      · dsimp only
        split
        · exact ih _ (Keeps.foldl (fun _ h k => PWork.homeAdd_keeps w h k)
            (Keeps.upd (PWork.drain_keeps w core sh hu) rfl rfl rfl))
        · exact Keeps.foldl (fun _ h k => PWork.homeAdd_keeps w h k)
            (Keeps.upd (PWork.drain_keeps w core sh hu) rfl rfl rfl)

theorem PWork.runNow_keeps {s0 : State} (w : PWork) {s : State} (cores : List Nat) (hk : Keeps s0 s) :
    Keeps s0 (PWork.runNow w s cores) := by
  unfold PWork.runNow
  repeat' (first
    | with_reducible assumption | with_reducible apply VJob.run_keeps | with_reducible apply State.store_keeps
    | with_reducible apply PWork.passNow_keeps | with_reducible apply Keeps.ite | intro _
    | with_reducible apply Keeps.foldl)

theorem State.runQuiet_keeps {s0 : State} {s : State} (oc : OpCtx) (d : Desc) (vs : List (Nat × TView))
    (hk : Keeps s0 s) :
    Keeps s0 (State.runQuiet s oc d vs) := by
  unfold State.runQuiet
  repeat' (first
    | with_reducible assumption | with_reducible apply State.modRun_keeps | with_reducible apply PWork.runNow_keeps
    | with_reducible apply runRow_keeps | with_reducible apply VJob.run_keeps
    | with_reducible apply State.copyPlates_keeps | with_reducible apply Keeps.ite | intro _
    | refine Keeps.fst (by with_reducible assumption) ?_ | with_reducible rfl | exact rfl | dsimp only | split)

theorem State.replayExec_keeps {s0 : State} {s : State} (c : Slot) (r : Replay) (h : DescHdr) (d : Desc) (vs : List
    (Nat × TView)) (hk : Keeps s0 s) :
    Keeps s0 (State.replayExec s c r h d vs).1 := by
  unfold State.replayExec
  repeat' (first
    | with_reducible assumption | with_reducible apply VJob.run_keeps | with_reducible apply State.modStream_keeps
    | with_reducible apply State.runQuiet_keeps | with_reducible apply State.scratchUndefined_keeps)

theorem State.replayDone_keeps {s0 : State} {s : State} (c : Slot) (r : Replay) (b : Bytes) (hk : Keeps s0 s) :
    Keeps s0 (State.replayDone s c r b) := by
  unfold State.replayDone
  repeat' (first
    | with_reducible assumption | with_reducible apply State.modTrain_keeps
    | with_reducible apply State.raise_keeps)

theorem ReplayRun.perform_keeps {s0 : State} (c : Slot) {x : ReplayRun} (h : DescHdr) (d : Desc)
    (st : Except U16 (Option (List (Nat × TView)))) (hk : Keeps s0 x.s) :
    Keeps s0 (ReplayRun.perform c x h d st).1.s := by
  unfold ReplayRun.perform
  repeat' (first
    | with_reducible assumption | with_reducible apply State.replayExec_keeps
    | with_reducible apply State.fillShadows_keeps | refine Keeps.fst (by with_reducible assumption) ?_
    | with_reducible apply Keeps.ite | intro _ | dsimp only | split)

theorem ReplayRun.op_keeps {s0 : State} (c : Slot) {x : ReplayRun} (h : DescHdr) (d : Desc) (hk : Keeps s0 x.s) :
    Keeps s0 (ReplayRun.op c x h d).1.s :=
  Keeps.iteOn (fun q : ReplayRun × Bool => q.1.s) (fun _ => hk) (fun _ => ReplayRun.perform_keeps c h d _ hk)

theorem ReplayRun.list_keeps {s0 : State} (c : Slot) {x : ReplayRun} (l : List (DescHdr × Desc)) (hk : Keeps s0 x.s) :
    Keeps s0 (ReplayRun.list c x l).s := by
  induction l generalizing x with
  | nil => exact hk
  | cons a l ih =>
    obtain ⟨h, d⟩ := a
    unfold ReplayRun.list
    dsimp only
    split
    · exact ReplayRun.op_keeps c h d hk
    · exact ih (ReplayRun.op_keeps c h d hk)

theorem State.replayGo_keeps {s0 s : State} (c : Slot) (r : Replay) (hk : Keeps s0 s) :
    Keeps s0 (State.replayGo s c r) := by
  unfold State.replayGo
  dsimp only
  split
  · exact State.replayDone_keeps _ _ _ hk
  · split
    · exact State.replayDone_keeps _ _ _ hk
    · split
      · exact State.replayDone_keeps _ _ _ hk
      · exact State.modTrain_keeps _ _ (Keeps.foldlOn ReplayRun.s (fun _ l h => ReplayRun.list_keeps _ l h) hk)

theorem State.replayCompare_keeps {s0 : State} {s : State} (c : Slot) (r : Replay) (hk : Keeps s0 s) :
    Keeps s0 (State.replayCompare s c r) := by
  unfold State.replayCompare
  repeat' (first
    | with_reducible assumption | with_reducible apply State.replayDone_keeps)

end Sys2Proof.Machine
end

