-- ==== Sys2Proof/Laws/KeepsModule.lean ====
section
/-! SUPPORT. What plans, repairs, power, the Logbook, starts, the catalogue and collectives keep: one lemma per operation. -/

set_option Elab.async false

namespace Sys2Proof.Machine

/-! ### `Plans` -/

theorem State.modRes_keeps {s0 : State} {s : State} (f : Resources → Resources) (hk : Keeps s0 s) :
    Keeps s0 (State.modRes s f) := Keeps.upd hk rfl rfl rfl

theorem State.assign_keeps {s0 : State} {s : State} (a : Assign) (hk : Keeps s0 s) :
    Keeps s0 (State.assign s a) := by
  unfold State.assign
  repeat' (first
    | with_reducible assumption | with_reducible apply State.modCtx_keeps | with_reducible apply Keeps.ite
    | intro _ | with_reducible apply Keeps.foldl | with_reducible apply Keeps.foldl₁
    | refine Keeps.fst (by with_reducible assumption) ?_ | with_reducible rfl | exact rfl | dsimp only | split)

theorem State.assignAll_keeps {s0 : State} {s : State} (l : List Assign) (hk : Keeps s0 s) :
    Keeps s0 (State.assignAll s l) := by
  unfold State.assignAll
  repeat' (first
    | with_reducible assumption | with_reducible apply State.assign_keeps | with_reducible apply Keeps.ite
    | intro _ | with_reducible apply Keeps.foldl)

theorem State.queuePlan_keeps {s0 : State} {s : State} (k : U8) (b : Bytes) (why : PlanFor) (hk : Keeps s0 s) :
    Keeps s0 (State.queuePlan s k b why).1 := by
  unfold State.queuePlan
  repeat' (first
    | with_reducible assumption | with_reducible apply State.modRes_keeps | with_reducible apply Keeps.ite
    | intro _ | refine Keeps.fst (by with_reducible assumption) ?_ | with_reducible rfl | exact rfl | dsimp only
    | split)

theorem State.planRecord_keeps {s0 : State} {s : State} (k : U8) (st : RebindStatus) (hk : Keeps s0 s) :
    Keeps s0 (State.planRecord s k st) := by
  unfold State.planRecord
  repeat' (first
    | with_reducible assumption | with_reducible apply State.raise_keeps)

theorem State.emptyPlan_keeps {s0 : State} {s : State} (k : U8) (hk : Keeps s0 s) :
    Keeps s0 (State.emptyPlan s k) := by
  unfold State.emptyPlan
  repeat' (first
    | with_reducible assumption | with_reducible apply State.modRes_keeps
    | with_reducible apply State.planRecord_keeps)

theorem State.requestPlan_keeps {s0 : State} {s : State} (k : U8) (why : PlanFor) (hk : Keeps s0 s) :
    Keeps s0 (State.requestPlan s k why).1 := by
  unfold State.requestPlan
  repeat' (first
    | with_reducible assumption | with_reducible apply State.emptyPlan_keeps
    | with_reducible apply State.queuePlan_keeps | with_reducible apply Keeps.ite | intro _
    | refine Keeps.fst (by with_reducible assumption) ?_ | with_reducible rfl | exact rfl | dsimp only | split)

theorem State.rebindRequest_keeps {s0 : State} {s : State} (k : U8) (hk : Keeps s0 s) :
    Keeps s0 (State.rebindRequest s k).1 := by
  unfold State.rebindRequest
  repeat' (first
    | with_reducible assumption | with_reducible apply State.requestPlan_keeps | with_reducible apply Keeps.ite
    | intro _ | refine Keeps.fst (by with_reducible assumption) ?_ | with_reducible rfl | exact rfl | dsimp only
    | split)

theorem actRebind_keeps {s0 : State} {s : State} (d : DueEntry) (hk : Keeps s0 s) :
    Keeps s0 (actRebind s d).1 := by
  unfold actRebind
  repeat' (first
    | with_reducible assumption | with_reducible apply State.requestPlan_keeps
    | with_reducible apply State.entryNotice_keeps | with_reducible apply Keeps.ite | intro _
    | refine Keeps.fst (by with_reducible assumption) ?_ | with_reducible rfl | exact rfl | dsimp only | split)

theorem State.stopClaims_keeps {s0 : State} (s s' : State) (c : Slot) (hk : Keeps s0 s) :
    Keeps s0 (State.stopClaims s s' c) := by
  unfold State.stopClaims
  repeat' (first
    | with_reducible assumption | with_reducible apply State.modRun_keeps | with_reducible apply Keeps.ite
    | intro _ | with_reducible apply Keeps.foldl)

theorem State.beginPausing_keeps {s0 : State} {s : State} (hk : Keeps s0 s) :
    Keeps s0 (State.beginPausing s) := by
  unfold State.beginPausing
  repeat' (first
    | with_reducible assumption | with_reducible apply State.modCtx_keeps | with_reducible apply State.modRes_keeps
    | with_reducible apply Keeps.ite | intro _ | with_reducible apply Keeps.foldl
    | with_reducible apply Keeps.foldl₁ | refine Keeps.fst (by with_reducible assumption) ?_ | with_reducible rfl
    | exact rfl | dsimp only | split)

theorem State.planEnded_keeps {s0 : State} {s : State} (hk : Keeps s0 s) :
    Keeps s0 (State.planEnded s) := by
  unfold State.planEnded
  repeat' (first
    | with_reducible assumption | with_reducible apply State.beginPausing_keeps
    | with_reducible apply State.modRes_keeps | with_reducible apply Keeps.ite | intro _
    | refine Keeps.fst (by with_reducible assumption) ?_ | with_reducible rfl | exact rfl | dsimp only | split)

theorem State.repairResume_keeps {s0 : State} {s : State} (hk : Keeps s0 s) :
    Keeps s0 (State.repairResume s) := by
  unfold State.repairResume
  repeat' (first
    | with_reducible assumption | with_reducible apply State.modCtx_keeps | with_reducible apply Keeps.ite
    | intro _ | with_reducible apply Keeps.foldl | with_reducible apply Keeps.foldl₁
    | refine Keeps.fst (by with_reducible assumption) ?_ | with_reducible rfl | exact rfl | dsimp only | split)

theorem State.refusePlan_keeps {s0 : State} {s : State} (p : PlanRun) (st : U16) (hk : Keeps s0 s) :
    Keeps s0 (State.refusePlan s p st) := by
  unfold State.refusePlan
  repeat' (first
    | with_reducible assumption | with_reducible apply State.modRes_keeps | with_reducible apply State.modCtx_keeps
    | with_reducible apply State.planEnded_keeps | with_reducible apply State.repairResume_keeps
    | with_reducible apply Keeps.ite | intro _ | refine Keeps.fst (by with_reducible assumption) ?_
    | with_reducible rfl | exact rfl | dsimp only | split)

theorem State.startPlan_keeps {s0 : State} {s : State} (p : PlanRun) (hk : Keeps s0 s) :
    Keeps s0 (State.startPlan s p) := by
  unfold State.startPlan
  repeat' (first
    | with_reducible assumption | with_reducible apply State.modRes_keeps
    | with_reducible apply State.refusePlan_keeps | with_reducible apply State.assignAll_keeps
    | with_reducible apply State.stopClaims_keeps | with_reducible apply State.modCtx_keeps
    | with_reducible apply Keeps.ite | intro _ | with_reducible apply Keeps.foldl
    | with_reducible apply Keeps.foldl₁ | refine Keeps.fst (by with_reducible assumption) ?_ | with_reducible rfl
    | exact rfl | dsimp only | split)

theorem State.lapseRamps_keeps {s0 : State} {s : State} (gs : List Nat) (hk : Keeps s0 s) :
    Keeps s0 (State.lapseRamps s gs) := by
  unfold State.lapseRamps
  repeat' (first
    | with_reducible assumption | with_reducible apply State.modBlock_keeps | with_reducible apply Keeps.ite
    | intro _ | with_reducible apply Keeps.foldl | with_reducible apply Keeps.foldl₁
    | refine Keeps.fst (by with_reducible assumption) ?_ | with_reducible rfl)

theorem State.switchPlan_keeps {s0 : State} {s : State} (p : PlanRun) (wb upd : U32) (hk : Keeps s0 s) :
    Keeps s0 (State.switchPlan s p wb upd) := by
  unfold State.switchPlan
  repeat' (first
    | with_reducible assumption | with_reducible apply State.assignAll_keeps
    | with_reducible apply State.setCtx_keeps | with_reducible apply State.modRes_keeps
    | with_reducible apply State.lapseRamps_keeps | with_reducible apply State.noteResident_keeps
    | with_reducible apply State.planEnded_keeps | with_reducible apply Keeps.ite | intro _
    | with_reducible apply Keeps.foldl)

theorem State.slotResult_keeps {s0 : State} {s : State} (seq : U32) (st : U16) (id : U16) (hk : Keeps s0 s) :
    Keeps s0 (State.slotResult s seq st id) := by
  unfold State.slotResult
  repeat' (first
    | with_reducible assumption | with_reducible apply State.modRes_keeps)

theorem State.bindSlot_keeps {s0 : State} {s : State} (c : Slot) (k : U8) (hk : Keeps s0 s) :
    Keeps s0 (State.bindSlot s c k).1 := by
  unfold State.bindSlot
  repeat' (first
    | with_reducible assumption | with_reducible apply State.queuePlan_keeps
    | with_reducible apply State.modCtx_keeps | with_reducible apply Keeps.ite | intro _
    | refine Keeps.fst (by with_reducible assumption) ?_ | with_reducible rfl | exact rfl | dsimp only | split)

theorem State.releaseSlot_keeps {s0 : State} {s : State} (c : Slot) (hk : Keeps s0 s) :
    Keeps s0 (State.releaseSlot s c) := by
  unfold State.releaseSlot
  repeat' (first
    | with_reducible assumption | with_reducible apply State.modCtx_keeps | with_reducible apply Keeps.ite
    | intro _ | refine Keeps.fst (by with_reducible assumption) ?_ | with_reducible rfl | exact rfl | dsimp only
    | split | with_reducible apply Keeps.upd)

theorem State.slotRequest_keeps {s0 : State} {s : State} (b : Bytes) (hk : Keeps s0 s) :
    Keeps s0 (State.slotRequest s b).1 := by
  unfold State.slotRequest
  repeat' (first
    | with_reducible assumption | with_reducible apply State.slotResult_keeps
    | with_reducible apply State.bindSlot_keeps | with_reducible apply State.releaseSlot_keeps
    | with_reducible apply State.modCtx_keeps | with_reducible apply Keeps.ite | intro _
    | refine Keeps.fst (by with_reducible assumption) ?_ | with_reducible rfl | exact rfl | dsimp only | split)

theorem State.commitAll_keeps {s0 : State} {s : State} (c : Slot) (hk : Keeps s0 s) :
    Keeps s0 (State.commitAll s c) := by
  unfold State.commitAll
  repeat' (first
    | with_reducible assumption | with_reducible apply State.commitImage_keeps | with_reducible apply Keeps.ite
    | intro _ | with_reducible apply Keeps.foldl)

theorem State.freeSlot_keeps {s0 : State} {s : State} (c : Slot) (hk : Keeps s0 s) :
    Keeps s0 (State.freeSlot s c) := by
  unfold State.freeSlot
  repeat' (first
    | with_reducible assumption | with_reducible apply State.cleanCore_keeps
    | with_reducible apply State.dropChecks_keeps | with_reducible apply State.freePages_keeps
    | with_reducible apply State.commitAll_keeps | with_reducible apply State.lapseRamps_keeps
    | with_reducible apply State.modCtx_keeps | with_reducible apply Keeps.ite | intro _
    | with_reducible apply Keeps.foldl | with_reducible apply Keeps.foldl₁
    | refine Keeps.fst (by with_reducible assumption) ?_ | with_reducible rfl | exact rfl | dsimp only | split
    | with_reducible apply Keeps.upd)

theorem State.failCore_keeps {s0 : State} {s : State} (core : Nat) (hk : Keeps s0 s) :
    Keeps s0 (State.failCore s core) := by
  unfold State.failCore
  repeat' (first
    | with_reducible assumption | with_reducible apply State.dropChecks_keeps
    | with_reducible apply State.landAddsOf_keeps | with_reducible apply State.modBlock_keeps
    | with_reducible apply State.modRun_keeps | with_reducible apply State.modStream_keeps
    | with_reducible apply VJob.run_keeps | with_reducible apply State.modRes_keeps
    | with_reducible apply Keeps.ite | intro _ | with_reducible apply Keeps.foldl
    | with_reducible apply Keeps.foldl₁ | refine Keeps.fst (by with_reducible assumption) ?_ | with_reducible rfl
    | exact rfl | dsimp only | split | with_reducible apply Keeps.upd)

/-! ### `Repair` -/

theorem State.spareCore_keeps {s0 : State} {s : State} (core : Nat) (hk : Keeps s0 s) :
    Keeps s0 (State.spareCore s core) := by
  unfold State.spareCore
  repeat' (first
    | with_reducible assumption | with_reducible apply State.modRes_keeps
    | with_reducible apply State.cleanCore_keeps)

theorem State.testCore_keeps {s0 : State} {s : State} (core : Nat) (hk : Keeps s0 s) :
    Keeps s0 (State.testCore s core) := by
  unfold State.testCore
  repeat' (first
    | with_reducible assumption | with_reducible apply State.modRes_keeps | with_reducible apply State.raise_keeps
    | with_reducible apply State.event_keeps | with_reducible apply State.spareCore_keeps
    | with_reducible apply Keeps.ite | intro _)

theorem State.dieDead_keeps {s0 : State} {s : State} (d : Nat) (status : U16) (hk : Keeps s0 s) :
    Keeps s0 (State.dieDead s d status) := by
  unfold State.dieDead
  repeat' (first
    | with_reducible assumption | with_reducible apply State.modRes_keeps | with_reducible apply State.modFw_keeps
    | with_reducible apply State.raise_keeps)

theorem State.afterPlan_keeps {s0 : State} {s : State} (p : U8) (hk : Keeps s0 s) :
    Keeps s0 (State.afterPlan s p) := by
  unfold State.afterPlan
  repeat' (first
    | with_reducible assumption | with_reducible apply State.assignAll_keeps | with_reducible apply Keeps.ite
    | intro _)

theorem State.setRepair_keeps {s0 : State} {s : State} (f : RepairStatus → RepairStatus) (hk : Keeps s0 s) :
    Keeps s0 (State.setRepair s f) := by
  unfold State.setRepair
  repeat' (first
    | with_reducible assumption | with_reducible apply State.modRes_keeps)

theorem State.repairRequest_keeps {s0 : State} {s : State} (b : Bytes) (hk : Keeps s0 s) :
    Keeps s0 (State.repairRequest s b).1 := by
  unfold State.repairRequest
  repeat' (first
    | with_reducible assumption | with_reducible apply State.setRepair_keeps
    | with_reducible apply State.requestPlan_keeps | with_reducible apply State.modRes_keeps
    | with_reducible apply State.beginPausing_keeps | with_reducible apply Keeps.ite | intro _
    | refine Keeps.fst (by with_reducible assumption) ?_ | with_reducible rfl | exact rfl | dsimp only | split)

theorem State.spill_keeps {s0 s : State} (d n : Nat) (hk : Keeps s0 s) : Keeps s0 (State.spill s d n) := by
  induction n generalizing s with
  | zero => exact hk
  | succ f ih =>
    unfold State.spill
    repeat' (first
      | with_reducible assumption | with_reducible apply ih | with_reducible apply State.modPage_keeps
      | with_reducible apply State.leaveFrame_keeps | with_reducible apply State.modCtx_keeps
      | with_reducible apply State.ddrFrame_keeps | refine Keeps.fst (by with_reducible assumption) ?_
      | with_reducible apply Keeps.ite | intro _ | dsimp only | split)

theorem State.updateDie_keeps {s0 : State} {s : State} (d : Nat) (ok : Bool) (hk : Keeps s0 s) :
    Keeps s0 (State.updateDie s d ok).1 := by
  unfold State.updateDie
  repeat' (first
    | with_reducible assumption | with_reducible apply State.draw_keeps | with_reducible apply State.modFw_keeps
    | with_reducible apply PWork.put_keeps | with_reducible apply Keeps.ite | intro _
    | refine Keeps.fst (by with_reducible assumption) ?_ | with_reducible rfl | exact rfl | dsimp only | split)

theorem State.repairAction_keeps {s0 : State} {s : State} (r : Repair) (ok : Bool) (hk : Keeps s0 s) :
    Keeps s0 (State.repairAction s r ok).1 := by
  unfold State.repairAction
  repeat' (first
    | with_reducible assumption | with_reducible apply State.draw_keeps
    | with_reducible apply State.updateDie_keeps | with_reducible apply State.spareCore_keeps
    | with_reducible apply State.spill_keeps | with_reducible apply State.modPort_keeps
    | with_reducible apply Keeps.ite | intro _ | refine Keeps.fst (by with_reducible assumption) ?_
    | with_reducible rfl | exact rfl | dsimp only | split | with_reducible apply Keeps.upd)

theorem State.restartTests_keeps {s0 : State} {s : State} (d : Nat) (f : StartFindings) (hk : Keeps s0 s) :
    Keeps s0 (State.restartTests s d f) := by
  unfold State.restartTests
  repeat' (first
    | with_reducible assumption | with_reducible apply State.testCore_keeps | with_reducible apply State.draw_keeps
    | with_reducible apply State.dieDead_keeps | with_reducible apply Keeps.ite | intro _
    | with_reducible apply Keeps.foldl)

theorem State.dieUpdated_keeps {s0 : State} {s : State} (d : Nat) (old : U32) (hk : Keeps s0 s) :
    Keeps s0 (State.dieUpdated s d old) := by
  unfold State.dieUpdated
  repeat' (first
    | with_reducible assumption | with_reducible apply State.extend_keeps | with_reducible apply State.raise_keeps
    | with_reducible apply State.event_keeps | with_reducible apply Keeps.ite | intro _)

theorem State.portsReturn_keeps {s0 : State} {s : State} (d : Nat) (f : StartFindings) (hk : Keeps s0 s) :
    Keeps s0 (State.portsReturn s d f) := by
  unfold State.portsReturn
  repeat' (first
    | with_reducible assumption | with_reducible apply State.beginTraining_keeps
    | with_reducible apply State.train_keeps | with_reducible apply Keeps.ite | intro _
    | with_reducible apply Keeps.foldl)

/-! ### `Power` -/

theorem State.changePoint_keeps {s0 s : State} (b : Nat) {f : Block → Block} (hk : Keeps s0 s)
    (hf : ∀ x, (f x).envelope = x.envelope) : Keeps s0 (State.changePoint s b f) := by
  unfold State.changePoint
  exact State.modBlock_keeps b _ hk (fun x => hf x)

theorem State.writePoint_keeps {s0 : State} {s : State} (b : Nat) (v : U8) (hk : Keeps s0 s) :
    Keeps s0 (State.writePoint s b v).1 := by
  unfold State.writePoint
  repeat' (first
    | with_reducible assumption | with_reducible apply State.changePoint_keeps | with_reducible apply Keeps.ite
    | intro _ | refine Keeps.fst (by with_reducible assumption) ?_ | with_reducible rfl | exact rfl | dsimp only
    | split)

theorem State.writeEnvelope_keeps {s0 s : State} (b : Nat) (v : U32) (hk : Keeps s0 s) :
    Keeps s0 (State.writeEnvelope s b v).1 := by
  unfold State.writeEnvelope
  split
  · exact hk
  · split
    · exact hk
    · dsimp only
      split
      · rename_i hc
        exact hk.trans ⟨rfl, ⟨rfl, BitVec.le_refl _, Nat.le_refl _⟩, id, fun e => ⟨kvSet_pairwise e.1 _ _, hc⟩, id⟩
      · exact hk

theorem State.writeCap_keeps {s0 s : State} (v : U32) (hk : Keeps s0 s) : Keeps s0 (State.writeCap s v).1 := by
  unfold State.writeCap
  split
  · rename_i hc
    exact hk.trans ⟨rfl, ⟨rfl, BitVec.le_refl _, Nat.le_refl _⟩, id, fun e => ⟨e.1, hc⟩, id⟩
  · exact hk

theorem State.gained_keeps {s0 : State} {s : State} (n : Nat) (gain : F32) (hk : Keeps s0 s) :
    Keeps s0 (State.gained s n gain).1 := by
  unfold State.gained
  repeat' (first
    | with_reducible assumption | with_reducible apply State.draw_keeps | with_reducible apply Keeps.ite | intro _
    | refine Keeps.fst (by with_reducible assumption) ?_ | with_reducible rfl | exact rfl | dsimp only | split)

theorem State.apportion_keeps {s0 : State} {s : State} (b e : Nat) (hk : Keeps s0 s) :
    Keeps s0 (State.apportion s b e) := by
  unfold State.apportion
  repeat' (first
    | with_reducible assumption | with_reducible apply State.modCtx_keeps | with_reducible apply Keeps.ite
    | intro _ | with_reducible apply Keeps.foldl | with_reducible apply Keeps.foldl₁
    | refine Keeps.fst (by with_reducible assumption) ?_ | with_reducible rfl | exact rfl | dsimp only | split
    | with_reducible apply Keeps.upd)

theorem State.overLimit_keeps {s0 : State} {s : State} (b : Nat) (hk : Keeps s0 s) :
    Keeps s0 (State.overLimit s b) := by
  unfold State.overLimit
  repeat' (first
    | with_reducible assumption | with_reducible apply State.modBlock_keeps
    | with_reducible apply State.raiseStatus_keeps | with_reducible apply State.changePoint_keeps
    | with_reducible apply Keeps.ite | intro _ | refine Keeps.fst (by with_reducible assumption) ?_
    | with_reducible rfl)

theorem State.blockWindow_keeps {s0 : State} {s : State} (r : WindowReadings) (b : Nat) (hk : Keeps s0 s) :
    Keeps s0 (State.blockWindow s r b) := by
  unfold State.blockWindow
  repeat' (first
    | with_reducible assumption | with_reducible apply State.gained_keeps
    | with_reducible apply State.modBlock_keeps | with_reducible apply State.apportion_keeps
    | with_reducible apply State.overLimit_keeps | with_reducible apply State.setLimit_keeps
    | with_reducible apply Keeps.ite | intro _ | refine Keeps.fst (by with_reducible assumption) ?_
    | with_reducible rfl)

theorem State.readSensors_keeps {s0 : State} {s : State} (r : WindowReadings) (hk : Keeps s0 s) :
    Keeps s0 (State.readSensors s r) := by
  unfold State.readSensors
  repeat' (first
    | with_reducible assumption | with_reducible apply State.gained_keeps | with_reducible apply Keeps.ite
    | intro _ | refine Keeps.fst (by with_reducible assumption) ?_ | with_reducible rfl | exact rfl | dsimp only
    | split | with_reducible apply Keeps.upd)

theorem State.retireLimits_keeps {s0 : State} {s : State} (hk : Keeps s0 s) :
    Keeps s0 (State.retireLimits s) := by
  unfold State.retireLimits
  repeat' (first
    | with_reducible assumption | with_reducible apply State.raise_keeps | with_reducible apply State.event_keeps
    | with_reducible apply Keeps.ite | intro _ | with_reducible apply Keeps.foldl
    | with_reducible apply Keeps.foldl₁ | refine Keeps.fst (by with_reducible assumption) ?_ | with_reducible rfl
    | exact rfl | dsimp only | split | with_reducible apply Keeps.upd)

theorem State.stopSlot_keeps {s0 : State} {s : State} (c : Slot) (hk : Keeps s0 s) :
    Keeps s0 (State.stopSlot s c) := by
  unfold State.stopSlot
  repeat' (first
    | with_reducible assumption | with_reducible apply State.finishOp_keeps | with_reducible apply VJob.run_keeps
    | with_reducible apply Keeps.ite | intro _ | with_reducible apply Keeps.foldl)

theorem State.loseRanges_keeps {s0 s : State} (hk : Keeps s0 s) : Keeps s0 (State.loseRanges s) := by
  unfold State.loseRanges
  exact Keeps.updLat (Keeps.foldl (fun _ _ k => State.modCtx_keeps _ _ k) hk) (fun _ => Memory.wf_nil)
    (fun _ => LatentOk.nil) rfl rfl rfl

theorem State.dropCopied_keeps {s0 : State} {s : State} (hk : Keeps s0 s) :
    Keeps s0 (State.dropCopied s) := by
  unfold State.dropCopied
  repeat' (first
    | with_reducible assumption | with_reducible apply State.setStage_keeps | with_reducible apply Keeps.ite
    | intro _ | refine Keeps.fst (by with_reducible assumption) ?_ | with_reducible rfl | exact rfl | dsimp only
    | split | with_reducible apply Keeps.upd)

theorem State.thermalStop_keeps {s0 : State} {s : State} (args : List U64) (hk : Keeps s0 s) :
    Keeps s0 (State.thermalStop s args) := by
  unfold State.thermalStop
  repeat' (first
    | with_reducible assumption | with_reducible apply State.stopSlot_keeps
    | with_reducible apply State.modTrain_keeps | with_reducible apply State.mapBlocks_keeps
    | with_reducible apply State.loseRanges_keeps | with_reducible apply State.dropCopied_keeps
    | with_reducible apply State.raiseStatus_keeps | with_reducible apply Keeps.ite | intro _
    | with_reducible apply Keeps.foldl | with_reducible apply Keeps.foldl₁
    | refine Keeps.fst (by with_reducible assumption) ?_ | with_reducible rfl | exact rfl | dsimp only | split
    | with_reducible apply Keeps.upd)

/-! ### `Logbook` -/

theorem State.modLog_keeps {s0 : State} {s : State} (f : Logbook → Logbook) (hk : Keeps s0 s) :
    Keeps s0 (State.modLog s f) := Keeps.upd hk rfl rfl rfl

theorem State.commitRecord_keeps {s0 : State} {s : State} (r : LogRec) (notices : Bool) (hk : Keeps s0 s) :
    Keeps s0 (State.commitRecord s r notices) := by
  unfold State.commitRecord
  repeat' (first
    | with_reducible assumption | with_reducible apply State.modLog_keeps
    | with_reducible apply State.noticeMessages_keeps | with_reducible apply State.noticeCompletions_keeps
    | with_reducible apply State.dropRecord_keeps | with_reducible apply PWork.put_keeps
    | with_reducible apply Keeps.ite | intro _ | refine Keeps.fst (by with_reducible assumption) ?_
    | with_reducible rfl | exact rfl | dsimp only | split)

theorem State.clearLog_keeps {s0 : State} {s : State} (ch : Channel) (auth : U64) (mask : U8) (hk : Keeps s0 s) :
    Keeps s0 (State.clearLog s ch auth mask).1 := by
  unfold State.clearLog
  repeat' (first
    | with_reducible assumption | with_reducible apply State.modLog_keeps | with_reducible apply State.raise_keeps
    | with_reducible apply State.event_keeps | with_reducible apply Keeps.ite | intro _
    | refine Keeps.fst (by with_reducible assumption) ?_ | with_reducible rfl | exact rfl | dsimp only | split)

theorem State.commitOnHoldup_keeps {s0 : State} {s : State} (n : Nat) (hk : Keeps s0 s) :
    Keeps s0 (State.commitOnHoldup s n) := by
  unfold State.commitOnHoldup
  repeat' (first
    | with_reducible assumption | with_reducible apply State.take_keeps
    | with_reducible apply State.commitRecord_keeps | with_reducible apply State.modLog_keeps
    | with_reducible apply Keeps.ite | intro _ | with_reducible apply Keeps.foldl)

/-! ### `BringUp` -/

theorem State.keep_keeps {s0 s : State} (cycle : Bool) (hk : Keeps s0 s) : Keeps s0 (State.keep s cycle) := by
  unfold State.keep
  refine Keeps.foldl (fun t b k => Keeps.ite (fun _ => State.setLimit_keeps _ k) (fun _ => k)) (hk.trans ?_)
  refine ⟨rfl, ⟨rfl, BitVec.le_refl _, Nat.le_refl _⟩, fun _ => Memory.wf_nil, fun e => ?_, fun _ => LatentOk.nil⟩
  have key := fun b => kvGet_filter_map (fun q => q.2.envelope.isSome || q.2.held)
    (fun x => { Block.reset with envelope := x.envelope, held := x.held })
    (fun q h => by simpa using (Bool.or_eq_false_iff.mp h).1) (fun _ => rfl) s.power.blocks e.1 b
  refine ⟨?_, ?_⟩
  · exact List.pairwise_map.mpr (List.Pairwise.filter _ e.1)
  · have h2 := e.2
    simp only [State.envelopeSum, State.capOf] at h2 ⊢
    have he : ∀ b, State.envelopeOf { State.reset with
        pending := s.pending, sku := s.sku, power := s.power.kept } b = s.envelopeOf b := by
      intro b
      simp only [State.envelopeOf, Block.envelopeOf, State.block, Power.kept, key b]
      rfl
    exact (congrArg (fun f => sumNat f s.sku.blocks) (funext he)).trans_le h2

theorem State.modBoot_keeps {s0 : State} {s : State} (f : Boot → Boot) (hk : Keeps s0 s) :
    Keeps s0 (State.modBoot s f) := Keeps.upd hk rfl rfl rfl

theorem State.modStart_keeps {s0 : State} {s : State} (f : StartRecord → StartRecord) (hk : Keeps s0 s) :
    Keeps s0 (State.modStart s f) := by
  unfold State.modStart
  repeat' (first
    | with_reducible assumption | with_reducible apply State.modBoot_keeps)

theorem State.setPhase_keeps {s0 : State} {s : State} (n : U8) (hk : Keeps s0 s) :
    Keeps s0 (State.setPhase s n) := by
  unfold State.setPhase
  repeat' (first
    | with_reducible assumption | with_reducible apply State.modBoot_keeps)

theorem State.failure_keeps {s0 : State} {s : State} (st : Option U16) (hk : Keeps s0 s) :
    Keeps s0 (State.failure s st) := by
  unfold State.failure
  repeat' (first
    | with_reducible assumption | with_reducible apply State.modStart_keeps | with_reducible apply State.draw_keeps
    | with_reducible apply Keeps.ite | intro _ | refine Keeps.fst (by with_reducible assumption) ?_
    | with_reducible rfl | exact rfl | dsimp only | split)

theorem State.goCold_keeps {s0 : State} {s : State} (code phase : U8) (hk : Keeps s0 s) :
    Keeps s0 (State.goCold s code phase) := by
  unfold State.goCold
  repeat' (first
    | with_reducible assumption | with_reducible apply State.modStart_keeps
    | with_reducible apply State.raise_keeps)

theorem State.unlearn_keeps {s0 : State} {s : State} (hk : Keeps s0 s) :
    Keeps s0 (State.unlearn s) := by
  unfold State.unlearn
  repeat' (first
    | with_reducible assumption | with_reducible apply State.modCat_keeps)

theorem State.scanLog_keeps {s0 : State} {s : State} (torn : List (Bool × Nat)) (hk : Keeps s0 s) :
    Keeps s0 (State.scanLog s torn) := by
  unfold State.scanLog
  repeat' (first
    | with_reducible assumption | with_reducible apply State.modLog_keeps | with_reducible apply Keeps.ite
    | intro _ | with_reducible apply Keeps.foldl)

theorem State.loadDies_keeps {s0 : State} {s : State} (hk : Keeps s0 s) :
    Keeps s0 (State.loadDies s) := by
  unfold State.loadDies
  repeat' (first
    | with_reducible assumption | with_reducible apply State.loadDie_keeps
    | with_reducible apply State.dieDead_keeps | with_reducible apply State.failure_keeps
    | with_reducible apply Keeps.ite | intro _ | with_reducible apply Keeps.foldl
    | with_reducible apply Keeps.foldl₁ | refine Keeps.fst (by with_reducible assumption) ?_ | with_reducible rfl
    | exact rfl | dsimp only | split)

theorem State.alignReleases_keeps {s0 : State} {s : State} (hk : Keeps s0 s) :
    Keeps s0 (State.alignReleases s) := by
  unfold State.alignReleases
  repeat' (first
    | with_reducible assumption | with_reducible apply State.modFw_keeps | with_reducible apply State.draw_keeps
    | with_reducible apply State.dieDead_keeps | with_reducible apply State.failure_keeps
    | with_reducible apply Keeps.ite | intro _ | with_reducible apply Keeps.foldl
    | with_reducible apply Keeps.foldl₁ | refine Keeps.fst (by with_reducible assumption) ?_ | with_reducible rfl
    | exact rfl | dsimp only | split)

theorem State.enterRecovery_keeps {s0 : State} {s : State} (st : U16) (hk : Keeps s0 s) :
    Keeps s0 (State.enterRecovery s st) := by
  unfold State.enterRecovery
  repeat' (first
    | with_reducible assumption | with_reducible apply State.modBoot_keeps | with_reducible apply State.raise_keeps)

theorem State.selfTest_keeps {s0 : State} {s : State} (f : StartFindings) (hk : Keeps s0 s) :
    Keeps s0 (State.selfTest s f) := by
  unfold State.selfTest
  repeat' (first
    | with_reducible assumption | with_reducible apply State.testCore_keeps
    | with_reducible apply State.failure_keeps | with_reducible apply State.draw_keeps
    | with_reducible apply State.dieDead_keeps | with_reducible apply Keeps.ite | intro _
    | with_reducible apply Keeps.foldl)

theorem State.trainDdr_keeps {s0 : State} {s : State} (f : StartFindings) (hk : Keeps s0 s) :
    Keeps s0 (State.trainDdr s f) := by
  unfold State.trainDdr
  repeat' (first
    | with_reducible assumption | with_reducible apply State.unlearn_keeps
    | with_reducible apply State.goCold_keeps | with_reducible apply State.modPosition_keeps
    | with_reducible apply State.raise_keeps | with_reducible apply State.event_keeps
    | with_reducible apply State.failure_keeps | with_reducible apply Keeps.ite | intro _
    | with_reducible apply Keeps.foldl)

theorem State.trainPorts_keeps {s0 : State} {s : State} (f : StartFindings) (hk : Keeps s0 s) :
    Keeps s0 (State.trainPorts s f) := by
  unfold State.trainPorts
  repeat' (first
    | with_reducible assumption | with_reducible apply State.goCold_keeps
    | with_reducible apply State.unlearn_keeps | with_reducible apply State.modPort_keeps
    | with_reducible apply State.failure_keeps | with_reducible apply State.beginTraining_keeps
    | with_reducible apply State.train_keeps | with_reducible apply Keeps.ite | intro _
    | with_reducible apply Keeps.foldl)

theorem State.learn_keeps {s0 : State} {s : State} (l : List (Nat × Bytes)) (hk : Keeps s0 s) :
    Keeps s0 (State.learn s l) := by
  unfold State.learn
  repeat' (first
    | with_reducible assumption | with_reducible apply State.modCat_keeps)

theorem State.measureStart_keeps {s0 : State} {s : State} (hk : Keeps s0 s) :
    Keeps s0 (State.measureStart s) := by
  unfold State.measureStart
  repeat' (first
    | with_reducible assumption | with_reducible apply State.extend_keeps
    | with_reducible apply State.extendAlmanac_keeps | with_reducible apply State.extendSecurity_keeps
    | with_reducible apply State.extendUser_keeps | with_reducible apply State.extendLearned_keeps
    | with_reducible apply Keeps.ite | intro _ | with_reducible apply Keeps.foldl)

theorem State.finishStart_keeps {s0 s : State} (hk : Keeps s0 s) : Keeps s0 (State.finishStart s) := by
  unfold State.finishStart
  dsimp only
  refine State.raise_keeps _ (State.modBoot_keeps _ (State.modStart_keeps _ (State.measureStart_keeps
    (Keeps.ite (fun _ => State.mapBlocks_keeps _ ?_ (fun _ => rfl)) (fun _ => ?_)))))
  all_goals
    split
    · exact Keeps.ite (fun _ => State.learn_keeps _ hk) (fun _ => hk)
    · exact hk

theorem State.startRest_keeps {s0 : State} {s : State} (f : StartFindings) (hk : Keeps s0 s) :
    Keeps s0 (State.startRest s f) := by
  unfold State.startRest
  repeat' (first
    | with_reducible assumption | with_reducible apply State.setPhase_keeps
    | with_reducible apply State.enterRecovery_keeps | with_reducible apply State.selfTest_keeps
    | with_reducible apply State.trainDdr_keeps | with_reducible apply State.trainPorts_keeps
    | with_reducible apply State.modBoot_keeps | with_reducible apply State.setRole_keeps
    | with_reducible apply State.finishStart_keeps | with_reducible apply Keeps.ite | intro _)

theorem State.start_keeps {s0 : State} {s : State} (cause : U8) (wantCold power : Bool) (f : StartFindings)
    (hk : Keeps s0 s) :
    Keeps s0 (State.start s cause wantCold power f) := by
  unfold State.start
  repeat' (first
    | with_reducible assumption | with_reducible apply State.modBoot_keeps
    | with_reducible apply State.setPhase_keeps | with_reducible apply State.scanLog_keeps
    | with_reducible apply State.goCold_keeps | with_reducible apply State.loadDie_keeps
    | with_reducible apply State.loadDies_keeps | with_reducible apply State.alignReleases_keeps
    | with_reducible apply State.startRest_keeps | with_reducible apply State.modFw_keeps
    | with_reducible apply State.enterRecovery_keeps | with_reducible apply Keeps.ite | intro _
    | with_reducible apply Keeps.foldl | with_reducible apply Keeps.foldl₁
    | refine Keeps.fst (by with_reducible assumption) ?_ | with_reducible rfl | exact rfl | dsimp only | split
    | with_reducible apply Keeps.upd)

theorem State.moduleReset_keeps {s0 : State} {s : State} (ch : Channel) (cold : Bool) (f : StartFindings)
    (hk : Keeps s0 s) :
    Keeps s0 (State.moduleReset s ch cold f) := by
  unfold State.moduleReset
  repeat' (first
    | with_reducible assumption | with_reducible apply State.raise_keeps | with_reducible apply State.event_keeps
    | with_reducible apply State.keep_keeps | with_reducible apply State.start_keeps)

theorem State.recoverWith_keeps {s0 : State} {s : State} (img : Bytes) (f : StartFindings) (hk : Keeps s0 s) :
    Keeps s0 (State.recoverWith s img f) := by
  unfold State.recoverWith
  repeat' (first
    | with_reducible assumption | with_reducible apply State.modFw_keeps | with_reducible apply PWork.put_keeps
    | with_reducible apply State.keep_keeps | with_reducible apply State.start_keeps)

/-! ### `Catalogue` -/

theorem State.describe_keeps {s0 : State} {s : State} (r : Row) (index : Nat) (hk : Keeps s0 s) :
    Keeps s0 (State.describe s r index).1 := by
  unfold State.describe
  repeat' (first
    | with_reducible assumption | with_reducible apply State.draw_keeps
    | with_reducible apply State.drawBytes_keeps | with_reducible apply Keeps.ite | intro _
    | refine Keeps.fst (by with_reducible assumption) ?_ | with_reducible rfl | exact rfl | dsimp only | split)

/-! ### `Collective` -/

theorem State.modColl_keeps {s0 : State} {s : State} (o : OpCtx) (f : CollRun → CollRun) (hk : Keeps s0 s) :
    Keeps s0 (State.modColl s o f) := by
  unfold State.modColl
  repeat' (first
    | with_reducible assumption | with_reducible apply State.modRun_keeps)

theorem State.oneDone_keeps {s0 : State} {s : State} (o : OpCtx) (n : Nat) (hk : Keeps s0 s) :
    Keeps s0 (State.oneDone s o n) := by
  unfold State.oneDone
  repeat' (first
    | with_reducible assumption | with_reducible apply State.modRun_keeps)

theorem State.placePlate_keeps {s0 : State} {s : State} (w : CWork) (i : Nat) (b : Bytes) (hk : Keeps s0 s) :
    Keeps s0 (State.placePlate s w i b) := by
  unfold State.placePlate
  repeat' (first
    | with_reducible assumption | with_reducible apply State.store_keeps | with_reducible apply State.modColl_keeps
    | with_reducible apply State.oneDone_keeps)

theorem State.readSrc_keeps {s0 : State} {s : State} (w : CWork) (i : Nat) (hk : Keeps s0 s) :
    Keeps s0 (State.readSrc s w i).1 := by
  unfold State.readSrc
  repeat' (first
    | with_reducible assumption | with_reducible apply State.touch_keeps | with_reducible apply State.faultOp_keeps
    | with_reducible apply Keeps.ite | intro _ | refine Keeps.fst (by with_reducible assumption) ?_
    | with_reducible rfl | exact rfl | dsimp only | split)

theorem State.reducePlate_keeps {s0 : State} {s : State} (w : CWork) (got : List (Nat × Nat × Bytes)) (i : Nat)
    (hk : Keeps s0 s) :
    Keeps s0 (State.reducePlate s w got i) := by
  unfold State.reducePlate
  repeat' (first
    | with_reducible assumption | with_reducible apply State.events_keeps
    | with_reducible apply State.modColl_keeps | with_reducible apply State.placePlate_keeps
    | with_reducible apply Keeps.ite | intro _)

theorem State.contribute_keeps {s0 : State} {s : State} (c : Slot) (n rank i : Nat) (b : Bytes) (hk : Keeps s0 s) :
    Keeps s0 (State.contribute s c n rank i b) := by
  unfold State.contribute
  repeat' (first
    | with_reducible assumption | with_reducible apply State.modColl_keeps
    | with_reducible apply State.reducePlate_keeps | with_reducible apply Keeps.ite | intro _
    | refine Keeps.fst (by with_reducible assumption) ?_ | with_reducible rfl | exact rfl | dsimp only | split)

theorem State.sendRun_keeps {s0 : State} {s : State} (c : Slot) (n q : Nat) (is : List Nat) (hk : Keeps s0 s) :
    Keeps s0 (State.sendRun s c n q is) := by
  unfold State.sendRun
  repeat' (first
    | with_reducible assumption | with_reducible apply State.faultOp_keeps | with_reducible apply State.touch_keeps
    | with_reducible apply State.modColl_keeps | with_reducible apply State.sendFor_keeps
    | with_reducible apply State.oneDone_keeps | with_reducible apply Keeps.ite | intro _
    | with_reducible apply Keeps.foldl | with_reducible apply Keeps.foldl₁
    | refine Keeps.fst (by with_reducible assumption) ?_ | with_reducible rfl | exact rfl | dsimp only | split)

theorem State.pumpColl_keeps {s0 : State} {s : State} (c : Slot) (n : Nat) (hk : Keeps s0 s) :
    Keeps s0 (State.pumpColl s c n) := by
  unfold State.pumpColl
  repeat' (first
    | with_reducible assumption | with_reducible apply State.sendRun_keeps | with_reducible apply Keeps.ite
    | intro _ | with_reducible apply Keeps.foldl | with_reducible apply Keeps.foldl₁
    | refine Keeps.fst (by with_reducible assumption) ?_ | with_reducible rfl | exact rfl | dsimp only | split)

theorem State.disagree_keeps {s0 : State} {s : State} (w : CWork) (hk : Keeps s0 s) :
    Keeps s0 (State.disagree s w) := by
  unfold State.disagree
  repeat' (first
    | with_reducible assumption | with_reducible apply State.faultOp_keeps)

theorem State.takeReady_keeps {s0 : State} {s : State} (w : CWork) (p : Packet) (hk : Keeps s0 s) :
    Keeps s0 (State.takeReady s w p) := by
  unfold State.takeReady
  repeat' (first
    | with_reducible assumption | with_reducible apply State.countDropAt_keeps
    | with_reducible apply State.disagree_keeps | with_reducible apply State.modColl_keeps
    | with_reducible apply State.pumpColl_keeps | with_reducible apply Keeps.ite | intro _
    | refine Keeps.fst (by with_reducible assumption) ?_ | with_reducible rfl | exact rfl | dsimp only | split)

theorem State.takeData_keeps {s0 : State} {s : State} (w : CWork) (q : Nat) (p : Packet) (hk : Keeps s0 s) :
    Keeps s0 (State.takeData s w q p) := by
  unfold State.takeData
  repeat' (first
    | with_reducible assumption | with_reducible apply State.contribute_keeps
    | with_reducible apply State.placePlate_keeps | with_reducible apply State.ackPacket_keeps
    | with_reducible apply State.pumpColl_keeps | with_reducible apply Keeps.ite | intro _
    | with_reducible apply Keeps.foldl)

theorem State.sendReady_keeps {s0 : State} {s : State} (w : CWork) (hk : Keeps s0 s) :
    Keeps s0 (State.sendReady s w) := by
  unfold State.sendReady
  repeat' (first
    | with_reducible assumption | with_reducible apply State.freshTag_keeps
    | with_reducible apply State.modColl_keeps | with_reducible apply State.sendPacket_keeps
    | with_reducible apply Keeps.ite | intro _ | with_reducible apply Keeps.foldl)

theorem State.ownPlates_keeps {s0 : State} {s : State} (w : CWork) (hk : Keeps s0 s) :
    Keeps s0 (State.ownPlates s w) := by
  unfold State.ownPlates
  repeat' (first
    | with_reducible assumption | with_reducible apply State.readSrc_keeps
    | with_reducible apply State.contribute_keeps | with_reducible apply State.placePlate_keeps
    | with_reducible apply Keeps.ite | intro _ | with_reducible apply Keeps.foldl
    | with_reducible apply Keeps.foldl₁ | refine Keeps.fst (by with_reducible assumption) ?_ | with_reducible rfl
    | exact rfl | dsimp only | split)

theorem State.takeHeld_keeps {s0 : State} {s : State} (c : Slot) (n : Nat) (hk : Keeps s0 s) :
    Keeps s0 (State.takeHeld s c n) := by
  unfold State.takeHeld
  repeat' (first
    | with_reducible assumption | with_reducible apply State.modCtx_keeps
    | with_reducible apply State.takeReady_keeps | with_reducible apply Keeps.ite | intro _
    | with_reducible apply Keeps.foldl | with_reducible apply Keeps.foldl₁
    | refine Keeps.fst (by with_reducible assumption) ?_ | with_reducible rfl | exact rfl | dsimp only | split)

theorem State.advanceSeq_keeps {s0 : State} {s : State} (c : Slot) (g : Nat) (hk : Keeps s0 s) :
    Keeps s0 (State.advanceSeq s c g) := by
  unfold State.advanceSeq
  repeat' (first
    | with_reducible assumption | with_reducible apply State.modCtx_keeps)

theorem beginColl_keeps {s0 : State} (g : Group) {s : State} (o : OpRec) (oc : OpCtx) (u4 : List (Nat × TView))
    (hk : Keeps s0 s) :
    Keeps s0 (beginColl g s o oc u4) := by
  unfold beginColl
  repeat' (first
    | with_reducible assumption | with_reducible apply State.advanceSeq_keeps
    | with_reducible apply State.modRun_keeps | with_reducible apply State.sendReady_keeps
    | with_reducible apply State.ownPlates_keeps | with_reducible apply State.takeHeld_keeps
    | with_reducible apply State.pumpColl_keeps | with_reducible apply Keeps.ite | intro _
    | refine Keeps.fst (by with_reducible assumption) ?_ | with_reducible rfl | exact rfl | dsimp only | split)

theorem State.startColl_keeps {s0 : State} {s : State} (c : Slot) (n : Nat) (kind : Nat → Bool) (hk : Keeps s0 s) :
    Keeps s0 (State.startColl s c n kind) := by
  unfold State.startColl
  repeat' (first
    | with_reducible assumption | with_reducible apply State.advanceSeq_keeps
    | with_reducible apply State.startOp_keeps | with_reducible apply beginColl_keeps
    | with_reducible apply Keeps.ite | intro _ | refine Keeps.fst (by with_reducible assumption) ?_
    | with_reducible rfl | exact rfl | dsimp only | split)

/-! ### `Entries` -/

theorem State.readValue_keeps {s0 : State} {s : State} (ch : Channel) (r : Row) (index off n : Nat) (hk : Keeps s0 s) :
    Keeps s0 (State.readValue s ch r index off n).1 := by
  unfold State.readValue
  repeat' (first
    | with_reducible assumption | with_reducible apply State.take_keeps
    | with_reducible apply State.drawBytes_keeps | with_reducible apply Keeps.ite | intro _
    | refine Keeps.fst (by with_reducible assumption) ?_ | with_reducible rfl | exact rfl | dsimp only | split)

/-! ### `Writes` -/

theorem State.writeCorrection_keeps {s0 : State} {s : State} (i : Nat) (b : Bytes) (hk : Keeps s0 s) :
    Keeps s0 (State.writeCorrection s i b).1 := by
  unfold State.writeCorrection
  repeat' (first
    | with_reducible assumption | with_reducible apply State.modCat_keeps
    | with_reducible apply State.extendUser_keeps | with_reducible apply Keeps.ite | intro _
    | refine Keeps.fst (by with_reducible assumption) ?_ | with_reducible rfl | exact rfl | dsimp only | split)

theorem State.clearUser_keeps {s0 : State} {s : State} (hk : Keeps s0 s) :
    Keeps s0 (State.clearUser s) := by
  unfold State.clearUser
  repeat' (first
    | with_reducible assumption | with_reducible apply State.modCat_keeps
    | with_reducible apply State.extendUser_keeps)

theorem State.clearLearned_keeps {s0 : State} {s : State} (hk : Keeps s0 s) :
    Keeps s0 (State.clearLearned s) := by
  unfold State.clearLearned
  repeat' (first
    | with_reducible assumption | with_reducible apply State.modCat_keeps)

theorem State.clearCorrections_keeps {s0 : State} {s : State} (v : Nat) (hk : Keeps s0 s) :
    Keeps s0 (State.clearCorrections s v) := by
  unfold State.clearCorrections
  repeat' (first
    | with_reducible assumption | with_reducible apply State.modCat_keeps
    | with_reducible apply State.clearUser_keeps | with_reducible apply State.clearLearned_keeps
    | with_reducible apply Keeps.ite | intro _ | refine Keeps.fst (by with_reducible assumption) ?_
    | with_reducible rfl | exact rfl | dsimp only | split)

theorem State.writeSubBase_keeps {s0 : State} {s : State} (c : Slot) (base : U64) (hk : Keeps s0 s) :
    Keeps s0 (State.writeSubBase s c base) := by
  unfold State.writeSubBase
  repeat' (first
    | with_reducible assumption | with_reducible apply State.modCtx_keeps)

theorem State.writeSlotRing_keeps {s0 : State} {s : State} (c : Slot) (sub v : Nat) (hk : Keeps s0 s) :
    Keeps s0 (State.writeSlotRing s c sub v).1 := by
  unfold State.writeSlotRing
  repeat' (first
    | with_reducible assumption | with_reducible apply State.writeSubBase_keeps
    | with_reducible apply State.modSub_keeps | with_reducible apply State.setRing_keeps
    | with_reducible apply Keeps.ite | intro _ | refine Keeps.fst (by with_reducible assumption) ?_
    | with_reducible rfl | exact rfl | dsimp only | split)

theorem State.writePfRing_keeps {s0 : State} {s : State} (sub v : Nat) (hk : Keeps s0 s) :
    Keeps s0 (State.writePfRing s sub v).1 := by
  unfold State.writePfRing
  repeat' (first
    | with_reducible assumption | with_reducible apply State.modHost_keeps | with_reducible apply Keeps.ite
    | intro _ | refine Keeps.fst (by with_reducible assumption) ?_ | with_reducible rfl | exact rfl | dsimp only
    | split)

theorem State.writeMeridian_keeps {s0 : State} {s : State} (sub v : Nat) (hk : Keeps s0 s) :
    Keeps s0 (State.writeMeridian s sub v).1 := by
  unfold State.writeMeridian
  repeat' (first
    | with_reducible assumption | with_reducible apply State.setRole_keeps
    | with_reducible apply State.modMer_keeps | with_reducible apply State.start_keeps
    | with_reducible apply Keeps.ite | intro _ | refine Keeps.fst (by with_reducible assumption) ?_
    | with_reducible rfl | exact rfl | dsimp only | split)

theorem State.writeEph_keeps {s0 : State} {s : State} (c : Slot) (sub v : Nat) (hk : Keeps s0 s) :
    Keeps s0 (State.writeEph s c sub v) := by
  unfold State.writeEph
  repeat' (first
    | with_reducible assumption | with_reducible apply State.modEph_keeps | with_reducible apply Keeps.ite
    | intro _ | refine Keeps.fst (by with_reducible assumption) ?_ | with_reducible rfl | exact rfl | dsimp only
    | split)

theorem State.writeModuleNumber_keeps {s0 : State} {s : State} (v : Nat) (hk : Keeps s0 s) :
    Keeps s0 (State.writeModuleNumber s v).1 := by
  unfold State.writeModuleNumber
  repeat' (first
    | with_reducible assumption | with_reducible apply State.retrain_keeps | with_reducible apply Keeps.ite
    | intro _ | with_reducible apply Keeps.foldl | with_reducible apply Keeps.foldl₁
    | refine Keeps.fst (by with_reducible assumption) ?_ | with_reducible rfl | exact rfl | dsimp only | split
    | with_reducible apply Keeps.upd)

theorem State.writeFabric_keeps {s0 : State} {s : State} (sub : Nat) (v : Cover) (n : Nat) (hk : Keeps s0 s) :
    Keeps s0 (State.writeFabric s sub v n).1 := by
  unfold State.writeFabric
  repeat' (first
    | with_reducible assumption | with_reducible apply State.writeModuleNumber_keeps
    | with_reducible apply Keeps.ite | intro _ | with_reducible apply Keeps.foldl
    | with_reducible apply Keeps.foldl₁ | refine Keeps.fst (by with_reducible assumption) ?_ | with_reducible rfl
    | exact rfl | dsimp only | split | with_reducible apply Keeps.upd)

theorem State.modCtxFab_keeps {s0 : State} {s : State} (c : Slot) (f : CtxFabric → CtxFabric) (hk : Keeps s0 s) :
    Keeps s0 (State.modCtxFab s c f) := by
  unfold State.modCtxFab
  repeat' (first
    | with_reducible assumption | with_reducible apply State.modCtx_keeps)

theorem State.writeCtxFabric_keeps {s0 : State} {s : State} (c : Slot) (sub : Nat) (v : Cover) (n : Nat)
    (hk : Keeps s0 s) :
    Keeps s0 (State.writeCtxFabric s c sub v n).1 := by
  unfold State.writeCtxFabric
  repeat' (first
    | with_reducible assumption | with_reducible apply State.modCtxFab_keeps | with_reducible apply Keeps.ite
    | intro _ | refine Keeps.fst (by with_reducible assumption) ?_ | with_reducible rfl | exact rfl | dsimp only
    | split)

theorem State.writeTransport_keeps {s0 : State} {s : State} (sub : Nat) (v : Cover) (n : Nat) (hk : Keeps s0 s) :
    Keeps s0 (State.writeTransport s sub v n) := by
  unfold State.writeTransport
  repeat' (first
    | with_reducible assumption | with_reducible apply State.modCat_keeps)

theorem State.writeLog_keeps {s0 : State} {s : State} (ch : Channel) (sub n : Nat) (hk : Keeps s0 s) :
    Keeps s0 (State.writeLog s ch sub n).1 := by
  unfold State.writeLog
  repeat' (first
    | with_reducible assumption | with_reducible apply State.modChan_keeps
    | with_reducible apply State.clearLog_keeps | with_reducible apply Keeps.ite | intro _
    | refine Keeps.fst (by with_reducible assumption) ?_ | with_reducible rfl | exact rfl | dsimp only | split)

theorem State.operatorExtend_keeps {s0 : State} {s : State} (v : Cover) (hk : Keeps s0 s) :
    Keeps s0 (State.operatorExtend s v) := by
  unfold State.operatorExtend
  repeat' (first
    | with_reducible assumption | with_reducible apply State.drawBytes_keeps
    | with_reducible apply State.extend_keeps | with_reducible apply Keeps.ite | intro _
    | refine Keeps.fst (by with_reducible assumption) ?_ | with_reducible rfl | exact rfl | dsimp only | split)

theorem State.writeSecurity_keeps {s0 : State} {s : State} (ch : Channel) (r : Row) (v : Cover) (b : Bytes)
    (n : Nat) (hk : Keeps s0 s) :
    Keeps s0 (State.writeSecurity s ch r v b n).1 := by
  unfold State.writeSecurity
  repeat' (first
    | with_reducible assumption | with_reducible apply State.raiseRollback_keeps
    | with_reducible apply State.operatorExtend_keeps | with_reducible apply State.attestRequest_keeps
    | with_reducible apply State.writeTokenKey_keeps | with_reducible apply State.stageRequest_keeps
    | with_reducible apply Keeps.ite | intro _ | refine Keeps.fst (by with_reducible assumption) ?_
    | with_reducible rfl | exact rfl | dsimp only | split)

theorem State.writeRequest_keeps {s0 : State} {s : State} (ch : Channel) (r : Row) (u : Nat) (b : Bytes) (n : Nat)
    (hk : Keeps s0 s) :
    Keeps s0 (State.writeRequest s ch r u b n).1 := by
  unfold State.writeRequest
  repeat' (first
    | with_reducible assumption | with_reducible apply State.writeFloor_keeps
    | with_reducible apply State.poolRequest_keeps | with_reducible apply State.pinNew_keeps
    | with_reducible apply State.slotRequest_keeps | with_reducible apply State.rebindRequest_keeps
    | with_reducible apply State.repairRequest_keeps | with_reducible apply State.modRes_keeps
    | with_reducible apply State.replayRequest_keeps | with_reducible apply State.snapshotRequest_keeps
    | with_reducible apply Keeps.ite | intro _ | refine Keeps.fst (by with_reducible assumption) ?_
    | with_reducible rfl | exact rfl | dsimp only | split)

theorem State.applyWrite_keeps {s0 : State} {s : State} (ch : Channel) (r : Row) (index : Nat) (v : Cover)
    (hk : Keeps s0 s) :
    Keeps s0 (State.applyWrite s ch r index v).1 := by
  unfold State.applyWrite
  repeat' (first
    | with_reducible assumption | with_reducible apply State.clearCorrections_keeps
    | with_reducible apply State.writeCap_keeps | with_reducible apply State.writePoint_keeps
    | with_reducible apply State.writeEnvelope_keeps | with_reducible apply State.modCtx_keeps
    | with_reducible apply State.writeSlotRing_keeps | with_reducible apply State.writePfRing_keeps
    | with_reducible apply State.writeMeridian_keeps | with_reducible apply State.writeEph_keeps
    | with_reducible apply State.appendModuleEntry_keeps | with_reducible apply State.modModRing_keeps
    | with_reducible apply State.writeFabric_keeps | with_reducible apply State.writeCtxFabric_keeps
    | with_reducible apply State.writeTransport_keeps | with_reducible apply State.writeLog_keeps
    | with_reducible apply State.writeCorrection_keeps | with_reducible apply State.writeSecurity_keeps
    | with_reducible apply State.writeRequest_keeps | with_reducible apply Keeps.ite | intro _
    | refine Keeps.fst (by with_reducible assumption) ?_ | with_reducible rfl | exact rfl | dsimp only | split
    | with_reducible apply Keeps.upd)

/-! ### `Requests` -/

theorem State.refuseRws_keeps {s0 : State} {s : State} (q : Request) (hk : Keeps s0 s) :
    Keeps s0 (State.refuseRws s q) := by
  unfold State.refuseRws
  repeat' (first
    | with_reducible assumption | with_reducible apply State.modChan_keeps | with_reducible apply State.raise_keeps
    | with_reducible apply State.event_keeps | with_reducible apply Keeps.ite | intro _)

theorem State.readReq_keeps {s0 : State} {s : State} (q : Request) (hk : Keeps s0 s) :
    Keeps s0 (State.readReq s q).1 := by
  unfold State.readReq
  repeat' (first
    | with_reducible assumption | with_reducible apply State.readValue_keeps | with_reducible apply Keeps.ite
    | intro _ | refine Keeps.fst (by with_reducible assumption) ?_ | with_reducible rfl | exact rfl | dsimp only
    | split)

theorem State.describeReq_keeps {s0 : State} {s : State} (q : Request) (hk : Keeps s0 s) :
    Keeps s0 (State.describeReq s q).1 := by
  unfold State.describeReq
  repeat' (first
    | with_reducible assumption | with_reducible apply State.describe_keeps | with_reducible apply Keeps.ite
    | intro _ | refine Keeps.fst (by with_reducible assumption) ?_ | with_reducible rfl | exact rfl | dsimp only
    | split)

theorem State.stage_keeps {s0 : State} {s : State} (q : Request) (hk : Keeps s0 s) :
    Keeps s0 (State.stage s q) := by
  unfold State.stage
  repeat' (first
    | with_reducible assumption | with_reducible apply State.modChan_keeps)

theorem State.unstage_keeps {s0 : State} {s : State} (q : Request) (hk : Keeps s0 s) :
    Keeps s0 (State.unstage s q) := by
  unfold State.unstage
  repeat' (first
    | with_reducible assumption | with_reducible apply State.modChan_keeps)

theorem State.recordRws_keeps {s0 : State} {s : State} (q : Request) (r : Row) (token : U64) (hk : Keeps s0 s) :
    Keeps s0 (State.recordRws s q r token) := by
  unfold State.recordRws
  repeat' (first
    | with_reducible assumption | with_reducible apply State.raise_keeps | with_reducible apply State.event_keeps
    | with_reducible apply Keeps.ite | intro _)

theorem State.complete_keeps {s0 : State} {s : State} (q : Request) (r : Row) (token : U64) (v : Cover)
    (hk : Keeps s0 s) :
    Keeps s0 (State.complete s q r token v).1 := by
  unfold State.complete
  repeat' (first
    | with_reducible assumption | with_reducible apply State.recordRws_keeps
    | with_reducible apply State.applyWrite_keeps | with_reducible apply Keeps.ite | intro _
    | refine Keeps.fst (by with_reducible assumption) ?_ | with_reducible rfl | exact rfl | dsimp only | split)

theorem State.writeEntry_keeps {s0 : State} {s : State} (q : Request) (r : Row) (token : U64) (hk : Keeps s0 s) :
    Keeps s0 (State.writeEntry s q r token).1 := by
  unfold State.writeEntry
  repeat' (first
    | with_reducible assumption | with_reducible apply State.unstage_keeps | with_reducible apply State.stage_keeps
    | with_reducible apply State.complete_keeps | with_reducible apply Keeps.ite | intro _
    | refine Keeps.fst (by with_reducible assumption) ?_ | with_reducible rfl | exact rfl | dsimp only | split)

theorem State.writeReq_keeps {s0 : State} {s : State} (q : Request) (hk : Keeps s0 s) :
    Keeps s0 (State.writeReq s q).1 := by
  unfold State.writeReq
  repeat' (first
    | with_reducible assumption | with_reducible apply State.refuseRws_keeps
    | with_reducible apply State.writeEntry_keeps | with_reducible apply Keeps.ite | intro _
    | refine Keeps.fst (by with_reducible assumption) ?_ | with_reducible rfl | exact rfl | dsimp only | split)

theorem State.authoriseReq_keeps {s0 : State} {s : State} (q : Request) (hk : Keeps s0 s) :
    Keeps s0 (State.authoriseReq s q).1 := by
  unfold State.authoriseReq
  repeat' (first
    | with_reducible assumption | with_reducible apply State.stage_keeps | with_reducible apply State.unstage_keeps
    | with_reducible apply State.authorise_keeps | with_reducible apply Keeps.ite | intro _
    | refine Keeps.fst (by with_reducible assumption) ?_ | with_reducible rfl | exact rfl | dsimp only | split)

theorem State.subscribe_keeps {s0 : State} {s : State} (ch : Channel) (sev : U8) (hk : Keeps s0 s) :
    Keeps s0 (State.subscribe s ch sev).1 := by
  unfold State.subscribe
  repeat' (first
    | with_reducible assumption | with_reducible apply State.modCat_keeps | with_reducible apply Keeps.ite
    | intro _ | refine Keeps.fst (by with_reducible assumption) ?_ | with_reducible rfl | exact rfl | dsimp only
    | split)

theorem State.subscribeReq_keeps {s0 : State} {s : State} (q : Request) (hk : Keeps s0 s) :
    Keeps s0 (State.subscribeReq s q).1 := by
  unfold State.subscribeReq
  repeat' (first
    | with_reducible assumption | with_reducible apply State.subscribe_keeps | with_reducible apply Keeps.ite
    | intro _ | refine Keeps.fst (by with_reducible assumption) ?_ | with_reducible rfl | exact rfl | dsimp only
    | split)

theorem State.answer_keeps {s0 : State} {s : State} (q : Request) (hk : Keeps s0 s) :
    Keeps s0 (State.answer s q).1 := by
  unfold State.answer
  repeat' (first
    | with_reducible assumption | with_reducible apply State.readReq_keeps
    | with_reducible apply State.writeReq_keeps | with_reducible apply State.describeReq_keeps
    | with_reducible apply State.authoriseReq_keeps | with_reducible apply State.subscribeReq_keeps
    | with_reducible apply Keeps.ite | intro _ | refine Keeps.fst (by with_reducible assumption) ?_
    | with_reducible rfl | exact rfl | dsimp only | split)

theorem State.sendReply_keeps {s0 : State} {s : State} (q : Request) (b : Bytes) (hk : Keeps s0 s) :
    Keeps s0 (State.sendReply s q b) := by
  unfold State.sendReply
  repeat' (first
    | with_reducible assumption | with_reducible apply State.modMailbox_keeps
    | with_reducible apply State.emit_keeps | with_reducible apply State.mgmtPacket_keeps
    | with_reducible apply Keeps.ite | intro _ | refine Keeps.fst (by with_reducible assumption) ?_
    | with_reducible rfl | exact rfl | dsimp only | split)

theorem State.respond_keeps {s0 : State} {s : State} (q : Request) (a : Reply) (hk : Keeps s0 s) :
    Keeps s0 (State.respond s q a) := by
  unfold State.respond
  repeat' (first
    | with_reducible assumption | with_reducible apply State.sendReply_keeps
    | with_reducible apply State.modCat_keeps | with_reducible apply Keeps.ite | intro _)

theorem State.serve_keeps {s0 : State} {s : State} (q : Request) (f : Option StartFindings) (hk : Keeps s0 s) :
    Keeps s0 (State.serve s q f) := by
  unfold State.serve
  repeat' (first
    | with_reducible assumption | with_reducible apply State.modCat_keeps
    | with_reducible apply State.sendReply_keeps | with_reducible apply State.answer_keeps
    | with_reducible apply State.respond_keeps | with_reducible apply State.moduleReset_keeps
    | with_reducible apply State.recoverWith_keeps | with_reducible apply Keeps.ite | intro _
    | refine Keeps.fst (by with_reducible assumption) ?_ | with_reducible rfl | exact rfl | dsimp only | split)

theorem State.serveIf_keeps {s0 : State} {s : State} (f : Option StartFindings) (is : Request → Bool)
    (hk : Keeps s0 s) :
    Keeps s0 (State.serveIf s f is) := by
  unfold State.serveIf
  repeat' (first
    | with_reducible assumption | with_reducible apply State.serve_keeps | with_reducible apply Keeps.ite | intro _
    | refine Keeps.fst (by with_reducible assumption) ?_ | with_reducible rfl | exact rfl | dsimp only | split)

theorem State.serveWrite_keeps {s0 : State} {s : State} (base n : Nat) (sub : Nat → Bool) (hk : Keeps s0 s) :
    Keeps s0 (State.serveWrite s base n sub) := by
  unfold State.serveWrite
  repeat' (first
    | with_reducible assumption | with_reducible apply State.serveIf_keeps)

theorem State.serveAction_keeps {s0 : State} {s : State} (base n sub act : Nat) (f : Option StartFindings)
    (hk : Keeps s0 s) :
    Keeps s0 (State.serveAction s base n sub act f) := by
  unfold State.serveAction
  repeat' (first
    | with_reducible assumption | with_reducible apply State.serveIf_keeps)

/-! ### `Transports` -/

theorem State.enqueue_keeps {s0 : State} {s : State} (q : Request) (hk : Keeps s0 s) :
    Keeps s0 (State.enqueue s q) := by
  unfold State.enqueue
  repeat' (first
    | with_reducible assumption | with_reducible apply State.modCat_keeps)

theorem State.discardMessage_keeps {s0 : State} {s : State} (hk : Keeps s0 s) :
    Keeps s0 (State.discardMessage s) := by
  unfold State.discardMessage
  repeat' (first
    | with_reducible assumption | with_reducible apply State.modCat_keeps)

theorem State.setArea_keeps {s0 : State} {s : State} (f : Func) (b : Bytes) (hk : Keeps s0 s) :
    Keeps s0 (State.setArea s f b) := by
  unfold State.setArea
  repeat' (first
    | with_reducible assumption | with_reducible apply State.modMailbox_keeps)

theorem State.mbGo_keeps {s0 : State} {s : State} (f : Func) (v : Nat) (hk : Keeps s0 s) :
    Keeps s0 (State.mbGo s f v) := by
  unfold State.mbGo
  repeat' (first
    | with_reducible assumption | with_reducible apply State.modMailbox_keeps
    | with_reducible apply State.enqueue_keeps | with_reducible apply Keeps.ite | intro _)

end Sys2Proof.Machine
end

