-- ==== Sys2Proof/Machine/Bar0.lean ====
section
/-! DEFINITION. What a function presents to the host (R295), and BAR0: what the host reads in it and what its writes
do (R297, R354). The table of commands has a row for two of its writes, MB_GO and MSIX_UNMASK, which act by the same
operations; the others are given here as operations of the state (DESIGN CHOICE, log entry 55). -/

namespace Sys2Proof.Machine

/-! ### What the functions present to the host's enumeration (R295) -/

/-- The class of the PF: processing accelerator. -/
def classCode : BitVec 24 := 0x120000

def deviceId : Func → U16
  | .pf => 0xD1C0
  | .vf _ => 0xD1C1

def totalVfs : Nat := 16
def firstVfOffset : Nat := 1
def vfStride : Nat := 1

/-- The function number: the PF is function 0, and the VF of slot c stands c strides after the first. -/
def funcNumber : Func → Nat
  | .pf => 0
  | .vf c => firstVfOffset + vfStride * c.val

/-- The Device Serial Number capability. -/
def deviceSerial : Bytes := (bvLe 16 Config.serial).take 8

/-! ### Reads -/

/-- Bytes of BAR0: 1 MiB of the PF, 64 KiB of a VF (R295). -/
def bar0Size : Func → Nat
  | .pf => 2 ^ 20
  | .vf _ => 2 ^ 16

/-- The identity block, the Meridian count and its state. -/
def State.bar0Head (s : State) (f : Func) : Bytes :=
  natLe 4 0x4B4C4448 ++ bvLe 4 s.firmwareRelease ++ natLe 1 s.sku.dies ++
    natLe 1 (match f with | .pf => 0xFF | .vf c => c.val) ++ zeros 54 ++ bvLe 8 s.meridianField ++ bvLe 1 s.mer.state

/-- MB_DONE. -/
def Mailbox.done (m : Mailbox) : Bytes := bvLe 2 m.doneSeq ++ natLe 1 (if m.busy then 1 else 0) ++ zeros 5

/-- An entry of the MSI-X table: message address, message data, vector control. (open points: PRESUMED, log entry 7) -/
def MsixVec.bytes (x : MsixVec) : Bytes := bvLe 8 x.addr ++ bvLe 4 x.data ++ natLe 4 (if x.masked then 1 else 0)

/-- The pending bits. -/
def State.pba (s : State) (f : Func) : Bytes :=
  natLe 8 (ofBits ((List.range (funcVectors f)).filter (fun v => (s.msixVec f v).pending)))

/-- The link block. -/
def HostLink.block (h : HostLink) : Bytes :=
  bvLe 2 h.rate ++ bvLe 1 h.width ++ bvLe 1 h.ltssm ++ bvLe 8 h.downs ++ bvLe 8 h.correctable ++ bvLe 8 h.bar2Refused

/-- One byte of BAR0; reserved space and MB_GO read zero. -/
def State.bar0Byte (s : State) (f : Func) (o : Nat) : Byte :=
  let m := s.mailbox f
  if o < 0x1000 then (s.bar0Head f).getD o 0
  else if o < 0x1FF8 then m.request.getD (o - 0x1000) 0
  else if o < 0x2000 then 0
  else if o < 0x2FF8 then m.response.getD (o - 0x2000) 0
  else if o < 0x3000 then m.done.getD (o - 0x2FF8) 0
  else if 0x4000 ≤ o && o < 0x4000 + 16 * funcVectors f then
    (s.msixVec f ((o - 0x4000) / 16)).bytes.getD ((o - 0x4000) % 16) 0
  else if 0x4800 ≤ o && o < 0x4808 then (s.pba f).getD (o - 0x4800) 0
  else if f == .pf && 0x8000 ≤ o && o < 0x8040 then s.host.block.getD (o - 0x8000) 0
  else 0

/-- The access sizes of BAR0; any other completes as Unsupported Request. -/
def bar0Access (f : Func) (off n : Nat) : Bool := (n == 4 || n == 8) && off + n ≤ bar0Size f

/-- A read of BAR0; `none`: Unsupported Request. Its bytes are of one instant, the Meridian count among them. -/
def State.bar0Read (s : State) (f : Func) (off n : Nat) : Option Bytes :=
  if s.bar0Open f && bar0Access f off n then some ((List.range n).map (fun i => s.bar0Byte f (off + i))) else none

/-! ### Writes -/

/-- A dword of a vector's entry is written. (open points: PRESUMED, log entry 7) -/
def State.writeVector (s : State) (f : Func) (v k : Nat) (w : U32) : State :=
  let x := s.msixVec f v
  match k with
  | 0 => s.setMsix f v { x with addr := x.addr.extractLsb' 32 32 ++ w }
  | 1 => s.setMsix f v { x with addr := w ++ x.addr.extractLsb' 0 32 }
  | 2 => s.setMsix f v { x with data := w }
  | _ => s.maskVector f v (w.getLsbD 0)

/-- One dword of BAR0 is written; what is read-only or reserved keeps its value. -/
def State.bar0Dword (s : State) (f : Func) (o : Nat) (b : Bytes) : State :=
  if 0x1000 ≤ o && o < 0x1FF8 then
    let m := padTo 4088 (s.mailbox f).request
    s.setArea f (m.take (o - 0x1000) ++ b ++ m.drop (o - 0x1000 + 4))
  else if 0x4000 ≤ o && o < 0x4000 + 16 * funcVectors f then
    s.writeVector f ((o - 0x4000) / 16) ((o - 0x4000) % 16 / 4) (fieldBv 32 b 0 4)
  else s

/-- A write of BAR0; one that BAR0 does not accept changes nothing. -/
def State.bar0Write (s : State) (f : Func) (off : Nat) (b : Bytes) : State :=
  if !(s.bar0Open f && bar0Access f off b.length && off % 4 == 0) then s
  else if off = 0x1FF8 then (if b.length = 8 then s.mbGo f (leNat b) else s)
  else (List.range (b.length / 4)).foldl (fun s k => s.bar0Dword f (off + 4 * k) (slice b (4 * k) 4)) s

end Sys2Proof.Machine
end

