-- ==== Sys2Proof/Tests/Slice0.lean ====
section
/-! SUPPORT. Tests: terms that WellFormed refuses, one step of each kind on small states, and for each statement with
hypotheses a state that meets them. -/

namespace Sys2Proof.Tests

open Sys2Proof Sys2Proof.Machine

set_option Elab.async false

/-! ### Helpers -/

/-- The state of an outcome; the reset state where there is none. -/
def nextOf (o : Host.Outcome State Fault Refusal) : State :=
  match o with
  | .next t => t
  | _ => State.reset

def isNext (o : Host.Outcome State Fault Refusal) : Bool :=
  match o with
  | .next _ => true
  | _ => false

/-- Coolant at its rating (R427), and coolant that flows too slowly. -/
def rated : Coolant := ⟨11000, 20000⟩
def slow : Coolant := ⟨10999, 45000⟩

def findings : StartFindings :=
  { coresFailed := [], diesFailed := [], positionsFailed := [], lanesFailed := [], ports := [], learnedFails := none,
    coolant := rated, torn := [], learned := [], phaseMs := List.replicate 7 0 }

def badFindings : StartFindings := { findings with phaseMs := List.replicate 6 0 }

def packet : Packet := { Packet.blank with kind := 0x10 }
def badPacket : Packet := { packet with data := [[1]] }
def longPacket : Packet := { packet with data := List.replicate 17 (zeros 64) }

def codeword : Codeword :=
  { uncorrectable := false, corrected := 0, seq := 0, llane := 0, beacon := false, bslot := 0,
    slots := List.replicate 10 (zeros 64) }

/-- The bytes of table entry i that are not zero: its base 0x201000 + 64 i, BOUND 1, dimensions 1 x cols, ROWDIMS 1, the
format, VALID, STRIDE 1. -/
def entryCells (i : Nat) : List Host.Cell :=
  let a := memKey 0 (pageBytes + 64 * i)
  let lo := (64 * i) % 256
  let cols : Byte := if i = 7 || i = 10 then 1 else 16
  let low : List Host.Cell := if lo = 0 then [] else [(a, BitVec.ofNat 8 lo)]
  low ++
  [(a + 1, BitVec.ofNat 8 (16 + 64 * i / 256)), (a + 2, 0x20), (a + 16, 1), (a + 24, 1), (a + 28, cols), (a + 32, 1),
   (a + 36, 1), (a + 40, 1), (a + 41, if i = 8 then 6 else 5), (a + 43, 1), (a + 44, 1)]

/-- Slot 0 bound to core group 0, with page 1 of its range in DDR5, a tensor table of eleven entries in it, and an FP32
tensor of 1 x 16 under each of the handles given, of 1 x 1 under 7 and 10, a mask under 8. -/
def baseWith (hs : List Nat) : State :=
  { State.reset with mem := hs.flatMap entryCells }.modCtx 0 (fun x =>
    { x with st := .bound, groups := 1, endpoints := 1
             stream := { x.stream with tblBase := 2097152, tblEntries := 11 }
             pool := { x.pool with pages := [(1, { Page.fresh .auto 0xFF with tier := .ddr 0, home := some 0 })] } })

def base : State := baseWith [1, 2, 3]

def hdr : DescHdr := { fence := false, complete := false, continue_ := false, layer := 0xFFFF, opId := 7 }

def listRec : ListRec :=
  { id := 0, tag := 0, programId := 0, count := 1, addr := 0, step := 0, endedAt := none, decided := none,
    silent := false, jpos := 0 }

/-- A waiting operation with number 0. -/
def opOf (d : Desc) : OpRec :=
  { n := 0, list := 0, hdr := hdr, desc := d, step := 0, st := .waiting, run := none, silent := false }

/-- The base state with one operation in the stream of slot 0. -/
def withOp (s : State) (o : OpRec) : State :=
  s.modStream 0 (fun x => { x with ops := [o], lists := [listRec], nextOp := 1, nextList := 1 })

def ref (h : U32) : OperandRef := .ofHandle h

def waitD (k : U8) : WaitD := { wkind := k, timeout := 0, value := 0, address := 2097152 }
def markD (f : U8) : MarkD := { mflags := f, tag := 3, value := 0x0102030405060708, address := 2101248 }
def copyD : CopyD := { count := 1, src := 1, dst := 2, srcOffset := 0, dstOffset := 0 }
def convertD : ConvertD := { round := 0, rows := 1, cols := 16, groupMask := 0, src := ref 1, dst := ref 2 }

def productD (k : U8) : ProductD :=
  { pkind := k, round := 0, noBlink := false, m := 1, n := 1, k := 16, groupMask := 0
    a := ref (if k = 0 then 1 else 7), b := ref 2, out := ref (if k = 0 then 10 else 3)
    init := .none, inMask := .none, outMask := .none, f1 := 0, f0 := 0, keepRows := .none, partials := .none }

def rowD (k : U8) : RowD :=
  { op := k, round := 0, length := 16, rows := 1, causalPeriod := 0, causalOffset := 0, eps := 0, alpha := one32
    groupMask := 0, x := ref 1, dy := ref 2, out := ref 3, gamma := ref 4, beta := ref 5, stats := ref 6
    inMask := .none, dparam := .none }

def vectorD (k : U8) : VectorD :=
  { func := k, round := 0, rows := 1, cols := 16, groupMask := 0, a := ref 1, b := ref 2, c := ref 3
    out := ref (if k = 0x30 || k = 0x31 then 7 else 4), outMask := .none
    params := if k = 0x40 then [5, 0, 0, 0, 0, 0, 0, 0] else List.replicate 8 0 }

/-- What `Begins` asks for, of operation 0 of slot 0. -/
def ready (s : State) (o : OpRec) (ranks : Nat) : Bool :=
  s.op? 0 0 == some o && s.mayStart 0 o &&
    (match s.startCheck 0 none o ((s.ctx 0).num.seedOf o.step).2.toNat ranks none with
     | .ok (some vs) => !s.opWaits 0 o.desc vs
     | _ => false)

/-- The handles an operation names, rising. -/
def handlesOf (d : Desc) : List Nat := (d.readIdx ++ d.writeIdx).foldl insertNat []

def stateOf (d : Desc) : State := withOp (baseWith (handlesOf d)) (opOf d)
def readyDesc (d : Desc) : Bool := ready (stateOf d) (opOf d) 0

/-- The status with which operation 0 of slot 0 completed. -/
def statusOf (s : State) : Option OpState := (s.op? 0 0).map (·.st)

/-! ### WellFormed: an ill-formed term for each check -/

theorem test_wf_accepts : (Instr.mbGo .pf 0 (zeros 4088)).wf = true ∧ (Instr.writePacket packet).wf = true ∧
    (Instr.bar2Read .pf 0 1).wf = true ∧ (Instr.codewordReceive 0 codeword).wf = true ∧
    (Instr.powerOn findings).wf = true := by decide +kernel
theorem test_wf_mbGo : (Instr.mbGo .pf 0 (zeros 4087)).wf = false := by decide +kernel
theorem test_wf_bar2 : (Instr.bar2Read .pf 0 0).wf = false ∧ (Instr.bar2Write .pf 0 []).wf = false ∧
    (Instr.bar2Read .pf 0 4097).wf = false ∧ (Instr.bar2Write .pf 0 (zeros 513)).wf = false := by decide +kernel
theorem test_wf_packets : ([.mgmtPacket badPacket, .writePacket badPacket, .addPacket badPacket, .collReady badPacket,
    .collData badPacket, .ack badPacket, .loss badPacket, .packetForward 0 badPacket, .writePacket longPacket] :
    List Instr).all (fun i => !i.wf) = true := by decide +kernel
theorem test_wf_codewords : ([{ codeword with slots := [] }, { codeword with slots := List.replicate 10 [1] },
    { codeword with slots := List.replicate 11 (zeros 64) }] : List Codeword).all
    (fun c => !(Instr.codewordReceive 0 c).wf) = true := by decide +kernel
theorem test_wf_findings : ([.dieReturn true badFindings 0, .powerOn badFindings, .warmModuleReset badFindings,
    .coldModuleReset badFindings, .recoveryImageWrite badFindings, .coolantStartHoldExpiry rated badFindings] :
    List Instr).all (fun i => !i.wf) = true := by decide +kernel
theorem test_no_word : decodeTableWord 32 5 = none := rfl

/-! ### The queue and the invariants -/

theorem witness_StepRunsTheFront : ({ base with pending := [.holdupReady, .read] } : State).pending =
    .holdupReady :: [.read] ∧ State.reset.pending = [] := ⟨rfl, rfl⟩
theorem witness_CommandsComplete : missingUnit State.reset (.codewordReceive 31 codeword) = false ∧
    missingUnit { State.reset with sku := .dk4 } (.codewordReceive 16 codeword) = true ∧
    missingUnit { State.reset with sku := .dk4 } (.codewordReceive 15 codeword) = false := by decide +kernel
theorem witness_StepFollows : ∃ t, step { base with pending := [.holdupReady] } = .next t ∧ t.pending = [] := ⟨_, rfl, rfl⟩
theorem witness_StepKeepsMemory : MemInv base ∧ ∃ t, step { base with pending := [.holdupReady] } = .next t := by
  refine ⟨by unfold MemInv; decide +kernel, _, rfl⟩
/-- Errors wait in two plates of page 1. -/
def flawed : State := { base with tiers := { base.tiers with
  latent := [(memKey 0 2097152, .hard), (memKey 0 2097216, .soft)] } }
theorem witness_StepKeepsMemory_latent : LatentInv flawed ∧ ∃ t, step { flawed with pending := [.holdupReady] } = .next t := by
  refine ⟨by unfold LatentInv LatentOk; decide +kernel, _, rfl⟩
theorem witness_StepKeepsEnvelopes : EnvelopeInv State.reset := by unfold EnvelopeInv; decide +kernel
/-- Page 1 is ordinary; page 2 shows an image. -/
def shownPage : State := base.modCtx 0 (fun x => { x with pool := { x.pool with pages :=
  x.pool.pages ++ [(2, { Page.fresh .auto 0xFF with mapped := some (3, 0) })] } })

theorem witness_StoreWritesItsBytes : MemInv base ∧ 2097152 + 8 ≤ rangeBytes ∧ rangeBytes - 1 < rangeBytes ∧
    base.readOnly 0 2097152 = false ∧ shownPage.readOnly 0 (2 * pageBytes) = true ∧ MemInv shownPage ∧
    shownPage.readOnly 0 (2 * pageBytes - 1) = false := by unfold MemInv; decide +kernel

/-! ### BAR2 -/

def linkUp : State := base.modHost (fun h => { h with up := true })

theorem witness_Bar2Reads : linkUp.bar2Ok .pf 0 64 maxRead = true ∧ linkUp.bar2Ok .pf (2 ^ 30 - 64) 64 maxRead = true ∧
    linkUp.bar2Ok .pf 0 4097 maxRead = false ∧ linkUp.windowFree .pf = false ∧
    linkUp.window .pf = (0, 0) ∧ 2097152 % pageBytes + 64 ≤ pageBytes ∧ linkUp.tiers.latent = [] ∧
    (linkUp.modCtx 0 (fun x => { x with st := .free })).windowFree .pf = true := by decide +kernel

theorem witness_Bar2Writes : linkUp.bar2Ok .pf 0 8 maxPayload = true ∧ linkUp.boot.life ≠ .stopped ∧ linkUp.windowFree .pf = false ∧ MemInv linkUp ∧
    (linkUp.ctx 0).usable 1 = true ∧ linkUp.lostPage 0 1 = false := by unfold MemInv; decide +kernel
/-- The identity block of BAR0 starts with its magic number; an access of 3 bytes is no access (R297). -/
theorem test_bar0 : linkUp.bar0Read .pf 0 4 = some [0x48, 0x44, 0x4C, 0x4B] ∧ linkUp.bar0Read .pf 0 3 = none ∧
    funcNumber (.vf 15) = totalVfs := by decide +kernel

/-! ### Numbers -/

theorem witness_OnlyCanonicalNaNs : isNan (fmaF true nan32 0 0).1 = true ∧ isNan (minF nan32 0) = true ∧
    isNan (sqrtF nan32).1 = true ∧ isNan (divF true 0 0).1 = true := by decide +kernel
/-- F4 1 is 0.5, B6 1, F8 1 and B8 1 the least subnormals; F8 7Fh and B8 7Ch are no finite values. -/
theorem witness_OnlyCanonicalNaNs_codes : (([(.f4, 1), (.f8, 1), (.b6, 1), (.b8, 1), (.f8, 0xFE)] : List (Fmt × Nat)).all (fun x =>
    x.1.scaled && decide (x.2 < 2 ^ x.1.bits) && !specialElCode x.1 x.2 && (x.1.parts x.2).1 != 0)) = true ∧
    specialElCode .f8 0x7F = true ∧ specialElCode .b8 0x7C = true ∧ isNan 0x7FC00001 = true ∧ (zeros 64).length = 64 := by
  decide +kernel
theorem witness_InvalidOperations : isFinite one32 = true ∧ isZero one32 = false ∧ isNan 0xBF800000 = false ∧
    ltF 0xBF800000 (zero32 true) = true ∧ isFinite 0x7F7FFFFF = true ∧ isFinite (FV.const (inf32 true)).1 = false := by
  decide +kernel
theorem witness_VectorFunctions : isNan one32 = false ∧ posF one32 = true ∧ posF 0x80000000 = false ∧
    maskBit one32 = true ∧ maskBit 0 = false ∧ isFinite (FV.const 0x3F000000).1 = true := by decide +kernel
theorem witness_SgdmSequence : isFinite one32 = true ∧ isFinite (FV.const 0x3F000000).1 = true := by decide +kernel
/-- A product too small to change 2^-126 sets inexact alone (R76). -/
theorem test_acc_keeps : accAdd 0x00800000 (.fin (-1) (-150)) = (0x00800000, { Fl.none with inx := true }) := by decide +kernel
/-- 1.0 + 2^-24 is a tie and goes to even; 1.0 + 3 × 2^-24 goes up (R149). -/
theorem test_add_ties : (addF true one32 0x33800000).1 = one32 ∧ (addF true one32 0x34400000).1 = 0x3F800002 := by
  decide +kernel
/-- 3 / 2 = 1.5 and sqrt 4 = 2 exactly; the root of the least subnormal, 2^-74.5, has the significand 11863283 (R149).
-/
theorem test_div_sqrt : divF true 0x40400000 0x40000000 = (0x3FC00000, Fl.none) ∧ (sqrtF 0x40800000).1 = 0x40000000 ∧
    (sqrtF 0x00000001).1 = 0x1A3504F3 := by
  decide +kernel

/-! ### The catalogue -/

/-- A request of the PF for an entry, with its value. -/
def ask (op : U8) (index : U16) (sub : U8) (v : Bytes) (len : Nat) : Request :=
  { ch := .pf, version := 1, op := op, seq := 5, index := index, sub := sub, more := false,
    length := BitVec.ofNat 32 len, offset := 0, value := v, replyTo := 0 }

def asked (s : State) (q : Request) : State := s.modCat (fun k => { k with requests := [q] })

def auth9 : Auth :=
  { tokenId := 9, scopes := [(0, 0xFFFF)], keySlot := 1, notAfter := 0xFFFFFFFFFFFFFFFF, expires := 2 ^ 60, token := [] }

/-- The PF channel holds an authorisation for every index. -/
def authorised (s : State) : State :=
  s.modChan .pf (fun x => { x with auth := some auth9 })

theorem witness_HighestSub : State.reset.sku.rowsAt 0x7000 ≠ [] ∧ (ask 1 0x1001 0 [] 1).version = 1 ∧
    State.reset.sku.rowsAt 0x1234 = [] ∧ (∀ x ∈ State.reset.sku.rowsAt 0x7000, x.sub ≠ 0xF0) := by decide +kernel

theorem witness_RequestsAnswered : ([ask 1 0x7000 1 [] 1, ask 3 0x7000 1 [] 0, ask 4 0 0 [] 0, ask 5 0 0 [3, 1] 2,
    ask 6 0x1000 0 [] 0, ask 1 0x9000 6 [] 128].all (fun q => (asked base q).serves q && q.version == 1)) = true ∧
    (ask 1 0x9000 6 [] 128).index = 0x9000 := by decide +kernel

/-- The row of an entry. -/
def rowAt (i k : Nat) : Row := (Sku.dk8.row? i k).getD (.mk 0 .one 0 "" 0 0 0 0 none 0)

theorem witness_ReadGivesTheValue : Sku.dk8.row? 0x7000 2 = some (rowAt 0x7000 2) ∧
    base.readAllowed (ask 1 0x7000 2 [] 1) (rowAt 0x7000 2) = true ∧
    lengthStatus .pf false 1 1 0 = none ∧ (rowAt 0x7000 2).scalar = true ∧
    base.valueOf .pf (rowAt 0x7000 2) 0x7000 0 1 = some [2] := by decide +kernel

/-- A STR, a RECORD and a BLOB, and the records from the Logbook. -/
def partReadable (q : Request) : Bool :=
  let r := rowAt q.index.toNat q.sub.toNat
  base.readAllowed q r && lengthStatus .pf false r.size q.length.toNat q.offset.toNat == none && !r.scalar &&
    (base.valueOf .pf r q.index.toNat q.offset.toNat q.length.toNat).isSome

theorem witness_ReadGivesTheValue_parts :
    [ask 1 0x1000 2 [] 16, ask 1 0x6150 13 [] 32, ask 1 0xA030 3 [] 64].map partReadable = [true, true, true] ∧
    ((rowAt 0x1000 2).typ, (rowAt 0x6150 13).typ, (rowAt 0xA030 3).typ) = (7, 9, 8) ∧
    (let q := ask 1 0x9000 6 [] 128; base.readAllowed q (rowAt 0x9000 6) = true ∧
      lengthStatus .pf false (rowAt 0x9000 6).size 128 0 = none ∧ q.offset = 0 ∧ 128 ≤ q.length.toNat) := by decide +kernel

/-- A request that is served, accepted and takes effect. -/
def accepted (s : State) (q : Request) (token : U64) : Bool :=
  (asked s q).serves q && (asked s q).accepts q (rowAt q.index.toNat q.sub.toNat) token &&
    (((asked s q).written q (rowAt q.index.toNat q.sub.toNat) token).2 == St.ok)

/-- The module is the Meridian's root. -/
def rooted : State := base.modMer (fun m => { m with role := 1 })

/-- A WRITE of a whole value. -/
def w (i : U16) (k : U8) (v : Bytes) : Request := ask 2 i k v v.length
def rec32 (b : Bytes) : Bytes := padTo 32 b
def rec16 (b : Bytes) : Bytes := padTo 16 b

/-- The row `i` serves the request, which is accepted. -/
def served (i : Instr) (s : State) (q : Request) (token : U64) : Bool :=
  (match writeRow i with
   | some is => is (asked s q) q
   | none => false) && accepted s q token

def A : State := authorised base

theorem witness_WritesAccepted_settings :
    (served .write base (w 0x3000 2 (natLe 4 9000000)) 0 && served .moduleEntry base (w 0x7200 2 (zeros 64)) 0 &&
    served .ephemerisBaseWrite base (w 0x7100 1 (natLe 8 2097152)) 0 && served .tickCodeWrite rooted (w 0x7000 2 [6]) 0 &&
    served .meridianRoleWrite base (w 0x7000 1 [2]) 0 && served .floorWrite base (w 0x5100 1 (natLe 4 5)) 0 &&
    served .watchFlagsClear base (w 0x4400 1 (zeros 64)) 0 &&
    served .submitRingBaseWrite base (w 0x6160 1 (natLe 8 2097152)) 0 &&
    served .groupTableBaseWrite base (w 0x8100 1 (natLe 8 2097152)) 0 &&
    served .moduleNumberWrite State.reset (w 0x8000 6 (natLe 4 5)) 0 &&
    served .routeTableWrite base (w 0x8000 2 [7, 7]) 0 && served .perfPointWrite base (w 0x3100 2 [1]) 0 &&
    served .envelopeWrite base (w 0x3100 4 (natLe 4 20000)) 0 &&
    served .modulePowerCapWrite base (w 0x3000 2 (natLe 4 9000000)) 0 &&
    served .attestRequest base (w 0xA030 1 (zeros 72)) 0 && served .operatorExtend base (w 0xA020 10 (zeros 64)) 0) = true := by
  decide +kernel

theorem witness_WritesAccepted_authorised :
    (served .userCorrectionWrite A (w 0x2800 1 (zeros 16)) 9 && served .clearUserCorrections A (w 0x2C00 1 [1]) 9 &&
    served .clearLearnedCorrections A (w 0x2C00 1 [2]) 9 && served .clearAllCorrections A (w 0x2C00 1 [3]) 9 &&
    served .authorityKeyWrite A (w 0xA040 1 (zeros 64)) 9 && served .rollbackRaise A (w 0xA000 2 (zeros 4)) 9 &&
    served .logbookClear A (w 0x9000 13 [1]) 9) = true := by decide +kernel

/-- An image is staged: 64 zero bytes but its release, 3.2.0. -/
def stagedF (s : State) : State :=
  { s with boot := { s.boot with staged := some (zeros 8 ++ natLe 4 0x03020000), stageStatus := { s.boot.stageStatus with state := 2 } } }

theorem witness_WritesAccepted_firmware :
    (served .stage A (w 0xA050 2 (rec32 ([1, 0, 0, 0, 0, 0, 0, 0] ++ natLe 8 2097152 ++ natLe 4 4096))) 9 &&
    served .installAll (stagedF A) (w 0xA050 2 (rec32 [2])) 9 && served .discard (stagedF A) (w 0xA050 2 (rec32 [3])) 9 &&
    served .firmware (stagedF base) (w 0x6000 6 (rec16 [1, 0, 255, 0, 1, 0])) 0 &&
    served .coreSpare base (w 0x6000 6 (rec16 [2, 0, 255, 63, 1, 0])) 0 &&
    served .ddrRetire base (w 0x6000 6 (rec16 [3, 0, 255, 4, 1, 0])) 0 &&
    served .laneSpare base (w 0x6000 6 (rec16 [4, 0, 255, 31, 1, 0])) 0) = true := by decide +kernel

def image0 : Image :=
  { id := 3, owner := 0, dies := 8, mode := 0, step := 0, seed := 0, meridian := 0, bytes := 4096, firmware := 0,
    committed := true, pages := 1, sections := [], data := [], left := [], bad := none }
def withImage : State := { base with images := [image0] }

/-- The header of an image without sections at the start of page 2. -/
def withHeader : State :=
  (base.modCtx 0 (fun x => { x with pool := { x.pool with pages :=
    x.pool.pages ++ [(2, { Page.fresh .auto 0xFF with tier := .ddr 0, home := some 0 })] } })).store 0 (2 * pageBytes)
    [0x44, 0x4B, 0x53, 0x4E, 1, 0]

def closedEntry : JEntry :=
  { step := 2, meridian := 0, seed := 0, mode := 0, context := 0, addr := 2097152, room := 4096, closed := true,
    truncated := false, lists := [], scales := [], inputs := [], written := [] }
def journalled : State := base.modTrain 0 (fun t => { t with journal := [closedEntry] })

theorem witness_WritesAccepted_training :
    (served .take base (w 0x6150 12 (rec32 [1, 0, 0, 0, 9])) 0 &&
    served .restore withImage (w 0x6150 12 (rec32 [2, 0, 0, 0, 3])) 0 &&
    served .delete withImage (w 0x6150 12 (rec32 [3, 0, 0, 0, 3])) 0 &&
    served .map withImage (w 0x6150 12 (rec32 ([4, 0, 0, 0, 3, 0, 0, 0] ++ natLe 8 (2 * pageBytes)))) 0 &&
    served .importImage withHeader (w 0x6150 12 (rec32 ([5, 0, 0, 0, 3, 0, 0, 0] ++ natLe 8 (2 * pageBytes) ++ natLe 8 64))) 0 &&
    served .replayRequest journalled (w 0x6150 8 (rec32 (natLe 8 2 ++ natLe 8 2097152 ++ natLe 4 64))) 0) = true := by
  decide +kernel

/-- Plan 0 assigns core group 0 of die 0 to slot 0. -/
def plan0 : Bytes := natLe 16 1 ++ [1, 0, 0, 0, 1] ++ zeros 251
def planned (s : State) : State := s.modRes (fun r => { r with plans := [(0, plan0)] })
def paused : State := base.modCtx 0 (fun x => { x with st := .paused })

theorem witness_WritesAccepted_slots :
    (served .alloc base (w 0x5100 8 (rec32 ([1, 0, 255, 0] ++ natLe 4 1 ++ natLe 8 (2 * pageBytes)))) 0 &&
    served .free base (w 0x5100 8 (rec32 ([2, 0, 255, 0] ++ natLe 4 1 ++ natLe 8 pageBytes))) 0 &&
    served .setClass base (w 0x5100 8 (rec32 ([3, 3, 255, 0] ++ natLe 4 1 ++ natLe 8 pageBytes))) 0 &&
    served .bind (planned State.reset) (w 0x6000 2 (rec16 [1, 0, 0])) 0 && served .release base (w 0x6000 2 (rec16 [2, 0, 0])) 0 &&
    served .pause base (w 0x6000 2 (rec16 [3, 0, 0])) 0 && served .resume paused (w 0x6000 2 (rec16 [4, 0, 0])) 0 &&
    served .rebindRequest (planned base) (w 0x6000 4 [0]) 0) = true := by decide +kernel

/-- The module is in recovery, and the recovery image comes over the management port. -/
def recovering : State := { base with boot := { base.boot with life := .recovery } }
def recoveryReq : Request := { w 0xA050 7 (zeros 64) with ch := .mgmt 1 2 }

theorem witness_ResetsStart : accepted A (w 0xA050 1 [1]) 9 = true ∧ accepted A (w 0xA050 1 [2]) 9 = true ∧
    (asked A (w 0xA050 1 [1])).action (w 0xA050 1 [1]) = 1 ∧ (asked A (w 0xA050 1 [2])).action (w 0xA050 1 [2]) = 2 ∧
    leNat (((asked A (w 0xA050 1 [2])).popped.gather (w 0xA050 1 [2])).into (zeros 1)) = 2 ∧
    (asked recovering recoveryReq).serves recoveryReq = true ∧
    (asked recovering recoveryReq).accepts recoveryReq (rowAt 0xA050 7) 0 = true := by decide +kernel

theorem witness_WrittenReadsBack : rowAt 0x7000 2 ∈ catRows ∧ (rowAt 0x7000 2).at .dk8 0x7000 = true ∧
    (rowAt 0x7000 2).scalar = true ∧ (rowAt 0x7000 2).acc = 1 ∧ (rowAt 0x7000 2).shapeOk (coverAt 0 [3]) = true ∧
    base.scalarCheck (rowAt 0x7000 2) 0x7000 3 = none ∧ (base.applyWrite .pf (rowAt 0x7000 2) 0x7000 (coverAt 0 [3])).2 = St.ok := by
  decide +kernel

theorem witness_RwsNeedsAuthorisation : (asked base (ask 2 0xA050 1 [1] 1)).serves (ask 2 0xA050 1 [1] 1) = true ∧
    (rowAt 0xA050 1).acc = 3 ∧
    (asked base (ask 2 0xA050 1 [1] 1)).popped.writeAllowed (ask 2 0xA050 1 [1] 1) (rowAt 0xA050 1) = true ∧
    (asked base (ask 2 0xA050 1 [1] 1)).popped.signedBy .pf (rowAt 0xA050 1) 0xA050 = none ∧
    (asked base (ask 2 0xA050 1 [1] 1)).log.queue.length < 256 := by decide +kernel

/-- A MGMT packet of a die of this module, with a READ in it. -/
def mgmt : Packet :=
  { Packet.blank with kind := 0x40, data := [padTo 64 ([1, 1, 5, 0] ++ natLe 2 0x7000 ++ [1, 0] ++ zeros 4 ++ natLe 4 1)] }

def numbered (s : State) : State := { s with fab := { s.fab with moduleNumber := 0 } }

theorem witness_RequestsArrive : linkUp.boot.life.hasLink = true ∧ linkUp.hasFunc .pf = true ∧
    (linkUp.mailbox .pf).busy = false ∧ linkUp.mailboxServes .pf = true ∧ linkUp.mailboxServes (.vf 0) = false ∧
    (numbered linkUp).mailboxServes (.vf 0) = true ∧ (zeros 4088).length = 4088 ∧ field (zeros 4088) 2 2 = (0 : U16).toNat ∧ base.cat.admits 1 = true ∧ base.cat.heldMgmt = 0 ∧
    (numbered base).isMine mgmt.dest = true ∧ ((numbered base).takeArrived mgmt).reaches mgmt.src = true ∧
    destDie mgmt.dest = 0 ∧ mgmt.kind = 0x40 := by decide +kernel

def staged0 : Staged := { op := 2, index := 0, sub := 0, bytes := [] }

theorem witness_ChannelExpiries : ((base.modChan .pf (fun x => { x with staged := some staged0 })).chan .pf).staged.isSome = true ∧ isMailbox (.mgmt 1 2) = false ∧
    ((base.modChan .pf (fun x => { x with auth := some { auth9 with expires := 0 } })).chan .pf).auth.isSome = true ∧
    (base.modChan .pf (fun x => { x with auth := some { auth9 with expires := 0 } })).authFor .pf = none := by decide +kernel

theorem witness_SlotRequests : slotByte (fieldBv 8 (natLe 16 0) 1 1) = some 0 ∧ (base.ctx 0).st = .bound ∧
    (State.reset.ctx 0).st = .free ∧
    ((planned State.reset).bindSlot 0 0).2 = St.ok ∧
    (paused.ctx 0).st = .paused := by decide +kernel

def allocReq (addr : Nat) : PoolReq := { action := 1, cls := 0, hint := 0xFF, pages := 1, addr := addr, seq := 4 }

theorem witness_PoolRequests : (base.poolRequest 0 (allocReq (2 * pageBytes))).2 = St.ok ∧
    (base.poolRequest 0 (allocReq pageBytes)).2 ≠ St.ok := by decide +kernel

/-! ### Frames -/

theorem witness_QuietFrame : quietRow .holdupReady = true ∧ MemInv base ∧ isNext (exec .holdupReady base) = true ∧
    quietRow (.linkAcknowledgement 31) = true := by
  refine ⟨rfl, ?_, rfl, rfl⟩
  unfold MemInv; decide +kernel

theorem witness_OperationFrame : localRow (.convert 0 0) = true ∧ MemInv (stateOf (.convert convertD)) ∧
    isNext (exec (.convert 0 0) (stateOf (.convert convertD))) = true := by
  refine ⟨rfl, ?_, by decide +kernel⟩
  unfold MemInv; decide +kernel

/-! ### Meridian and Ephemeris -/

/-- A follower that holds the count, at 100, with its root's at 99 or 100. -/
def follower (d : U64) : State :=
  base.modMer (fun m => { m with role := 0, state := 1, count := 100, domain := some d })

theorem witness_CountNeverFalls : base.boot.life.hasLink = true ∧ recovering.boot.life.hasLink = false ∧
    (follower 99).mer.state = 1 ∧ (follower 99).mer.domain = some 99 ∧ (follower 99).mer.next = (100, false) ∧
    (follower 100).mer.next = (101, true) ∧ rooted.mer.role = 1 ∧
    (rooted.modMer (fun m => { m with count := 0xFFFFFFFFFFFFFFFE })).mer.next.1 = 0xFFFFFFFFFFFFFFFF := by decide +kernel

def ephEntry (k : U8) (args : List U64) : EphEntry := { target := 5, kind := k, eflags := 0, tag := 9, args := args }
def dueOf (r : Ring) (k : U8) (args : List U64) : DueEntry :=
  { ring := r, pos := 0, entry := ephEntry k args, at_ := 5, lateness := 0, missed := false, blocks := [],
    ms := 0, energy := 0, seed := 11, mode := 1 }
def withDue (d : DueEntry) : State := { base with due := [d] }

/-- A phase entry: a MARK whose ARG 0 is 1 (R214). -/
def phaseDue : DueEntry := dueOf (.ctx 0) 7 [1, 3]

theorem witness_DueEntriesAct :
    ([(Instr.startStep, 1), (.ramp, 3), (.snapshot, 4), (.rebind, 5), (.sample, 6), (.ephemerisMark, 7)].all (fun x =>
      match actRow x.1 with
      | some (mine, _) => mine (dueOf (.ctx 0) x.2 [])
      | none => false)) = true ∧ (withDue (dueOf (.ctx 0) 1 [7])).due = dueOf (.ctx 0) 1 [7] :: [] ∧
    (withDue (dueOf (.ctx 0) 1 [7])).dueWaits (dueOf (.ctx 0) 1 [7]) = false ∧
    (withDue (dueOf (.ctx 0) 1 [7])).nextDue = some (dueOf (.ctx 0) 1 [7], []) ∧
    phaseDue.entry.isPhase = true := by decide +kernel

theorem witness_StartStepOpens : (withDue (dueOf (.ctx 0) 1 [7, 3])).nextDue = some (dueOf (.ctx 0) 1 [7, 3], []) ∧
    (dueOf (.ctx 0) 1 [7, 3]).entry.kind = 1 ∧ (dueOf (.ctx 0) 1 [allOnes64]).entry.arg 0 = allOnes64 := by decide +kernel
/-- A step register of 41 goes on to 42 where the entry's STEP is all ones. -/
theorem test_start_step : ((nextOf (exec .startStep ((withDue (dueOf (.ctx 0) 1 [allOnes64, 3])).modStream 0
    (fun x => { x with openStep := 41 })))).ctx 0).stream.openStep = 42 := by decide +kernel

def barrier0 (timeout : U64) : Barrier :=
  { entry := ephEntry 2 [2101248, 4, timeout], pos := 0, lateness := 0, missed := false, since := 90, began := true }
def atBarrier (timeout : U64) : State :=
  ((follower 99).modEph 0 (fun e => { e with barrier := some (barrier0 timeout) }))

theorem witness_BarriersAndRamps : (withDue (dueOf (.ctx 0) 2 [])).nextDue = some (dueOf (.ctx 0) 2 [], []) ∧
    (dueOf (.ctx 0) 2 [2101248, 4, 10]).pos = (barrier0 10).pos ∧
    ((withDue (dueOf (.ctx 0) 2 [])).ctx 0).eph.barrier = none ∧ ((atBarrier 10).ctx 0).eph.barrier = some (barrier0 10) ∧
    (barrier0 10).entry.arg 2 ≠ 0 ∧ (atBarrier 10).mer.held = true ∧
    (barrier0 10).entry.arg 2 ≤ (atBarrier 10).mer.count - (barrier0 10).since ∧
    (atBarrier 10).barrierMet 0 (barrier0 10).entry = false ∧ ((atBarrier 10).ctx 0).eph.pending = [] ∧
    ((follower 99).sku.blockKind 0).isSome = true ∧
    (follower 99).rampOver (some { rate := 1, shown := 1, endCount := 100, base := 0, windows := 0, frac := 1 }) = true := by
  decide +kernel
/-- The condition of R268 is a word not below its value: at 4 the BARRIER is met. -/
theorem test_barrier_met : ((atBarrier 10).store 0 2101248 [4]).barrierMet 0 (barrier0 10).entry = true ∧
    ((atBarrier 10).store 0 2101248 [3]).barrierMet 0 (barrier0 10).entry = false := by decide +kernel

def beacon : Beacon := { port := some 31, tickCode := 2, hops := 1, root := 8, count := 70, agePs := 5 }
def inState (k : U8) : State := base.modMer (fun m => { m with state := k, followed := some beacon })

theorem witness_MeridianFollows : base.mer.role ≠ 1 ∧ (inState 1).mer.silent = true ∧ (inState 3).mer.followed.isSome = true ∧
    (inState 0).boot.life = .ready ∧ base.noSuchPort beacon = false ∧ base.listens beacon = true ∧
    rooted.listens beacon = false ∧
    bestBeacon 8 (base.mer.heard ++ [beacon]) = some beacon ∧ bestBeacon 7 (base.mer.heard ++ [beacon]) ≠ some beacon ∧
    (rooted.modMer (fun m => { m with nextCode := some 3, count := 131072 })).mer.count.toNat % 65536 = 0 := by decide +kernel

theorem witness_ModuleRingAppends : base.modRing.pending.length < 256 ∧
    256 ≤ (base.modModRing (fun r => { r with pending := List.replicate 256 (EphPending.mk 0 (ephEntry 6 []) 0) })).modRing.pending.length ∧
    rowAt 0x7200 2 ∈ catRows ∧ (rowAt 0x7200 2).base = 0x7200 ∧ (rowAt 0x7200 2).sub = 2 := by decide +kernel

/-! ### Lists and operations -/

/-- A list of one WAIT DRAIN at the start of page 1, where the tensor table stands in other tests: header, 64 bytes of
descriptor. -/
def queued : State :=
  ((State.reset.modCtx 0 (fun x => { x with st := .bound
                                            pool := { x.pool with pages := [(1, Page.fresh .auto 0xFF)] } })).modStream 0
    (fun x => { x with subQueue := [{ tag := 4, list := 2097152, nop := false }] }))

def waiting0 : Walked := { programId := 1, count := 1, step := 0xFFFFFFFFFFFFFFFF, descs := [(hdr, .wait (waitD 0))] }

/-- The same with the list in memory: COUNT 1, SIZE 1, STEP all ones; a WAIT (TYPE 7) with COMPLETE, OP_ID 7 (R187,
R196). -/
def listed : State := queued.store 0 2097152 (natLe 8 0 ++ natLe 4 1 ++ natLe 4 1 ++ List.replicate 8 0xFF ++ zeros 40 ++
  [7, 2] ++ natLe 2 0xFFFF ++ natLe 4 7)

theorem witness_ListsAreWalked : (queued.ctx 0).stream.subQueue = { tag := 4, list := 2097152, nop := false } :: [] ∧
    queued.listWaits 0 { tag := 4, list := 2097152, nop := false } = false ∧
    (queued.ctx 0).st.holds = true ∧ queued.boot.life = .ready ∧ waiting0.descs ≠ [] ∧
    (queued.ctx 0).stream.openStep ≤ waiting0.step ∧ (queued.ctx 0).stream.lists = [] ∧
    ((queued.store 0 2097152 [1]).walkList 0 2097152).toOption = none ∧ (listed.walkList 0 2097152).toOption.map (·.count) = some 1 := by
  decide +kernel
/-- The list is walked, and its operation waits under OP_ID 7. -/
theorem test_list_walk : ((nextOf (exec (.listWalk 0) listed)).ctx 0).stream.ops.map (fun o => (o.hdr.opId, o.st)) =
    [(7, .waiting)] := by decide +kernel

/-- Each row with the descriptors it is asked to start. -/
def starts (i : Instr) (d : Desc) : Bool :=
  (match startRow i with
   | some (c, n, mine, _) => c == 0 && n == 0 && mine d
   | none => false) && readyDesc d

theorem witness_OperationsStart_products :
    (starts (.forward 0 0) (.product (productD 0)) && starts (.dataGrad 0 0) (.product (productD 1)) &&
    starts (.weightGrad 0 0) (.product (productD 2))) = true := by decide +kernel
theorem witness_OperationsStart_rows :
    (starts (.rmsFwd 0 0) (.row (rowD 0x01)) && starts (.lnFwd 0 0) (.row (rowD 0x02)) &&
    starts (.softmaxFwd 0 0) (.row (rowD 0x03)) && starts (.rmsBwd 0 0) (.row (rowD 0x11)) &&
    starts (.lnBwd 0 0) (.row (rowD 0x12)) && starts (.softmaxBwd 0 0) (.row (rowD 0x13))) = true := by decide +kernel
theorem witness_OperationsStart_vectors :
    ([(Instr.vectorCopy 0 0, (0x00 : U8)), (.add 0 0, 0x01), (.sub 0 0, 0x02), (.mul 0 0, 0x03), (.fma 0 0, 0x04),
      (.div 0 0, 0x05), (.min 0 0, 0x06), (.max 0 0, 0x07), (.abs 0 0, 0x08), (.neg 0 0, 0x09), (.sqrt 0 0, 0x0A),
      (.rsqrt 0 0, 0x0B), (.rcp 0 0, 0x0C), (.exp 0 0, 0x0D)].all (fun x => starts x.1 (.vector (vectorD x.2)))) = true := by
  decide +kernel
theorem witness_OperationsStart_vectors2 :
    ([(Instr.relu 0 0, (0x10 : U8)), (.leaky 0 0, 0x11), (.gelu 0 0, 0x12), (.silu 0 0, 0x13), (.sigmoid 0 0, 0x14),
      (.select 0 0, 0x18), (.maskScale 0 0, 0x19), (.dropoutMask 0 0, 0x20), (.signMask 0 0, 0x21), (.sumsq 0 0, 0x30),
      (.absmax 0 0, 0x31), (.adamw 0 0, 0x40), (.sgdm 0 0, 0x41)].all (fun x => starts x.1 (.vector (vectorD x.2)))) = true := by
  decide +kernel
theorem witness_OperationsStart_others :
    (starts (.convert 0 0) (.convert convertD) && starts (.copy 0 0) (.copy copyD) && starts (.waitDrain 0 0) (.wait (waitD 0)) &&
    starts (.waitMeridian 0 0) (.wait (waitD 1)) && starts (.wordGe 0 0) (.wait (waitD 2)) &&
    starts (.wordEq 0 0) (.wait (waitD 3)) && starts (.markWrite 0 0) (.mark (markD 1)) &&
    starts (.markAdd 0 0) (.mark (markD 2)) && starts (.markPost 0 0) (.mark (markD 0))) = true := by decide +kernel

/-- Tensors 1 and 2 with two plates, and group 0 of slot 0 with 2 ranks: this module's die 0 and die 1, endpoint 0;
its record at 2101248, its list at 2105344. -/
def grouped (ds : List Nat) : State :=
  let s := (baseWith ds).modCtx 0 (fun x => { x with fab := { x.fab with groupBase := 2101248, groupEntries := 1 } })
  let s := [2097232, 2097240, 2097296, 2097304].foldl (fun (s : State) a => s.store 0 a [2]) (numbered s)
  let s := s.store 0 2101248 (natLe 4 2 ++ natLe 4 0 ++ natLe 8 2105344)
  s.store 0 2105344 (natLe 4 0 ++ natLe 4 16)

def collD (k : U8) : CollD :=
  { ckind := k, order := 0, redop := 0, count := if k = 0 || k = 3 then 1 else if k = 1 then 2 else 1, group := 0
    root := if k = 3 then 0 else if k = 4 || k = 5 then 1 else 0, tag := 0, src := ref 1, dst := ref 2, srcOffset := 0, dstOffset := 0 }
def collState (k : U8) : State := withOp (grouped [1, 2]) (opOf (.coll (collD k)))

def collStarts (i : Instr) (k : U8) : Bool :=
  (match collRow i with
   | some (c, n, kind) => c == 0 && n == 0 && kind k.toNat
   | none => false) &&
  (match (collState k).groupOf 0 0 with
   | some g => ready (collState k) (opOf (.coll (collD k))) g.ranks
   | none => false)

theorem witness_CollectivesStart : (collStarts (.allReduce 0 0) 0 && collStarts (.reduceScatter 0 0) 1 &&
    collStarts (.allGather 0 0) 2 && collStarts (.broadcast 0 0) 3 && collStarts (.send 0 0) 4 &&
    collStarts (.recv 0 0) 5) = true := by decide +kernel

/-- A second operation behind the first. -/
def second (d : Desc) : OpRec := { opOf d with n := 1 }
def two (a b : Desc) : State :=
  (stateOf a).modStream 0 (fun x => { x with ops := [opOf a, second b], nextOp := 2 })

/-- An addition over 1 x 17 elements of tensors of 16 columns is refused; one over no row is empty. -/
def tooWide : Desc := .vector { vectorD 0x01 with cols := 17 }
def noRows : Desc := .vector { vectorD 0x01 with rows := 0 }

theorem witness_OperationsHeldOrRefused : (two (.wait (waitD 0)) (.mark (markD 0))).op? 0 1 = some (second (.mark (markD 0))) ∧
    (two (.wait (waitD 0)) (.mark (markD 0))).mayStart 0 (second (.mark (markD 0))) = false ∧
    (stateOf tooWide).mayStart 0 (opOf tooWide) = true ∧
    ((stateOf tooWide).startCheck 0 none (opOf tooWide) 0 0 none).toOption = none ∧
    ((stateOf noRows).startCheck 0 none (opOf noRows) 0 0 none).toOption = some none := by decide +kernel
/-- Their lists complete with the status, or OK for the empty one (R210). -/
theorem test_refused_and_empty : ((nextOf (exec (.add 0 0) (stateOf tooWide))).ctx 0).stream.lastStatus = St.beyondBound ∧
    ((nextOf (exec (.add 0 0) (stateOf noRows))).ctx 0).stream.lastStatus = St.ok ∧
    ((nextOf (exec (.add 0 0) (stateOf noRows))).ctx 0).stream.listsCompleted = 1 := by decide +kernel

theorem witness_OperationsRun : (stateOf (.convert convertD)).op? 0 0 = some (opOf (.convert convertD)) := by decide +kernel

/-- Operations that run. -/
def running (i : Instr) (d : Desc) : State := nextOf (exec i (stateOf d))

def isRunning (s : State) : Bool := statusOf s == some .running

/-- A WAIT of one kind runs, and the state is then changed. -/
def waits (k : U8) (timeout : U32) (value : U64) : State :=
  running (if k = 0 then .waitDrain 0 0 else if k = 1 then .waitMeridian 0 0 else if k = 2 then .wordGe 0 0 else .wordEq 0 0)
    (.wait { waitD k with timeout := timeout, value := value })

/-- A module whose Meridian is not held (state 0), or held at 100. -/
def lost (s : State) : State := s.modMer (fun m => { m with state := 0 })
def held100 (s : State) : State := s.modMer (fun m => { m with state := 1, count := 100 })

theorem witness_OperationsEnd : statusOf (running (.convert 0 0) (.convert convertD)) = some .running ∧
    ((running (.convert 0 0) (.convert convertD)).op? 0 0).map (fun o => (o.run.map (fun r =>
      (running (.convert 0 0) (.convert convertD)).workDone 0 o r))) = some (some true) ∧
    ([waits 0 5 0, waits 1 5 100, waits 2 5 0, waits 3 5 0].all (fun s => (s.waitOf 0 0).isSome)) = true ∧
    (lost (waits 1 5 100)).mer.held = false ∧ (held100 (waits 1 5 100)).mer.held = true ∧
    (waits 2 5 0).flashWaits 0 2097152 8 = false ∧ (held100 (waits 1 5 100)).mer.count = 100 ∧ ((waits 2 5 0).touch 0 2097152 8).poisoned 0 2097152 = false ∧
    ((waits 2 5 7).store 0 2097152 [7]).num 0 2097152 8 = 7 ∧ ((waits 0 5 0).ctx 0).stream.ops.all (fun e => e.n = 0) = true := by
  decide +kernel
/-- A WAIT for count 500 runs while the module is in HOLDOVER; the expiry ends its list with MERIDIAN_LOST. -/
def holdingWait : State := (waits 1 5 500).modMer (fun m => { m with state := 2, count := 100 })
theorem test_holdover_ends_waits : holdingWait.mer.role ≠ 1 ∧ (holdingWait.waitOf 0 0).isSome = true ∧
    ((nextOf (exec .holdoverExpiry holdingWait)).ctx 0).stream.lastStatus = St.meridianLost := by decide +kernel

/-- WORD_GE ends at its value and not below it (R208). -/
theorem test_wait_word_ge : ((nextOf (exec (.waitSatisfied 0 0) ((waits 2 5 7).store 0 2097152 [7]))).ctx 0).stream.listsCompleted = 1 ∧
    ((nextOf (exec (.waitSatisfied 0 0) ((waits 2 5 7).store 0 2097152 [6]))).ctx 0).stream.listsCompleted = 0 := by
  decide +kernel

theorem witness_ListStatus : listRec.decided = none ∧ ([0, 1, 2] : List Nat).Nodup ∧ endsList St.beyondBound = true ∧
    endsList St.numericInvalid = false ∧ endsList St.ok = false := by decide +kernel

theorem witness_MarksTakeEffect : (base.ctx 0).apertureAt 2101248 = none ∧ base.poisoned 0 2101248 = false ∧ MemInv base ∧
    2101248 + 8 ≤ rangeBytes ∧ (markD 1).address.toNat % 8 = 0 ∧ base.readOnly 0 2101248 = false ∧ (markD 1).mflags.getLsbD 0 = true ∧
    (markD 2).mflags.getLsbD 0 = false ∧ (markD 2).mflags.getLsbD 1 = true := by
  unfold MemInv; decide +kernel

theorem witness_UnitsOfBands : unitTile 1 1 2 0 = some (0, 0, 0) ∧ unitTile 1 1 2 1 = some (0, 0, 1) ∧
    unitTile 1 1 2 2 = none := by decide +kernel

/-- A product of FP32 tensors on the wide array of core 0: just begun, its pass ended, its tile drained. -/
def begun : State := running (.forward 0 0) (.product (productD 0))
def passed : State := nextOf (exec (.arrayPassEnd 0 .wide) begun)
def drained : State := nextOf (exec (.tileDrain 0) passed)


/-- A weight gradient whose operands are B8 and F8, which its cores claim. -/
def claimed : State :=
  (running (.weightGrad 0 0) (.product (productD 2))).modRun 0 0 (fun r => { r with views := r.views.map (fun v =>
    (v.1, if v.1 = 32 then { v.2 with fmt := .b8 } else if v.1 = 48 then { v.2 with fmt := .f8 } else v.2)) })

def homeAdd0 : HomeAdd := { c := 0, n := 0, core := 0, unit := 0, key := 2105344, vals := [one32], tr := 0, tc := 0 }
def adding : State := { begun with arrays := { begun.arrays with adds := [homeAdd0] } }
def blink0 : BlinkCheck :=
  { op := { c := 0, n := 0, opId := 7, layer := 0xFFFF, step := 0, seed := 0, mode := 0, quiet := false }
    key := 22, lin := 0, band := 0, narrow := [[one32]], ref := [[one32]], recs := [], handle := 3 }
def blinking : State := { base with arrays := { base.arrays with blinks := [(5, [blink0])] } }

/-- What the claim of core 0 of a claimed product meets. -/
def claims (s : State) (reissue : Bool) (next : Nat) : Bool :=
  match s.workOf 0 0, s.run? 0 0 with
  | some w, some r => w.claims && r.fault.isNone && r.cores.contains 0 && s.arrays.mayClaim (arrKey 0 w.arr) 0 0 &&
      r.reissue.isEmpty == !reissue && !r.ended.contains 0 && w.tr * w.tc * w.bands == 1 && r.nextUnit == next
  | _, _ => false

theorem witness_ArraysWork : kvGetD begun.arrays.queues (arrKey 0 .wide) [] = { c := 0, n := 0, tr := 0, tc := 0, band := 0, unit := 0 } :: [] ∧
    kvGet begun.arrays.shadows (arrKey 0 .wide) = none ∧ (begun.workOf 0 0).isSome = true ∧
    kvGetD passed.arrays.drains 0 [] = 2 :: [] ∧ (kvGet passed.arrays.shadows (4 * 0 + 2)).isSome = true ∧
    (adding.arrays.adds[0]?) = some homeAdd0 ∧ (adding.workOf 0 0).isSome = true ∧
    claims claimed false 0 = true ∧ claims (claimed.modRun 0 0 (fun r => { r with nextUnit := 1 })) false 1 = true ∧
    claims (claimed.modRun 0 0 (fun r => { r with reissue := [(0, 3)] })) true 0 = true ∧ base.dieRuns (5 / 64) = true ∧
    begun.dieRuns (0 / 64) = true ∧ begun.workWaits 0 0 = false ∧ passed.dieRuns (0 / 64) = true ∧
    passed.workWaits 0 0 = false ∧ adding.workWaits 0 0 = false ∧ claimed.dieRuns (0 / 64) = true ∧
    claimed.workWaits 0 0 = false ∧ kvGetD blinking.arrays.blinks 5 [] = blink0 :: [] ∧ kvGetD blinking.arrays.queues (arrKey 5 .wide) [] = [] ∧
    5 ∉ blinking.res.coresFailed := by decide +kernel
/-- 16 products of 0 by 0 give 0, and the tile drains into its one element; the work is then done. -/
theorem test_product_drains : ((drained.op? 0 0).map (fun o => o.run.map (fun r => drained.workDone 0 o r))) = some (some true) := by
  decide +kernel

/-! ### Completions and interrupts -/

def cmpl : Cmpl :=
  { late := false, kind := 1, status := 0, tag := 1, opId := 2, context := 0, ekind := 0, count := 3, arg := 4 }
def ringed (f : CmplRing → CmplRing) : State := linkUp.setRing .module (f (linkUp.ringOf .module))

/-- The ring of slot 0, with `n` slots, has four entries waiting. -/
def backlogged (n : U32) : State :=
  let id := linkUp.ctxId 0
  linkUp.setRing (.ctx 0) { (linkUp.ringOf (.ctx 0)) with
    base := 4096, entries := n
    backlog := [(1, id), (2, id + 16), (3, id), (4, id)].map (fun x => { cmpl with tag := x.1, context := x.2 }) }

theorem witness_CompletionsAndInterrupts : (base.ringOf .module).backlog = [] ∧
    (ringed (fun r => { r with base := 4096, backlog := [cmpl] })).ringRoom .module = true ∧
    (ringed (fun r => r)).ringRoom .module = false ∧
    ((ringed (fun r => { r with backlog := List.replicate 4095 cmpl })).ringOf .module).backlog.length < 4096 ∧
    ((ringed (fun r => { r with backlog := List.replicate 4096 cmpl })).ringOf .module).backlog.length = 4096 ∧
    ((ringed (fun r => { r with p := 1, modTime := 1 })).ringOf .module).p ≠ 0 ∧
    ((ringed (fun r => { r with p := 1, modTime := 1 })).ringOf .module).modTime ≠ 0 ∧
    linkUp.hasFunc .pf = true ∧ 63 < funcVectors .pf ∧
    (backlogged 2).ringRoom (.ctx 0) = true ∧ ((backlogged 2).ringOf (.ctx 0)).backlog ≠ [] := by decide +kernel
/-- Of four waiting entries, the second of a generation since released, a ring of two slots takes the first and the
third; the last waits on (R280, R306). -/
theorem test_backlog : (((nextOf (exec (.completionBacklogDrain (.ctx 0)) (backlogged 2))).ringOf (.ctx 0)).backlog.map (·.tag),
      ((nextOf (exec (.completionBacklogDrain (.ctx 0)) (backlogged 2))).ctx 0).staleDiscards) = ([4], 1) ∧
    ((nextOf (exec (.completionBacklogDrain (.ctx 0)) (backlogged 8))).ringOf (.ctx 0)).backlog = [] := by decide +kernel

/-! ### Steps, pages -/

def closing : State := base.modStream 0 (fun x => { x with closing := [3] })
def takingImage : Image := { image0 with committed := false, left := [] }
def capturing (l : List Nat) : State := { base with images := [{ takingImage with left := l }] }
def replay0 (running ran : Bool) : Replay :=
  { step := 2, shadowBase := 2097152, shadowPlates := 64, running := running, ran := ran, entry := closedEntry, shadows := [],
    writes := [], replayed := 0, skipped := 0, status := 0 }
def replaying (running ran : Bool) : State := base.modTrain 0 (fun t => { t with replay := some (replay0 running ran) })
def restoring : State := withImage.modTrain 0 (fun t => { t with restoring := some 3 })

theorem witness_StepWork : (closing.ctx 0).stream.closing = 3 :: [] ∧ (closing.ctx 0).st.holds = true ∧
    closing.boot.life = .ready ∧ (closing.ctx 0).stream.settled 3 = true ∧ closing.closeWaits 0 = false ∧
    restoring.boot.life.dead = false ∧
    (capturing []).images.find? (fun i => !i.committed && i.owner == (capturing []).ctxId 0) = some takingImage ∧
    (capturing []).image? 3 = some takingImage ∧
    (capturing [1, 2]).images.find? (fun i => !i.committed && i.owner == (capturing []).ctxId 0) = some { takingImage with left := [1, 2] } ∧
    (restoring.ctx 0).train.restoring = some 3 ∧ (restoring.ctx 0).stream.lists = [] ∧ (restoring.ctx 0).stream.subQueue = [] ∧
    restoring.boot.life ≠ .stopped ∧ restoring.image? 3 = some image0 ∧ restoring.imageReadable image0 = true ∧
    (capturing []).captureWaits 0 takingImage none = false ∧
    (capturing [1, 2]).captureWaits 0 { takingImage with left := [1, 2] } (some 1) = false ∧ base.openImage 0 = none ∧
    ((replaying false false).ctx 0).train.replay = some (replay0 false false) ∧ ((replaying false false).ctx 0).st = .bound ∧
    ((replaying false false).ctx 0).pausing = false ∧ ((replaying true true).ctx 0).train.replay = some (replay0 true true) := by
  decide +kernel

/-- Page 1 moves to flash; page 1 waits for a slice frame. -/
def movingPage : Page := { Page.fresh .auto 0xFF with tier := .ddr 0, home := some 0, moving := some (.flash 0) }
def moving : State := base.modCtx 0 (fun x => { x with pool := { x.pool with pages := [(1, movingPage)] } })
def resident : State := base.modCtx 0 (fun x => { x with
  slices := 1, pool := { x.pool with pages := [(1, { movingPage with cls := .resident, moving := none })] } })
def flash0 : FlashWork :=
  { retries := 1, bytesWritten := 4096, sparePct := 90, wearPct := 2, failed := [], latent := [], failedImages := [] }

theorem witness_PagesAndBackground : (moving.ctx 0).page 1 = some movingPage ∧ movingPage.moving = some (.flash 0) ∧
    moving.lostPage 0 1 = false ∧ moving.flashLost (.flash 0) = false ∧ (resident.ctx 0).pausing = false ∧ resident.moveIn? 0 = some (1, 0, 0) ∧
    39 < base.sku.positions ∧ base.inRam 0 2097152 = true ∧ 7 < base.sku.dies ∧ base.dieRuns 7 = true ∧ flash0.failed = [] ∧
    (∀ x ∈ base.tiers.latent, x.2 ≠ .hard) ∧ base.tiers.latent = [] ∧ base.poisoned 0 2097152 = false := by
  decide +kernel
theorem witness_PagesAndBackground_latent : LatentInv { moving with tiers := flawed.tiers } := by
  unfold LatentInv LatentOk; decide +kernel

/-! ### Slots, plans, repair -/

def inSlot (f : Ctx → Ctx) : State := base.modCtx 0 f
def releasing : State := inSlot (fun x => { x with st := .releasing })
def pausing : State := inSlot (fun x => { x with pausing := true })

theorem witness_SlotsFreedAndPaused : (releasing.ctx 0).st = .releasing ∧ (releasing.ctx 0).runningOps = [] ∧
    (pausing.ctx 0).pausing = true ∧ (pausing.ctx 0).st = .bound ∧ (pausing.ctx 0).drained = true := by decide +kernel

def planRun : PlanRun :=
  { idx := 0, why := .request, assigns := [], affected := [], waits := [], drainUs := 0, writtenBack := 0 }
def planAt (running : Bool) (phase : U8) (p : PlanRun) : State :=
  base.modRes (fun r => if running then { r with planRunning := some p, planPhase := phase } else { r with planQueue := [p] })

/-- Plan 0 takes core group 1 from slot 0, which keeps group 0; the drain waits for operation 0 of slot 0. -/
def leavingPlan : PlanRun :=
  { planRun with
    assigns := [{ kind := 1, slot := 0xFF, die := 0, from_ := 0, mask := 2, pages := 0 }], affected := [0]
    waits := [(0, 0)] }

def twoGroups (s : State) : State := s.modCtx 0 (fun x => { x with groups := 3 })

/-- The cores that the running plan takes away hold nothing. -/
def drains (s : State) : Bool :=
  match s.res.planRunning with
  | some p => !(p.affected.flatMap (fun c => coresOf (s.leaving (s.assignAll p.assigns) 1 c))).isEmpty &&
      s.coresIdle ((p.affected.flatMap (fun c => coresOf (s.leaving (s.assignAll p.assigns) 1 c))).filter
        (fun k => !s.res.coresFailed.contains k))
  | none => false

def pass0 : Pass := { c := 0, n := 0, tr := 0, tc := 0, band := 0, unit := 0 }
/-- The same while core 8 still holds a pass. -/
def busyPlan : State :=
  let s := twoGroups (planAt true 2 leavingPlan)
  { s with arrays := s.arrays.push (arrKey 8 .wide) [pass0] }

theorem witness_PlansProgress : (planAt false 0 planRun).res.planRunning = none ∧
    (planAt false 0 planRun).res.planQueue = planRun :: [] ∧ (planAt false 0 planRun).boot.life = .ready ∧
    (planAt true 2 planRun).res.planRunning = some planRun ∧ (planAt true 2 planRun).res.planPhase = 2 ∧
    (twoGroups base).planCheck leavingPlan.bind? false leavingPlan.record = none ∧
    (planAt true 2 leavingPlan).opGone (0, 0) = true ∧ drains (twoGroups (planAt true 2 leavingPlan)) ∧ ¬ drains busyPlan ∧
    (withOp (planAt true 2 leavingPlan) { opOf (.wait (waitD 0)) with st := .running }).opGone (0, 0) = false ∧
    (planAt true 3 { planRun with affected := [0] }).res.planPhase = 3 := by decide +kernel

theorem witness_UnitsHaveOneOwner : ∀ k : U8, k = 1 ∨ k = 2 ∨ k = 3 → ∀ c d, c ≠ d →
    (base.ctx c).units k &&& (base.ctx d).units k = 0 := by
  rintro k (rfl | rfl | rfl) <;> decide +kernel

def repair0 : Repair := { action := 3, die := 7, plan := 0xFF, target := 0, pauseMask := 1, seq := 2, phase := 1, ahead := 0 }
def repairing (out : Option Nat) : State := base.modRes (fun r => { r with repair := some repair0, dieOut := out })

theorem witness_CoresAndDies : 511 < base.sku.cores ∧ 511 ∉ base.res.coresFailed ∧
    (repairing none).res.repair = some repair0 ∧ (repairing none).res.dieOut = none ∧ (repairing none).res.repairPlan = false ∧
    (repairing none).repairPausing repair0 = false ∧ (repairing none).lineOn 7 = false ∧
    (repairing (some 7)).res.dieOut = some 7 ∧ begun.arrays.adds = [] ∧ begun.arrays.passesOf 0 = [pass0] ∧
    (begun.run? 0 0).map (·.fault) = some none := by decide +kernel
/-- The unit that a failed core held is issued again, and the core takes no part any more (R180). -/
theorem test_core_fails : ((nextOf (exec (.coreFailure 0) begun)).run? 0 0).map (fun r => (r.reissue, r.cores.contains 0)) =
    some ([(0, 0)], false) := by decide +kernel

/-! ### Host link, power, starts -/

theorem witness_FunctionsAndLink : (linkUp.modHost (fun h => { h with vfEnable := true, numVfs := 1 })).hasFunc (.vf 0) = true ∧
    linkUp.hasFunc .pf = true ∧ linkUp.host.up = true ∧ linkUp.boot.life.open = true ∧ base.host.up = false ∧ base.boot.life.hasLink = true ∧
    25 ∈ linkRates ∧ 8 ∈ linkWidths := by decide +kernel

theorem witness_EnvelopesKeepTheCap : base.sku.blockKind 0 = some 0 ∧ (0 : U32).toNat < base.envelopeSum ∧
    base.envelopeSum ≤ (0xFFFFFFFF : U32).toNat ∧ (100000 : U32).toNat ≤ 100000 ∧ 15000 ≤ (15000 : U32).toNat ∧
    (base.modBlock 0 (fun x => { x with envelope := some 15000 })).envelopeSum ≤ base.capOf := by decide +kernel

def inLife (l : Life) : State := { base with boot := { base.boot with life := l } }
def capped : State := { base with power := { base.power with
  supplyDerate := true, busbarMv := 48500, thermalDies := 128, dieMc := List.replicate 8 90000 } }
def derated : State := { base with power := { base.power with coolantDerate := true, inletMc := 44000, flowMl := 11000 } }

theorem witness_PowerAndCooling : base.boot.life ≠ .off ∧ 7 < base.sku.dies ∧ 95000 ≤ (95000 : U32).toInt ∧
    base.power.thermalDies.getLsbD 7 = false ∧ base.power.coolantDerate = false ∧ 45000 < (45001 : U32).toInt ∧
    (9999 : U32).toNat < 10000 ∧ base.power.supplyDerate = false ∧ 47999 < 48000 ∧ base.power.busbarHigh = false ∧
    58000 < (58001 : U32).toNat ∧ derated.power.coolantDerate = true ∧ derated.power.inletMc.toInt ≤ 44000 ∧
    11000 ≤ derated.power.flowMl.toNat ∧ capped.power.supplyDerate = true ∧ 48500 ≤ capped.power.busbarMv.toNat ∧
    capped.power.thermalDies.getLsbD 7 = true ∧ (capped.power.dieMc.getD 7 0).toInt ≤ 90000 := by decide +kernel

theorem witness_ModuleStops : base.boot.life.stoppable = true ∧ base.boot.life ≠ .off ∧ 60000 < (60001 : U32).toNat ∧
    stopReached (.dieHot 105000) = true ∧ stopReached (.inletHot 55001) = true ∧ stopReached (.flowLow 3999) = true ∧
    (43999 : U32).toNat < 44000 ∧ (inLife .held).boot.life.stoppable = true ∧ waitsForHold (.dieHot 105000) = false ∧
    waitsForHold (.flowLow 0) = true := by decide +kernel
/-- A start that holds for its coolant stops for a hot die, and not for the flow it waits for (R427). -/
theorem test_hold : (nextOf (exec (.thermalStop (.flowLow 0)) (inLife .held))).boot.life = .held ∧
    (nextOf (exec (.thermalStop (.dieHot 105000)) (inLife .held))).boot.life = Life.held.afterStop := by decide +kernel

theorem witness_StartsEnd : (inLife .off).boot.life = .off ∧ (inLife .held).boot.life = .held ∧ findings.diesFailed = [] ∧
    slow.flowMl.toNat < 11000 ∧ 11000 ≤ rated.flowMl.toNat ∧ 20000 ≤ rated.inletMc.toInt ∧ rated.inletMc.toInt ≤ 45000 ∧
    (inLife .acquiring).boot.life = .acquiring := by decide +kernel
/-! ### Logbook, fabric -/

def logRec : LogRec :=
  { seq := 1, opMs := 0, severity := 1, meridianValid := false, clearRec := false, powerCycles := 0, meridian := 0, event := 0,
    status := 0, context := 0xFFFF, unit := 0xFFFF, opId := 0, handle := 0, step := 0, address := 0, args := List.replicate 6 0 }
def logging : State := base.modLog (fun l => { l with queue := [logRec], mirrorQueue := [logRec] })
/-- The same in hold-up, after main power has gone. -/
def lastRecords : State := { logging with boot := { logging.boot with life := .off }, log := { logging.log with holdup := true } }
def signing : State := { base with sec := { base.sec with attest := { base.sec.attest with signing := some ([], .pf, 1) } } }

theorem witness_LogbookWork : logging.boot.life ≠ .off ∧ logging.log.queue = logRec :: [] ∧ logging.log.mirrorQueue = logRec :: [] ∧
    logging.boot.life ≠ .stopped ∧ logging.flashUp 0 = true ∧ logging.log.cleared logRec = false ∧
    placeOf logging.log.primary primaryQuarter logRec = some (32768, none) ∧
    placeOf logging.log.mirror mirrorQuarter logRec = some (524288, none) ∧ signing.sec.attest.signing = some ([], .pf, 1) ∧
    lastRecords.boot.life = .off ∧ lastRecords.log.holdup = true ∧ lastRecords.log.queue = logRec :: [] := by decide +kernel

theorem witness_LogbookClears : base.dieRuns 0 = true ∧ (base.modRes (fun r => { r with dieOut := some 0 })).dieRuns 0 = false ∧
    (15 : U8).toNat ≤ 15 ∧ 15 < (16 : U8).toNat ∧ (2 : U8).getLsbD logRec.severity.toNat = true ∧
    ∃ l : Logbook, logRec ∈ l.readable ∧ (1 : U8).getLsbD logRec.severity.toNat = false ∧ l.cleared logRec = false :=
  ⟨by decide +kernel, by decide +kernel, by decide +kernel, by decide +kernel, by decide +kernel,
   { logging.log with mirror := [(0, logRec)] }, by decide +kernel, by decide +kernel, by decide +kernel⟩

theorem witness_EndpointAddresses : (numbered base).fab.moduleNumber.toNat < 2 ^ 17 ∧
    ({ base with fab := { base.fab with moduleNumber := 131071 } } : State).fab.moduleNumber.toNat < 2 ^ 17 := by decide +kernel

/-- Port 31 in a state. -/
def portIn (k : U8) (f : Port → Port) : State := base.modPort 31 (fun p => f { p with state := k })

def sent1 : SentWord := { seq := 1, beacon := false, slots := [] }

theorem witness_LinkLayer : 31 < base.sku.ports ∧ ((portIn 2 id).port 31).state = 2 ∧ ((portIn 2 id).port 31).waiting = [] ∧
    ((portIn 2 id).port 31).beaconDue = 0 ∧ ((portIn 2 id).port 31).ctrlDue = none ∧
    ((portIn 2 (fun p => { p with replay := [sent1], stuck := 6 })).port 31).stuck < 7 ∧
    7 ≤ ((portIn 2 (fun p => { p with replay := [sent1], stuck := 7 })).port 31).stuck ∧
    ((portIn 2 (fun p => { p with sinceAck := 1 })).port 31).sinceAck ≠ 0 ∧
    ((portIn 2 (fun p => { p with sinceAck := 1 })).port 31).room = true ∧
    ({ codeword with uncorrectable := true } : Codeword).uncorrectable = true := by decide +kernel

/-- A BSLOT of 10 is a framing error: the link trains anew; one of 9 is none (R313). -/
theorem test_bslot : ([10, 9].map (fun b => (((portIn 2 id).receiveCodeword 31 { codeword with bslot := b }).port 31).state)) =
    [1, 2] := by decide +kernel

/-- Three lanes: codeword 4,095 goes on lane 0, and the next, whose SEQ is 0 again, on lane 1 (R312, R313). -/
theorem test_llane_wrap : ({ Port.reset with width := 3, txSeq := 1, txWraps := 1 } : Port).llane 0 = 1 ∧
    ({ Port.reset with width := 3, txSeq := 1, txWraps := 1 } : Port).llane 0xFFF = 0 := by decide +kernel

def training (ok : Bool) : Training := { locked := 1, ok := ok, delayNs := 5, peer := 0xFFFFFFFF }

theorem witness_PortsTrain : base.boot.life.hasLink = true ∧ base.dieRuns (31 / 4) = true ∧ (training true).ok = true ∧
    ((portIn 1 id).port 31).live &&& (training true).locked ≠ 0 ∧ ((portIn 1 id).port 31).waiting = [] ∧
    ((portIn 1 (fun p => { p with width := 8 })).port 31).width ≠ 0 ∧ ((portIn 0 id).port 31).width = 0 ∧
    (portIn 1 id).beaconNow 31 = none ∧ ((portIn 0 id).port 31).state = 0 ∧ 2 ≤ ((portIn 1 (fun p => { p with fails := 2 })).port 31).fails := by decide +kernel

/-- Page 1 lies in the flash of die 7, which is out of service; its first plate is poisoned. -/
def inFlash : State := (base.modCtx 0 (fun x => { x with pool := { x.pool with pages :=
  [(1, { Page.fresh .auto 0xFF with tier := .flash 7, home := some 7 })] } })).modRes (fun r => { r with dieOut := some 7 })
def badWord : State := { base with poison := [memKey 0 2097152] }

/-- The packet for endpoint 0 of die 0, which is slot 0's. -/
def toSlot (k : U8) (a : U64) : Packet := { Packet.blank with kind := k, dest := 0, address := a, data := [List.replicate 64 1] }

theorem witness_RemoteWrites : (numbered base).isMine (toSlot 0x10 2097152).dest = true ∧ (toSlot 0x10 2097152).hops.toNat ≤ 63 ∧
    (numbered base).ownerOf (destDie 0) (destEndpoint 0) = some 0 ∧ (toSlot 0x10 2097152).destContext = (numbered base).ctxId 0 ∧
    (numbered base).allocated 0 2097152 (toSlot 0x10 2097152).payload.length = true ∧
    (numbered base).poisoned 0 2097152 = false ∧
    (numbered base).allocated 0 (2 * pageBytes) (toSlot 0x10 2097152).payload.length = false ∧
    (numbered base).allocated 0 (2 * pageBytes - 8) 8 = true ∧ (numbered base).allocated 0 (2 * pageBytes) 8 = false ∧
    ({ toSlot 0x20 0 with destContext := 16 } : Packet).destContext ≠ (numbered base).ctxId 0 ∧ base.res.forwards = [] ∧
    (numbered base).flashWaits 0 2097152 64 = false ∧ (numbered inFlash).flashWaits 0 2097152 64 = true ∧
    base.boot.life.dead = false ∧ (inLife .stopped).boot.life.dead = true ∧
    2097152 % 64 = 0 ∧ (∀ x ∈ pagesOf 2097152 64, (numbered base).shows 0 x = false) ∧
    (numbered shownPage).readOnly 0 (2 * pageBytes) = true ∧ (numbered badWord).poisoned 0 2097152 = true := by
  decide +kernel
/-- A WRITE of a whole poisoned plate clears its mark (R234); one that finds no owner of its context acts on nothing, and
is counted (R280). -/
theorem test_remote_poison : (numbered badWord).poisoned 0 2097152 = true ∧
    (nextOf (exec (.writePacket (toSlot 0x10 2097152)) (numbered badWord))).poisoned 0 2097152 = false ∧
    ((nextOf (exec (.writePacket { toSlot 0x10 2097152 with destContext := 16 }) (numbered base))).ctx 0).staleDiscards = 1 ∧
    (nextOf (exec (.writePacket { toSlot 0x10 2097152 with destContext := 16 }) (numbered base))).num 0 2097152 8 =
      (numbered base).num 0 2097152 8 := by decide +kernel

/-- An ALL_REDUCE of 2 ranks runs at rank 0; the packets are from rank 1, die 1 of this module. -/
def gathering : State := nextOf (exec (.allReduce 0 0) (collState 0))
def fromPeer (k : U8) : Packet := { toSlot k 0 with src := 16, count := 1, order := true }

def collPacket (k : U8) : Bool :=
  match (gathering.takeArrived (fromPeer k)).colls 0 with
  | w :: _ => w.matches_ (fromPeer k) && w.rankOf (fromPeer k).src == some 1 && w.agrees (fromPeer k) && w.awaits 1 (fromPeer k) &&
      (gathering.takeArrived (fromPeer k)).dataColl 0 (fromPeer k) == some w
  | _ => false

theorem witness_PacketsAndTimeouts : gathering.isMine (fromPeer 0x20).dest = true ∧
    gathering.ownerOf (destDie 0) (destEndpoint 0) = some 0 ∧ (fromPeer 0x20).destContext = gathering.ctxId 0 ∧
    collPacket 0x20 = true ∧ collPacket 0x21 = true ∧ (gathering.collOf 0 0).isSome = true ∧
    (base.isMine (toSlot 0x10 0).dest = false) ∧ (63 : U8).toNat ≤ 63 ∧ 31 < base.sku.ports ∧ 7 < base.sku.dies := by
  decide +kernel

/-! ### One step of the operations, on 1.0 and 2.0 (values by hand from the spec's rules) -/

/-- The bytes of an FP32 tensor of 16 elements 1.0, or 2.0; tensor h stands at 2101248 + 64 h. -/
def ones (h : Nat) : List Host.Cell := (List.range 16).flatMap (fun k =>
  [(memKey 0 (2101250 + 64 * h + 4 * k), 0x80), (memKey 0 (2101251 + 64 * h + 4 * k), 0x3F)])
def twos (h : Nat) : List Host.Cell := (List.range 16).map (fun k => (memKey 0 (2101251 + 64 * h + 4 * k), 0x40))
def filled (s : State) : State := { s with mem := s.mem ++ ones 1 ++ twos 2 ++ ones 3 }

/-- Element 0 of tensor h after the operation. -/
def elem (h : Nat) (i : Instr) (d : Desc) : Nat := (nextOf (exec i (filled (stateOf d)))).num 0 (2101248 + 64 * h) 4

theorem test_vector_values :
    [elem 4 (.sub 0 0) (.vector (vectorD 0x02)), elem 4 (.fma 0 0) (.vector (vectorD 0x04)),
      elem 4 (.div 0 0) (.vector (vectorD 0x05)), elem 7 (.sumsq 0 0) (.vector (vectorD 0x30))] =
    [0xBF800000, 0x40400000, 0x3F000000, 0x41800000] := by decide +kernel

/-- Sixteen products 1.0 × 2.0 add up to 32.0, which the drain stores. -/
theorem test_forward_value : ((nextOf (exec (.tileDrain 0) (nextOf (exec (.arrayPassEnd 0 .wide)
    (nextOf (exec (.forward 0 0) (filled (stateOf (.product (productD 0)))))))))).num 0 (2101248 + 64 * 10) 4) = 0x42000000 := by
  decide +kernel

/-- The softmax of sixteen equal elements is 1/16 each. -/
theorem test_softmax_value : elem 3 (.softmaxFwd 0 0) (.row (rowD 0x03)) = 0x3D800000 := by decide +kernel

/-- CONVERT of FP32 to FP32 keeps the value; COPY moves the plate (R205, R206). -/
theorem test_convert_copy : elem 2 (.convert 0 0) (.convert convertD) = 0x3F800000 ∧
    elem 2 (.copy 0 0) (.copy copyD) = 0x3F800000 := by decide +kernel

/-- MARK writes its VALUE, or adds it modulo 2^64 (R209). -/
theorem test_marks : (nextOf (exec (.markWrite 0 0) (stateOf (.mark (markD 1))))).num 0 2101248 8 = 0x0102030405060708 ∧
    (nextOf (exec (.markAdd 0 0) ((stateOf (.mark (markD 2))).store 0 2101248 (List.replicate 8 0xFF)))).num 0 2101248 8 =
      0x0102030405060707 := by decide +kernel

/-- Formats: F4 0x1 is 0.5, 0x7 is 6; F8 0x7E is 448, 0x01 is 2^-9; B8 0x7B is 57344 (R21, R22). -/
theorem test_formats : fwdParts false 0x1 = (1, -1) ∧ ((fwdParts false 0x7).1 : Int) * 2 ^ ((fwdParts false 0x7).2 + 1).toNat = 12 ∧
    ((fwdParts true 0x7E).1 : Int) * 2 ^ ((fwdParts true 0x7E).2).toNat = 448 ∧ fwdParts true 0x01 = (1, -9) ∧
    ((gradParts true 0x7B).1 : Int) * 2 ^ ((gradParts true 0x7B).2).toNat = 57344 := by decide +kernel

/-! ### Other single steps -/

/-- An ALLOC makes its page usable; a FREE takes it away again (R241, R243). -/
theorem test_alloc_free :
    ((nextOf (exec .alloc (asked base (w 0x5100 8 (rec32 ([1, 0, 255, 0] ++ natLe 4 1 ++ natLe 8 (2 * pageBytes))))))).ctx 0).usable 2 = true ∧
    ((nextOf (exec .free (asked base (w 0x5100 8 (rec32 ([2, 0, 255, 0] ++ natLe 4 1 ++ natLe 8 pageBytes)))))).ctx 0).usable 1 = false := by
  decide +kernel

/-- BIND raises the generation and leaves the slot REBINDING; RELEASE leaves it RELEASING (R276, R279). -/
theorem test_bind_release :
    (((nextOf (exec .bind (asked (planned State.reset) (w 0x6000 2 (rec16 [1, 0, 0]))))).ctx 0).st,
      ((nextOf (exec .bind (asked (planned State.reset) (w 0x6000 2 (rec16 [1, 0, 0]))))).ctx 0).gen) = (.rebinding, 1) ∧
    ((nextOf (exec .release (asked base (w 0x6000 2 (rec16 [2, 0, 0]))))).ctx 0).st = .releasing := by decide +kernel

/-- A remote WRITE of 64 bytes of 01h lands; a remote ADD of 5 to zero gives 5 (R324). -/
theorem test_remote : (nextOf (exec (.writePacket (toSlot 0x10 2105344)) (numbered base))).num 0 2105344 2 = 0x0101 ∧
    (nextOf (exec (.addPacket { toSlot 0x11 2105344 with value := 5, data := [] }) (numbered base))).num 0 2105344 8 = 5 := by
  decide +kernel

/-- The tick boundary of a module that follows nothing counts on by one; one behind its root's count takes it over
(R257, R263). -/
theorem test_ticks : (nextOf (exec .tickBoundary base)).mer.count = base.mer.count + 1 ∧
    (nextOf (exec .tickBoundary (follower 200))).mer.count = 201 ∧ (nextOf (exec .tickBoundary (follower 99))).mer.count = 100 := by
  decide +kernel

/-- 95 °C on a die caps it; 94.999 °C does not (R368). -/
theorem test_thermal_cap : (nextOf (exec (.thermalCap 2 95000) base)).power.thermalDies = 4 ∧
    (nextOf (exec (.thermalCap 2 94999) base)).power.thermalDies = 0 := by decide +kernel

/-- An unknown index is answered 0501h with the STATUS at bytes 8 and 9 (R332, R345). -/
theorem test_object_unknown : (((nextOf (exec .read (asked base (ask 1 0x1234 0 [] 1)))).mailbox .pf).response.drop 8).take 2 =
    [0x01, 0x05] := by decide +kernel

end Sys2Proof.Tests
end

namespace Sys2Proof.Machine

/-! ### The bytes of a store (R229, R253) -/

/-- The bytes of the device ranges after a landing. -/
theorem State.land_byte {s : State} {c d : Slot} {a k : Nat} {b : Bytes} (h : MemInv s)
    (ha : a + b.length ≤ rangeBytes) (hk : k < rangeBytes) :
    (s.land c a b).byte d k =
      if d = c ∧ a ≤ k ∧ k < a + b.length then b.getD (k - a) 0 else s.byte d k := by
  by_cases hin : d = c ∧ a ≤ k ∧ k < a + b.length
  · obtain ⟨rfl, hlo, hhi⟩ := hin
    have hkey : memKey d k = memKey d a + (k - a) := by unfold memKey; omega
    rw [if_pos ⟨rfl, hlo, hhi⟩, State.byte, State.land_mem, hkey]
    exact memGet_memWrite_in _ _ _ h (by omega)
  · rw [if_neg hin]
    exact State.land_other h ha hk (by grind)

/-- The pages that a range of bytes meets are those from its first byte's to its last byte's. -/
theorem mem_pagesOf {a n p : Nat} :
    p ∈ pagesOf a n ↔ n ≠ 0 ∧ a / pageBytes ≤ p ∧ p ≤ (a + n - 1) / pageBytes := by
  unfold pagesOf
  split
  · simp_all
  · have hle : a / pageBytes ≤ (a + n - 1) / pageBytes := Nat.div_le_div_right (by omega)
    simp only [List.mem_map, List.mem_range]
    constructor
    · rintro ⟨i, hi, rfl⟩
      omega
    · rintro ⟨-, hlo, hhi⟩
      exact ⟨p - a / pageBytes, by omega, by omega⟩

theorem page_mem_pagesOf {a n k : Nat} (hlo : a ≤ k) (hhi : k < a + n) : k / pageBytes ∈ pagesOf a n :=
  mem_pagesOf.2 ⟨by omega, Nat.div_le_div_right hlo, Nat.div_le_div_right (by omega)⟩

/-- The part of a store in page `p` holds its bytes in page `p`, and no other. -/
theorem pagePart_covers {a k p : Nat} {b : Bytes} :
    ((pagePart a b p).1 ≤ k ∧ k < (pagePart a b p).1 + (pagePart a b p).2.length) ↔
      a ≤ k ∧ k < a + b.length ∧ k / pageBytes = p := by
  have hp : k / pageBytes = p ↔ p * pageBytes ≤ k ∧ k < (p + 1) * pageBytes := by
    unfold pageBytes; omega
  have hmax : Nat.max a (p * pageBytes) = max a (p * pageBytes) := rfl
  simp only [pagePart, List.length_take, List.length_drop, hp, hmax]
  omega

/-- A byte of the part of a store in a page is that of the store. -/
theorem pagePart_getD {a k p : Nat} {b : Bytes} (hlo : (pagePart a b p).1 ≤ k)
    (hhi : k < (pagePart a b p).1 + (pagePart a b p).2.length) :
    (pagePart a b p).2.getD (k - (pagePart a b p).1) 0 = b.getD (k - a) 0 := by
  have hmax : a ≤ Nat.max a (p * pageBytes) := Nat.le_max_left ..
  simp only [pagePart, List.length_take, List.length_drop] at hlo hhi ⊢
  rw [List.getD_eq_getElem?_getD, List.getElem?_take_of_lt (by omega), List.getElem?_drop,
    List.getD_eq_getElem?_getD]
  congr 2
  omega

/-- The part of a store in page `p` lands. -/
def State.landPart (c : Slot) (a : Nat) (b : Bytes) (s : State) (p : Nat) : State :=
  s.land c (pagePart a b p).1 (pagePart a b p).2

theorem State.landPart_memInv {s : State} (c : Slot) (a : Nat) (b : Bytes) (p : Nat) (h : MemInv s) :
    MemInv (s.landPart c a b p) := State.land_wf _ _ _ _ h

theorem State.landPart_byte {s : State} {c d : Slot} {a k p : Nat} {b : Bytes} (h : MemInv s)
    (ha : a + b.length ≤ rangeBytes) (hk : k < rangeBytes) (hp : p ∈ pagesOf a b.length) :
    (s.landPart c a b p).byte d k =
      if d = c ∧ a ≤ k ∧ k < a + b.length ∧ k / pageBytes = p then b.getD (k - a) 0 else s.byte d k := by
  have hwithin := pagePart_within hp
  rw [State.landPart, State.land_byte h (by omega) hk]
  simp only [pagePart_covers]
  split
  · next hin =>
    obtain ⟨hlo, hhi⟩ := pagePart_covers.2 hin.2
    exact pagePart_getD hlo hhi
  · rfl

/-- The bytes after the parts of a store in the pages `l` have landed. -/
theorem State.landParts_byte {c d : Slot} {a k : Nat} {b : Bytes} (ha : a + b.length ≤ rangeBytes)
    (hk : k < rangeBytes) {l : List Nat} (hl : ∀ p ∈ l, p ∈ pagesOf a b.length) {s : State} (h : MemInv s) :
    (l.foldl (State.landPart c a b) s).byte d k =
      if d = c ∧ a ≤ k ∧ k < a + b.length ∧ k / pageBytes ∈ l then b.getD (k - a) 0 else s.byte d k := by
  induction l generalizing s with
  | nil => simp
  | cons p l ih =>
    rw [List.foldl_cons, ih (fun q hq => hl q (List.mem_cons_of_mem _ hq)) (State.landPart_memInv c a b p h),
      State.landPart_byte h ha hk (hl p List.mem_cons_self)]
    grind

/-- What a store within the range does: all of its bytes land where none of its pages shows an image; where one does,
the parts in its other pages. -/
theorem State.store_eq {s : State} {c : Slot} {a : Nat} {b : Bytes} (ha : a + b.length ≤ rangeBytes) :
    s.store c a b = if !(pagesOf a b.length).any (s.shows c) then s.land c a b
      else ((pagesOf a b.length).filter (fun p => !s.shows c p)).foldl (State.landPart c a b) s := by
  rw [State.store, if_neg (by omega)]
  rfl

/-- Settles O7: either no page of the store shows an image and all of it lands, or its parts in the other pages do. -/
theorem storeWritesItsBytes : Obligations.StoreWritesItsBytes := by
  intro s c d a k b h ha hk
  rw [State.store_eq ha]
  split
  · next hnone =>
    have hshows : ∀ p ∈ pagesOf a b.length, s.shows c p = false := by simpa using hnone
    have hopen : a ≤ k → k < a + b.length → s.readOnly c k = false := fun hlo hhi =>
      hshows _ (page_mem_pagesOf hlo hhi)
    rw [State.land_byte h ha hk]
    grind
  · rw [State.landParts_byte ha hk (fun p hp => (List.mem_filter.1 hp).1) h]
    have hmem : a ≤ k → k < a + b.length →
        (k / pageBytes ∈ (pagesOf a b.length).filter (fun p => !s.shows c p) ↔ s.readOnly c k = false) := fun hlo hhi => by
      simp [State.readOnly, page_mem_pagesOf hlo hhi]
    grind

end Sys2Proof.Machine

namespace Sys2Proof.Machine

/-! ### What a command answers -/

/-- The outcome is a next state, and it keeps what every command keeps. -/
def Answers (s : State) (o : Host.Outcome State Fault Refusal) : Prop := ∃ t, o = .next t ∧ Keeps s t

/-- A command whose unit is missing stops by name; any other answers. -/
def AnswersUnless (missing : Bool) (s : State) (o : Host.Outcome State Fault Refusal) : Prop :=
  if missing then o = .fault .noSuchUnit else Answers s o

theorem Answers.next {s t : State} (h : Keeps s t) : Answers s (.next t) := ⟨t, rfl, h⟩

/-- A command that does nothing. -/
theorem Answers.same (s : State) : Answers s (.next s) := .next (.refl s)

theorem Answers.ite {s : State} {p : Prop} [Decidable p] {o q : Host.Outcome State Fault Refusal}
    (ho : Answers s o) (hq : Answers s q) : Answers s (if p then o else q) := by
  split <;> assumption

/-- A command that first asks whether its unit exists. -/
theorem Answers.guarded {s : State} {p : Prop} [Decidable p] {o : Host.Outcome State Fault Refusal}
    (h : Answers s o) : AnswersUnless (decide p) s (if p then .fault .noSuchUnit else o) := by
  unfold AnswersUnless
  by_cases hp : p <;> simp [hp, h]

theorem Answers.guardedBool {s : State} {b : Bool} {o : Host.Outcome State Fault Refusal} (h : Answers s o) :
    AnswersUnless b s (if b then .fault .noSuchUnit else o) := by
  simpa using Answers.guarded (p := b = true) h

/-- A next state is the answer of a command whose unit is not missing. -/
theorem AnswersUnless.keeps {m : Bool} {s t : State} (h : AnswersUnless m s (.next t)) : Keeps s t := by
  cases m with
  | true => exact absurd (show Host.Outcome.next t = .fault Fault.noSuchUnit from h) (by simp)
  | false =>
    obtain ⟨u, hu, hk⟩ := (h : Answers s (.next t))
    cases hu
    exact hk

/-- An effect that a condition asks for. -/
theorem Keeps.mapIf {s0 s : State} {f : State → State} {p : Prop} [Decidable p]
    (hf : ∀ {t}, Keeps s0 t → Keeps s0 (f t)) (h : Keeps s0 s) : Keeps s0 (if p then f s else s) :=
  .ite (fun _ => hf h) (fun _ => h)

/-! ### Operations -/

theorem execListWalk_answers (c : Slot) (s : State) : Answers s (execListWalk c s) := by
  unfold execListWalk
  split
  · exact .same s
  · next e rest _ =>
    have h := State.modStream_keeps c (fun x => { x with subQueue := rest }) (.refl s)
    refine .ite (.same s) (.ite (.next (State.postList_keeps _ _ _ _ _ h)) ?_)
    split
    · exact .next (State.refuseList_keeps _ _ _ _ _ h)
    · exact .next (State.acceptList_keeps _ _ _ h)

theorem execOperationComplete_answers (c : Slot) (n : Nat) (s : State) : Answers s (execOperationComplete c n s) := by
  unfold execOperationComplete
  split
  · exact .same s
  · split
    · exact .same s
    · exact .ite (.next (State.finishOp_keeps _ _ _ _ (.refl s))) (.same s)

theorem startOp_answers (c : Slot) (n : Nat) (mine : Desc → Bool)
    {go : State → OpRec → OpCtx → List (Nat × TView) → State}
    (hgo : ∀ {s0 s : State} (o oc vs), Keeps s0 s → Keeps s0 (go s o oc vs)) (s : State) :
    Answers s (.next (s.startOp c n mine 0 none go)) :=
  .next (State.startOp_keeps c n mine 0 none (.refl s) (fun _ o oc vs => hgo o oc vs))

theorem startColl_answers (c : Slot) (n : Nat) (kind : Nat → Bool) (s : State) :
    Answers s (.next (s.startColl c n kind)) := .next (State.startColl_keeps c n kind (.refl s))

theorem vectorRow_answers (c : Slot) (n code : Nat) (s : State) : Answers s (vectorRow c n code s) :=
  startOp_answers c n _ beginVector_keeps s

theorem execWaitSatisfied_answers (c : Slot) (n : Nat) (s : State) : Answers s (execWaitSatisfied c n s) := by
  unfold execWaitSatisfied
  split
  · exact .same s
  · next o d oc _ =>
    dsimp only
    split
    · exact .ite (.next (State.endWait_keeps _ _ _ (.refl s))) (.same s)
    · exact .ite (.next (State.waitLost_keeps _ _ (.refl s)))
        (.ite (.next (State.endWait_keeps _ _ _ (.refl s))) (.same s))
    · have h := State.touch_keeps c d.address.toNat 8 (.refl s)
      refine .ite (.same s) (.ite (.next (State.endWait_keeps _ _ _ (State.faultOp_keeps _ _ _ _ _ h))) ?_)
      exact .ite (.next (State.endWait_keeps _ _ _ h)) (.next h)

theorem execWaitTimeout_answers (c : Slot) (n : Nat) (s : State) : Answers s (execWaitTimeout c n s) := by
  unfold execWaitTimeout
  split
  · exact .same s
  · refine .ite (.same s) (.ite (.next (State.waitLost_keeps _ _ (.refl s))) (.next ?_))
    exact State.raiseStatus_keeps _ _ _ (State.endWait_keeps _ _ _ (.refl s))

theorem execStepClose_answers (c : Slot) (s : State) : Answers s (execStepClose c s) := by
  unfold execStepClose
  dsimp only
  split
  · exact .same s
  · exact .ite (.next (State.modStream_keeps _ _ (State.closeStep_keeps _ _ _ (.refl s)))) (.same s)

/-! ### The arrays and their cores -/

theorem execArrayPassEnd_answers (core : Fin 512) (a : ArrayKind) (s : State) :
    AnswersUnless (decide (s.sku.cores ≤ core.val)) s (execArrayPassEnd core a s) := by
  unfold execArrayPassEnd
  refine Answers.guarded ?_
  dsimp only
  split
  · exact .same s
  · next ps _ _ =>
    refine .ite (.same s) ?_
    split
    · exact .next (State.nextPass_keeps _ _ _ (.refl s))
    · next w _ =>
      have h := w.runPass_keeps core.val ps (.refl s)
      split
      · next e => exact .next (State.nextPass_keeps _ _ _ (.fst e h))
      · next e => exact .next (State.holdShadow_keeps _ _ _ (State.nextPass_keeps _ _ _ (.fst e h)))

theorem execTileDrain_answers (core : Fin 512) (s : State) :
    AnswersUnless (decide (s.sku.cores ≤ core.val)) s (execTileDrain core s) := by
  unfold execTileDrain
  refine Answers.guarded ?_
  split
  · exact .same s
  · next k rest _ =>
    have h : Keeps s { s with arrays := { s.arrays with drains := kvSet s.arrays.drains core.val rest } } :=
      .upd (.refl s) rfl rfl rfl
    dsimp only
    split
    · exact .next h
    · next sh _ =>
      refine .ite (.same s) ?_
      split
      · exact .next (State.freeShadow_keeps _ h)
      · next w _ =>
        have hdone := State.unitDone_keeps w sh.pass (w.drain_keeps core.val sh h)
        exact .ite (.next (State.freeShadow_keeps _ h))
          (.next (.ite (fun _ => hdone) (fun _ => State.freeShadow_keeps _ hdone)))

theorem execPlateHomeAdd_answers (k : Nat) (s : State) : Answers s (execPlateHomeAdd k s) :=
  .next (.ite (fun _ => .refl s) (fun _ => State.landAdd_keeps k (.refl s)))

theorem execBlinkCheck_answers (core : Fin 512) (s : State) :
    AnswersUnless (decide (s.sku.cores ≤ core.val)) s (execBlinkCheck core s) := by
  unfold execBlinkCheck
  refine Answers.guarded ?_
  split
  · exact .same s
  · refine .ite (.same s) (.next (State.blinkCompare_keeps _ (State.freeShadow_keeps _ ?_)))
    exact .upd (.refl s) rfl rfl rfl

theorem execCoreFailure_answers (core : Fin 512) (s : State) :
    AnswersUnless (decide (s.sku.cores ≤ core.val)) s (execCoreFailure core s) :=
  Answers.guarded (.ite (.same s) (.next (State.raise_keeps _ (State.failCore_keeps _ (.refl s)))))

theorem execClaimUnit_answers (c : Slot) (n : Nat) (core : Fin 512) (s : State) :
    AnswersUnless (decide (s.sku.cores ≤ core.val)) s (execClaimUnit c n core s) := by
  unfold execClaimUnit
  refine Answers.guarded ?_
  split
  · refine .ite (.same s) ?_
    extract_lets give
    have hgive {t : State} (u sub : Nat) (h : Keeps s t) : Keeps s (give t u sub) := by
      dsimp only [give]
      split
      · exact h
      · exact .upd h rfl rfl rfl
    split
    · exact .next (hgive _ _ (State.modRun_keeps _ _ _ (.refl s)))
    · refine .ite (.next (State.modRun_keeps _ _ _ (.refl s))) (.ite (.ite (.same s) ?_) ?_)
      · exact .next (hgive _ _ (State.modRun_keeps _ _ _ (State.store_keeps _ _ _ (.refl s))))
      · exact .next (hgive _ _ (State.modRun_keeps _ _ _ (.refl s)))
  · exact .same s

/-! ### Links, packets and collectives -/

theorem execCodewordReceive_answers (port : Fin 32) (cw : Codeword) (s : State) :
    AnswersUnless (decide (s.sku.ports ≤ port.val)) s (execCodewordReceive port cw s) :=
  Answers.guarded (.ite (.next (State.receiveCodeword_keeps _ _ (.refl s))) (.same s))

theorem execLinkCtrl_answers (port : Fin 32) (ctl : LinkCtrl) (s : State) :
    AnswersUnless (decide (s.sku.ports ≤ port.val)) s (execLinkCtrl port ctl s) := by
  unfold execLinkCtrl
  refine Answers.guarded (.ite (.same s) (.next (State.pumpPort_keeps _ ?_)))
  have h : Keeps s { s with fab := { s.fab with ctrls := s.fab.ctrls.erase (port, ctl) } } :=
    .upd (.refl s) rfl rfl rfl
  exact .ite (fun _ => State.replayFrom_keeps _ (State.modPort_keeps _ _ h)) (fun _ => State.modPort_keeps _ _ h)

theorem execAckTimeoutReplay_answers (port : Fin 32) (s : State) :
    AnswersUnless (decide (s.sku.ports ≤ port.val)) s (execAckTimeoutReplay port s) :=
  Answers.guarded (.ite (.next (State.replayFrom_keeps _ (.refl s))) (.same s))

theorem execLinkAcknowledgement_answers (port : Fin 32) (s : State) :
    AnswersUnless (decide (s.sku.ports ≤ port.val)) s (execLinkAcknowledgement port s) :=
  Answers.guarded (.ite (.next (State.acknowledge_keeps _ _ (.refl s))) (.same s))

theorem execLinkTraining_answers (port : Fin 32) (t : Training) (s : State) :
    AnswersUnless (decide (s.sku.ports ≤ port.val)) s (execLinkTraining port t s) :=
  Answers.guarded (.ite (.next (State.train_keeps _ _ _ (.refl s))) (.same s))

theorem execDownPortRetry_answers (port : Fin 32) (t : Training) (s : State) :
    AnswersUnless (decide (s.sku.ports ≤ port.val)) s (execDownPortRetry port t s) :=
  Answers.guarded (.ite (.next (State.train_keeps _ _ _ (.refl s))) (.same s))

theorem execPacketForward_answers (port : Fin 32) (p : Packet) (s : State) :
    AnswersUnless (decide (s.sku.ports ≤ port.val)) s (execPacketForward port p s) := by
  unfold execPacketForward
  refine Answers.guarded ?_
  have h := State.takeArrived_keeps p (.refl s)
  refine .ite (.next (State.route_keeps _ h)) (.ite (.next (State.tell_keeps _ _ _ (State.countDropped_keeps h))) ?_)
  split
  · next e => exact .next (.fst e (State.route_keeps _ h))
  · exact .next (State.lose_keeps _ _ _ h)

theorem execEndpointForwardExpiry_answers (die : Fin 8) (endpoint : Fin 16) (s : State) :
    AnswersUnless (decide (s.sku.dies ≤ die.val)) s (execEndpointForwardExpiry die endpoint s) :=
  Answers.guarded (.next (.upd (.refl s) rfl rfl rfl))

theorem execWritePacket_answers (p : Packet) (s : State) : Answers s (execWritePacket p s) := by
  refine .ite (.same s) (.next (State.deliver_keeps p true (.refl s) (fun t c h => ?_)))
  exact .ite (fun _ => State.dropLate_keeps _ _ h) (fun _ => State.ackPacket_keeps _ _ (State.store_keeps _ _ _ h))

theorem execAddPacket_answers (p : Packet) (s : State) : Answers s (execAddPacket p s) := by
  refine .ite (.same s) (.next (State.deliver_keeps p true (.refl s) (fun t c h => ?_)))
  have ht := State.touch_keeps c p.address.toNat 8 h
  exact .ite (fun _ => State.dropLate_keeps _ _ ht) (fun _ => State.ackPacket_keeps _ _ (State.store_keeps _ _ _ ht))

theorem execAck_answers (p : Packet) (s : State) : Answers s (execAck p s) :=
  .ite (.same s) (.next (State.deliver_keeps p false (.refl s) (fun _ _ h => State.resultOf_keeps _ _ h)))

theorem execLoss_answers (p : Packet) (s : State) : Answers s (execLoss p s) :=
  .ite (.same s) (.next (State.deliver_keeps p false (.refl s) (fun _ _ h => State.resultOf_keeps _ _ h)))

theorem execCollReady_answers (p : Packet) (s : State) : Answers s (execCollReady p s) := by
  refine .ite (.same s) (.next (State.deliver_keeps p false (.refl s) (fun t c h => ?_)))
  dsimp only
  split
  · exact State.takeReady_keeps _ _ h
  · exact .ite (fun _ => State.modCtx_keeps _ _ h) (fun _ => State.countDropAt_keeps _ h)

theorem execCollData_answers (p : Packet) (s : State) : Answers s (execCollData p s) := by
  refine .ite (.same s) (.next (State.deliver_keeps p true (.refl s) (fun t c h => ?_)))
  split
  · exact State.dropLate_keeps _ _ h
  · split
    · exact State.dropLate_keeps _ _ h
    · exact .ite (fun _ => State.takeData_keeps _ _ _ h)
        (fun _ => State.disagree_keeps _ (State.dropLate_keeps _ _ h))

theorem execCollectiveTimeout_answers (c : Slot) (n : Nat) (s : State) : Answers s (execCollectiveTimeout c n s) := by
  unfold execCollectiveTimeout
  split
  · exact .same s
  · exact .next (State.faultOp_keeps _ _ _ _ _ (.refl s))

/-! ### The Ephemeris and the Meridian -/

theorem execTickBoundary_answers (s : State) : Answers s (execTickBoundary s) := by
  have h : Keeps s ({ s with mer := s.mer.advance } : State).rootBeacons :=
    State.rootBeacons_keeps (.upd (.refl s) rfl rfl rfl)
  unfold execTickBoundary
  split
  · exact .next (State.boundary_keeps _ h)
  · exact .next h
  · exact .next h
  · exact .next h
  all_goals exact .same s

/-- The rows whose due entry acts: each act keeps. -/
theorem actDue_answers (mine : DueEntry → Bool) {act : State → DueEntry → State × U16}
    (hact : ∀ {s0 s : State} (d), Keeps s0 s → Keeps s0 (act s d).1) (s : State) :
    Answers s (.next (s.actDue mine act)) :=
  .next (State.actDue_keeps mine (.refl s) (fun _ d => hact d))

theorem execBarrier_answers (s : State) : Answers s (execBarrier s) := by
  unfold execBarrier
  split
  · exact .same s
  · next d rest _ =>
    have h : Keeps s { s with due := rest } := .upd (.refl s) rfl rfl rfl
    split
    · exact .same s
    · refine .ite (.same s) ?_
      dsimp only
      split
      · exact .ite (.next (State.modEph_keeps _ _ h)) (.next (State.postEph_keeps _ _ _ _ _ h))
      · exact .next (State.postEph_keeps _ _ _ _ _ h)

theorem execBarrierTimeout_answers (c : Slot) (s : State) : Answers s (execBarrierTimeout c s) := by
  unfold execBarrierTimeout
  split
  · exact .same s
  · refine .ite (.next (State.fireList_keeps _ _ (State.postEph_keeps _ _ _ _ _ ?_))) (.same s)
    exact State.writeEphHeader_keeps _ _ _ _ (State.miss_keeps _ _ _ _ (State.modEph_keeps _ _ (.refl s)))

theorem execRampEnd_answers (b : Nat) (fromModule : Bool) (s : State) :
    AnswersUnless (s.sku.blockKind b).isNone s (execRampEnd b fromModule s) :=
  Answers.guardedBool (.ite (.ite (.next (State.setBlock_keeps _ _ (.refl s) rfl)) (.same s))
    (.ite (.next (State.setBlock_keeps _ _ (.refl s) rfl)) (.same s)))

theorem execBeaconReceive_answers (b : Beacon) (s : State) :
    AnswersUnless (s.noSuchPort b) s (execBeaconReceive b s) := by
  have h : Keeps s { s with fab := { s.fab with beacons := s.fab.beacons.erase b } } := .upd (.refl s) rfl rfl rfl
  have hm := State.modMer_keeps (fun m => { m with heard := m.heard ++ [b] }) h
  refine Answers.guardedBool (.ite (.next h) ?_)
  dsimp only
  split
  · exact .next hm
  · next root _ =>
    have hr := State.noteRoots_keeps root hm
    exact .ite (.next (State.useBeacon_keeps _ hr)) (.next hr)

theorem execBeaconTimeout_answers (s : State) : Answers s (execBeaconTimeout s) :=
  .ite (.next (State.enterHoldover_keeps (.refl s))) (.same s)

theorem execHoldoverExpiry_answers (s : State) : Answers s (execHoldoverExpiry s) :=
  .ite (.next (State.enterLost_keeps (.refl s))) (.same s)

theorem execLostBeaconReturn_answers (s : State) : Answers s (execLostBeaconReturn s) :=
  .ite (.next (State.modMer_keeps _ (.refl s))) (.same s)

theorem execTickCodeChange_answers (s : State) : Answers s (execTickCodeChange s) := by
  unfold execTickCodeChange
  split
  · exact .same s
  · exact .ite (.next (State.modMer_keeps _ (.refl s))) (.same s)

theorem execAcquisitionComplete_answers (correctionNs : U32) (s : State) :
    Answers s (execAcquisitionComplete correctionNs s) := by
  refine .ite ?_ (.same s)
  have h := State.modMer_keeps (fun m => { m.to 1 with lastCorrection := correctionNs, wasSync := true }) (.refl s)
  have hr := Keeps.ite (c := s.mer.wasSync = true) (fun _ => State.raiseResync_keeps h) (fun _ => h)
  exact .ite (.next (State.finishStart_keeps hr)) (.next hr)

theorem execMeridianAcquireTimeout_answers (s : State) : Answers s (execMeridianAcquireTimeout s) :=
  .ite (.next (State.finishStart_keeps (.refl s))) (.same s)

/-! ### Images and replay -/

theorem execSnapshotCapturePage_answers (c : Slot) (s : State) : Answers s (execSnapshotCapturePage c s) := by
  unfold execSnapshotCapturePage
  split
  · exact .same s
  · next img _ =>
    refine .ite (.same s) ?_
    have h : Keeps s (match img.left with
        | [] => s
        | p :: _ => s.captureFirst c p) := by
      split
      · exact .refl s
      · exact State.captureFirst_keeps _ _ (.refl s)
    dsimp only
    split
    · exact .next h
    · exact .ite (.next (State.commitImage_keeps _ _ h)) (.next h)

theorem execSnapshotDemandCapture_answers (c : Slot) (page : Nat) (s : State) :
    Answers s (execSnapshotDemandCapture c page s) :=
  .ite (.same s) (.next (State.captureFirst_keeps _ _ (.refl s)))

theorem execRestoreExecute_answers (c : Slot) (s : State) : Answers s (execRestoreExecute c s) := by
  unfold execRestoreExecute
  split
  · exact .same s
  · refine .ite (.same s) ?_
    split
    · exact .next (State.restoreFails_keeps _ _ (.refl s))
    · exact .ite (.next (State.restoreImage_keeps _ _ (.refl s))) (.same s)

theorem execReplayRun_answers (c : Slot) (s : State) : Answers s (execReplayRun c s) := by
  unfold execReplayRun
  split
  · exact .same s
  · exact .ite (.same s) (.next (State.replayGo_keeps _ _ (.refl s)))

theorem execReplayCompare_answers (c : Slot) (s : State) : Answers s (execReplayCompare c s) := by
  unfold execReplayCompare
  split
  · exact .same s
  · exact .ite (.next (State.replayCompare_keeps _ _ (.refl s))) (.same s)

/-! ### Completion rings and the host link -/

theorem execModerationTimeout_answers (r : Ring) (s : State) : Answers s (execModerationTimeout r s) :=
  .ite (.next (State.ringMessage_keeps r (.refl s))) (.same s)

theorem execMsixUnmask_answers (f : Func) (v : Fin 64) (s : State) : Answers s (execMsixUnmask f v s) :=
  .ite (.same s) (.next (State.maskVector_keeps _ _ _ (.refl s)))

theorem execCompletionBacklogDrain_answers (r : Ring) (s : State) : Answers s (execCompletionBacklogDrain r s) :=
  .next (State.drainBacklog_keeps _ _ (.refl s))

theorem execBar2Read_answers (f : Func) (off len : Nat) (s : State) : Answers s (execBar2Read f off len s) := by
  refine .ite (.same s) (.ite (.next (State.emit_keeps _ (.refl s))) (.next (State.emit_keeps _ ?_)))
  exact Keeps.foldlOn (fun x : State × Bytes × Bool => x.1) (fun _ q h => State.readPart_keeps _ q h) (.refl s)

theorem execBar2Write_answers (f : Func) (off : Nat) (data : Bytes) (s : State) :
    Answers s (execBar2Write f off data s) :=
  .ite (.same s) (.ite (.next (State.emit_keeps _ (.refl s)))
    (.next (.foldl (fun _ q h => State.writePart_keeps _ q _ h) (.refl s))))

theorem execFlrVf_answers (c : Slot) (s : State) : Answers s (execFlrVf c s) :=
  .ite (.next (State.resetMsix_keeps _ (State.resetMailbox_keeps _ (State.flrSlot_keeps _ (.refl s))))) (.same s)

theorem execFlrPf_answers (s : State) : Answers s (execFlrPf s) :=
  .ite (.next (State.flrPf_keeps (.refl s))) (.same s)

theorem execHostLinkDown_answers (s : State) : Answers s (execHostLinkDown s) :=
  .ite (.next (State.linkDown_keeps (.refl s))) (.same s)

theorem execHostLinkUp_answers (rate : U16) (width : U8) (link : LinkSetting) (s : State) :
    Answers s (execHostLinkUp rate width link s) :=
  .ite (.same s) (.next (State.modHost_keeps _ (.refl s)))

theorem execVfEnableChange_answers (enable : Bool) (numVfs : Fin 17) (s : State) :
    Answers s (execVfEnableChange enable numVfs s) :=
  .ite (.next (State.modHost_keeps _ (.refl s))) (.same s)

/-! ### Pages, memories and the Logbook -/

theorem execPageMoveSwitch_answers (c : Slot) (page : Nat) (s : State) : Answers s (execPageMoveSwitch c page s) := by
  have h := Keeps.ite (c := s.lostPage c page = true) (fun _ => .refl s)
    (fun _ => State.startMove_keeps c page (.refl s))
  unfold execPageMoveSwitch
  dsimp only
  split
  · exact .next h
  · split
    · exact .next h
    · exact .ite (.next h) (.next (State.switchPage_keeps _ _ _ _ h))

theorem execResidentMoveIn_answers (c : Slot) (s : State) : Answers s (execResidentMoveIn c s) := by
  refine .ite ?_ (.same s)
  split
  · exact .next (State.moveIn_keeps _ _ _ _ (.refl s))
  · exact .same s

theorem execScrubPeriodStart_answers (corrected : List (Slot × Nat)) (uncorrectable : BadPlates) (s : State) :
    Answers s (execScrubPeriodStart corrected uncorrectable s) := by
  refine .ite (.same s) (.next ?_)
  refine .foldl (fun _ q h => State.addLatent_keeps _ q h) (.foldl (fun _ q h => State.addLatent_keeps _ q h) ?_)
  refine .foldl (fun _ q h => State.scrubBad_keeps q h) (.foldl (fun _ q h => State.scrubCorrected_keeps q h) ?_)
  exact .upd (State.endPeriod_keeps (.refl s)) rfl rfl rfl

theorem execDdrRetrain_answers (p : Fin 40) (s : State) :
    AnswersUnless (decide (s.sku.positions ≤ p.val)) s (execDdrRetrain p s) := Answers.guarded (.same s)

theorem execDramRefresh_answers (p : Fin 40) (s : State) :
    AnswersUnless (decide (s.sku.positions ≤ p.val)) s (execDramRefresh p s) := Answers.guarded (.same s)

theorem execFlashBackgroundWork_answers (d : Fin 8) (w : FlashWork) (s : State) :
    AnswersUnless (decide (s.sku.dies ≤ d.val)) s (execFlashBackgroundWork d w s) := by
  refine Answers.guarded (.ite (.same s) ?_)
  have h {f : List (Nat × FlashDie)} : Keeps s { s with tiers := { s.tiers with flash := f } } :=
    .upd (.refl s) rfl rfl rfl
  have hf {f : List (Nat × FlashDie)} := Keeps.foldl (l := w.latent) (fun _ q h => State.flashLatent_keeps d.val q h)
    (Keeps.foldl (l := w.failed) (fun _ q h => State.flashFail_keeps d.val q h) (h (f := f)))
  exact .ite (.next (State.raise_keeps _ (.upd hf rfl rfl rfl))) (.next (.upd hf rfl rfl rfl))

theorem execLogbookCommit_answers (s : State) : Answers s (execLogbookCommit s) := by
  unfold execLogbookCommit
  split
  · exact .same s
  · exact .ite (.same s) (.next (State.commitRecord_keeps _ _ (State.modLog_keeps _ (.refl s))))

theorem execMirrorWrite_answers (s : State) : Answers s (execMirrorWrite s) := by
  unfold execMirrorWrite
  split
  · exact .same s
  · exact .ite (.same s) (.next (State.modLog_keeps _ (.refl s)))

theorem execHoldupReady_answers (s : State) : Answers s (execHoldupReady s) :=
  .ite (.same s) (.next (State.modLog_keeps _ (.refl s)))

/-! ### Power and starts -/

theorem execPowerWindowEnd_answers (r : WindowReadings) (s : State) : Answers s (execPowerWindowEnd r s) := by
  refine .ite (.same s) (.next (State.verifyStaged_keeps (State.retireLimits_keeps (State.readSensors_keeps r ?_))))
  refine .upd (.foldl (l := s.sku.blocks) (fun _ b h => State.blockWindow_keeps r b h) ?_) rfl rfl rfl
  exact .upd (.refl s) rfl rfl rfl

theorem execThermalCap_answers (d : Fin 8) (tempMc : U32) (s : State) :
    AnswersUnless (decide (s.sku.dies ≤ d.val)) s (execThermalCap d tempMc s) :=
  Answers.guarded (.ite (.same s)
    (.next (State.raise_keeps _ (State.lowerAll_keeps (.upd (.refl s) rfl rfl rfl)))))

theorem execCoolantDerate_answers (inletMc flowMl : U32) (s : State) :
    Answers s (execCoolantDerate inletMc flowMl s) :=
  .ite (.next (State.raiseStatus_keeps _ _ _ (State.lowerAll_keeps (.upd (.refl s) rfl rfl rfl)))) (.same s)

theorem execSupplyDerate_answers (mv : U32) (s : State) : Answers s (execSupplyDerate mv s) :=
  .ite (.next (State.raiseStatus_keeps _ _ _ (State.lowerAll_keeps (.upd (.refl s) rfl rfl rfl)))) (.same s)

theorem execBusbarHigh_answers (mv : U32) (s : State) : Answers s (execBusbarHigh mv s) :=
  .ite (.next (State.raise_keeps _ (.upd (.refl s) rfl rfl rfl))) (.same s)

theorem execConditionCleared_answers (bits : U8) (die : Option (Fin 8)) (s : State) :
    Answers s (execConditionCleared bits die s) :=
  .ite (.same s) (.next (State.raise_keeps _ (.upd (.refl s) rfl rfl rfl)))

theorem execThermalStop_answers (cause : StopCause) (s : State) : Answers s (execThermalStop cause s) :=
  .ite (.next (State.thermalStop_keeps _ (.refl s))) (.same s)

theorem execLeakDetected_answers (s : State) : Answers s (execLeakDetected s) :=
  .ite (.next (State.thermalStop_keeps _ (.refl s)))
    (.ite (.next (State.raiseStatus_keeps _ _ _ (.refl s))) (.same s))

theorem execPowerLoss_answers (mv : U32) (overVolt : Bool) (s : State) : Answers s (execPowerLoss mv overVolt s) := by
  have hr {e : Event} : Keeps s (s.raise e) := State.raise_keeps e (.refl s)
  refine .ite (.next (.upd (State.keep_keeps false (State.commitOnHoldup_keeps _ ?_)) rfl rfl rfl)) (.same s)
  exact .iteOn Prod.fst (fun _ => hr) (fun _ => State.draw_keeps hr)

theorem execPowerOn_answers (f : StartFindings) (s : State) : Answers s (execPowerOn f s) :=
  .ite (.next (State.start_keeps _ _ _ _ (State.keep_keeps _ (.refl s)))) (.same s)

theorem execCoolantStartHoldExpiry_answers (now : Coolant) (f : StartFindings) (s : State) :
    Answers s (execCoolantStartHoldExpiry now f s) :=
  .ite (.ite (.next (State.startRest_keeps f (State.modStart_keeps _ (State.draw_keeps (.refl s)))))
    (.next (State.thermalStop_keeps _ (.refl s)))) (.same s)

/-! ### Plans, slots and repairs -/

theorem execRebindPlanStart_answers (s : State) : Answers s (execRebindPlanStart s) := by
  unfold execRebindPlanStart
  split
  · exact .ite (.next (State.startPlan_keeps _ (.refl s))) (.same s)
  · exact .same s

theorem execRebindDrainDone_answers (us : U32) (s : State) : Answers s (execRebindDrainDone us s) := by
  unfold execRebindDrainDone
  split
  · exact .same s
  · refine .ite (.same s) (.next (State.modRes_keeps _ ?_))
    exact .foldl (fun _ k h => State.cleanCore_keeps k h) (State.dropChecks_keeps _ (.refl s))

theorem execRebindSwitch_answers (writebackUs updateUs : U32) (s : State) :
    Answers s (execRebindSwitch writebackUs updateUs s) := by
  unfold execRebindSwitch
  split
  · exact .same s
  · exact .ite (.same s) (.next (State.planRecord_keeps _ _ (State.switchPlan_keeps _ _ _ (.refl s))))

theorem execPauseDone_answers (c : Slot) (s : State) : Answers s (execPauseDone c s) :=
  .ite (.next (State.setCtx_keeps _ _ (.refl s))) (.same s)

theorem execSlotFreed_answers (c : Slot) (s : State) : Answers s (execSlotFreed c s) :=
  .ite (.next (State.freeSlot_keeps _ (.refl s))) (.same s)

theorem execDieOutOfService_answers (s : State) : Answers s (execDieOutOfService s) := by
  unfold execDieOutOfService
  split
  · exact .same s
  · next r _ =>
    refine .ite (.same s) ?_
    split
    next u us e =>
      have hu : Keeps s u := .fst e (.iteOn Prod.fst (fun _ => State.draw_keeps (.refl s)) (fun _ => .refl s))
      exact .next (.foldl (fun _ n h => State.portStops_keeps n 3 h) (State.modRes_keeps _ hu))

theorem execDieReturn_answers (ok : Bool) (f : StartFindings) (outMs : U32) (s : State) :
    Answers s (execDieReturn ok f outMs s) := by
  unfold execDieReturn
  split
  · next r d _ _ =>
    split
    next t st e =>
      have ht : Keeps s t := .fst e (State.repairAction_keeps r ok (.refl s))
      suffices h : Keeps s _ from .ite (.next h) (.next (State.raise_keeps _ h))
      refine State.setRepair_keeps _ (State.portsReturn_keeps d f (.mapIf (State.dieUpdated_keeps d _) ?_))
      exact State.modRes_keeps _ (State.repairResume_keeps (.mapIf (State.restartTests_keeps d f) ht))
  · exact .same s

/-! ### Requests and their transports -/

theorem execStagedTransferExpiry_answers (ch : Channel) (s : State) : Answers s (execStagedTransferExpiry ch s) :=
  .ite (.next (State.modChan_keeps _ _ (.refl s))) (.same s)

theorem execAuthorisationExpiry_answers (ch : Channel) (s : State) : Answers s (execAuthorisationExpiry ch s) :=
  .ite (.next (State.modChan_keeps _ _ (.refl s))) (.same s)

theorem execChannelIdleExpiry_answers (ch : Channel) (s : State) : Answers s (execChannelIdleExpiry ch s) :=
  .ite (.same s) (.next (State.resetChan_keeps _ (.refl s)))

theorem execSubscriptionExpiry_answers (ch : Channel) (s : State) : Answers s (execSubscriptionExpiry ch s) :=
  .next (State.modCat_keeps _ (.refl s))

theorem execRequestMemoryExpiry_answers (ch : Channel) (seq : U16) (s : State) :
    Answers s (execRequestMemoryExpiry ch seq s) := .next (State.modCat_keeps _ (.refl s))

theorem execAttestSignComplete_answers (s : State) : Answers s (execAttestSignComplete s) := by
  have h := State.verifyStaged_keeps (.refl s)
  unfold execAttestSignComplete
  dsimp only
  split
  · exact .next h
  · exact .next (State.raise_keeps _ (.upd h rfl rfl rfl))

theorem execMbGo_answers (f : Func) (seq : U16) (area : Bytes) (s : State) : Answers s (execMbGo f seq area s) :=
  .ite (.next (State.mbGo_keeps _ _ (State.setArea_keeps _ _ (.refl s)))) (.same s)

theorem execMgmtDatagram_answers (addr : BitVec 128) (port : U16) (checksumOk : Bool) (payload : Bytes) (s : State) :
    Answers s (execMgmtDatagram addr port checksumOk payload s) := by
  have hd := State.discardMessage_keeps (.refl s)
  refine .ite (.same s) (.ite (.next hd) ?_)
  split
  · exact .next (State.sendReply_keeps _ _ (.refl s))
  · exact .ite (.next hd) (.next (State.enqueue_keeps _ (.refl s)))

theorem execMgmtPacket_answers (p : Packet) (s : State) : Answers s (execMgmtPacket p s) := by
  have h := State.takeArrived_keeps p (.refl s)
  refine .ite (.same s) (.ite (.next (State.countDropped_keeps h)) (.ite (.next (State.discardMessage_keeps h)) ?_))
  split
  · exact .next (State.sendReply_keeps _ _ h)
  · exact .next (State.enqueue_keeps _ h)

theorem execIcmpv6Frame_answers (kind : IcmpKind) (src : BitVec 128) (data : Bytes) (s : State) :
    Answers s (execIcmpv6Frame kind src data s) := by
  refine .ite (.same s) ?_
  cases kind with
  | neighborSolicitation => exact .next (State.emit_keeps _ (.refl s))
  | echoRequest => exact .next (State.emit_keeps _ (.refl s))
  | tagged => exact .same s
  | fragment => exact .same s

/-- The rows that serve the request at the front of the supervisor's queue. -/
theorem serveIf_answers (f : Option StartFindings) (is : Request → Bool) (s : State) :
    Answers s (.next (s.serveIf f is)) := .next (State.serveIf_keeps f is (.refl s))

/-! ### Every command -/

/-- Every command answers, and keeps what every command keeps, but one whose unit is missing, which stops by name. -/
theorem exec_answers (i : Instr) (s : State) : AnswersUnless (missingUnit s i) s (exec i s) := by
  cases i with
  | startStep => exact actDue_answers _ actStartStep_keeps s
  | ramp => exact actDue_answers _ actRamp_keeps s
  | snapshot => exact actDue_answers _ actSnapshot_keeps s
  | rebind => exact actDue_answers _ actRebind_keeps s
  | sample => exact actDue_answers _ actSample_keeps s
  | ephemerisMark => exact actDue_answers _ actMark_keeps s
  | phaseEntry => exact actDue_answers _ actPhase_keeps s
  | moduleEntry | ephemerisBaseWrite | tickCodeWrite | meridianRoleWrite | take | restore | delete | map
  | importImage | replayRequest | alloc | free | setClass | floorWrite | bind | release | pause | resume
  | rebindRequest | firmware | coreSpare | ddrRetire | laneSpare | watchFlagsClear | submitRingBaseWrite | read
  | write | describe | authorise | subscribe | nextIndex | readRecords | userCorrectionWrite
  | clearUserCorrections | clearLearnedCorrections | clearAllCorrections | moduleNumberWrite | routeTableWrite
  | perfPointWrite | envelopeWrite | modulePowerCapWrite | authorityKeyWrite | rollbackRaise | attestRequest
  | operatorExtend | logbookClear | stage | installAll | discard | warmModuleReset f | coldModuleReset f
  | recoveryImageWrite f | groupTableBaseWrite =>
    exact serveIf_answers _ _ s
  | forward c n | dataGrad c n | weightGrad c n =>
    exact startOp_answers c n _ beginProduct_keeps s
  | rmsFwd c n | lnFwd c n | softmaxFwd c n | rmsBwd c n | lnBwd c n | softmaxBwd c n =>
    exact startOp_answers c n _ beginRow_keeps s
  | vectorCopy c n | convert c n =>
    exact startOp_answers c n _ beginVector_keeps s
  | add c n | sub c n | mul c n | fma c n | div c n | min c n | max c n | abs c n | neg c n | sqrt c n
  | rsqrt c n | rcp c n | exp c n | relu c n | leaky c n | gelu c n | silu c n | sigmoid c n | select c n
  | maskScale c n | dropoutMask c n | signMask c n | sumsq c n | absmax c n | adamw c n | sgdm c n =>
    exact vectorRow_answers c n _ s
  | copy c n =>
    exact startOp_answers c n _ beginCopy_keeps s
  | allReduce c n | reduceScatter c n | allGather c n | broadcast c n | send c n | recv c n =>
    exact startColl_answers c n _ s
  | waitDrain c n | waitMeridian c n | wordGe c n | wordEq c n =>
    exact startOp_answers c n _ beginWait_keeps s
  | markWrite c n | markAdd c n | markPost c n =>
    exact startOp_answers c n _ beginMark_keeps s
  | tickBoundary => exact execTickBoundary_answers s
  | barrier => exact execBarrier_answers s
  | barrierTimeout c => exact execBarrierTimeout_answers c s
  | rampEnd b fromModule => exact execRampEnd_answers b fromModule s
  | beaconReceive b => exact execBeaconReceive_answers b s
  | acquisitionComplete correctionNs => exact execAcquisitionComplete_answers correctionNs s
  | beaconTimeout => exact execBeaconTimeout_answers s
  | holdoverExpiry => exact execHoldoverExpiry_answers s
  | lostBeaconReturn => exact execLostBeaconReturn_answers s
  | tickCodeChange => exact execTickCodeChange_answers s
  | listWalk c => exact execListWalk_answers c s
  | waitSatisfied c n => exact execWaitSatisfied_answers c n s
  | waitTimeout c n => exact execWaitTimeout_answers c n s
  | arrayPassEnd core a => exact execArrayPassEnd_answers core a s
  | tileDrain core => exact execTileDrain_answers core s
  | plateHomeAdd k => exact execPlateHomeAdd_answers k s
  | claimUnit c n core => exact execClaimUnit_answers c n core s
  | operationComplete c n => exact execOperationComplete_answers c n s
  | moderationTimeout r => exact execModerationTimeout_answers r s
  | msixUnmask f v => exact execMsixUnmask_answers f v s
  | completionBacklogDrain r => exact execCompletionBacklogDrain_answers r s
  | blinkCheck core => exact execBlinkCheck_answers core s
  | stepClose c => exact execStepClose_answers c s
  | snapshotCapturePage c => exact execSnapshotCapturePage_answers c s
  | snapshotDemandCapture c page => exact execSnapshotDemandCapture_answers c page s
  | restoreExecute c => exact execRestoreExecute_answers c s
  | replayRun c => exact execReplayRun_answers c s
  | replayCompare c => exact execReplayCompare_answers c s
  | bar2Read f off len => exact execBar2Read_answers f off len s
  | bar2Write f off data => exact execBar2Write_answers f off data s
  | pageMoveSwitch c page => exact execPageMoveSwitch_answers c page s
  | residentMoveIn c => exact execResidentMoveIn_answers c s
  | scrubPeriodStart corrected uncorrectable => exact execScrubPeriodStart_answers corrected uncorrectable s
  | ddrRetrain p => exact execDdrRetrain_answers p s
  | dramRefresh p => exact execDramRefresh_answers p s
  | flashBackgroundWork d w => exact execFlashBackgroundWork_answers d w s
  | slotFreed c => exact execSlotFreed_answers c s
  | pauseDone c => exact execPauseDone_answers c s
  | rebindPlanStart => exact execRebindPlanStart_answers s
  | rebindDrainDone us => exact execRebindDrainDone_answers us s
  | rebindSwitch writebackUs updateUs => exact execRebindSwitch_answers writebackUs updateUs s
  | dieOutOfService => exact execDieOutOfService_answers s
  | dieReturn ok f outMs => exact execDieReturn_answers ok f outMs s
  | coreFailure core => exact execCoreFailure_answers core s
  | flrVf c => exact execFlrVf_answers c s
  | flrPf => exact execFlrPf_answers s
  | hostLinkDown => exact execHostLinkDown_answers s
  | mbGo f seq area => exact execMbGo_answers f seq area s
  | mgmtDatagram addr port checksumOk payload => exact execMgmtDatagram_answers addr port checksumOk payload s
  | mgmtPacket p => exact execMgmtPacket_answers p s
  | stagedTransferExpiry ch => exact execStagedTransferExpiry_answers ch s
  | authorisationExpiry ch => exact execAuthorisationExpiry_answers ch s
  | channelIdleExpiry ch => exact execChannelIdleExpiry_answers ch s
  | subscriptionExpiry ch => exact execSubscriptionExpiry_answers ch s
  | attestSignComplete => exact execAttestSignComplete_answers s
  | powerOn f => exact execPowerOn_answers f s
  | meridianAcquireTimeout => exact execMeridianAcquireTimeout_answers s
  | coolantStartHoldExpiry recovered f => exact execCoolantStartHoldExpiry_answers recovered f s
  | holdupReady => exact execHoldupReady_answers s
  | powerWindowEnd r => exact execPowerWindowEnd_answers r s
  | thermalCap d tempMc => exact execThermalCap_answers d tempMc s
  | coolantDerate inletMc flowMl => exact execCoolantDerate_answers inletMc flowMl s
  | supplyDerate mv => exact execSupplyDerate_answers mv s
  | busbarHigh mv => exact execBusbarHigh_answers mv s
  | conditionCleared bits die => exact execConditionCleared_answers bits die s
  | thermalStop cause => exact execThermalStop_answers cause s
  | leakDetected => exact execLeakDetected_answers s
  | powerLoss mv overVolt => exact execPowerLoss_answers mv overVolt s
  | logbookCommit => exact execLogbookCommit_answers s
  | mirrorWrite => exact execMirrorWrite_answers s
  | codewordReceive port cw => exact execCodewordReceive_answers port cw s
  | linkCtrl port ctl => exact execLinkCtrl_answers port ctl s
  | ackTimeoutReplay port => exact execAckTimeoutReplay_answers port s
  | linkTraining port t => exact execLinkTraining_answers port t s
  | downPortRetry port t => exact execDownPortRetry_answers port t s
  | writePacket p => exact execWritePacket_answers p s
  | addPacket p => exact execAddPacket_answers p s
  | collReady p => exact execCollReady_answers p s
  | collData p => exact execCollData_answers p s
  | ack p => exact execAck_answers p s
  | loss p => exact execLoss_answers p s
  | collectiveTimeout c n => exact execCollectiveTimeout_answers c n s
  | endpointForwardExpiry die endpoint => exact execEndpointForwardExpiry_answers die endpoint s
  | hostLinkUp rate width link => exact execHostLinkUp_answers rate width link s
  | packetForward port p => exact execPacketForward_answers port p s
  | vfEnableChange enable numVfs => exact execVfEnableChange_answers enable numVfs s
  | linkAcknowledgement port => exact execLinkAcknowledgement_answers port s
  | requestMemoryExpiry ch seq => exact execRequestMemoryExpiry_answers ch seq s
  | icmpv6Frame kind src data => exact execIcmpv6Frame_answers kind src data s

/-- A command that answers keeps what every command keeps. -/
theorem exec_keeps {i : Instr} {s t : State} (h : exec i s = .next t) : Keeps s t :=
  AnswersUnless.keeps (h ▸ exec_answers i s)

theorem step_of_pending {s : State} {c : Instr} {rest : List Instr} (hs : s.pending = c :: rest) :
    step s = exec c { s with pending := rest } := by
  rw [step, hs]

/-- A step keeps what every command keeps, from the state with the queue's rest. -/
theorem step_keeps {s t : State} {c : Instr} {rest : List Instr} (hs : s.pending = c :: rest) (h : step s = .next t) :
    Keeps { s with pending := rest } t :=
  exec_keeps (step_of_pending hs ▸ h)

/-- Settles O2: a command stops by name where its unit is missing, and answers a next state everywhere else. -/
theorem commandsComplete : Obligations.CommandsComplete := by
  intro i s
  have h := exec_answers i s
  cases hm : missingUnit s i <;> rw [hm] at h
  case false =>
    obtain ⟨t, ht, -⟩ := h
    exact ⟨t, ht⟩
  case true => exact h

/-- Settles O3: no command touches the queue's rest or the SKU, nor lowers the two counters. -/
theorem stepFollows : Obligations.StepFollows := by
  intro s t c rest hs h
  have hk := step_keeps hs h
  exact ⟨hk.pending, hk.follows.sku, hk.follows.rollback, hk.follows.free⟩

end Sys2Proof.Machine

namespace Sys2Proof.Machine

/-! ### Fields of a plate (R37, R38, R41) -/

theorem testBit_getBits (p o w k : Nat) : (getBits p o w).testBit k = (decide (k < w) && p.testBit (o + k)) := by
  rw [getBits, Nat.testBit_mod_two_pow, Nat.testBit_shiftRight]

/-- What stands above the field, the field, and what stands below it. -/
theorem setBits_eq (p o w v : Nat) :
    setBits p o w v = 2 ^ o * (2 ^ w * (p >>> (o + w)) + v % 2 ^ w) + p % 2 ^ o := by
  have hp : p = 2 ^ o * (2 ^ w * (p >>> (o + w)) + getBits p o w) + p % 2 ^ o := by
    rw [getBits, Nat.shiftRight_add, Nat.shiftRight_eq_div_pow _ w, Nat.div_add_mod, Nat.shiftRight_eq_div_pow,
      Nat.div_add_mod]
  rw [setBits]
  generalize p >>> (o + w) = hi at *
  generalize getBits p o w = mid at *
  generalize p % 2 ^ o = lo at *
  subst hp
  grind

theorem testBit_setBits (p o w v k : Nat) :
    (setBits p o w v).testBit k =
      if k < o then p.testBit k else if k < o + w then v.testBit (k - o) else p.testBit k := by
  rw [setBits_eq, Nat.testBit_two_pow_mul_add _ (Nat.mod_lt _ (Nat.two_pow_pos o)), Nat.testBit_mod_two_pow,
    Nat.testBit_two_pow_mul_add _ (Nat.mod_lt _ (Nat.two_pow_pos w)), Nat.testBit_mod_two_pow, Nat.testBit_shiftRight]
  grind

theorem getBits_setBits_same (p o w v : Nat) : getBits (setBits p o w v) o w = v % 2 ^ w := by
  apply Nat.eq_of_testBit_eq
  intro k
  rw [testBit_getBits, testBit_setBits, Nat.testBit_mod_two_pow]
  grind

/-- A field keeps its value where another one, that it does not meet, is written. -/
theorem getBits_setBits_other {o w o' w' : Nat} (p v : Nat) (h : o' + w' ≤ o ∨ o + w ≤ o') :
    getBits (setBits p o w v) o' w' = getBits p o' w' := by
  apply Nat.eq_of_testBit_eq
  intro k
  rw [testBit_getBits, testBit_getBits, testBit_setBits]
  grind

/-- The elements of a plate do not meet (R38). -/
theorem plateCode_setPlateCode (f : Fmt) (p i j v : Nat) :
    plateCode f (setPlateCode f p i v) j = if j = i then v % 2 ^ f.bits else plateCode f p j := by
  unfold plateCode setPlateCode
  split
  · next h => rw [h, getBits_setBits_same]
  · next h =>
    apply getBits_setBits_other
    have hlt : j < i ∨ i < j := by omega
    refine hlt.imp (fun h => ?_) (fun h => ?_)
    · have := Nat.mul_le_mul_left f.bits (Nat.succ_le_of_lt h)
      grind
    · have := Nat.mul_le_mul_left f.bits (Nat.succ_le_of_lt h)
      grind

/-! ### Little-endian bytes (R7) -/

theorem leNat_drop (b : Bytes) (k : Nat) : leNat (b.drop k) = leNat b / 2 ^ (8 * k) := by
  induction k generalizing b with
  | zero => simp
  | succ k ih =>
    cases b with
    | nil => simp [leNat]
    | cons x xs =>
      have hx : leNat (x :: xs) / 256 = leNat xs := by simp only [leNat]; omega
      rw [List.drop_succ_cons, ih, ← hx, Nat.div_div_eq_div_mul, Nat.mul_succ, Nat.pow_add, Nat.mul_comm]

theorem leNat_take (b : Bytes) (n : Nat) : leNat (b.take n) = leNat b % 2 ^ (8 * n) := by
  induction n generalizing b with
  | zero => simp [leNat, Nat.mod_one]
  | succ n ih =>
    cases b with
    | nil => simp [leNat]
    | cons x xs =>
      have hx := x.isLt
      have hdiv : (x.toNat + 256 * leNat xs) / 256 = leNat xs := by omega
      have hmod : (x.toNat + 256 * leNat xs) % 256 = x.toNat := by omega
      rw [List.take_succ_cons, leNat, leNat, ih, Nat.mul_succ, Nat.pow_add, Nat.mul_comm (2 ^ (8 * n)), Nat.mod_mul,
        show (2 : Nat) ^ 8 = 256 from rfl, hdiv, hmod]

theorem leNat_zeros (n : Nat) : leNat (zeros n) = 0 := by
  induction n with
  | zero => rfl
  | succ n ih => rw [zeros, List.replicate_succ, leNat, ← zeros, ih]; rfl

theorem leNat_append_zeros (b : Bytes) (n : Nat) : leNat (b ++ zeros n) = leNat b := by
  induction b with
  | nil => exact leNat_zeros n
  | cons x xs ih => rw [List.cons_append, leNat, leNat, ih]

theorem leNat_slice (b : Bytes) (o n : Nat) : leNat (slice b o n) = leNat b / 2 ^ (8 * o) % 2 ^ (8 * n) := by
  rw [slice, ← zeros, leNat_append_zeros, leNat_take, leNat_drop]

theorem leNat_byte (b : Bytes) (k : Nat) : leNat b / 2 ^ (8 * k) % 256 = (b.getD k 0).toNat := by
  rw [← leNat_drop, List.getD_eq_getElem?_getD, ← Nat.add_zero k, ← List.getElem?_drop, Nat.add_zero]
  cases b.drop k with
  | nil => rfl
  | cons x xs =>
    have hx := x.isLt
    simp only [leNat, List.getElem?_cons_zero, Option.getD_some]
    omega

/-- A field of bits that begins in byte `k`. -/
theorem getBits_leNat (b : Bytes) (k r w : Nat) :
    getBits (leNat b) (8 * k + r) w = leNat b / 2 ^ (8 * k) / 2 ^ r % 2 ^ w := by
  rw [getBits, Nat.shiftRight_eq_div_pow, Nat.pow_add, Nat.div_div_eq_div_mul]

/-- A field of bits that lies in byte `k`. -/
theorem getBits_byte (b : Bytes) (k : Nat) {r w : Nat} (h : r + w ≤ 8) :
    getBits (leNat b) (8 * k + r) w = (b.getD k 0).toNat / 2 ^ r % 2 ^ w := by
  have hdvd : 2 ^ r * 2 ^ w ∣ 256 := by
    rw [← Nat.pow_add]
    exact Nat.pow_dvd_pow 2 h
  rw [getBits_leNat, ← leNat_byte]
  generalize leNat b / 2 ^ (8 * k) = x
  rw [← Nat.mod_mul_right_div_self, ← Nat.mod_mul_right_div_self, Nat.mod_mod_of_dvd _ hdvd]

theorem getBits_whole_byte (b : Bytes) (k : Nat) : getBits (leNat b) (8 * k) 8 = (b.getD k 0).toNat := by
  have h := getBits_byte b k (r := 0) (w := 8) (by omega)
  have hlt := (b.getD k 0).isLt
  simp only [Nat.add_zero, Nat.pow_zero, Nat.div_one] at h
  omega

theorem getBits_two_bytes (b : Bytes) (k : Nat) :
    getBits (leNat b) (8 * k) 16 = (b.getD k 0).toNat + 256 * (b.getD (k + 1) 0).toNat := by
  rw [← leNat_byte, ← leNat_byte, Nat.mul_succ, Nat.pow_add, ← Nat.div_div_eq_div_mul, getBits,
    Nat.shiftRight_eq_div_pow]
  omega

theorem tag_fields (b : Bytes) :
    tagFormat (leNat b) = (b.getD 0 0).toNat % 8 ∧ tagOutlier (leNat b) = (b.getD 0 0).getLsbD 3 ∧
      tagEpoch (leNat b) = (b.getD 0 0).toNat / 16 := by
  have h := leNat_byte b 0
  simp only [Nat.mul_zero, Nat.pow_zero, Nat.div_one] at h
  refine ⟨?_, ?_, ?_⟩
  · unfold tagFormat; omega
  · rw [tagOutlier, ← BitVec.testBit_toNat, ← h, Nat.testBit_eq_decide_div_mod_eq]
    exact decide_eq_decide.2 (by omega)
  · unfold tagEpoch; omega

theorem plateScale_leNat (b : Bytes) (j : Nat) : plateScale (leNat b) j = (b.getD (1 + j) 0).toNat := by
  rw [← getBits_whole_byte, plateScale]
  congr 1; omega

theorem plateCode_f4 (b : Bytes) (i : Nat) : plateCode .f4 (leNat b) i =
    if i % 2 = 0 then (b.getD (8 + i / 2) 0).toNat % 16 else (b.getD (8 + i / 2) 0).toNat / 16 := by
  have hplace : 8 * 8 + 4 * i = 8 * (8 + i / 2) + 4 * (i % 2) := by omega
  have hlt := (b.getD (8 + i / 2) 0).isLt
  rw [plateCode, Fmt.first, Fmt.bits, hplace, getBits_byte b _ (by omega)]
  split
  · next h => simp [h]
  · next h =>
    rw [show i % 2 = 1 by omega]
    omega

theorem plateCode_f8 (b : Bytes) (i : Nat) : plateCode .f8 (leNat b) i = (b.getD (4 + i) 0).toNat := by
  rw [← getBits_whole_byte, plateCode, Fmt.first, Fmt.bits, Nat.mul_add]

theorem plateCode_b8 (b : Bytes) (i : Nat) : plateCode .b8 (leNat b) i = (b.getD (8 + i) 0).toNat := by
  rw [← getBits_whole_byte, plateCode, Fmt.first, Fmt.bits, Nat.mul_add]

theorem plateCode_b6 (b : Bytes) (i : Nat) :
    plateCode .b6 (leNat b) i = leNat (b.drop 10) / 2 ^ (6 * i) % 64 := by
  rw [plateCode, Fmt.first, Fmt.bits, getBits_leNat, leNat_drop]
  rfl

theorem plateCode_bf16 (b : Bytes) (i : Nat) : plateCode .bf16 (leNat b) i =
    (b.getD (2 * i) 0).toNat + 256 * (b.getD (2 * i + 1) 0).toNat := by
  rw [← getBits_two_bytes]
  exact congrArg (getBits _ · 16) (by simp only [Fmt.first, Fmt.bits]; omega)

theorem plateCode_fp32 (b : Bytes) (i : Nat) : plateCode .fp32 (leNat b) i = leNat (slice b (4 * i) 4) := by
  have hplace : 8 * Fmt.fp32.first + Fmt.fp32.bits * i = 8 * (4 * i) := by simp only [Fmt.first, Fmt.bits]; omega
  rw [leNat_slice, plateCode, hplace, getBits, Nat.shiftRight_eq_div_pow]
  rfl

theorem plateCode_mask (b : Bytes) (i : Nat) :
    plateCode .mask (leNat b) i = (b.getD (i / 8) 0).toNat / 2 ^ (i % 8) % 2 := by
  have hplace : 8 * Fmt.mask.first + Fmt.mask.bits * i = 8 * (i / 8) + i % 8 := by
    simp only [Fmt.first, Fmt.bits]; omega
  rw [plateCode, hplace, Fmt.bits, getBits_byte b _ (by omega), Nat.pow_one]

/-! ### Rounding a value that a format holds (R22 to R27) -/

theorem bitLen_le_iff {m n : Nat} : bitLen m ≤ n ↔ m < 2 ^ n := by
  unfold bitLen
  split
  · next h => simp [h]
  · next h => rw [Nat.add_one_le_iff, Nat.log2_lt h]

/-- The value `k × 2^q` of a significand of `p` bits at its own unit, or at the least one, is its own code: nothing is
cut off, however many zero bits `d` follow the significand. -/
theorem floorCode_exact {p k : Nat} {qmin q : Int} (d : Nat) (hk : k < 2 ^ p)
    (hq : q = qmin ∨ (qmin ≤ q ∧ 2 ^ (p - 1) ≤ k)) :
    floorCode p qmin (k * 2 ^ d) (q - d) = ((q - qmin).toNat * 2 ^ (p - 1) + k, 0, 2 ^ d) := by
  have hunit : max (q - d + (bitLen (k * 2 ^ d) : Int) - p) qmin = q := by
    have hle : bitLen (k * 2 ^ d) ≤ p + d := by
      rw [bitLen_le_iff, Nat.pow_add]
      exact Nat.mul_lt_mul_of_pos_right hk (Nat.two_pow_pos d)
    obtain rfl | ⟨hmin, hnorm⟩ := hq
    · omega
    · have hp : p ≠ 0 := by rintro rfl; simp_all
      have hge : ¬ bitLen (k * 2 ^ d) ≤ p - 1 + d := by
        rw [bitLen_le_iff, Nat.pow_add, Nat.not_lt]
        exact Nat.mul_le_mul_right _ hnorm
      omega
  simp only [floorCode, hunit]
  have hsh : (q - d - q).toNat = 0 := by omega
  have hd : (q - (q - d)).toNat = d := by omega
  rw [hsh, hd]
  simp

/-- A magnitude that floorCode finds exactly, and that is not above the format's largest, takes its code and the sign,
in either rounding mode. -/
theorem roundCode_exact {f : Fmt} {m code gap : Nat} {e : Int} (neg : Bool) (r12 : Option Nat)
    (hcode : floorCode f.shape.1 f.shape.2.1 m e = (code, 0, gap)) (htop : code ≤ f.shape.2.2) :
    roundCode f neg m e false r12 = (code + if neg then f.signBit else 0, Fl.none) := by
  unfold roundCode
  simp [hcode, Nat.not_lt.2 htop]

/-! #### Element codes -/

/-- The significand of a code fits the format, at the least unit where the code is subnormal and with its top bit set
elsewhere, and the code counts the magnitudes below it. -/
theorem parts_spec {f : Fmt} {code : Nat} (hf : f.scaled = true) (hm : (f.parts code).1 ≠ 0) :
    (f.parts code).1 < 2 ^ f.shape.1 ∧
      ((f.parts code).2 = f.shape.2.1 ∨
        (f.shape.2.1 ≤ (f.parts code).2 ∧ 2 ^ (f.shape.1 - 1) ≤ (f.parts code).1)) ∧
      ((f.parts code).2 - f.shape.2.1).toNat * 2 ^ (f.shape.1 - 1) + (f.parts code).1 = code % f.signBit := by
  cases f
  case f4 | f8 => simp only [Fmt.parts, Fmt.forward, fwdParts, Fmt.shape, Fmt.signBit] at *; grind
  case b6 | b8 => simp only [Fmt.parts, Fmt.forward, gradParts, Fmt.shape, Fmt.signBit] at *; grind
  case bf16 | fp32 | mask => simp [Fmt.scaled] at hf

theorem floorCode_parts {f : Fmt} {code : Nat} (hf : f.scaled = true) (hm : (f.parts code).1 ≠ 0) :
    floorCode f.shape.1 f.shape.2.1 (f.parts code).1 (f.parts code).2 = (code % f.signBit, 0, 1) := by
  obtain ⟨hfits, hunit, hcode⟩ := parts_spec hf hm
  simpa [hcode] using floorCode_exact 0 hfits hunit

/-- Every finite code is at most the format's largest. -/
theorem code_le_top {f : Fmt} {code : Nat} (hf : f.scaled = true) (hfin : specialElCode f code = false) :
    code % f.signBit ≤ f.shape.2.2 := by
  cases f
  case f4 | b6 => simp only [Fmt.signBit, Fmt.shape]; omega
  case f8 | b8 => simp only [Fmt.signBit, Fmt.shape, specialElCode, beq_eq_false_iff_ne] at *; omega
  case bf16 | fp32 | mask => simp [Fmt.scaled] at hf

/-- A code is its magnitude and its sign. -/
theorem code_eq_sign {f : Fmt} {code : Nat} (hf : f.scaled = true) (hlt : code < 2 ^ f.bits) :
    code % f.signBit + (if codeNeg f code then f.signBit else 0) = code := by
  cases f
  case f4 | f8 | b6 | b8 => simp only [Fmt.signBit, Fmt.bits, codeNeg] at *; grind
  case bf16 | fp32 | mask => simp [Fmt.scaled] at hf

theorem roundCode_parts {f : Fmt} {code : Nat} (r12 : Option Nat) (hf : f.scaled = true) (hlt : code < 2 ^ f.bits)
    (hfin : specialElCode f code = false) (hm : (f.parts code).1 ≠ 0) :
    roundCode f (codeNeg f code) (f.parts code).1 (f.parts code).2 false r12 = (code, Fl.none) := by
  rw [roundCode_exact _ _ (floorCode_parts hf hm) (code_le_top hf hfin), code_eq_sign hf hlt]

/-! #### BF16 -/

/-- The value of a BF16 pattern, whose fraction is the upper 7 bits of the FP32 one's. -/
theorem fval_bf16To32 {x : Nat} (hx : x < 65536) : fval (bf16To32 x) =
    if x / 128 % 256 = 255 then (if x % 128 = 0 then .inf (decide (0x8000 ≤ x)) else .nan)
    else if x / 128 % 256 = 0 then .fin (decide (0x8000 ≤ x)) (x % 128 * 2 ^ 16) (-133 - (16 : Nat))
    else .fin (decide (0x8000 ≤ x)) ((128 + x % 128) * 2 ^ 16) ((x / 128 % 256 : Nat) - 134 - (16 : Nat)) := by
  have hbits : (bf16To32 x).toNat = x * 65536 := by rw [bf16To32, BitVec.toNat_ofNat]; omega
  have hmsb : (bf16To32 x).msb = decide (0x8000 ≤ x) := by
    rw [BitVec.msb_eq_decide, hbits]
    exact decide_eq_decide.2 (by omega)
  have hef : x * 65536 / 2 ^ 23 % 256 = x / 128 % 256 := by omega
  have hfr : x * 65536 % 2 ^ 23 = x % 128 * 2 ^ 16 := by omega
  simp only [fval, hbits, hmsb, hef, hfr]
  grind

/-- A magnitude that BF16 holds takes its own code. -/
theorem toBf16_exact {u : F32} {n : Bool} {k code : Nat} {q : Int} (r12 : Option Nat)
    (hu : fval u = .fin n (k * 2 ^ 16) (q - (16 : Nat))) (hk : k < 2 ^ 8) (hq : q = -133 ∨ (-133 ≤ q ∧ 2 ^ 7 ≤ k))
    (hcode : (q + 133).toNat * 2 ^ 7 + k = code) (htop : code ≤ 0x7F7F) :
    toBf16 u r12 = (code + if n then 0x8000 else 0, Fl.none) := by
  have hfloor : floorCode 8 (-133) (k * 2 ^ 16) (q - (16 : Nat)) = (code, 0, 2 ^ 16) := by
    rw [floorCode_exact 16 hk hq, Int.sub_neg, hcode]
  simp only [toBf16, hu, roundCode_exact (f := .bf16) n r12 hfloor htop]
  rfl

theorem toBf16_bf16To32 {x : Nat} (r12 : Option Nat) (hx : x < 65536) :
    toBf16 (bf16To32 x) r12 = (if isNan (bf16To32 x) then 0x7FC0 else x, Fl.none) := by
  have hval := fval_bf16To32 hx
  split_ifs at hval with hspecial hinf hsub
  · simp only [toBf16, isNan, hval]
    grind
  · simp only [toBf16, isNan, hval]
    rfl
  · rw [toBf16_exact r12 hval (by omega) (.inl rfl) rfl (by omega)]
    simp only [isNan, hval]
    grind
  · rw [toBf16_exact r12 hval (by omega) (.inr (by omega)) rfl (by omega)]
    simp only [isNan, hval]
    grind

/-! ### What an FP32 operation gives (R28, R149) -/

/-- If an operation gives a NaN, it is the canonical one (R28). -/
def CanonicalNaN (r : F32 × Fl) : Prop := isNan r.1 = true → r.1 = nan32

theorem canonicalNaN_nan32 {fl : Fl} : CanonicalNaN (nan32, fl) := fun _ => rfl

theorem CanonicalNaN.of_not_nan {x : F32} {fl : Fl} (h : isNan x = false) : CanonicalNaN (x, fl) :=
  fun hx => absurd hx (by simp [h])

theorem canonicalNaN_inf32 {n : Bool} {fl : Fl} : CanonicalNaN (inf32 n, fl) := by
  cases n <;> exact .of_not_nan rfl

theorem canonicalNaN_zero32 {n : Bool} {fl : Fl} : CanonicalNaN (zero32 n, fl) := by
  cases n <;> exact .of_not_nan rfl

/-- A NaN's exponent field is all ones (R21). -/
theorem isNan_eq_false {x : F32} (h : (x.toNat / 2 ^ 23) % 256 ≠ 255) : isNan x = false := by
  unfold isNan fval
  grind

/-- A code below that of the infinity is no NaN, with either sign. -/
theorem isNan_ofNat {code : Nat} (neg : Bool) (h : code < 0x7F800000) :
    isNan (BitVec.ofNat 32 (code + if neg then 2 ^ 31 else 0)) = false := by
  apply isNan_eq_false
  rw [BitVec.toNat_ofNat]
  cases neg
  · simp only [Bool.false_eq_true, if_false]; omega
  · simp only [if_true]; omega

/-- Rounding gives an infinity, a zero, or a code below that of the infinity. -/
theorem canonicalNaN_roundF {sub neg sticky : Bool} {m : Nat} {e : Int} :
    CanonicalNaN (roundF sub neg m e sticky) := by
  unfold roundF
  split
  · exact canonicalNaN_zero32
  · dsimp only
    split
    · exact canonicalNaN_inf32
    · next hlt =>
      split
      · split <;> exact canonicalNaN_zero32
      · exact .of_not_nan (isNan_ofNat neg (by omega))

theorem canonicalNaN_fmaF (sub : Bool) (a b c : F32) : CanonicalNaN (fmaF sub a b c) := by
  unfold fmaF
  split
  case h_5 =>
    split
    · exact canonicalNaN_nan32
    · exact canonicalNaN_inf32
    · dsimp only
      split
      · exact canonicalNaN_zero32
      · exact canonicalNaN_roundF
  case h_6 =>
    split
    · exact canonicalNaN_nan32
    · dsimp only
      split
      · exact canonicalNaN_inf32
      · exact canonicalNaN_nan32
    · exact canonicalNaN_inf32
  all_goals exact canonicalNaN_nan32

theorem canonicalNaN_mulF (sub : Bool) (a b : F32) : CanonicalNaN (mulF sub a b) := by
  unfold mulF
  split
  case h_5 => exact canonicalNaN_roundF
  case h_6 | h_7 | h_8 => exact canonicalNaN_inf32
  all_goals exact canonicalNaN_nan32

theorem canonicalNaN_divF (sub : Bool) (a b : F32) : CanonicalNaN (divF sub a b) := by
  unfold divF
  split
  case h_4 => exact canonicalNaN_inf32
  case h_5 => exact canonicalNaN_zero32
  case h_6 =>
    split
    · split
      · exact canonicalNaN_nan32
      · exact canonicalNaN_inf32
    · exact canonicalNaN_roundF
  all_goals exact canonicalNaN_nan32

theorem canonicalNaN_sqrtF (a : F32) : CanonicalNaN (sqrtF a) := by
  unfold sqrtF
  split
  case h_3 => exact canonicalNaN_inf32
  case h_4 => exact canonicalNaN_zero32
  case h_6 => exact canonicalNaN_roundF
  all_goals exact canonicalNaN_nan32

theorem canonicalNaN_rsqrtF (a : F32) : CanonicalNaN (rsqrtF a) := by
  unfold rsqrtF
  split
  case h_3 => exact canonicalNaN_zero32
  case h_4 => exact canonicalNaN_inf32
  case h_6 => exact canonicalNaN_roundF
  all_goals exact canonicalNaN_nan32

/-- A choice between two operands, made where neither is a NaN, gives no other NaN than the canonical one. -/
theorem canonicalNaN_choice {a b y : F32} (hy : y = a ∨ y = b) :
    CanonicalNaN (if isNan a || isNan b then nan32 else y, Fl.none) := by
  split
  · exact canonicalNaN_nan32
  · next hnum =>
    obtain ⟨ha, hb⟩ : isNan a = false ∧ isNan b = false := by simpa using hnum
    obtain rfl | rfl := hy
    · exact .of_not_nan ha
    · exact .of_not_nan hb

theorem canonicalNaN_minF (a b : F32) : CanonicalNaN (minF a b, Fl.none) := by
  refine canonicalNaN_choice (a := a) (b := b) ?_
  split_ifs <;> simp

theorem canonicalNaN_maxF (a b : F32) : CanonicalNaN (maxF a b, Fl.none) := by
  refine canonicalNaN_choice (a := a) (b := b) ?_
  split_ifs <;> simp

/-! ### Number formats and plates (chapter 02) -/

theorem specialCode_of_nan {u : F32} (h : isNan u = true) : specialCode .f8 u = 0x7F ∧ specialCode .b8 u = 0x7E := by
  simp [specialCode, h]

/-- A zero block and an invalid one read the same whatever the code (R31 to R33). -/
theorem decodeEl_special (f : Fmt) (code : Nat) (h : U32) :
    decodeEl f 0 code h = .zero ∧ decodeEl f 255 code h = .nan 7 h := by
  simp [decodeEl]

/-- Settles O10: what a format holds rounds exactly, a field of a plate is the bits where it lies, and every operation
ends in the canonical NaN or in a number. -/
theorem onlyCanonicalNaNs : Obligations.OnlyCanonicalNaNs := by
  refine ⟨fun f code r12 hf hlt hfin hm => roundCode_parts r12 hf hlt hfin hm,
    fun x r12 hx => toBf16_bf16To32 r12 hx, fun u hu => specialCode_of_nan hu, decodeEl_special, ?plate,
    plateCode_setPlateCode, ?operations⟩
  case plate =>
    intro b _ p byte
    obtain ⟨hformat, houtlier, hepoch⟩ := tag_fields b
    exact ⟨hformat, houtlier, hepoch, fun j _ => plateScale_leNat b j, fun i _ => plateCode_f4 b i,
      fun i _ => plateCode_f8 b i, fun i _ => plateCode_b8 b i, fun i _ => plateCode_b6 b i,
      fun i _ => plateCode_bf16 b i, fun i _ => plateCode_fp32 b i, fun i _ => plateCode_mask b i⟩
  case operations =>
    intro sub a b c
    exact ⟨canonicalNaN_fmaF sub a b c, canonicalNaN_mulF sub a b, canonicalNaN_divF sub a b, canonicalNaN_sqrtF a,
      canonicalNaN_rsqrtF a, canonicalNaN_minF a b, canonicalNaN_maxF a b⟩

end Sys2Proof.Machine

namespace Sys2Proof.Machine

/-! ### The run data of an operation (R193) -/

theorem State.op?_modOp (s : State) (c : Slot) (n : Nat) {f : OpRec → OpRec} (hf : ∀ o, (f o).n = o.n) :
    (s.modOp c n f).op? c n = (s.op? c n).map f := by
  simp only [State.op?, State.modOp, State.modStream_ctx, if_true, List.find?_map]
  have hname : ((fun o : OpRec => o.n == n) ∘ fun o => if o.n == n then f o else o) = fun o => o.n == n := by
    funext o
    by_cases ho : o.n = n <;> simp [ho, hf]
  rw [hname]
  refine Option.map_congr fun o ho => if_pos ?_
  exact List.find?_some (p := fun o : OpRec => o.n == n) ho

@[simp] theorem State.run?_modRun (s : State) (c : Slot) (n : Nat) (f : RunData → RunData) :
    (s.modRun c n f).run? c n = (s.run? c n).map f := by
  have hmod := s.op?_modOp c n (f := fun o => { o with run := o.run.map f }) fun _ => rfl
  rw [State.run?, State.modRun, hmod, State.run?]
  cases s.op? c n <;> rfl

/-! ### Arrays and units (chapters 03, 04, 09) -/

section passEnd
variable {s t : State} {core : Fin 512} {a : ArrayKind} {p : Pass} {rest : List Pass} {w : PWork}
  (hcore : core.val < s.sku.cores) (hruns : s.dieRuns (core.val / 64) = true)
  (hqueue : kvGetD s.arrays.queues (arrKey core.val a) [] = p :: rest)
  (hfree : kvGet s.arrays.shadows (arrKey core.val a) = none) (hwaits : s.workWaits p.c p.n = false)
  (hwork : s.workOf p.c p.n = some w)
include hcore hruns hqueue hfree hwaits hwork

/-- A pass that has met what it cannot read moves nothing to the shadow (R64, R211). -/
theorem execArrayPassEnd_lost (hrun : w.runPass s core.val p = (t, none)) :
    execArrayPassEnd core a s = .next (t.nextPass core.val (arrKey core.val a) (w.moreSubs p)) := by
  simp [execArrayPassEnd, Nat.not_le.2 hcore, hqueue, hfree, hruns, hwaits, hwork, hrun]

theorem execArrayPassEnd_tile {sh : Shadow} (hrun : w.runPass s core.val p = (t, some sh)) :
    execArrayPassEnd core a s =
      .next ((t.nextPass core.val (arrKey core.val a) (w.moreSubs p)).holdShadow core.val a sh) := by
  simp [execArrayPassEnd, Nat.not_le.2 hcore, hqueue, hfree, hruns, hwaits, hwork, hrun]

end passEnd

/-- The drain of a tile whose core runs and whose flash is in reach; `u` is the state without its turn (R62, R64, R69). -/
theorem execTileDrain_tile {s u : State} {core : Fin 512} {k : Nat} {rest : List Nat} {sh : Shadow} {w : PWork}
    (hcore : core.val < s.sku.cores) (hruns : s.dieRuns (core.val / 64) = true)
    (hturn : kvGetD s.arrays.drains core.val [] = k :: rest)
    (hshadow : kvGet s.arrays.shadows (4 * core.val + k) = some sh)
    (hwaits : s.workWaits sh.pass.c sh.pass.n = false)
    (hu : { s with arrays := { s.arrays with drains := kvSet s.arrays.drains core.val rest } } = u)
    (hwork : u.workOf sh.pass.c sh.pass.n = some w) :
    execTileDrain core s = .next (if u.faulted w.o then u.freeShadow (4 * core.val + k)
      else if sh.blink.isSome then (w.drain u core.val sh).unitDone w sh.pass
      else ((w.drain u core.val sh).unitDone w sh.pass).freeShadow (4 * core.val + k)) := by
  simp only [execTileDrain, Nat.not_le.2 hcore, hturn, hshadow, hruns, hwaits, hu, hwork, if_false, Bool.not_true,
    Bool.or_self, Bool.false_eq_true]
  split <;> rfl

/-- What the landing of an add does to the run data of its operation: with the last plate of its tile, the tile's slot is
free (R179, R184). `u` is the state after the home has added. -/
def PWork.afterAdd (w : PWork) (u : State) (h : HomeAdd) (r : RunData) : RunData :=
  let rank := h.unit / w.bands
  let waiting := u.arrays.adds.any (fun a => a.c == h.c && a.n == h.n && a.unit / w.bands == rank)
  { r with held := if (kvGetD r.bandsDone rank []).length = w.bands && !waiting then r.held.filter (fun x => x.2 != rank)
                   else r.held }

theorem execPlateHomeAdd_plate {s u : State} {k : Nat} {h : HomeAdd} {w : PWork} (hadd : s.arrays.adds[k]? = some h)
    (hwaits : s.workWaits h.c h.n = false)
    (hu : { s with arrays := { s.arrays with adds := s.arrays.adds.eraseIdx k } } = u)
    (hwork : u.workOf h.c h.n = some w) :
    execPlateHomeAdd k s = .next ((w.homeAdd u h).modRun h.c h.n (w.afterAdd (w.homeAdd u h) h)) := by
  simp only [execPlateHomeAdd, hadd, Option.any_some, hwaits, Bool.false_eq_true, if_false, State.landAdd, hu, hwork]
  rfl

/-! #### Claims (R177 to R181) -/

/-- Unit `u` of a claimed product goes to the array `key`, from its sub-tile `sub` on. -/
def State.giveUnit (s : State) (w : PWork) (c : Slot) (n key u sub : Nat) : State :=
  match unitTile w.tr w.tc w.bands u with
  | none => s
  | some (tr, tc, band) =>
    { s with arrays := s.arrays.push key [{ c := c, n := n, tr := tr, tc := tc, band := band, unit := u, sub := sub }] }

@[simp] theorem State.giveUnit_run? (s : State) (w : PWork) (c d : Slot) (n m key u sub : Nat) :
    (s.giveUnit w c n key u sub).run? d m = s.run? d m := by
  unfold State.giveUnit
  split <;> rfl

theorem State.giveUnit_arrays {s : State} {w : PWork} {c : Slot} {n key u sub : Nat} {p : Nat × Nat × Nat}
    (hp : unitTile w.tr w.tc w.bands u = some p) : (s.giveUnit w c n key u sub).arrays =
      s.arrays.push key [{ c := c, n := n, tr := p.1, tc := p.2.1, band := p.2.2, unit := u, sub := sub }] := by
  simp only [State.giveUnit, hp]

/-- A core of the module may take a unit of a claimed product: nothing holds it back (R179, R287). -/
structure ClaimAllowed (s : State) (c : Slot) (n : Nat) (core : Fin 512) (w : PWork) (r : RunData) : Prop where
  present : core.val < s.sku.cores
  work : s.workOf c n = some w
  run : s.run? c n = some r
  claims : w.claims = true
  fault : r.fault = none
  member : core.val ∈ r.cores
  runs : s.dieRuns (core.val / 64) = true
  reach : s.workWaits c n = false
  room : s.arrays.mayClaim (arrKey core.val w.arr) c n = true

section claim
variable {s : State} {c : Slot} {n : Nat} {core : Fin 512} {w : PWork} {r : RunData} (h : ClaimAllowed s c n core w r)
include h

theorem execClaimUnit_reissued {x : Nat × Nat} {rest : List (Nat × Nat)} (hreissue : r.reissue = x :: rest) :
    execClaimUnit c n core s = .next ((s.modRun c n (fun r => { r with reissue := rest })).giveUnit w c n
      (arrKey core.val w.arr) x.1 x.2) := by
  simp [execClaimUnit, Nat.not_le.2 h.present, h.work, h.run, h.claims, h.fault, h.member, h.runs, h.reach, h.room,
    hreissue]
  rfl

theorem execClaimUnit_ended (hreissue : r.reissue = []) (hopen : core.val ∉ r.ended)
    (hlast : w.tr * w.tc * w.bands ≤ r.nextUnit) :
    execClaimUnit c n core s = .next (s.modRun c n (fun r => { r with ended := insertNat r.ended core.val })) := by
  simp [execClaimUnit, Nat.not_le.2 h.present, h.work, h.run, h.claims, h.fault, h.member, h.runs, h.reach, h.room,
    hreissue, hopen, hlast]

/-- A unit that is not the first of several bands needs no slot (R179). -/
theorem execClaimUnit_next (hreissue : r.reissue = []) (hopen : core.val ∉ r.ended)
    (hmore : r.nextUnit < w.tr * w.tc * w.bands) (hband : r.nextUnit % w.bands ≠ 0 ∨ w.bands ≤ 1) :
    execClaimUnit c n core s = .next ((s.modRun c n (fun x => { x with nextUnit := r.nextUnit + 1 })).giveUnit w c n
      (arrKey core.val w.arr) r.nextUnit 0) := by
  have hslot : ¬ (r.nextUnit % w.bands = 0 ∧ 1 < w.bands) := by omega
  simp [execClaimUnit, Nat.not_le.2 h.present, h.work, h.run, h.claims, h.fault, h.member, h.runs, h.reach, h.room,
    hreissue, hopen, Nat.not_le.2 hmore, hslot]
  rfl

end claim

theorem execBlinkCheck_made {s : State} {core : Fin 512} {b : BlinkCheck} {rest : List BlinkCheck}
    (hcore : core.val < s.sku.cores) (hwaiting : kvGetD s.arrays.blinks core.val [] = b :: rest)
    (hidle : kvGetD s.arrays.queues (arrKey core.val .wide) [] = []) (hworks : core.val ∉ s.res.coresFailed)
    (hruns : s.dieRuns (core.val / 64) = true) :
    execBlinkCheck core s = .next ((({ s with arrays := { s.arrays with
      blinks := kvSet s.arrays.blinks core.val rest } } : State).freeShadow b.key).blinkCompare b) := by
  simp [execBlinkCheck, Nat.not_le.2 hcore, hwaiting, hidle, hworks, hruns]

/-- Settles O41: each row does its work where nothing holds it back. -/
theorem arraysWork : Obligations.ArraysWork := by
  refine ⟨fun s core w hcore hruns => ⟨?passEnd, ?drain, ?homeAdd⟩, fun s core hcore => ⟨?claim, ?blink⟩⟩
  case passEnd =>
    intro a p rest hqueue hfree hwaits hwork
    dsimp only
    rcases hrun : w.runPass s core.val p with ⟨t, _ | sh⟩
    · exact execArrayPassEnd_lost hcore hruns hqueue hfree hwaits hwork hrun
    · exact execArrayPassEnd_tile hcore hruns hqueue hfree hwaits hwork hrun
  case drain =>
    intro k rest sh hturn hshadow hwaits u v hwork
    exact execTileDrain_tile hcore hruns hturn hshadow hwaits rfl hwork
  case homeAdd =>
    intro k h hadd hwaits u hwork
    exact ⟨w.afterAdd (w.homeAdd u h) h, execPlateHomeAdd_plate hadd hwaits rfl hwork⟩
  case claim =>
    intro c n w r hwork hrun hclaims hfault hmember hruns hreach hroom
    have h : ClaimAllowed s c n core w r := ⟨hcore, hwork, hrun, hclaims, hfault, hmember, hruns, hreach, hroom⟩
    refine ⟨fun x rest hreissue => ⟨_, execClaimUnit_reissued h hreissue, fun r' hr' => ?_, fun p hp =>
      ⟨_, rfl, rfl, rfl, rfl, rfl, State.giveUnit_arrays hp⟩⟩, execClaimUnit_ended h,
      fun hreissue hopen hmore hband => ⟨_, execClaimUnit_next h hreissue hopen hmore hband, fun p hp =>
        ⟨_, rfl, rfl, rfl, rfl, State.giveUnit_arrays hp⟩⟩⟩
    obtain rfl : { r with reissue := rest } = r' := by simpa [hrun] using hr'
    rfl
  case blink =>
    intro b rest hwaiting hidle hworks hruns
    exact execBlinkCheck_made hcore hwaiting hidle hworks hruns

end Sys2Proof.Machine

namespace Sys2Proof.Machine

/-! ### What stores, completions and the journal leave -/

/-- What a slot holds, without what a store, a completion or a journal record changes in it: its pages, its completion
ring and the count of what that discards, the journal, and the lists, which hold their places in the journal. -/
def Ctx.lasting (x : Ctx) : Ctx :=
  { x with pool := .reset, ring := .reset, staleDiscards := 0, stream := { x.stream with lists := [] },
           train := { x.train with journal := [] } }

/-- The due entries, and what lasts of every slot. -/
def State.lasting (s : State) : List DueEntry × (Slot → Ctx) := (s.due, fun c => (s.ctx c).lasting)

theorem Ctx.eq_of_lasting {x y : Ctx} (h : x.lasting = y.lasting) :
    x.stream.openStep = y.stream.openStep ∧ x.stream.stepOpened = y.stream.stepOpened ∧
      x.stream.closing = y.stream.closing ∧ x.stream.ops = y.stream.ops ∧ x.train.restored = y.train.restored ∧
      x.num = y.num ∧ x.energy = y.energy :=
  ⟨congrArg (·.stream.openStep) h, congrArg (·.stream.stepOpened) h, congrArg (·.stream.closing) h,
    congrArg (·.stream.ops) h, congrArg (·.train.restored) h, congrArg (·.num) h, congrArg (·.energy) h⟩

theorem State.lasting_foldl {α : Type} {f : State → α → State} (hf : ∀ s x, (f s x).lasting = s.lasting)
    (l : List α) (s : State) : (l.foldl f s).lasting = s.lasting := by
  induction l generalizing s with
  | nil => rfl
  | cons x l ih => exact (ih _).trans (hf s x)

theorem State.lasting_modCtx {f : Ctx → Ctx} (hf : ∀ x, (f x).lasting = x.lasting) (s : State) (c : Slot) :
    (s.modCtx c f).lasting = s.lasting := by
  unfold State.lasting
  rw [State.modCtx_due]
  congr 1
  funext d
  rw [State.modCtx_ctx]
  split
  · next h => rw [hf, h]
  · rfl

/-! #### Pages -/

theorem Ctx.lasting_modPage (x : Ctx) (p : Nat) (f : Page → Page) : (x.modPage p f).lasting = x.lasting := by
  unfold Ctx.modPage
  split <;> rfl

@[simp] theorem State.lasting_modPage (s : State) (c : Slot) (p : Nat) (f : Page → Page) :
    (s.modPage c p f).lasting = s.lasting :=
  State.lasting_modCtx (fun x => x.lasting_modPage p f) s c

@[simp] theorem State.lasting_countBad (s : State) (c : Slot) (a : Nat) : (s.countBad c a).lasting = s.lasting := by
  unfold State.countBad
  dsimp only
  split_ifs <;> rfl

@[simp] theorem State.lasting_scrubCorrected (s : State) (q : Slot × Nat) :
    (s.scrubCorrected q).lasting = s.lasting := by
  unfold State.scrubCorrected
  split <;> rfl

@[simp] theorem State.lasting_correct (s : State) (c : Slot) (a n : Nat) : (s.correct c a n).lasting = s.lasting :=
  State.lasting_foldl (by intro _ _; exact State.lasting_scrubCorrected _ _) _ s

@[simp] theorem State.lasting_meet (s : State) (c : Slot) (a : Nat) : (s.meet c a).lasting = s.lasting := by
  unfold State.meet
  dsimp only
  split
  · exact State.lasting_countBad _ _ _
  · rfl
  · rfl

@[simp] theorem State.lasting_meetPage (s : State) (c : Slot) (p : Nat) : (s.meetPage c p).lasting = s.lasting :=
  (State.lasting_foldl (fun _ _ => State.lasting_meet _ _ _) _ _).trans (State.lasting_correct _ _ _ _)

@[simp] theorem State.lasting_leaveFrame (s : State) (c : Slot) (p : Nat) : (s.leaveFrame c p).lasting = s.lasting := by
  rw [← s.lasting_meetPage c p]
  unfold State.leaveFrame
  dsimp only
  split <;> rfl

@[simp] theorem State.lasting_ddrFrame (s : State) (d : Nat) : (s.ddrFrame d).1.lasting = s.lasting := by
  unfold State.ddrFrame
  split
  · rfl
  · split
    · rfl
    · dsimp only
      split
      · rfl
      · exact (State.lasting_modCtx (by intro x; exact x.lasting_modPage _ _) _ _).trans
          (State.lasting_leaveFrame s _ _)

@[simp] theorem State.lasting_placePage (s : State) (c : Slot) (p : Nat) (pg : Page) (stay : Tier) :
    (s.placePage c p pg stay).lasting = s.lasting := by
  unfold State.placePage
  dsimp only
  split
  · rfl
  · split
    · simp
    · split
      · simp
      · split
        · split <;> simp
        · simp

@[simp] theorem State.lasting_switchPage (s : State) (c : Slot) (p : Nat) (pg : Page) (t : Tier) :
    (s.switchPage c p pg t).lasting = s.lasting := by
  unfold State.switchPage
  rw [State.lasting_modPage]
  split
  · split <;> simp
  · simp

@[simp] theorem State.lasting_touchResident (s : State) (c : Slot) (p : Nat) (pg : Page) (x : Nat) :
    (s.touchResident c p pg x).lasting = s.lasting := by
  unfold State.touchResident
  split <;> simp

@[simp] theorem State.lasting_touchPage (s : State) (c : Slot) (p : Nat) : (s.touchPage c p).lasting = s.lasting := by
  unfold State.touchPage
  split
  · rfl
  · dsimp only
    split
    · split <;> simp
    · split <;> simp
    · simp

@[simp] theorem State.lasting_captureFirst (s : State) (c : Slot) (p : Nat) :
    (s.captureFirst c p).lasting = s.lasting := rfl

@[simp] theorem State.lasting_writePage (s : State) (c : Slot) (p : Nat) : (s.writePage c p).lasting = s.lasting := by
  unfold State.writePage
  dsimp only
  split
  · simp
  · split
    · simp
    · split <;> simp

@[simp] theorem State.lasting_land (s : State) (c : Slot) (a : Nat) (b : Bytes) : (s.land c a b).lasting = s.lasting :=
  State.lasting_foldl (fun s p => s.lasting_writePage c p) _ s

@[simp] theorem State.lasting_store (s : State) (c : Slot) (a : Nat) (b : Bytes) :
    (s.store c a b).lasting = s.lasting := by
  unfold State.store
  split_ifs
  · rfl
  · exact s.lasting_land c a b
  · exact State.lasting_foldl (fun s p => s.lasting_land c _ _) _ s

/-! #### Completions -/

@[simp] theorem State.lasting_emit (s : State) (o : Out) : (s.emit o).lasting = s.lasting := rfl

@[simp] theorem State.lasting_sendMsix (s : State) (f : Func) (v : U8) : (s.sendMsix f v).lasting = s.lasting := by
  unfold State.sendMsix
  dsimp only
  split <;> rfl

@[simp] theorem State.lasting_setRing (s : State) (r : Ring) (x : CmplRing) : (s.setRing r x).lasting = s.lasting := by
  cases r with
  | module => rfl
  | ctx c => exact State.lasting_modCtx (by intro _; rfl) s c

@[simp] theorem State.lasting_ringMessage (s : State) (r : Ring) : (s.ringMessage r).lasting = s.lasting := by
  simp [State.ringMessage]

@[simp] theorem State.lasting_writeCmpl (s : State) (r : Ring) (e : Cmpl) : (s.writeCmpl r e).lasting = s.lasting := by
  unfold State.writeCmpl
  cases r with
  | module => dsimp only; split <;> simp
  | ctx c => dsimp only; split_ifs <;> simp

@[simp] theorem State.lasting_post (s : State) (r : Ring) (e : Cmpl) : (s.post r e).lasting = s.lasting := by
  unfold State.post
  dsimp only
  split_ifs <;> simp

@[simp] theorem State.lasting_postCtx (s : State) (c : Slot) (e : Cmpl) : (s.postCtx c e).lasting = s.lasting := by
  unfold State.postCtx
  split
  · simp
  · exact State.lasting_modCtx (by intro _; rfl) s c

@[simp] theorem State.lasting_postEph (s : State) (r : Ring) (e : EphEntry) (status : U16) (late : Bool) (count : U64) :
    (s.postEph r e status late count).lasting = s.lasting := by
  unfold State.postEph
  split
  · rfl
  · cases r <;> simp

/-! #### The journal (R218) -/

@[simp] theorem State.lasting_journalWrite (s : State) (c : Slot) (e : JEntry) :
    (s.journalWrite c e).lasting = s.lasting := by
  unfold State.journalWrite
  split <;> simp

theorem State.lasting_modJournal (s : State) (c : Slot) (f : CtxTrain → List JEntry) :
    (s.modTrain c (fun t => { t with journal := f t })).lasting = s.lasting :=
  State.lasting_modCtx (by intro _; rfl) s c

@[simp] theorem State.lasting_journalMod (s : State) (c : Slot) (step : U64) (f : JEntry → JEntry) :
    (s.journalMod c step f).lasting = s.lasting := by
  unfold State.journalMod
  split
  · rfl
  · dsimp only
    split_ifs <;> simp [State.lasting_modJournal]

@[simp] theorem State.lasting_journalList (s : State) (c : Slot) (step : U64) (l : JList) :
    (s.journalList c step l).1.lasting = s.lasting := by
  unfold State.journalList
  split <;> simp

theorem State.lasting_modLists (s : State) (c : Slot) (f : CtxStream → List ListRec) :
    (s.modStream c (fun x => { x with lists := f x })).lasting = s.lasting :=
  State.lasting_modCtx (by intro _; rfl) s c

@[simp] theorem State.lasting_openJournal (s : State) (c : Slot) (step seed : U64) (mode : U8) (count : U64) :
    (s.openJournal c step seed mode count).lasting = s.lasting := by
  unfold State.openJournal
  dsimp only
  split
  · rfl
  · refine (State.lasting_foldl (fun s l => ?_) _ _).trans ?_
    · rw [State.lasting_modLists, State.lasting_journalList]
    · rw [State.lasting_journalWrite, State.lasting_modJournal]

/-! ### START_STEP (R98, R139, R189, R228, R366) -/

theorem CtxNum.stepAcc_step (x : CtxNum) (step : U64) : (x.stepAcc step).step = step := by
  unfold CtxNum.stepAcc
  cases h : x.steps.find? (fun a => a.step == step) with
  | none => rfl
  | some a => simpa using List.find?_some h

/-- A step that has been changed is found among the steps, whatever seed and mode are in force. -/
theorem CtxNum.find?_modStep (x : CtxNum) (step : U64) {f : StepAcc → StepAcc} (hf : ∀ a, (f a).step = a.step) :
    (x.modStep step f).steps.find? (fun a => a.step == step) = some (f (x.stepAcc step)) := by
  have hstep : (f (x.stepAcc step)).step = step := (hf _).trans (x.stepAcc_step step)
  unfold CtxNum.modStep
  dsimp only
  split
  · next hany =>
    have hname : ((fun a : StepAcc => a.step == step) ∘ fun b => if b.step == step then f (x.stepAcc step) else b) =
        fun a => a.step == step := by
      funext b
      by_cases hb : b.step = step <;> simp [hb, hstep]
    rw [List.find?_map, hname]
    obtain ⟨b, hb⟩ := Option.isSome_iff_exists.1 (List.find?_isSome.2 (List.any_eq_true.1 hany))
    have hbstep : b.step = step := by simpa using List.find?_some hb
    simp [hb, hbstep]
  · next hnone =>
    have hnew : x.steps.find? (fun a => a.step == step) = none := by simpa using hnone
    simp [List.find?_append, hnew, hstep]

theorem CtxEnergy.nextPeriod_tokens (e : CtxEnergy) (at_ : Nat) (step tokens : U64) :
    (e.nextPeriod at_ step tokens).tokens = e.tokens + tokens := by
  unfold CtxEnergy.nextPeriod
  dsimp only
  split <;> rfl

/-- What START_STEP makes of its slot, before the journal takes note. -/
def Ctx.openStep (x : Ctx) (step tokens : U64) (energy : Nat) (num : U64 × U8) : Ctx :=
  let fixed := x.train.restored.getD num
  { x with
    stream := { x.stream with
      openStep := step, stepOpened := true
      closing := if x.train.restored.isSome then x.stream.closing else x.stream.closing ++ [x.stream.openStep] }
    train := { x.train with restored := none }
    num := { x.num.modStep step (fun a => { a with seed := fixed.1, mode := fixed.2 }) with
      seedInForce := fixed.1, modeInForce := fixed.2 }
    energy := x.energy.nextPeriod energy step tokens }

theorem Ctx.openStep_seedOf (x : Ctx) (step tokens : U64) (energy : Nat) (num : U64 × U8) :
    (x.openStep step tokens energy num).num.seedOf step = x.train.restored.getD num := by
  simp [CtxNum.seedOf, CtxNum.stepAcc, Ctx.openStep, CtxNum.find?_modStep]

theorem State.lasting_startStep (s : State) (c : Slot) (step tokens count : U64) (energy : Nat) (num : U64 × U8) :
    (s.startStep c step tokens count energy num).lasting =
      (s.modCtx c (fun x => x.openStep step tokens energy num)).lasting := by
  unfold State.startStep
  dsimp only
  rw [State.lasting_openJournal]
  unfold State.lasting
  congr 1
  funext d
  by_cases hd : d = c <;> simp [hd, Ctx.openStep]

/-- The first due entry that can act acts; its completion changes nothing that lasts. -/
theorem State.lasting_actDue {s : State} {d : DueEntry} {rest : List DueEntry} {mine : DueEntry → Bool}
    (act : State → DueEntry → State × U16) (hnext : s.nextDue = some (d, rest)) (hmine : mine d = true) :
    (s.actDue mine act).lasting = (act { s with due := rest } d).1.lasting := by
  simp [State.actDue, hnext, hmine]

theorem State.lasting_actStartStep {s : State} {c : Slot} {d : DueEntry} (hring : d.ring = .ctx c) :
    (actStartStep s d).1.lasting = (s.modCtx c (fun x => x.openStep (d.entry.stepAfter (s.ctx c).stream.openStep)
      (d.entry.arg 1) d.energy (d.seed, d.mode))).lasting := by
  simp only [actStartStep, hring, State.lasting_startStep]

/-- Settles O28: `Ctx.openStep` says what opening makes of the slot, and neither the journal's record nor the completion
changes what lasts. -/
theorem startStepOpens : Obligations.StartStepOpens := by
  intro s c d rest hnext hring hkind x step fixed
  have hmine : (d.entry.kind == 1) = true := by simp [hkind]
  have hlasting := (State.lasting_actDue (mine := fun d => d.entry.kind == 1) actStartStep hnext hmine).trans
    (State.lasting_actStartStep hring)
  refine ⟨_, rfl, congrArg Prod.fst hlasting, ?_⟩
  generalize s.actDue (fun d => d.entry.kind == 1) actStartStep = t at hlasting
  have hctx : (t.ctx c).lasting = (x.openStep step (d.entry.arg 1) d.energy (d.seed, d.mode)).lasting := by
    have h := congrFun (congrArg Prod.snd hlasting) c
    simp only [State.lasting, State.modCtx_ctx, if_true] at h
    exact h
  obtain ⟨hopen, hopened, hclosing, hops, hrestored, hnum, henergy⟩ := Ctx.eq_of_lasting hctx
  rw [hopen, hopened, hclosing, hops, hrestored, hnum, henergy]
  exact ⟨rfl, rfl, rfl, rfl, x.openStep_seedOf .., rfl, rfl, CtxEnergy.nextPeriod_tokens .., rfl⟩

end Sys2Proof.Machine

namespace Sys2Proof.Machine

/-! ### Step closes, captures, restores and replays (chapters 05 and 11) -/

theorem execStepClose_closes {s : State} {c : Slot} {t : U64} {rest : List U64}
    (hclosing : (s.ctx c).stream.closing = t :: rest) (hholds : (s.ctx c).st.holds = true)
    (hready : s.boot.life = .ready) (hsettled : (s.ctx c).stream.settled t = true) (hreach : s.closeWaits c = false) :
    execStepClose c s =
      .next ((s.closeStep c t (rest.headD (s.ctx c).stream.openStep)).modStream c
        (fun y => { y with closing := rest })) := by
  cases rest <;> simp [execStepClose, hclosing, hholds, hready, hsettled, hreach]

/-- The capture of a page of an image in progress leaves it the image's other pages (R226). -/
theorem State.captureFirst_image? {s : State} {c : Slot} {img : Image} {p : Nat} {rest : List Nat}
    (hfound : s.image? img.id = some img) (hopen : img.committed = false) (howner : img.owner = s.ctxId c)
    (hleft : img.left = p :: rest) :
    ∃ i, (s.captureFirst c p).image? img.id = some i ∧ i.left = rest := by
  have hid : ((fun i : Image => i.id == img.id) ∘ fun i =>
      if !i.committed && i.owner == s.ctxId c && i.left.contains p then i.capture s.mem c p else i) =
        fun i => i.id == img.id := by
    funext i
    simp only [Function.comp_apply]
    split <;> rfl
  have hfind : s.images.find? (fun i => i.id == img.id) = some img := hfound
  refine ⟨img.capture s.mem c p, ?_, by simp [Image.capture, hleft]⟩
  simp only [State.image?, State.captureFirst, List.find?_map, hid, hfind, Option.map_some]
  simp [hopen, howner, hleft]

section capture
variable {s : State} {c : Slot} {img : Image} (hopen : s.openImage c = some img)
  (hfound : s.image? img.id = some img)
include hopen hfound

theorem execSnapshotCapturePage_commits (hleft : img.left = []) (hreach : s.captureWaits c img none = false) :
    execSnapshotCapturePage c s = .next (s.commitImage c img) := by
  simp [execSnapshotCapturePage, hopen, hfound, hleft, hreach]

theorem execSnapshotCapturePage_captures {p q : Nat} {rest : List Nat} (hleft : img.left = p :: q :: rest)
    (hreach : s.captureWaits c img (some p) = false) :
    execSnapshotCapturePage c s = .next (s.captureFirst c p) := by
  obtain ⟨huncommitted, howner⟩ : img.committed = false ∧ img.owner = s.ctxId c := by
    simpa using List.find?_some hopen
  obtain ⟨i, hi, hmore⟩ := State.captureFirst_image? hfound huncommitted howner hleft
  simp [execSnapshotCapturePage, hopen, hleft, hreach, hi, hmore]

end capture

theorem execSnapshotDemandCapture_captures {s : State} {c : Slot} {page : Nat}
    (hreach : ∀ img, s.openImage c = some img → s.captureWaits c img (some page) = false) :
    execSnapshotDemandCapture c page s = .next (s.captureFirst c page) := by
  refine if_neg ?_
  cases hopen : s.openImage c with
  | none => simp
  | some img => simp [hreach img hopen]

theorem execRestoreExecute_restores {s : State} {c : Slot} {id : U32} {i : Image}
    (hasked : (s.ctx c).train.restoring = some id) (hlists : (s.ctx c).stream.lists = [])
    (hqueue : (s.ctx c).stream.subQueue = []) (halive : s.boot.life.dead = false) (hfound : s.image? id = some i)
    (hreadable : s.imageReadable i = true) : execRestoreExecute c s = .next (s.restoreImage c i) := by
  simp [execRestoreExecute, hasked, hlists, hqueue, halive, hfound, hreadable]

theorem execReplayRun_runs {s : State} {c : Slot} {r : Replay} (hasked : (s.ctx c).train.replay = some r)
    (hnew : r.running = false) (hbound : (s.ctx c).st = .bound) (hpausing : (s.ctx c).pausing = false)
    (hready : s.boot.life = .ready) (hfinished : ∀ o ∈ (s.ctx c).stream.ops, o.finished = true) :
    execReplayRun c s = .next (s.replayGo c r) := by
  have hall : (s.ctx c).stream.ops.all OpRec.finished = true := List.all_eq_true.2 hfinished
  simp [execReplayRun, hasked, hnew, hbound, hpausing, hready, hall]

theorem execReplayCompare_compares {s : State} {c : Slot} {r : Replay} (hasked : (s.ctx c).train.replay = some r)
    (hran : r.ran = true) : execReplayCompare c s = .next (s.replayCompare c r) := by
  simp [execReplayCompare, hasked, hran]

/-- Settles O43: each row does its work where nothing holds it back. An image with more pages left than the one
captured is not committed yet. -/
theorem stepWork : Obligations.StepWork := by
  intro s c
  refine ⟨fun t rest => execStepClose_closes, fun img hopen => ⟨?commit, ?capture⟩,
    fun page => execSnapshotDemandCapture_captures, fun id i => execRestoreExecute_restores,
    fun r hasked => ⟨execReplayRun_runs hasked, execReplayCompare_compares hasked⟩⟩
  case commit => exact fun hleft hfound => execSnapshotCapturePage_commits hopen hfound hleft
  case capture => exact fun p q rest hleft hfound => execSnapshotCapturePage_captures hopen hfound hleft

end Sys2Proof.Machine

namespace Sys2Proof.Machine

/-! ### What the Logbook leaves of the slots and the plans -/

/-- What plans decide: those that run and wait, the phase and the status shown, and every slot's state and units. -/
def State.bindings (s : State) : (Option PlanRun × List PlanRun × U8 × RebindStatus) ×
    (Slot → CtxState × U64 × BitVec 160 × BitVec 128) :=
  ((s.res.planRunning, s.res.planQueue, s.res.planPhase, s.res.rebindStatus),
    fun c => ((s.ctx c).st, (s.ctx c).groups, (s.ctx c).slices, (s.ctx c).endpoints))

theorem State.eq_of_bindings {s t : State} (h : s.bindings = t.bindings) :
    s.res.planRunning = t.res.planRunning ∧ s.res.planQueue = t.res.planQueue ∧ s.res.planPhase = t.res.planPhase ∧
      s.res.rebindStatus = t.res.rebindStatus ∧
      ∀ c, (s.ctx c).st = (t.ctx c).st ∧ (s.ctx c).groups = (t.ctx c).groups ∧
        (s.ctx c).slices = (t.ctx c).slices ∧ (s.ctx c).endpoints = (t.ctx c).endpoints := by
  simpa only [State.bindings, Prod.mk.injEq, funext_iff, and_assoc] using h

theorem State.bindings_foldl {α : Type} {f : State → α → State} (hf : ∀ s x, (f s x).bindings = s.bindings)
    (l : List α) (s : State) : (l.foldl f s).bindings = s.bindings :=
  List.foldlRecOn (motive := fun t : State => t.bindings = s.bindings) l f rfl fun t ht x _ => (hf t x).trans ht

/-- Registers of a slot change, but not its state and units. -/
theorem State.bindings_modCtx {f : Ctx → Ctx} (hf : ∀ x, ((f x).st, (f x).groups, (f x).slices, (f x).endpoints) =
    (x.st, x.groups, x.slices, x.endpoints)) (s : State) (c : Slot) : (s.modCtx c f).bindings = s.bindings := by
  unfold State.bindings
  congr 1
  funext d
  rw [State.modCtx_ctx]
  split
  · next h => rw [hf, h]
  · rfl

@[simp] theorem State.bindings_modRun (s : State) (c : Slot) (n : Nat) (f : RunData → RunData) :
    (s.modRun c n f).bindings = s.bindings :=
  State.bindings_modCtx (by intro _; rfl) s c

@[simp] theorem State.bindings_modBlock (s : State) (b : Nat) (f : Block → Block) :
    (s.modBlock b f).bindings = s.bindings := rfl

@[simp] theorem State.bindings_modPort (s : State) (n : Nat) (f : Port → Port) :
    (s.modPort n f).bindings = s.bindings := rfl

@[simp] theorem State.bindings_sendCodeword (s : State) (n : Nat) (beacon : Bool) (slots : List Bytes) :
    (s.sendCodeword n beacon slots).bindings = s.bindings := rfl

@[simp] theorem State.bindings_putBeacons (s : State) (n k : Nat) : (s.putBeacons n k).bindings = s.bindings := by
  induction k generalizing s with
  | zero => rfl
  | succ k ih =>
    unfold State.putBeacons
    split
    · rfl
    · split
      · rfl
      · exact ih _

@[simp] theorem State.bindings_putCtrl (s : State) (n : Nat) : (s.putCtrl n).bindings = s.bindings := by
  unfold State.putCtrl
  dsimp only
  split
  · rfl
  · split <;> rfl

@[simp] theorem State.bindings_issue (s : State) (n : Nat) (pk : Packet) : (s.issue n pk).bindings = s.bindings :=
  State.bindings_foldl (fun t c => t.bindings_sendCodeword n false c) _ _

@[simp] theorem State.bindings_pumpPort (s : State) (n : Nat) : (s.pumpPort n).bindings = s.bindings := by
  unfold State.pumpPort
  dsimp only
  rw [State.bindings_modPort]
  refine List.foldlRecOn (motive := fun acc : State × List Packet × List Nat => acc.1.bindings = s.bindings) _ _ ?_ ?_
  · simp
  · rintro ⟨t, held, blocked⟩ ht pk -
    dsimp only at ht ⊢
    split
    · exact ht
    · exact (t.bindings_issue n pk).trans ht

@[simp] theorem State.bindings_route (s : State) (p : Packet) : (s.route p).1.bindings = s.bindings := by
  unfold State.route
  split
  · rfl
  · split
    · rfl
    · simp

@[simp] theorem State.bindings_mgmtPacket (s : State) (dest : BitVec 24) (b : Bytes) :
    (s.mgmtPacket dest b).bindings = s.bindings := by
  unfold State.mgmtPacket
  dsimp only
  split
  · exact s.bindings_route _
  · rfl

@[simp] theorem State.bindings_noticeMessages (s : State) (r : LogRec) :
    (s.noticeMessages r).bindings = s.bindings := by
  refine State.bindings_foldl (fun t x => ?_) _ s
  dsimp only
  split
  · exact t.bindings_mgmtPacket _ _
  · rfl

/-- The record of an event below a fault, that has no status of the time group, posts no completion (R305), also when
the full queue drops it. -/
theorem State.bindings_raise (s : State) {e : Event} (hminor : 2 ≤ e.severity.toNat)
    (hstatus : e.status.toNat / 256 ≠ 8) : (s.raise e).bindings = s.bindings := by
  have hquiet : ¬ ((s.recordOf e).severity.toNat ≤ 1 || (s.recordOf e).status.toNat / 256 = 8) := by
    have hfault : ¬ e.severity.toNat ≤ 1 := by omega
    simp [State.recordOf, hstatus, hfault]
  have hsev : 2 ≤ (s.recordOf e).severity.toNat := hminor
  unfold State.raise
  dsimp only
  rw [if_pos hsev]
  split
  · rfl
  · rw [State.dropRecord, State.noticeCompletions, if_neg hquiet]
    exact State.bindings_noticeMessages _ _

@[simp] theorem State.bindings_planRecord (s : State) (k : U8) (st : RebindStatus) :
    (s.planRecord k st).bindings = s.bindings :=
  s.bindings_raise (Nat.le_succ 2) (by simp [Event.blank])

@[simp] theorem State.bindings_noteResident (s : State) (c : Slot) : (s.noteResident c).bindings = s.bindings := by
  unfold State.noteResident
  dsimp only
  split
  · rfl
  · exact s.bindings_raise (Nat.le_refl 2) (by simp [Event.blank])

/-! ### Folds over slots and cores -/

theorem State.modRes_ctx (s : State) (f : Resources → Resources) (c : Slot) : (s.modRes f).ctx c = s.ctx c := rfl

/-- A change made of each listed slot, once. -/
theorem State.foldl_modCtx_ctx (f : Ctx → Ctx) {l : List Slot} (hl : l.Nodup) (s : State) (d : Slot) :
    (l.foldl (fun s c => s.modCtx c f) s).ctx d = if d ∈ l then f (s.ctx d) else s.ctx d := by
  induction l generalizing s with
  | nil => simp
  | cons c l ih =>
    obtain ⟨hc, hl⟩ := List.nodup_cons.1 hl
    rw [List.foldl_cons, ih hl, State.modCtx_ctx]
    by_cases hd : d = c
    · subst hd; simp [hc]
    · simp [hd]

theorem State.foldl_setCtx_ctx (g : Slot → Ctx) (l : List Slot) (s : State) (d : Slot) :
    (l.foldl (fun s c => s.setCtx c (g c)) s).ctx d = if d ∈ l then g d else s.ctx d := by
  induction l generalizing s with
  | nil => simp
  | cons c l ih =>
    rw [List.foldl_cons, ih, State.setCtx_ctx]
    by_cases hd : d = c
    · subst hd; simp
    · simp [hd]

/-- Cores cleaned one by one: their records are gone and nothing else changes (R119). -/
theorem State.foldl_cleanCore (l : List Nat) (s : State) :
    l.foldl (fun s k => s.cleanCore k) s =
      { s with watch := s.watch.filter (fun x => l.all (fun k => !(8 * k ≤ x.1 && x.1 < 8 * k + 8))) } := by
  induction l generalizing s with
  | nil => simp
  | cons k l ih =>
    rw [List.foldl_cons, ih]
    simp [State.cleanCore, List.filter_filter, Bool.and_comm]

theorem kvGet_filter_none {α : Type} (l : List (Nat × α)) {p : Nat × α → Bool} {n : Nat} (hp : ∀ v, p (n, v) = false) :
    kvGet (l.filter p) n = none := by
  induction l with
  | nil => rfl
  | cons x l ih =>
    obtain ⟨m, v⟩ := x
    rw [List.filter_cons]
    split
    · next hx =>
      have hne : m ≠ n := by rintro rfl; simp [hp] at hx
      simp [kvGet, hne, ih]
    · exact ih

/-- A clean core holds no watch record. -/
theorem State.foldl_cleanCore_watch {l : List Nat} (s : State) {k e : Nat} (hk : k ∈ l) (he : e < 8) :
    kvGet (l.foldl (fun s k => s.cleanCore k) s).watch (8 * k + e) = none := by
  rw [State.foldl_cleanCore]
  refine kvGet_filter_none _ fun v => List.all_eq_false.2 ⟨k, hk, ?_⟩
  simp [he]

/-! ### The start of a plan (R283, R284) -/

theorem State.affectedBy_nodup (s s' : State) (l : List Assign) : (s.affectedBy s' l).Nodup :=
  (List.nodup_finRange 16).filter _

/-- Cores that stop claiming change only what operations run with. -/
@[simp] theorem State.bindings_stopClaims (s s' : State) (c : Slot) :
    (s.stopClaims s' c).bindings = s.bindings := by
  unfold State.stopClaims
  exact State.bindings_foldl (fun t (o : OpRec) => t.bindings_modRun c o.n _) _ s

/-- A plan that passes its check drains. -/
theorem State.startPlan_drains {s u : State} {p : PlanRun} {rest : List PlanRun}
    (hqueue : s.res.planQueue = p :: rest) (hu : u = s.modRes (fun r => { r with planQueue := rest }))
    (hok : u.planCheck p.bind? false p.record = none) :
    ∃ q, (s.startPlan p).res.planRunning = some q ∧ q.assigns = p.assigns ∧
      q.affected = u.affectedBy (u.assignAll p.assigns) p.assigns ∧ (s.startPlan p).res.planPhase = 2 ∧
      (s.startPlan p).res.planQueue = rest ∧ (s.startPlan p).res.rebindStatus.state = 2 ∧
      ∀ c, ((s.startPlan p).ctx c).st =
        if c ∈ q.affected ∧ (s.ctx c).st ≠ .releasing then .rebinding else (s.ctx c).st := by
  have hrest : s.modRes (fun r => { r with planQueue := r.planQueue.drop 1 }) = u := by
    simp [hu, State.modRes, hqueue]
  have hctx (c : Slot) : u.ctx c = s.ctx c := hu ▸ s.modRes_ctx _ c
  have hmark (f : Ctx → Ctx) (l : List Slot) (t : State) : (l.foldl (fun s c => s.modCtx c f) t).res = t.res :=
    List.foldlRecOn (motive := fun t' : State => t'.res = t.res) _ _ rfl fun _ h _ _ => h
  obtain ⟨-, hwaiting, -, -, hslots⟩ := State.eq_of_bindings (State.bindings_foldl
    (fun t c => t.bindings_stopClaims (u.assignAll p.assigns) c) (u.affectedBy (u.assignAll p.assigns) p.assigns) u)
  unfold State.startPlan
  simp only [hrest, hok]
  refine ⟨_, rfl, rfl, rfl, rfl, ?queue, rfl, fun c => ?state⟩
  case queue => simpa [hmark, hu] using hwaiting
  case state =>
    obtain ⟨hst, -⟩ := hslots c
    rw [State.modRes_ctx, State.foldl_modCtx_ctx _ (u.affectedBy_nodup _ _), apply_ite Ctx.st, hst, hctx,
      CtxState.during]
    by_cases hreleasing : (s.ctx c).st = .releasing
    · simp [hreleasing]
    · simp [hreleasing]

theorem execRebindPlanStart_starts {s : State} {p : PlanRun} {rest : List PlanRun} (hidle : s.res.planRunning = none)
    (hqueue : s.res.planQueue = p :: rest) (hready : s.boot.life = .ready) :
    execRebindPlanStart s = .next (s.startPlan p) := by
  simp [execRebindPlanStart, hidle, hqueue, hready]

/-! ### The end of a drain (R119, R284) -/

/-- The cores that a plan takes away. -/
def State.leavingCores (s : State) (p : PlanRun) : List Nat :=
  p.affected.flatMap (fun c => coresOf (s.leaving (s.assignAll p.assigns) 1 c))

/-- The checks that wait on the cores are dropped, and their records cleared. -/
def State.cleanCores (s : State) (l : List Nat) : State :=
  l.foldl (fun s k => s.cleanCore k) (s.dropChecks (fun k _ => l.contains k))

/-- Dropped checks change of a slot only its step's report. -/
theorem State.dropChecks_ctx (s : State) (late : Nat → BlinkCheck → Bool) (d : Slot) :
    { (s.dropChecks late).ctx d with num := (s.ctx d).num } = s.ctx d := by
  unfold State.dropChecks
  dsimp only
  refine List.foldlRecOn (motive := fun t : State => { t.ctx d with num := (s.ctx d).num } = s.ctx d) _ _ rfl ?_
  intro t ht b _
  rw [State.modStepAcc, State.modNum_ctx]
  split
  · next h => rwa [← h]
  · exact ht

theorem State.dropChecks_mem (s : State) (late : Nat → BlinkCheck → Bool) : (s.dropChecks late).mem = s.mem := by
  unfold State.dropChecks
  exact foldl_mem _ (fun t (b : BlinkCheck) => t.modStepAcc_mem b.op.c b.op.step _) _ _

theorem State.cleanCores_mem (s : State) (l : List Nat) : (s.cleanCores l).mem = s.mem := by
  rw [State.cleanCores, State.foldl_cleanCore]
  exact s.dropChecks_mem _

theorem State.cleanCores_ctx (s : State) (l : List Nat) (d : Slot) :
    ((s.cleanCores l).ctx d).st = (s.ctx d).st ∧ ((s.cleanCores l).ctx d).stream = (s.ctx d).stream ∧
      ((s.cleanCores l).ctx d).pool = (s.ctx d).pool ∧ ((s.cleanCores l).ctx d).groups = (s.ctx d).groups := by
  rw [State.cleanCores, State.foldl_cleanCore]
  have hctx := s.dropChecks_ctx (fun k _ => l.contains k) d
  exact ⟨congrArg (·.st) hctx, congrArg (·.stream) hctx, congrArg (·.pool) hctx, congrArg (·.groups) hctx⟩

theorem execRebindDrainDone_ends {s : State} {p : PlanRun} (us : U32) (hrun : s.res.planRunning = some p)
    (hphase : s.res.planPhase = 2) (hgone : ∀ q ∈ p.waits, s.opGone q = true)
    (hidle : s.coresIdle ((s.leavingCores p).filter (fun k => !s.res.coresFailed.contains k)) = true) :
    execRebindDrainDone us s = .next ((s.cleanCores (s.leavingCores p)).modRes (fun r => { r with
      planRunning := some { p with drainUs := us }, planPhase := 3
      rebindStatus := { r.rebindStatus with state := 3, drainUs := us } })) := by
  have hall : p.waits.all s.opGone = true := List.all_eq_true.2 hgone
  unfold State.leavingCores at hidle
  simp only [execRebindDrainDone, hrun, hphase, hall, hidle]
  rfl

theorem execRebindDrainDone_waits {s : State} {p : PlanRun} (us : U32) (hrun : s.res.planRunning = some p)
    (hwaits : (∃ q ∈ p.waits, s.opGone q = false) ∨
      s.coresIdle ((s.leavingCores p).filter (fun k => !s.res.coresFailed.contains k)) = false) :
    execRebindDrainDone us s = .next s := by
  unfold execRebindDrainDone
  rw [hrun]
  refine if_pos ?_
  obtain ⟨q, hq, hbusy⟩ | hbusy := hwaits
  · have hall : p.waits.all s.opGone = false := List.all_eq_false.2 ⟨q, hq, by simp [hbusy]⟩
    simp [hall]
  · unfold State.leavingCores at hbusy
    rw [hbusy]
    simp

/-! ### The switch (R283, R285) -/

@[simp] theorem State.bindings_beginPausing (s : State) : s.beginPausing.bindings = s.bindings := by
  unfold State.beginPausing
  split
  · rfl
  · exact State.bindings_foldl (fun t c => t.bindings_modCtx (by intro _; rfl) c) _ _

@[simp] theorem State.bindings_planEnded (s : State) : s.planEnded.bindings = s.bindings := by
  unfold State.planEnded
  split
  · rfl
  · split_ifs
    · rfl
    · exact s.bindings_beginPausing
    · rfl

@[simp] theorem State.bindings_lapseRamps (s : State) (gs : List Nat) : (s.lapseRamps gs).bindings = s.bindings := by
  unfold State.lapseRamps
  exact State.bindings_foldl (fun t g => t.bindings_modBlock (groupBlock g) _) _ s

/-- The switch gives every slot the units that the assignments say, and the plan's slots their state after it. -/
theorem State.switchPlan_binds (s : State) (p : PlanRun) (wb upd : U32) :
    (s.switchPlan p wb upd).res.planRunning = none ∧ (s.switchPlan p wb upd).res.rebindStatus.state = 5 ∧
      (s.switchPlan p wb upd).res.rebindStatus.totalUs = p.drainUs + wb + upd ∧
      (∀ c ∈ p.affected, ((s.switchPlan p wb upd).ctx c).st = s.afterSwitch c) ∧
      ∀ c, ((s.switchPlan p wb upd).ctx c).groups = ((s.assignAll p.assigns).ctx c).groups ∧
        ((s.switchPlan p wb upd).ctx c).slices = ((s.assignAll p.assigns).ctx c).slices ∧
        ((s.switchPlan p wb upd).ctx c).endpoints = ((s.assignAll p.assigns).ctx c).endpoints := by
  have hbefore : (s.switchPlan p wb upd).bindings = _ :=
    (State.bindings_planEnded _).trans ((State.bindings_foldl (fun t c => t.bindings_noteResident c) _ _).trans
      (State.bindings_lapseRamps _ _))
  obtain ⟨hrunning, -, -, hstatus, hslots⟩ := State.eq_of_bindings hbefore
  simp only [State.modRes_ctx, State.foldl_setCtx_ctx] at hslots
  rw [hrunning, hstatus]
  refine ⟨rfl, rfl, rfl, fun c hc => ?_, fun c => ?_⟩
  · rw [(hslots c).1, if_pos hc]
  · obtain ⟨-, hgroups, hslices, hendpoints⟩ := hslots c
    rw [hgroups, hslices, hendpoints]
    split <;> exact ⟨rfl, rfl, rfl⟩

theorem State.afterSwitch_eq (s : State) (c : Slot) : s.afterSwitch c =
    if (s.ctx c).st = .rebinding ∧ (∀ q ∈ s.res.planQueue, q.bind? ≠ some c) then .bound else (s.ctx c).st := by
  simp [State.afterSwitch]

theorem execRebindSwitch_switches {s : State} {p : PlanRun} (wb upd : U32) (hrun : s.res.planRunning = some p)
    (hphase : s.res.planPhase = 3) : execRebindSwitch wb upd s =
      .next ((s.switchPlan p wb upd).planRecord p.idx (s.switchPlan p wb upd).res.rebindStatus) := by
  simp [execRebindSwitch, hrun, hphase]

/-- Settles O46: the start marks the plan's slots one by one, the drain's end cleans the leaving cores, and nothing of
what the switch raises or begins after it touches the slots' states and units. -/
theorem plansProgress : Obligations.PlansProgress := by
  intro s p us wb upd
  refine ⟨fun rest hidle hqueue hready => ⟨execRebindPlanStart_starts hidle hqueue hready, ?start⟩,
    fun hrun hphase => ⟨fun hgone hidle => ?ends, execRebindDrainDone_waits us hrun⟩, fun hrun hphase => ?switch⟩
  case start => exact State.startPlan_drains hqueue rfl
  case ends =>
    refine ⟨_, execRebindDrainDone_ends us hrun hphase hgone hidle, rfl, rfl, rfl, rfl, s.cleanCores_mem _,
      fun k hk e he => State.foldl_cleanCore_watch _ hk he, s.cleanCores_ctx _⟩
  case switch =>
    refine ⟨_, execRebindSwitch_switches wb upd hrun hphase, ?_⟩
    obtain ⟨hrunning, -, -, hstatus, hslots⟩ := State.eq_of_bindings
      ((s.switchPlan p wb upd).bindings_planRecord p.idx (s.switchPlan p wb upd).res.rebindStatus)
    obtain ⟨hended, hstate, htotal, hst, hunits⟩ := s.switchPlan_binds p wb upd
    rw [hrunning, hstatus]
    refine ⟨hended, hstate, htotal, fun c hc => ?_, fun c => ?_⟩
    · rw [(hslots c).1, hst c hc, State.afterSwitch_eq]
    · obtain ⟨-, hgroups, hslices, hendpoints⟩ := hslots c
      rw [hgroups, hslices, hendpoints]
      exact hunits c

end Sys2Proof.Machine

namespace Sys2Proof.Machine

/-! ### The start of an operation (R139, R193) -/

theorem State.op?_of_lasting {s t : State} (h : s.lasting = t.lasting) (c : Slot) (n : Nat) :
    s.op? c n = t.op? c n := by
  obtain ⟨-, -, -, hops, -, -, -⟩ := Ctx.eq_of_lasting (congrFun (congrArg Prod.snd h) c)
  rw [State.op?, hops, State.op?]

@[simp] theorem State.op?_journalOp (s : State) (c d : Slot) (n : Nat) (step : U64) (list : Nat) (desc : Desc) :
    (s.journalOp c step list desc).op? d n = s.op? d n :=
  State.op?_of_lasting (State.lasting_journalMod _ _ _ _) d n

@[simp] theorem State.op?_modTrain (s : State) (c d : Slot) (n : Nat) (f : CtxTrain → CtxTrain) :
    (s.modTrain c f).op? d n = s.op? d n := by
  rw [State.op?, State.modTrain_ctx]
  split
  · next h => rw [h]; rfl
  · rfl

@[simp] theorem State.op?_stashStart (s : State) (c d : Slot) (n : Nat) (desc : Desc) (up : Bool) :
    (s.stashStart c desc up).op? d n = s.op? d n := by
  unfold State.stashStart
  split
  · rfl
  · exact State.op?_modTrain _ _ _ _ _

/-- A change to one operation leaves the others of the stream. -/
theorem State.op?_modOp_of_ne (s : State) (c : Slot) {n m : Nat} (hm : m ≠ n) {f : OpRec → OpRec}
    (hf : ∀ o, (f o).n = o.n) : (s.modOp c n f).op? c m = s.op? c m := by
  simp only [State.op?, State.modOp, State.modStream_ctx, if_true, List.find?_map, Function.comp_def,
    apply_ite OpRec.n, hf, ite_self]
  refine (Option.map_congr fun o ho => if_neg ?_).trans Option.map_id'
  have hon : o.n = m := by simpa using List.find?_some ho
  simpa [hon] using hm

theorem State.op?_n {s : State} {c : Slot} {n : Nat} {o : OpRec} (h : s.op? c n = some o) : o.n = n := by
  simpa using List.find?_some h

/-- The run data with which an operation begins: its operands, and the seed and the mode of its step. -/
def State.runAtStart (s : State) (c : Slot) (o : OpRec) (vs : List (Nat × TView)) : RunData :=
  let (seed, mode) := (s.ctx c).num.seedOf o.step
  { RunData.new vs (s.participants c o.desc.groupMask) seed mode ((s.ctx c).num.stale.getLsbD 0) s.mer.count with
    line := (s.ctx c).servingDie.getD 0 }

def OpRec.begun (o : OpRec) (r : RunData) : OpRec := { o with st := .running, run := some r }

/-- The stash's and the journal's notes of a start do not touch the operations. -/
theorem State.op?_beginOp (s : State) (c : Slot) (o : OpRec) (vs : List (Nat × TView)) (m : Nat) :
    (s.beginOp c o vs).op? c m = (s.modOp c o.n (·.begun (s.runAtStart c o vs))).op? c m := by
  unfold State.beginOp
  rw [State.op?_journalOp, State.op?_stashStart]
  rfl

/-- Settles O36: only the operation that begins changes, and its run data are those of `State.runAtStart`. -/
theorem operationsRun : Obligations.OperationsRun := by
  intro s c n o vs hop
  have hn : o.n = n := State.op?_n hop
  refine ⟨⟨o.begun (s.runAtStart c o vs), s.runAtStart c o vs, ?_, rfl, rfl, rfl, rfl, rfl, rfl⟩, fun m hm => ?_⟩
  · rw [State.op?_beginOp, hn, State.op?_modOp s c n (f := (·.begun _)) (fun _ => rfl), hop, Option.map_some]
  · rw [State.op?_beginOp, hn, State.op?_modOp_of_ne s c hm (f := (·.begun _)) (fun _ => rfl)]

end Sys2Proof.Machine

namespace Sys2Proof.Machine

/-! ### The FP32 patterns of infinities, zeros and values below −0 (R21, R149) -/

@[simp] theorem fval_inf32 (n : Bool) : fval (inf32 n) = .inf n := by cases n <;> rfl

@[simp] theorem fval_zero32 (n : Bool) : fval (zero32 n) = .fin n 0 (-149) := by cases n <;> rfl

/-- A finite value's sign is the pattern's top bit. -/
theorem msb_of_fval_fin {a : F32} {n : Bool} {m : Nat} {e : Int} (h : fval a = .fin n m e) : a.msb = n := by
  simp only [fval] at h
  split_ifs at h <;> exact (FVal.fin.inj h).1

theorem exists_fval_of_finite_nonzero {a : F32} (hfin : isFinite a = true) (hzero : isZero a = false) :
    ∃ m e, fval a = .fin a.msb m e ∧ m ≠ 0 := by
  cases hval : fval a with
  | nan => simp [isFinite, hval] at hfin
  | inf n => simp [isFinite, hval] at hfin
  | fin n m e =>
    refine ⟨m, e, by rw [msb_of_fval_fin hval], ?_⟩
    rintro rfl
    simp [isZero, hval] at hzero

/-- Below a zero lie the dyadics whose significand is negative. -/
theorem dyLt_zero (n e e' : Int) : dyLt n e 0 e' = decide (n < 0) := by
  have hpow : (0 : Int) < 2 ^ (e - min e e').toNat := by positivity
  simp only [dyLt, Int.zero_mul]
  exact decide_eq_decide.2 (by rw [mul_neg_iff]; omega)

/-- What is below −0 is −inf or a negative value other than zero. -/
theorem fval_of_lt_negZero {a : F32} (h : ltF a (zero32 true) = true) :
    fval a = .inf true ∨ ∃ m e, fval a = .fin true (m + 1) e := by
  unfold ltF at h
  rw [fval_zero32] at h
  cases hval : fval a with
  | nan => simp [hval] at h
  | inf n => exact .inl (by simpa [hval] using h)
  | fin n m e =>
    have hneg : signed n m < 0 := by simpa [hval, show signed true 0 = 0 from rfl, dyLt_zero] using h
    cases n with
    | false => exact absurd hneg (by simp [signed])
    | true =>
      cases m with
      | zero => simp [signed] at hneg
      | succ m => exact .inr ⟨m, e, rfl⟩

/-! ### The invalid operations of FP32 and their CAUSE (R149, R436) -/

theorem fmaF_inf_zero (sub na nb : Bool) (c : F32) :
    fmaF sub (inf32 na) (zero32 nb) c = (nan32, Fl.invalid 5) := by
  simp [fmaF]

theorem fmaF_zero_inf (sub na nb : Bool) (c : F32) :
    fmaF sub (zero32 na) (inf32 nb) c = (nan32, Fl.invalid 5) := by
  simp [fmaF]

theorem mulF_inf_zero (sub na nb : Bool) : mulF sub (inf32 na) (zero32 nb) = (nan32, Fl.invalid 5) := by
  simp [mulF]

theorem addF_inf_opposite (sub n : Bool) : addF sub (inf32 n) (inf32 (!n)) = (nan32, Fl.invalid 9) := by
  cases n <;> rfl

theorem divF_zero_zero (sub na nb : Bool) : divF sub (zero32 na) (zero32 nb) = (nan32, Fl.invalid 12) := by
  simp [divF]

theorem divF_inf_inf (sub na nb : Bool) : divF sub (inf32 na) (inf32 nb) = (nan32, Fl.invalid 12) := by
  simp [divF]

theorem divF_finite_zero {a : F32} (sub nb : Bool) (hfin : isFinite a = true) (hzero : isZero a = false) :
    divF sub a (zero32 nb) = (inf32 (a.msb != nb), Fl.overflow 2) := by
  obtain ⟨m, e, hval, hm⟩ := exists_fval_of_finite_nonzero hfin hzero
  simp [divF, hval, hm]

theorem sqrtF_of_lt_negZero {a : F32} (h : ltF a (zero32 true) = true) : sqrtF a = (nan32, Fl.invalid 12) := by
  obtain hval | ⟨m, e, hval⟩ := fval_of_lt_negZero h <;> simp [sqrtF, hval]

theorem rsqrtF_of_lt_negZero {a : F32} (h : ltF a (zero32 true) = true) : rsqrtF a = (nan32, Fl.invalid 12) := by
  obtain hval | ⟨m, e, hval⟩ := fval_of_lt_negZero h <;> simp [rsqrtF, hval]

theorem rsqrtF_zero (n : Bool) : rsqrtF (zero32 n) = (inf32 n, Fl.overflow 2) := by simp [rsqrtF]

theorem rcpF_zero (n : Bool) : rcpF (zero32 n) = (inf32 n, Fl.overflow 2) := by
  rw [rcpF, divF_finite_zero true n (by decide) (by decide)]
  cases n <;> rfl

/-! ### The optimiser's update of one element (R166 to R168) -/

theorem optimElem_of_not_finite (adam : Bool) (par : List U32) {g : FV} (w m s : FV) (hg : isFinite g.1 = false) :
    optimElem adam par g w m s = { y := w.1, w := w.1, m := m.1, s := s.1, fl := Fl.invalid 6, skip := true } := by
  simp [optimElem, hg]

/-- Settles O11: each clause is the rule of its operation for the patterns it names. -/
theorem invalidOperations : Obligations.InvalidOperations := by
  refine ⟨fun adam par g w m s hg => optimElem_of_not_finite adam par w m s hg, fun sub na nb a c => ?_⟩
  exact ⟨fmaF_inf_zero sub na nb c, fmaF_zero_inf sub na nb c, mulF_inf_zero sub na nb, addF_inf_opposite sub na,
    divF_zero_zero sub na nb, divF_inf_inf sub na nb, divF_finite_zero sub nb,
    fun _ hlt => ⟨sqrtF_of_lt_negZero hlt, rsqrtF_of_lt_negZero hlt⟩, rsqrtF_zero nb, rcpF_zero nb⟩

/-- Settles O13: a finite gradient passes the skip of R168, and SGDM's sequence follows. -/
theorem sgdmSequence : Obligations.SgdmSequence := by
  intro par g w m s hg p m' w'
  unfold optimElem
  rw [hg]
  exact ⟨rfl, rfl, rfl, rfl⟩

/-! ### y of the functions of VECTOR (R160) -/

theorem negF_of_not_nan {a : F32} (h : isNan a = false) : negF a = a ^^^ 0x80000000 := by simp [negF, h]

theorem absF_of_not_nan {a : F32} (h : isNan a = false) : absF a = a &&& 0x7FFFFFFF := by simp [absF, h]

/-- RELU and LEAKY give a positive operand itself. -/
theorem vecFn_rectify_of_pos (p0 : F32) {a : FV} (b c : FV) (h : posF a.1 = true) :
    (vecFn 0x10 p0 a b c).1 = a.1 ∧ (vecFn 0x11 p0 a b c).1 = a.1 := by
  simp [vecFn, h]

theorem vecFn_rectify_of_not_pos (p0 : F32) {a : FV} (b c : FV) (h : posF a.1 = false) :
    (vecFn 0x10 p0 a b c).1 = (if isNan a.1 then nan32 else 0) ∧ (vecFn 0x11 p0 a b c).1 = (a.mul b).1 := by
  simp [vecFn, h]

/-- SELECT and MASK_SCALE take the first of their two values where the mask bit of c is set. -/
theorem vecFn_select_of_mask (p0 : F32) (a b : FV) {c : FV} (h : maskBit c.1 = true) :
    (vecFn 0x18 p0 a b c).1 = a.1 ∧ (vecFn 0x19 p0 a b c).1 = (a.mul b).1 := by
  simp [vecFn, h]

theorem vecFn_select_of_not_mask (p0 : F32) (a b : FV) {c : FV} (h : maskBit c.1 = false) :
    (vecFn 0x18 p0 a b c).1 = b.1 ∧ (vecFn 0x19 p0 a b c).1 = (a.mul (FV.imm p0)).1 := by
  simp [vecFn, h]

/-- Settles O12: a finite gradient passes the skip of R168, and ADAMW's sequence follows; a function of VECTOR without
a choice is its operation by definition. -/
theorem vectorFunctions : Obligations.VectorFunctions := by
  refine ⟨?adamw, fun p0 a b c => ?functions⟩
  case adamw =>
    intro par g w m s hg p one g1 m' s' q w'
    unfold optimElem
    rw [hg]
    exact ⟨rfl, rfl, rfl, rfl⟩
  case functions =>
    exact ⟨rfl, rfl, rfl, rfl, rfl, rfl, rfl, rfl, fun ha => ⟨absF_of_not_nan ha, negF_of_not_nan ha⟩,
      rfl, rfl, rfl, rfl, vecFn_rectify_of_pos p0 b c, vecFn_rectify_of_not_pos p0 b c, rfl,
      vecFn_select_of_mask p0 a b, vecFn_select_of_not_mask p0 a b, rfl⟩

end Sys2Proof.Machine

namespace Sys2Proof.Machine

/-! ### Units of a weight gradient (R177) -/

theorem unitTile_eq_map (tr tc b u : Nat) :
    unitTile tr tc b u = ((hilbertOrder tr tc)[u / b]?).map (fun p => (p.1, p.2, u % b)) := by
  unfold unitTile
  cases (hilbertOrder tr tc)[u / b]? <;> rfl

/-- A unit that is not the last band of its tile is followed by the tile's next band. -/
theorem next_band {b u : Nat} (h : u % b + 1 < b) : (u + 1) / b = u / b ∧ (u + 1) % b = u % b + 1 := by
  have hmod : (u + 1) % b = u % b + 1 := by rw [Nat.add_mod, Nat.mod_eq_of_lt (by omega : 1 < b), Nat.mod_eq_of_lt h]
  have hdvd : ¬ b ∣ u + 1 := fun hd => by simp [Nat.mod_eq_zero_of_dvd hd] at hmod
  exact ⟨Nat.succ_div_of_not_dvd hdvd, hmod⟩

/-- Settles O40: a unit and the next lie in one tile unless the first is its last band. -/
theorem unitsOfBands : Obligations.UnitsOfBands := by
  refine fun tr tc b u _ => ⟨unitTile_eq_map tr tc b u, fun hband p hp => ?next, fun hpast => ?past⟩
  case next =>
    obtain ⟨htile, hnext⟩ := next_band hband
    rw [unitTile_eq_map, Option.map_eq_some_iff] at hp
    obtain ⟨q, hq, rfl⟩ := hp
    rw [unitTile_eq_map, htile, hnext, hq, Option.map_some]
  case past => rw [unitTile_eq_map, List.getElem?_eq_none hpast, Option.map_none]

end Sys2Proof.Machine

namespace Sys2Proof.Machine

/-! ### What stores change at most (chapter 12) -/

/-- A fold of steps that leave what `g` shows leaves it. -/
theorem foldl_shows {σ α β : Type} (g : σ → β) {f : σ → α → σ} (hf : ∀ s x, g (f s x) = g s) (l : List α) (s : σ) :
    g (l.foldl f s) = g s :=
  List.foldlRecOn (motive := fun t => g t = g s) l f rfl fun t ht x _ => (hf t x).trans ht

/-- The state without the slots, the bytes of the device ranges and what is kept of their pages. -/
def State.besidesMemory (s : State) : State :=
  { s with ctxs := State.reset.ctxs, mem := [], poison := [], tiers := State.reset.tiers, images := [] }

theorem State.eq_of_besidesMemory {s t : State} (h : s.besidesMemory = t.besidesMemory) :
    s.res = t.res ∧ s.arrays = t.arrays ∧ s.fab = t.fab :=
  ⟨congrArg (·.res) h, congrArg (·.arrays) h, congrArg (·.fab) h⟩

@[simp] theorem State.besidesMemory_modPage (s : State) (c : Slot) (p : Nat) (f : Page → Page) :
    (s.modPage c p f).besidesMemory = s.besidesMemory := rfl

@[simp] theorem State.besidesMemory_countBad (s : State) (c : Slot) (a : Nat) :
    (s.countBad c a).besidesMemory = s.besidesMemory := by
  unfold State.countBad
  dsimp only
  split_ifs <;> rfl

@[simp] theorem State.besidesMemory_scrubCorrected (s : State) (q : Slot × Nat) :
    (s.scrubCorrected q).besidesMemory = s.besidesMemory := by
  unfold State.scrubCorrected
  split <;> rfl

@[simp] theorem State.besidesMemory_correct (s : State) (c : Slot) (a n : Nat) :
    (s.correct c a n).besidesMemory = s.besidesMemory :=
  foldl_shows State.besidesMemory (by intro _ _; exact State.besidesMemory_scrubCorrected _ _) _ s

@[simp] theorem State.besidesMemory_meet (s : State) (c : Slot) (a : Nat) :
    (s.meet c a).besidesMemory = s.besidesMemory := by
  unfold State.meet
  dsimp only
  split
  · exact State.besidesMemory_countBad _ _ _
  · rfl
  · rfl

@[simp] theorem State.besidesMemory_meetPage (s : State) (c : Slot) (p : Nat) :
    (s.meetPage c p).besidesMemory = s.besidesMemory :=
  (foldl_shows State.besidesMemory (fun _ _ => State.besidesMemory_meet _ _ _) _ _).trans
    (State.besidesMemory_correct _ _ _ _)

@[simp] theorem State.besidesMemory_leaveFrame (s : State) (c : Slot) (p : Nat) :
    (s.leaveFrame c p).besidesMemory = s.besidesMemory := by
  rw [← s.besidesMemory_meetPage c p]
  unfold State.leaveFrame
  dsimp only
  split <;> rfl

@[simp] theorem State.besidesMemory_ddrFrame (s : State) (d : Nat) :
    (s.ddrFrame d).1.besidesMemory = s.besidesMemory := by
  unfold State.ddrFrame
  split
  · rfl
  · split
    · rfl
    · dsimp only
      split
      · rfl
      · exact State.besidesMemory_leaveFrame _ _ _

@[simp] theorem State.besidesMemory_placePage (s : State) (c : Slot) (p : Nat) (pg : Page) (stay : Tier) :
    (s.placePage c p pg stay).besidesMemory = s.besidesMemory := by
  unfold State.placePage
  dsimp only
  split
  · rfl
  · split
    · rfl
    · split
      · simp
      · split
        · split <;> simp
        · simp

@[simp] theorem State.besidesMemory_switchPage (s : State) (c : Slot) (p : Nat) (pg : Page) (t : Tier) :
    (s.switchPage c p pg t).besidesMemory = s.besidesMemory := by
  unfold State.switchPage
  rw [State.besidesMemory_modPage]
  split
  · split <;> simp
  · simp

@[simp] theorem State.besidesMemory_touchResident (s : State) (c : Slot) (p : Nat) (pg : Page) (x : Nat) :
    (s.touchResident c p pg x).besidesMemory = s.besidesMemory := by
  unfold State.touchResident
  split <;> simp

@[simp] theorem State.besidesMemory_touchPage (s : State) (c : Slot) (p : Nat) :
    (s.touchPage c p).besidesMemory = s.besidesMemory := by
  unfold State.touchPage
  split
  · rfl
  · dsimp only
    split
    · split <;> simp
    · split <;> simp
    · simp

@[simp] theorem State.besidesMemory_writePage (s : State) (c : Slot) (p : Nat) :
    (s.writePage c p).besidesMemory = s.besidesMemory := by
  have hcapture : (s.captureFirst c p).besidesMemory = s.besidesMemory := rfl
  unfold State.writePage
  dsimp only
  split
  · simp [hcapture]
  · split
    · simp [hcapture]
    · split <;> simp [hcapture]

@[simp] theorem State.besidesMemory_land (s : State) (c : Slot) (a : Nat) (b : Bytes) :
    (s.land c a b).besidesMemory = s.besidesMemory :=
  foldl_shows State.besidesMemory (fun s p => s.besidesMemory_writePage c p) _ s

@[simp] theorem State.besidesMemory_store (s : State) (c : Slot) (a : Nat) (b : Bytes) :
    (s.store c a b).besidesMemory = s.besidesMemory := by
  unfold State.store
  split_ifs
  · rfl
  · exact s.besidesMemory_land c a b
  · exact foldl_shows State.besidesMemory (fun s p => s.besidesMemory_land c _ _) _ s

@[simp] theorem State.besidesMemory_touch (s : State) (c : Slot) (a n : Nat) :
    (s.touch c a n).besidesMemory = s.besidesMemory :=
  (State.besidesMemory_correct _ _ _ _).trans
    (foldl_shows State.besidesMemory (fun s p => s.besidesMemory_touchPage c p) _ s)

@[simp] theorem State.lasting_touch (s : State) (c : Slot) (a n : Nat) : (s.touch c a n).lasting = s.lasting :=
  (State.lasting_correct _ _ _ _).trans (State.lasting_foldl (fun s p => s.lasting_touchPage c p) _ s)

/-! ### What completions, traffic and records leave -/

/-- The states of the ports (R312). -/
def State.portStates (s : State) (n : Nat) : U8 := (s.port n).state

/-- What neither a store nor a completion, a packet's way nor a Logbook record changes: the resources, the arrays, what
lasts of the slots, and the states of the ports. -/
def State.standing (s : State) : Resources × Arrays × (List DueEntry × (Slot → Ctx)) × (Nat → U8) :=
  (s.res, s.arrays, s.lasting, s.portStates)

theorem State.eq_of_standing {s t : State} (h : s.standing = t.standing) :
    s.res = t.res ∧ s.arrays = t.arrays ∧ s.lasting = t.lasting ∧ s.portStates = t.portStates := by
  simpa only [State.standing, Prod.mk.injEq] using h

theorem State.standing_of_besidesMemory {s t : State} (h : s.besidesMemory = t.besidesMemory)
    (hl : s.lasting = t.lasting) : s.standing = t.standing := by
  obtain ⟨hres, harrays, hfab⟩ := State.eq_of_besidesMemory h
  have hports : s.portStates = t.portStates := by
    funext n
    simp only [State.portStates, State.port, hfab]
  simp only [State.standing, hres, harrays, hl, hports]

@[simp] theorem State.standing_meet (s : State) (c : Slot) (a : Nat) : (s.meet c a).standing = s.standing :=
  State.standing_of_besidesMemory (s.besidesMemory_meet c a) (s.lasting_meet c a)

@[simp] theorem State.standing_touch (s : State) (c : Slot) (a n : Nat) : (s.touch c a n).standing = s.standing :=
  State.standing_of_besidesMemory (s.besidesMemory_touch c a n) (s.lasting_touch c a n)

@[simp] theorem State.standing_store (s : State) (c : Slot) (a : Nat) (b : Bytes) :
    (s.store c a b).standing = s.standing :=
  State.standing_of_besidesMemory (s.besidesMemory_store c a b) (s.lasting_store c a b)

/-! #### Completions -/

@[simp] theorem State.standing_emit (s : State) (o : Out) : (s.emit o).standing = s.standing := rfl

@[simp] theorem State.standing_sendMsix (s : State) (f : Func) (v : U8) : (s.sendMsix f v).standing = s.standing := by
  unfold State.sendMsix
  dsimp only
  split <;> rfl

@[simp] theorem State.standing_setRing (s : State) (r : Ring) (x : CmplRing) :
    (s.setRing r x).standing = s.standing := by
  have hlasting := s.lasting_setRing r x
  unfold State.standing
  rw [hlasting]
  cases r <;> rfl

@[simp] theorem State.standing_ringMessage (s : State) (r : Ring) : (s.ringMessage r).standing = s.standing := by
  simp [State.ringMessage]

@[simp] theorem State.standing_writeCmpl (s : State) (r : Ring) (e : Cmpl) :
    (s.writeCmpl r e).standing = s.standing := by
  unfold State.writeCmpl
  cases r with
  | module => dsimp only; split <;> simp
  | ctx c => dsimp only; split_ifs <;> simp

@[simp] theorem State.standing_post (s : State) (r : Ring) (e : Cmpl) : (s.post r e).standing = s.standing := by
  unfold State.post
  dsimp only
  split_ifs <;> simp

@[simp] theorem State.standing_postCtx (s : State) (c : Slot) (e : Cmpl) : (s.postCtx c e).standing = s.standing := by
  unfold State.postCtx
  split
  · simp
  · exact State.standing_of_besidesMemory rfl (State.lasting_modCtx (by intro _; rfl) s c)

/-! #### Traffic -/

/-- A table reads as it was written, in whatever order its keys stand. -/
theorem kvGet_kvSet_eq_ite {α : Type} (l : List (Nat × α)) (k j : Nat) (v : α) :
    kvGet (kvSet l k v) j = if j = k then some v else kvGet l j := by
  induction l with
  | nil => simp only [kvSet, kvGet, eq_comm]
  | cons x l ih =>
    obtain ⟨n, y⟩ := x
    simp only [kvSet]
    split_ifs <;> grind [kvGet]

theorem State.setPort_port (s : State) (n m : Nat) (p : Port) :
    (s.setPort n p).port m = if m = n then p else s.port m := by
  simp only [State.port, State.setPort, kvGetD, kvGet_kvSet_eq_ite]
  split <;> rfl

theorem State.setPort_portStates (s : State) (n : Nat) (p : Port) :
    (s.setPort n p).portStates = Function.update s.portStates n p.state := by
  funext m
  simp only [State.portStates, State.setPort_port, Function.update_apply, apply_ite Port.state]

/-- A port's registers change, but not its state. -/
theorem State.standing_setPort {s : State} {n : Nat} {p : Port} (h : p.state = (s.port n).state) :
    (s.setPort n p).standing = s.standing := by
  have hports : (s.setPort n p).portStates = s.portStates := by
    rw [State.setPort_portStates, h]
    exact Function.update_eq_self n s.portStates
  unfold State.standing
  rw [hports]
  rfl

theorem State.standing_modPort {f : Port → Port} (hf : ∀ p, (f p).state = p.state) (s : State) (n : Nat) :
    (s.modPort n f).standing = s.standing := State.standing_setPort (hf _)

@[simp] theorem State.standing_sendCodeword (s : State) (n : Nat) (beacon : Bool) (slots : List Bytes) :
    (s.sendCodeword n beacon slots).standing = s.standing := by
  unfold State.sendCodeword State.putWord
  dsimp only
  rw [State.standing_emit]
  exact State.standing_setPort rfl

@[simp] theorem State.standing_putBeacons (s : State) (n k : Nat) : (s.putBeacons n k).standing = s.standing := by
  induction k generalizing s with
  | zero => rfl
  | succ k ih =>
    unfold State.putBeacons
    split
    · rfl
    · split
      · rfl
      · exact (ih _).trans ((State.standing_sendCodeword _ _ _ _).trans
          (State.standing_modPort (by intro _; rfl) s.draw.1 n))

@[simp] theorem State.standing_putCtrl (s : State) (n : Nat) : (s.putCtrl n).standing = s.standing := by
  unfold State.putCtrl
  dsimp only
  split
  · rfl
  · split
    · rfl
    · exact (State.standing_sendCodeword _ _ _ _).trans (State.standing_setPort rfl)

theorem Port.spend_state (p : Port) (vc n : Nat) : (p.spend vc n).state = p.state := by
  unfold Port.spend
  split <;> rfl

@[simp] theorem State.standing_issue (s : State) (n : Nat) (pk : Packet) : (s.issue n pk).standing = s.standing :=
  (State.standing_modPort (by intro _; rfl) _ n).trans
    ((foldl_shows State.standing (fun t c => t.standing_sendCodeword n false c) _ _).trans
      (State.standing_modPort (fun p => p.spend_state _ _) s n))

@[simp] theorem State.standing_pumpPort (s : State) (n : Nat) : (s.pumpPort n).standing = s.standing := by
  unfold State.pumpPort
  dsimp only
  rw [State.standing_modPort (by intro _; rfl)]
  refine (foldl_shows (fun acc : State × List Packet × List Nat => acc.1.standing) ?_ _ _).trans ?_
  · rintro ⟨t, held, blocked⟩ pk
    dsimp only
    split
    · rfl
    · exact t.standing_issue n pk
  · simp [State.standing_modPort]

@[simp] theorem State.standing_route (s : State) (p : Packet) : (s.route p).1.standing = s.standing := by
  unfold State.route
  split
  · rfl
  · split
    · rfl
    · simp [State.standing_modPort]

@[simp] theorem State.standing_countDropped (s : State) : s.countDropped.standing = s.standing := rfl

@[simp] theorem State.standing_mgmtPacket (s : State) (dest : BitVec 24) (b : Bytes) :
    (s.mgmtPacket dest b).standing = s.standing := by
  unfold State.mgmtPacket
  dsimp only
  split
  · exact s.standing_route _
  · rfl

/-! #### Logbook records (R305, R351, R372, R373) -/

@[simp] theorem State.standing_noticeMessages (s : State) (r : LogRec) :
    (s.noticeMessages r).standing = s.standing := by
  refine foldl_shows State.standing (fun t x => ?_) _ s
  dsimp only
  split
  · exact t.standing_mgmtPacket _ _
  · rfl

@[simp] theorem State.standing_noticeCompletions (s : State) (r : LogRec) :
    (s.noticeCompletions r).standing = s.standing := by
  unfold State.noticeCompletions
  dsimp only
  split_ifs <;> simp

@[simp] theorem State.standing_dropRecord (s : State) (r : LogRec) : (s.dropRecord r).standing = s.standing :=
  (State.standing_noticeCompletions _ _).trans (State.standing_noticeMessages _ _)

@[simp] theorem State.standing_raise (s : State) (e : Event) : (s.raise e).standing = s.standing := by
  unfold State.raise
  dsimp only
  split
  · rfl
  · split
    · exact State.standing_dropRecord _ _
    · split
      · rfl
      · split
        · rfl
        · exact State.standing_dropRecord _ _

@[simp] theorem State.standing_raiseStatus (s : State) (sev : BitVec 2) (st : U16) (e : Event) :
    (s.raiseStatus sev st e).standing = s.standing := s.standing_raise _

end Sys2Proof.Machine

namespace Sys2Proof.Machine

/-! ### What faults of operations and lost packets leave -/

/-- The resources, and whether each slot runs, drains or pauses. -/
def State.seats (s : State) : Resources × (Slot → CtxState × Bool) :=
  (s.res, fun c => ((s.ctx c).st, (s.ctx c).pausing))

theorem State.eq_of_seats {s t : State} (h : s.seats = t.seats) :
    s.res = t.res ∧ ∀ c, (s.ctx c).st = (t.ctx c).st ∧ (s.ctx c).pausing = (t.ctx c).pausing := by
  simpa only [State.seats, Prod.mk.injEq, funext_iff] using h

/-- The seats, and the states of the ports. -/
def State.anchored (s : State) : (Resources × (Slot → CtxState × Bool)) × (Nat → U8) := (s.seats, s.portStates)

theorem State.anchored_of_standing {s t : State} (h : s.standing = t.standing) : s.anchored = t.anchored := by
  obtain ⟨hres, -, hlasting, hports⟩ := State.eq_of_standing h
  have hslot (c : Slot) : (s.ctx c).lasting = (t.ctx c).lasting := congrFun (congrArg Prod.snd hlasting) c
  have hst (c : Slot) : (s.ctx c).st = (t.ctx c).st := congrArg (·.st) (hslot c)
  have hpausing (c : Slot) : (s.ctx c).pausing = (t.ctx c).pausing := congrArg (·.pausing) (hslot c)
  simp only [State.anchored, State.seats, hres, hports, hst, hpausing]

theorem State.seats_of_standing {s t : State} (h : s.standing = t.standing) : s.seats = t.seats :=
  congrArg Prod.fst (State.anchored_of_standing h)

/-- Registers of a slot change, but not whether it runs. -/
theorem State.anchored_modCtx {f : Ctx → Ctx} (hf : ∀ x, ((f x).st, (f x).pausing) = (x.st, x.pausing)) (s : State)
    (c : Slot) : (s.modCtx c f).anchored = s.anchored := by
  refine Prod.ext (Prod.ext rfl (funext fun d => ?_)) rfl
  simp only [State.anchored, State.seats, State.modCtx_ctx]
  split
  · next h => rw [hf, h]
  · rfl

@[simp] theorem State.anchored_modRun (s : State) (c : Slot) (n : Nat) (f : RunData → RunData) :
    (s.modRun c n f).anchored = s.anchored := State.anchored_modCtx (by intro _; rfl) s c

@[simp] theorem State.anchored_modNum (s : State) (c : Slot) (f : CtxNum → CtxNum) :
    (s.modNum c f).anchored = s.anchored := State.anchored_modCtx (by intro _; rfl) s c

@[simp] theorem State.anchored_endFaulted (s : State) (o : OpCtx) (status : U16) :
    (s.endFaulted o status).anchored = s.anchored := s.anchored_modRun o.c o.n _

@[simp] theorem State.anchored_faultOp (s : State) (o : OpCtx) (status : U16) (handle : U32) (addr : Nat)
    (args : List U64) : (s.faultOp o status handle addr args).anchored = s.anchored := by
  unfold State.faultOp
  split
  · rfl
  · split
    · rfl
    · have hmeet : (if unreadable status then (s.meet o.c addr, s.badStatus o.c addr)
          else (s, status)).1.anchored = s.anchored := by
        split
        · exact State.anchored_of_standing (s.standing_meet _ _)
        · rfl
      rw [← hmeet]
      generalize (if unreadable status then (s.meet o.c addr, s.badStatus o.c addr) else (s, status)) = q
      obtain ⟨t, st⟩ := q
      dsimp only
      split_ifs
      · simp
      · exact (State.anchored_of_standing (State.standing_raiseStatus _ _ _ _)).trans (t.anchored_endFaulted o st)
      · simp

@[simp] theorem State.anchored_resultOf (s : State) (tag : U32) (status : U16) :
    (s.resultOf tag status).anchored = s.anchored := by
  unfold State.resultOf
  split
  · rfl
  · dsimp only
    split
    · split
      · simp
      · exact s.anchored_modRun _ _ _
    · simp

@[simp] theorem State.anchored_ownLost (s : State) (p : Packet) : (s.ownLost p).anchored = s.anchored := by
  unfold State.ownLost
  split
  · rfl
  · simp

@[simp] theorem State.anchored_tellLoss (s : State) (d : Nat) (p : Packet) (status : U16) :
    (s.tellLoss d p status).1.anchored = s.anchored := by
  unfold State.tellLoss
  split
  · rfl
  · exact State.anchored_of_standing (s.standing_route _)

@[simp] theorem State.anchored_lose (s : State) (d : Nat) (p : Packet) (status : U16) :
    (s.lose d p status).anchored = s.anchored := by
  unfold State.lose
  dsimp only
  split
  · simp
  · rfl

/-! ### Ports that stop and train (R312, R317) -/

/-- A port that stops has the state it is given; the loss of its packets changes neither another port's state nor the
seats. -/
theorem State.anchored_portStops (s : State) (n : Nat) (st : U8) :
    (s.portStops n st).anchored = (s.seats, Function.update s.portStates n st) := by
  have hgone (t : State) (pk : Packet) :
      (if t.isMine pk.src then t.ownLost pk else t.lose (n / 4) pk St.linkDown).anchored = t.anchored := by
    split <;> simp
  unfold State.portStops
  dsimp only
  refine (foldl_shows State.anchored (fun t pk => ?_) _ _).trans
    ((foldl_shows State.anchored (fun t (f : BitVec 12 × Packet) => hgone t f.2) _ _).trans ?_)
  · split
    · exact State.anchored_of_standing (t.standing_route pk)
    · exact hgone t pk
  · rw [State.anchored, State.setPort_portStates]
    rfl

@[simp] theorem State.seats_portStops (s : State) (n : Nat) (st : U8) : (s.portStops n st).seats = s.seats :=
  congrArg Prod.fst (s.anchored_portStops n st)

theorem State.portStates_foldl_portStops (l : List Nat) (s : State) (st : U8) (m : Nat) :
    (l.foldl (fun s n => s.portStops n st) s).portStates m = if m ∈ l then st else s.portStates m := by
  induction l generalizing s with
  | nil => simp
  | cons n l ih =>
    have hstop : (s.portStops n st).portStates = Function.update s.portStates n st :=
      congrArg Prod.snd (s.anchored_portStops n st)
    rw [List.foldl_cons, ih, hstop, Function.update_apply]
    by_cases hm : m = n <;> simp [hm]

@[simp] theorem State.seats_emit (s : State) (o : Out) : (s.emit o).seats = s.seats := rfl

@[simp] theorem State.seats_setPort (s : State) (n : Nat) (p : Port) : (s.setPort n p).seats = s.seats := rfl

@[simp] theorem State.seats_modPort (s : State) (n : Nat) (f : Port → Port) : (s.modPort n f).seats = s.seats := rfl

@[simp] theorem State.seats_pumpPort (s : State) (n : Nat) : (s.pumpPort n).seats = s.seats :=
  State.seats_of_standing (s.standing_pumpPort n)

@[simp] theorem State.seats_raise (s : State) (e : Event) : (s.raise e).seats = s.seats :=
  State.seats_of_standing (s.standing_raise e)

@[simp] theorem State.seats_replayAll (s : State) (n : Nat) : (s.replayAll n).seats = s.seats :=
  foldl_shows State.seats (by intro _ _; rfl) _ s

@[simp] theorem State.seats_lateBeacon (s : State) (n : Nat) : (s.lateBeacon n).seats = s.seats := by
  unfold State.lateBeacon
  split
  · simp [State.sendBeacon]
  · simp

@[simp] theorem State.seats_portDown (s : State) (n : Nat) : (s.portDown n).seats = s.seats := by
  simp [State.portDown, State.raiseStatus]

@[simp] theorem State.seats_train (s : State) (n : Nat) (t : Training) (count : Bool) :
    (s.train n t count).seats = s.seats := by
  unfold State.train
  dsimp only
  split_ifs <;> simp

@[simp] theorem State.seats_beginTraining (s : State) (n : Nat) : (s.beginTraining n).seats = s.seats := by
  unfold State.beginTraining
  dsimp only
  split <;> simp

/-! ### Events and adds (R117, R184) -/

@[simp] theorem State.seats_modRun (s : State) (c : Slot) (n : Nat) (f : RunData → RunData) :
    (s.modRun c n f).seats = s.seats := congrArg Prod.fst (s.anchored_modRun c n f)

@[simp] theorem State.seats_modNum (s : State) (c : Slot) (f : CtxNum → CtxNum) : (s.modNum c f).seats = s.seats :=
  congrArg Prod.fst (s.anchored_modNum c f)

@[simp] theorem State.seats_modStepAcc (s : State) (c : Slot) (step : U64) (f : StepAcc → StepAcc) :
    (s.modStepAcc c step f).seats = s.seats := s.seats_modNum c _

@[simp] theorem State.seats_noteInvalid (s : State) (o : OpCtx) (r : FaultRec) :
    (s.noteInvalid o r).seats = s.seats := by
  unfold State.noteInvalid State.noteStep
  dsimp only
  split
  · simp
  · simp [State.raiseStatus]

@[simp] theorem State.seats_event (s : State) (o : OpCtx) (unit kind : Nat) (e : FEv) :
    (s.event o unit kind e).seats = s.seats := by
  have hwatch (w) : ({ s with watch := w } : State).seats = s.seats := rfl
  unfold State.event
  dsimp only
  split_ifs <;> simp [hwatch]

@[simp] theorem State.seats_events (s : State) (o : OpCtx) (unit kind : Nat) (es : List FEv) :
    (s.events o unit kind es).seats = s.seats :=
  foldl_shows State.seats (fun t e => t.seats_event o unit kind e) es s

@[simp] theorem State.seats_reportDark (s : State) (o : OpCtx) (plates : Nat) (nonZero : Bool) :
    (s.reportDark o plates nonZero).seats = s.seats := by
  unfold State.reportDark
  split
  · rfl
  · simp

@[simp] theorem PWork.seats_homeAdd (w : PWork) (s : State) (h : HomeAdd) : (w.homeAdd s h).seats = s.seats := by
  have htouch : (s.touch h.c h.key 64).seats = s.seats := State.seats_of_standing (s.standing_touch _ _ _)
  have hstore (t : State) (b : Bytes) : (t.store h.c h.key b).seats = t.seats :=
    State.seats_of_standing (t.standing_store _ _ _)
  unfold PWork.homeAdd
  dsimp only
  split
  · exact (congrArg Prod.fst (State.anchored_faultOp _ _ _ _ _ _)).trans htouch
  · rw [State.seats_reportDark, State.seats_events, hstore, htouch]

@[simp] theorem State.seats_landAdd (s : State) (k : Nat) : (s.landAdd k).seats = s.seats := by
  unfold State.landAdd
  split
  · rfl
  · dsimp only
    split
    · rfl
    · rw [State.seats_modRun, PWork.seats_homeAdd]
      rfl

@[simp] theorem State.seats_landAddsOf (s : State) (core fuel : Nat) : (s.landAddsOf core fuel).seats = s.seats := by
  induction fuel generalizing s with
  | zero => rfl
  | succ fuel ih =>
    unfold State.landAddsOf
    split
    · rfl
    · rw [ih, State.seats_landAdd]

/-- A core that has sent no adds has none to land. -/
theorem State.landAddsOf_none {s : State} {core : Nat} (h : ∀ a ∈ s.arrays.adds, a.core ≠ core) (fuel : Nat) :
    s.landAddsOf core fuel = s := by
  have hnone : s.arrays.adds.findIdx? (fun a => a.core == core) = none := by simpa using h
  cases fuel with
  | zero => rfl
  | succ fuel => simp only [State.landAddsOf, hnone]

end Sys2Proof.Machine

namespace Sys2Proof.Machine

/-! ### A core that fails (R180, R290) -/

theorem mem_insertNat {l : List Nat} {k x : Nat} : x ∈ insertNat l k ↔ x = k ∨ x ∈ l := by
  induction l with
  | nil => simp [insertNat]
  | cons y l ih =>
    unfold insertNat
    split_ifs
    · simp
    · next h => simp [h]
    · simp only [List.mem_cons, ih, or_left_comm]

/-- The array or the shadow `x` of a core that was dropped holds nothing. -/
theorem kvGet_filter_otherCore {α : Type} (l : List (Nat × α)) (core : Nat) (x : Fin 4) :
    kvGet (l.filter (fun q => q.1 / 4 != core)) (4 * core + x.val) = none := by
  have hcore : (4 * core + x.val) / 4 = core := by omega
  exact kvGet_filter_none l fun _ => by simp [hcore]

/-- The failed core raised the events of a pass, and does not raise them again (R146). -/
def Pass.countIn (p : Pass) (r : RunData) : RunData := { r with counted := (p.unit, p.sub) :: r.counted }

/-- A pass of the failed core is issued again, unless its operation has met a fault (R180). -/
def Pass.reissueIn (p : Pass) (r : RunData) : RunData :=
  if r.fault.isSome then r else { r with reissue := r.reissue ++ [(p.unit, p.sub)] }

/-- The core takes no part any more. -/
def RunData.without (core : Nat) (r : RunData) : RunData := { r with cores := r.cores.filter (· != core) }

theorem foldl_countIn (l : List Pass) (r : RunData) : l.foldl (fun r p => p.countIn r) r =
    { r with counted := (l.map (fun p => (p.unit, p.sub))).reverse ++ r.counted } := by
  induction l generalizing r with
  | nil => rfl
  | cons p l ih =>
    rw [List.foldl_cons, ih]
    simp [Pass.countIn]

theorem foldl_reissueIn (l : List Pass) {r : RunData} (h : r.fault = none) : l.foldl (fun r p => p.reissueIn r) r =
    { r with reissue := r.reissue ++ l.map (fun p => (p.unit, p.sub)) } := by
  induction l generalizing r with
  | nil => simp
  | cons p l ih =>
    have hp : p.reissueIn r = { r with reissue := r.reissue ++ [(p.unit, p.sub)] } := by
      simp [Pass.reissueIn, h]
    have hnone : (p.reissueIn r).fault = none := by rw [hp]; exact h
    rw [List.foldl_cons, ih hnone, hp]
    simp

/-! #### The run data of the operations -/

/-- What `g` makes of the run data of each pass's operation, pass by pass. -/
def State.modRuns (s : State) (l : List Pass) (g : Pass → RunData → RunData) : State :=
  l.foldl (fun s p => s.modRun p.c p.n (g p)) s

/-- The core leaves the operations of a slot. -/
def Ctx.without (core : Nat) (x : Ctx) : Ctx :=
  { x with stream := { x.stream with ops := x.stream.ops.map (fun o => { o with run := o.run.map (·.without core) }) } }

/-- The failed core leaves the operations of every slot. -/
def State.leaveRuns (s : State) (core : Nat) : State := slots.foldl (fun s c => s.modCtx c (·.without core)) s

theorem State.run?_modRun_eq_ite (s : State) (c d : Slot) (n m : Nat) (f : RunData → RunData) :
    (s.modRun d m f).run? c n = if d = c ∧ m = n then (s.run? c n).map f else s.run? c n := by
  by_cases hd : d = c
  · subst hd
    by_cases hm : m = n
    · subst hm
      simp
    · rw [if_neg (by simp [hm])]
      simp only [State.run?, State.modRun]
      rw [State.op?_modOp_of_ne s d (fun h => hm h.symm)]
      exact fun _ => rfl
  · have hslot : (s.modRun d m f).ctx c = s.ctx c := by
      simp only [State.modRun, State.modOp, State.modStream_ctx, if_neg (Ne.symm hd)]
    rw [if_neg (fun h => hd h.1), State.run?, State.op?, hslot]
    rfl

theorem State.run?_modRuns (l : List Pass) (g : Pass → RunData → RunData) (s : State) (c : Slot) (n : Nat) :
    (s.modRuns l g).run? c n =
      (s.run? c n).map ((l.filter (fun p => p.c = c ∧ p.n = n)).foldl (fun r p => g p r)) := by
  induction l generalizing s with
  | nil => simp [State.modRuns]
  | cons p l ih =>
    have hcons : s.modRuns (p :: l) g = (s.modRun p.c p.n (g p)).modRuns l g := rfl
    rw [hcons, ih, State.run?_modRun_eq_ite, List.filter_cons]
    by_cases hp : p.c = c ∧ p.n = n
    · simp [hp, Function.comp_def]
    · simp [hp]

theorem State.leaveRuns_ctx (s : State) (core : Nat) (c : Slot) :
    (s.leaveRuns core).ctx c = (s.ctx c).without core := by
  have hnodup : slots.Nodup := List.nodup_finRange 16
  have hmem : c ∈ slots := List.mem_finRange c
  rw [State.leaveRuns, State.foldl_modCtx_ctx _ hnodup, if_pos hmem]

theorem State.run?_leaveRuns (s : State) (core : Nat) (c : Slot) (n : Nat) :
    (s.leaveRuns core).run? c n = (s.run? c n).map (·.without core) := by
  rw [State.run?, State.op?, State.leaveRuns_ctx, Ctx.without, List.find?_map, State.run?, State.op?, Option.bind_map,
    Option.map_bind]
  rfl

theorem State.run?_of_lasting {s t : State} (h : s.lasting = t.lasting) (c : Slot) (n : Nat) :
    s.run? c n = t.run? c n := by
  rw [State.run?, State.op?_of_lasting h, State.run?]

/-! #### What a failure leaves -/

theorem State.modRuns_arrays (s : State) (l : List Pass) (g : Pass → RunData → RunData) :
    (s.modRuns l g).arrays = s.arrays := foldl_shows State.arrays (by intro _ _; rfl) l s

theorem State.leaveRuns_arrays (s : State) (core : Nat) : (s.leaveRuns core).arrays = s.arrays :=
  foldl_shows State.arrays (by intro _ _; rfl) slots s

theorem State.modRuns_res (s : State) (l : List Pass) (g : Pass → RunData → RunData) :
    (s.modRuns l g).res = s.res := foldl_shows State.res (by intro _ _; rfl) l s

theorem State.leaveRuns_res (s : State) (core : Nat) : (s.leaveRuns core).res = s.res :=
  foldl_shows State.res (by intro _ _; rfl) slots s

theorem State.dropChecks_res (s : State) (late : Nat → BlinkCheck → Bool) : (s.dropChecks late).res = s.res := by
  unfold State.dropChecks
  exact foldl_shows State.res (by intro _ _; rfl) _ _

theorem State.dropChecks_adds (s : State) (late : Nat → BlinkCheck → Bool) :
    (s.dropChecks late).arrays.adds = s.arrays.adds := by
  unfold State.dropChecks
  exact foldl_shows (fun t : State => t.arrays.adds) (by intro _ _; rfl) _ _

/-- The failed core's Blink checks are dropped, the adds it has sent land, and it holds nothing (R119, R290). -/
def State.coreEmptied (s : State) (core : Nat) : State :=
  let u := s.dropChecks (fun k _ => k == core)
  let v := u.landAddsOf core u.arrays.adds.length
  ({ v with arrays := v.arrays.dropCore core } : State).modBlock (groupBlock (core / 8)) (fun b =>
    { b with taking := b.taking.filter (fun k => k / 4 != core) })

theorem State.coreEmptied_holds_nothing (s : State) (core : Nat) (x : Fin 4) :
    kvGet (s.coreEmptied core).arrays.queues (4 * core + x.val) = none ∧
      kvGet (s.coreEmptied core).arrays.shadows (4 * core + x.val) = none :=
  ⟨kvGet_filter_otherCore _ core x, kvGet_filter_otherCore _ core x⟩

theorem State.coreEmptied_res (s : State) (core : Nat) : (s.coreEmptied core).res = s.res := by
  obtain ⟨hlanded, -⟩ := State.eq_of_seats ((s.dropChecks (fun k _ => k == core)).seats_landAddsOf core
    (s.dropChecks (fun k _ => k == core)).arrays.adds.length)
  exact hlanded.trans (s.dropChecks_res _)

theorem State.coreEmptied_run? {s : State} {core : Nat} (hadds : ∀ a ∈ s.arrays.adds, a.core ≠ core) (c : Slot)
    (n : Nat) : (s.coreEmptied core).run? c n = s.run? c n := by
  have hnone : ∀ a ∈ (s.dropChecks (fun k _ => k == core)).arrays.adds, a.core ≠ core := by
    rwa [State.dropChecks_adds]
  have hslot : ((s.coreEmptied core).ctx c).stream = ((s.dropChecks (fun k _ => k == core)).ctx c).stream := by
    rw [State.coreEmptied, State.landAddsOf_none hnone]
    rfl
  have hstream : ((s.coreEmptied core).ctx c).stream = (s.ctx c).stream :=
    hslot.trans (congrArg (·.stream) (s.dropChecks_ctx _ c))
  rw [State.run?, State.op?, hstream, State.run?, State.op?]

/-- What a failure does: the core is emptied, then its passes are taken back and it leaves every operation. -/
theorem State.failCore_eq (s : State) (core : Nat) :
    s.failCore core = ((((s.coreEmptied core).modRuns (s.arrays.shadowsOf core) Pass.countIn).modRuns
      (s.arrays.passesOf core) Pass.reissueIn).leaveRuns core).modRes
        (fun r => { r with coresFailed := insertNat r.coresFailed core }) := rfl

theorem State.failCore_arrays (s : State) (core : Nat) : (s.failCore core).arrays = (s.coreEmptied core).arrays := by
  rw [State.failCore_eq, State.modRes_arrays, State.leaveRuns_arrays, State.modRuns_arrays, State.modRuns_arrays]

theorem State.failCore_coresFailed (s : State) (core : Nat) :
    (s.failCore core).res.coresFailed = insertNat s.res.coresFailed core := by
  have hbefore : ((((s.coreEmptied core).modRuns (s.arrays.shadowsOf core) Pass.countIn).modRuns
      (s.arrays.passesOf core) Pass.reissueIn).leaveRuns core).res = s.res := by
    rw [State.leaveRuns_res, State.modRuns_res, State.modRuns_res, State.coreEmptied_res]
  rw [State.failCore_eq]
  exact congrArg (fun r : Resources => insertNat r.coresFailed core) hbefore

/-- Where the core has sent no adds, the units of its passes are issued again, and it takes no part any more. -/
theorem State.failCore_run? {s : State} {core : Nat} (hadds : ∀ a ∈ s.arrays.adds, a.core ≠ core) {c : Slot} {n : Nat}
    {r : RunData} (hrun : s.run? c n = some r) (hfault : r.fault = none) :
    ∃ r', (s.failCore core).run? c n = some r' ∧
      (∀ p ∈ s.arrays.passesOf core, p.c = c → p.n = n → (p.unit, p.sub) ∈ r'.reissue) ∧ core ∉ r'.cores := by
  have hres (t : State) (f : Resources → Resources) : (t.modRes f).run? c n = t.run? c n := rfl
  rw [State.failCore_eq, hres, State.run?_leaveRuns, State.run?_modRuns, State.run?_modRuns,
    State.coreEmptied_run? hadds, hrun, Option.map_some, Option.map_some, Option.map_some, foldl_countIn,
    foldl_reissueIn _ (by exact hfault)]
  refine ⟨_, rfl, fun p hp hc hn => ?_, ?_⟩
  · have hmine : p ∈ (s.arrays.passesOf core).filter (fun p => p.c = c ∧ p.n = n) :=
      List.mem_filter.2 ⟨hp, by simp [hc, hn]⟩
    exact List.mem_append_right _ (List.mem_map_of_mem (f := fun p : Pass => (p.unit, p.sub)) hmine)
  · simp [RunData.without]

theorem execCoreFailure_fails {s : State} {k : Fin 512} (hcore : k.val < s.sku.cores)
    (hworks : k.val ∉ s.res.coresFailed) : execCoreFailure k s = .next ((s.failCore k.val).raise { Event.blank with
      severity := sevFault, event := 0x8005, unit := BitVec.ofNat 16 k.val }) := by
  simp [execCoreFailure, Nat.not_le.2 hcore, hworks]

end Sys2Proof.Machine

namespace Sys2Proof.Machine

/-! ### A die that leaves (R287, R291) -/

/-- A die leaves when nothing of its repair holds it back: it is out in a state `u` in which its ports then stop. -/
theorem execDieOutOfService_leaves {s : State} {r : Repair} (hrepair : s.res.repair = some r) (hahead : r.ahead = 0)
    (hin : s.res.dieOut = none) (hplan : s.res.repairPlan = false) (hdrained : s.repairPausing r = false)
    (hline : s.lineOn r.die = false) :
    ∃ u : State, u.res.dieOut = some r.die ∧
      execDieOutOfService s = .next ((State.portsOf r.die).foldl (fun s n => s.portStops n 3) u) := by
  simp only [execDieOutOfService, hrepair, hahead, hin, hplan, hdrained, hline, Option.isSome_none, bne_self_eq_false,
    Bool.or_self, Bool.false_eq_true, if_false]
  exact ⟨_, rfl, rfl⟩

theorem State.dieRuns_of_dieOut {s : State} {d : Nat} (h : s.res.dieOut = some d) : s.dieRuns d = false := by
  simp [State.dieRuns, h]

/-! ### A die that returns (R291, R406, R414) -/

@[simp] theorem State.seats_spill (s : State) (d n : Nat) : (s.spill d n).seats = s.seats := by
  have hframe (t : State) : (t.ddrFrame d).1.seats = t.seats :=
    State.seats_of_standing (State.standing_of_besidesMemory (t.besidesMemory_ddrFrame d) (t.lasting_ddrFrame d))
  have hmove (t : State) (c : Slot) (p : Nat) (f : Page → Page) : ((t.leaveFrame c p).modPage c p f).seats = t.seats :=
    State.seats_of_standing (State.standing_of_besidesMemory (t.besidesMemory_leaveFrame c p)
      ((State.lasting_modPage _ c p f).trans (t.lasting_leaveFrame c p)))
  induction n generalizing s with
  | zero => rfl
  | succ n ih =>
    have hs := hframe s
    unfold State.spill
    dsimp only
    split
    · rfl
    · split
      · next h => rwa [h] at hs
      · next h =>
        rw [h] at hs
        split
        · rw [ih, hs]
        · rw [ih, hmove, hs]

theorem State.repair_updateDie (s : State) (d : Nat) (ok : Bool) :
    (s.updateDie d ok).1.res.repair = s.res.repair := by
  unfold State.updateDie
  split
  · rfl
  · dsimp only
    split <;> rfl

/-- The action of a repair does not end it. -/
theorem State.repair_repairAction (s : State) (r : Repair) (ok : Bool) :
    (s.repairAction r ok).1.res.repair = s.res.repair := by
  unfold State.repairAction
  dsimp only
  split
  · exact s.repair_updateDie _ _
  · split <;> rfl
  · split
    · exact congrArg (·.1.repair) (State.seats_spill _ _ _)
    · rfl
  · split <;> rfl

theorem State.repair_raise (s : State) (e : Event) : (s.raise e).res.repair = s.res.repair :=
  congrArg (·.1.repair) (s.seats_raise e)

theorem State.repair_testCore (s : State) (core : Nat) : (s.testCore core).res.repair = s.res.repair := by
  unfold State.testCore
  split
  · exact State.repair_raise _ _
  · exact State.repair_raise _ _

theorem State.repair_restartTests (s : State) (d : Nat) (f : StartFindings) :
    (s.restartTests d f).res.repair = s.res.repair := by
  have htests := foldl_shows (fun t : State => t.res.repair) State.repair_testCore
    (f.coresFailed.filter (fun n => n / 64 == d)) s
  rw [← htests]
  unfold State.restartTests
  dsimp only
  split
  · exact State.repair_raise _ _
  · rfl

/-- The contexts of a repair's mask run again (R291). -/
theorem State.repairResume_runs {s : State} {r : Repair} (hrepair : s.res.repair = some r) {c : Slot}
    (hmask : r.pauseMask.getLsbD c.val = true) :
    (s.repairResume.ctx c).pausing = false ∧ (s.repairResume.ctx c).st ≠ .paused := by
  have hnodup : (slots.filter (fun c => r.pauseMask.getLsbD c.val)).Nodup := (List.nodup_finRange 16).filter _
  have hmem : c ∈ slots.filter (fun c => r.pauseMask.getLsbD c.val) := List.mem_filter.2 ⟨List.mem_finRange c, hmask⟩
  simp only [State.repairResume, hrepair]
  rw [State.foldl_modCtx_ctx _ hnodup, if_pos hmem]
  refine ⟨rfl, ?_⟩
  dsimp only
  split
  · simp
  · next h => simpa using h

@[simp] theorem State.seats_verifyStaged (s : State) : s.verifyStaged.seats = s.seats := by
  have hnote (t : State) (img : Bytes) : (t.noteStaged img).seats = t.seats := by
    unfold State.noteStaged
    split
    · exact t.seats_raise _
    · rfl
  unfold State.verifyStaged
  split
  · rfl
  · dsimp only
    split <;> exact foldl_shows State.seats hnote s.boot.verifying _

@[simp] theorem State.seats_extend (s : State) (r : Nat) (d : BitVec 512) : (s.extend r d).seats = s.seats :=
  (State.seats_raise _ _).trans s.seats_verifyStaged

@[simp] theorem State.seats_dieUpdated (s : State) (d : Nat) (old : U32) : (s.dieUpdated d old).seats = s.seats := by
  unfold State.dieUpdated
  split
  · rfl
  · simp

@[simp] theorem State.seats_portsReturn (s : State) (d : Nat) (f : StartFindings) :
    (s.portsReturn d f).seats = s.seats := by
  unfold State.portsReturn
  split
  · rfl
  · exact (foldl_shows State.seats (fun t (q : Nat × Training) => t.seats_train q.1 q.2 true) _ _).trans
      (foldl_shows State.seats State.seats_beginTraining _ s)

/-- The state in which a repair is over and its contexts run again. -/
def State.repairOver (s : State) : State := s.repairResume.modRes (fun x => { x with dieOut := none, repair := none })

theorem State.seats_setRepair {s t : State} (h : s.seats = t.seats) (f : RepairStatus → RepairStatus) :
    (s.setRepair f).seats = (t.setRepair f).seats :=
  congrArg (fun x : Resources × (Slot → CtxState × Bool) => ({ x.1 with repairStatus := f x.1.repairStatus }, x.2)) h

/-- Of the seats, a return changes what the end of its repair does, and the status shown. -/
theorem execDieReturn_returns {s : State} {r : Repair} {d : Nat} (ok : Bool) (f : StartFindings) (ms : U32)
    (hrepair : s.res.repair = some r) (hout : s.res.dieOut = some d) :
    ∃ (u t : State) (g : RepairStatus → RepairStatus), u.res.repair = some r ∧ execDieReturn ok f ms s = .next t ∧
      t.seats = (u.repairOver.setRepair g).seats ∧ (∀ q, (g q).outMs = ms) ∧ (ok = false → ∀ q, (g q).state = 8) := by
  have hv := (s.repair_repairAction r ok).trans hrepair
  simp only [execDieReturn, hrepair, hout]
  generalize s.repairAction r ok = v at hv
  obtain ⟨v, status⟩ := v
  dsimp only at hv ⊢
  cases hdone : ok && (r.action != 1 || status == St.ok) with
  | false =>
    simp only [Bool.false_and, Bool.false_eq_true, if_false]
    exact ⟨v, _, _, hv, rfl, (State.seats_raise _ _).trans (State.seats_setRepair (State.seats_portsReturn _ d f) _),
      fun _ => rfl, fun _ _ => rfl⟩
  | true =>
    have hok : ok ≠ false := by rintro rfl; simp at hdone
    simp only [Bool.true_and, if_true]
    by_cases hupdate : (r.action == 1) = true
    · simp only [hupdate, if_true]
      exact ⟨v.restartTests d f, _, _, (v.repair_restartTests d f).trans hv, rfl, State.seats_setRepair
        ((State.seats_portsReturn _ d f).trans (State.seats_dieUpdated _ d _)) _, fun _ => rfl, fun h => absurd h hok⟩
    · simp only [hupdate]
      exact ⟨v, _, _, hv, rfl, State.seats_setRepair (State.seats_portsReturn _ d f) _, fun _ => rfl,
        fun h => absurd h hok⟩

/-- Settles O48: neither the record of a core's failure nor the packets that are lost with a die's ports touch what the
failure and the repair decide, and a return's training and records leave its contexts running. -/
theorem coresAndDies : Obligations.CoresAndDies := by
  refine fun s => ⟨fun k hcore hworks => ?core, fun r hrepair hahead hin hplan hdrained hline => ?leaves,
    fun r d ok f ms hrepair hout => ?returns⟩
  case core =>
    obtain ⟨hres, harrays, hlasting, -⟩ := State.eq_of_standing ((s.failCore k.val).standing_raise { Event.blank with
      severity := sevFault, event := 0x8005, unit := BitVec.ofNat 16 k.val })
    have hholds := s.coreEmptied_holds_nothing k.val
    refine ⟨_, execCoreFailure_fails hcore hworks, ?_⟩
    rw [hres, harrays, State.failCore_coresFailed, State.failCore_arrays]
    refine ⟨mem_insertNat.2 (.inl rfl), fun x => by rw [kvGetD, (hholds x).1]; rfl, fun x => (hholds x).2,
      fun x hx => mem_insertNat.2 (.inr hx), fun hadds p hp r hrun hfault => ?_⟩
    rw [State.run?_of_lasting hlasting]
    obtain ⟨r', hrun', hreissue, hleft⟩ := State.failCore_run? hadds hrun hfault
    exact ⟨r', hrun', hreissue p hp rfl rfl, hleft⟩
  case leaves =>
    obtain ⟨u, hout, hexec⟩ := execDieOutOfService_leaves hrepair hahead hin hplan hdrained hline
    have hseats := foldl_shows State.seats (fun t n => t.seats_portStops n 3) (State.portsOf r.die) u
    have hout' : ((State.portsOf r.die).foldl (fun s n => s.portStops n 3) u).res.dieOut = some r.die := by
      rw [(State.eq_of_seats hseats).1, hout]
    exact ⟨_, hexec, hout', State.dieRuns_of_dieOut hout', fun n hn =>
      (State.portStates_foldl_portStops _ u 3 n).trans (if_pos hn)⟩
  case returns =>
    obtain ⟨u, t, g, hu, hexec, hseats, hms, hstate⟩ := execDieReturn_returns ok f ms hrepair hout
    obtain ⟨hres, hslots⟩ := State.eq_of_seats hseats
    refine ⟨t, hexec, ?_⟩
    rw [hres]
    refine ⟨rfl, rfl, hms _, fun h => hstate h _, fun c hmask => ?_⟩
    rw [(hslots c).1, (hslots c).2]
    exact State.repairResume_runs hu hmask

end Sys2Proof.Machine

namespace Sys2Proof.Machine

/-! ### The start of an operation (R197, R199, R210) -/

/-- What each operation row but a collective does: it starts the operation it names. -/
theorem exec_of_startRow {i : Instr} {c : Slot} {n : Nat} {mine : Desc → Bool}
    {go : State → OpRec → OpCtx → List (Nat × TView) → State} (hrow : startRow i = some (c, n, mine, go)) (s : State) :
    exec i s = .next (s.startOp c n mine 0 none go) := by
  unfold startRow at hrow
  split at hrow <;> cases hrow <;> rfl

/-- What each collective row does. -/
theorem exec_of_collRow {i : Instr} {c : Slot} {n : Nat} {kind : Nat → Bool} (hrow : collRow i = some (c, n, kind))
    (s : State) : exec i s = .next (s.startColl c n kind) := by
  unfold collRow at hrow
  split at hrow <;> cases hrow <;> rfl

section startOp

variable {s : State} {c : Slot} {n ranks : Nat} {o : OpRec} {mine : Desc → Bool} {extra : Option U16}
  {go : State → OpRec → OpCtx → List (Nat × TView) → State}

theorem State.startOp_held (hfound : s.op? c n = some o) (hheld : s.mayStart c o = false) :
    s.startOp c n mine ranks extra go = s := by
  simp [State.startOp, hfound, hheld]

theorem State.startOp_refused {st : U16} (hfound : s.op? c n = some o) (hmine : mine o.desc = true)
    (hmay : s.mayStart c o = true)
    (hcheck : s.startCheck c none o ((s.ctx c).num.seedOf o.step).2.toNat ranks extra = .error st) :
    s.startOp c n mine ranks extra go = s.finishOp c o st false := by
  simp [State.startOp, hfound, hmine, hmay, hcheck]

theorem State.startOp_empty (hfound : s.op? c n = some o) (hmine : mine o.desc = true) (hmay : s.mayStart c o = true)
    (hcheck : s.startCheck c none o ((s.ctx c).num.seedOf o.step).2.toNat ranks extra = .ok none) :
    s.startOp c n mine ranks extra go = s.finishOp c o St.ok false := by
  simp [State.startOp, hfound, hmine, hmay, hcheck]

theorem State.startOp_begins {vs : List (Nat × TView)} (h : Begins s c n o ranks vs) (hmine : mine o.desc = true) :
    s.startOp c n mine ranks none go = go (s.beginOp c o vs) o (s.opCtx c o) vs := by
  simp [State.startOp, State.opCtx, h.found, hmine, h.may, h.check, h.flash]

end startOp

/-- Settles O33: a row is `startOp` with its own work, and an operation that begins passes all that stands before it. -/
theorem operationsStart : Obligations.OperationsStart := by
  intro i s c n mine go o vs hrow hbegins hmine
  rw [exec_of_startRow hrow, State.startOp_begins hbegins hmine]

/-- A start check passes an operation with views, or as an empty one. -/
theorem State.startCheck_ok {s : State} {c : Slot} {rp : Option Replay} {o : OpRec} {mode ranks : Nat}
    {extra : Option U16} {r : Option (List (Nat × TView))} (h : s.startCheck c rp o mode ranks extra = .ok r) :
    r.isSome = !o.desc.empty := by
  unfold State.startCheck at h
  dsimp only at h
  repeat' split at h
  all_goals cases h
  all_goals simp_all

/-- A collective that begins is not an empty one. -/
theorem Begins.emptyColl {s : State} {c : Slot} {n ranks : Nat} {o : OpRec} {vs : List (Nat × TView)}
    (h : Begins s c n o ranks vs) (d : CollD) : s.emptyColl c o d = false := by
  have hfull : o.desc.empty = false := by simpa using State.startCheck_ok h.check
  unfold State.emptyColl
  split
  · next hempty => simpa [hfull] using State.startCheck_ok hempty
  · simp

/-- A collective whose group is known and that begins starts with it. -/
theorem State.startColl_begins {s : State} {c : Slot} {n : Nat} {kind : Nat → Bool} {o : OpRec} {d : CollD} {g : Group}
    {vs : List (Nat × TView)} (hdesc : o.desc = .coll d) (hkind : kind d.ckind.toNat = true)
    (hgroup : s.groupOf c d.group.toNat = some g) (h : Begins s c n o g.ranks vs) :
    s.startColl c n kind = beginColl g (s.beginOp c o vs) o (s.opCtx c o) vs := by
  simp only [State.startColl, h.found, hdesc, hkind, h.emptyColl d, hgroup, Bool.not_true, Bool.false_eq_true, if_false]
  exact State.startOp_begins h rfl

/-- Settles O34: a collective that begins is not empty, so its row starts it with the group it names. -/
theorem collectivesStart : Obligations.CollectivesStart := by
  intro i s c n kind o d g vs hrow hdesc hkind hgroup hbegins
  rw [exec_of_collRow hrow, State.startColl_begins hdesc hkind hgroup hbegins]

/-! ### What holds an operation back (R189, R197) -/

theorem meets_eq_false {a b : List Nat} : meets a b = false ↔ ∀ x ∈ a, x ∉ b := by
  simp [meets]

theorem State.bound_and_ready_of_mayRun {s : State} {c : Slot} (h : s.mayRun c = true) :
    (s.ctx c).st = .bound ∧ s.boot.life = .ready := by
  simp only [State.mayRun, Bool.and_eq_true, beq_iff_eq] at h
  obtain ⟨⟨⟨hbound, -⟩, hready⟩, -⟩ := h
  exact ⟨hbound, hready⟩

/-- Settles O35: `startOp` asks `mayStart` and then the start check; the conditions are those that `mayStart` joins. -/
theorem operationsHeldOrRefused : Obligations.OperationsHeldOrRefused := by
  refine ⟨fun i s c n mine go o hrow hfound => ⟨fun hheld => ?held, fun hmine hmay => ⟨fun st hcheck => ?refused,
    fun hcheck => ?empty⟩⟩, fun s c o hmay => ?conditions⟩
  case held => rw [exec_of_startRow hrow, State.startOp_held hfound hheld]
  case refused => rw [exec_of_startRow hrow, State.startOp_refused hfound hmine hmay hcheck]
  case empty => rw [exec_of_startRow hrow, State.startOp_empty hfound hmine hmay hcheck]
  case conditions =>
    intro earlier
    simp only [State.mayStart, Bool.and_eq_true, beq_iff_eq] at hmay
    obtain ⟨⟨⟨⟨⟨⟨⟨⟨⟨⟨-, hrun⟩, -⟩, hwaiting⟩, hfew⟩, hwaits⟩, hfence⟩, hreads⟩, hwrites⟩, hstep⟩, -⟩ := hmay
    obtain ⟨hbound, hready⟩ := State.bound_and_ready_of_mayRun hrun
    rw [List.all_eq_true] at hreads hwrites
    refine ⟨hbound, hready, hwaiting, of_decide_eq_true hfew, ?_, ?_, fun e he => ?_, fun e he x hx => ?_,
      of_decide_eq_true hstep⟩
    · rw [Bool.not_eq_true', List.any_eq_false] at hwaits
      exact fun e he => Bool.eq_false_iff.2 (hwaits e he)
    · intro hbehind
      simpa only [hbehind, Bool.not_true, Bool.false_or, List.isEmpty_iff] using hfence
    · exact meets_eq_false.1 (by simpa only [Bool.not_eq_true'] using hreads e he)
    · have hfree : x ∉ e.desc.readIdx ++ e.desc.writeIdx :=
        meets_eq_false.1 (by simpa only [Bool.not_eq_true'] using hwrites e he) x hx
      exact ⟨fun h => hfree (List.mem_append_left _ h), fun h => hfree (List.mem_append_right _ h)⟩

end Sys2Proof.Machine

namespace Sys2Proof.Machine

/-! ### The end of an operation (R199, R433) -/

theorem execOperationComplete_ends {s : State} {c : Slot} {n : Nat} {o : OpRec} {r : RunData}
    (hfound : s.op? c n = some o) (hrun : o.run = some r) (hrunning : o.st = .running)
    (hdone : s.workDone c o r = true) : execOperationComplete c n s = .next (s.finishOp c o r.status true) := by
  simp only [execOperationComplete, hfound, hrun, hrunning, hdone, beq_self_eq_true, Bool.and_self, if_true]

/-! ### The end of a WAIT (R208) -/

/-- A word of memory is a number of 64 bits. -/
theorem State.num_lt (s : State) (c : Slot) (a : Nat) : s.num c a 8 < 2 ^ 64 := by
  have hlength : (s.bytes c a 8).take 8 = s.bytes c a 8 := List.take_of_length_le (by simp [State.bytes])
  have hmod := leNat_take (s.bytes c a 8) 8
  rw [hlength] at hmod
  rw [State.num, hmod]
  exact Nat.mod_lt _ (by decide)

section wait

variable {s : State} {c : Slot} {n : Nat} {o : OpRec} {d : WaitD} {oc : OpCtx} (hwait : s.waitOf c n = some (o, d, oc))
include hwait

theorem execWaitSatisfied_drain (hkind : d.wkind = 0)
    (hall : ∀ e ∈ (s.ctx c).stream.ops, e.n < n → e.finished = true) :
    execWaitSatisfied c n s = .next (s.endWait c o St.ok) := by
  have hdrained : ((s.ctx c).stream.ops.filter (fun e => e.n < n)).all OpRec.finished = true :=
    List.all_eq_true.2 fun e he => by
      obtain ⟨hmem, hearlier⟩ := List.mem_filter.1 he
      exact hall e hmem (of_decide_eq_true hearlier)
  unfold execWaitSatisfied
  rw [hwait]
  simp only [hkind]
  exact if_pos hdrained

theorem execWaitSatisfied_meridian (hkind : d.wkind = 1) :
    execWaitSatisfied c n s = if !s.mer.held then .next (s.waitLost c o)
      else if d.value ≤ s.mer.count then .next (s.endWait c o St.ok) else .next s := by
  unfold execWaitSatisfied
  rw [hwait]
  simp only [hkind]
  rfl

/-- A word whose flash can be reached, and that can be read, is compared as a number of 64 bits. -/
theorem execWaitSatisfied_word (hkind : d.wkind = 2 ∨ d.wkind = 3) (hflash : s.flashWaits c d.address.toNat 8 = false)
    {u : State} (hu : u = s.touch c d.address.toNat 8) (hgood : u.poisoned c d.address.toNat = false)
    (hmet : if d.wkind = 2 then d.value.toNat ≤ u.num c d.address.toNat 8
      else d.value.toNat = u.num c d.address.toNat 8) : execWaitSatisfied c n s = .next (u.endWait c o St.ok) := by
  have hword : (BitVec.ofNat 64 (u.num c d.address.toNat 8)).toNat = u.num c d.address.toNat 8 := by
    rw [BitVec.toNat_ofNat]
    exact Nat.mod_eq_of_lt (u.num_lt c d.address.toNat)
  have hcond : (d.wkind.toNat = 2 && d.value ≤ BitVec.ofNat 64 (u.num c d.address.toNat 8) ||
      d.wkind.toNat = 3 && BitVec.ofNat 64 (u.num c d.address.toNat 8) = d.value) = true := by
    obtain hge | heq := hkind
    · rw [if_pos hge] at hmet
      have hle : d.value ≤ BitVec.ofNat 64 (u.num c d.address.toNat 8) := by
        rwa [BitVec.le_def, hword]
      simp [hge, hle]
    · rw [if_neg (by rw [heq]; decide)] at hmet
      have heq' : BitVec.ofNat 64 (u.num c d.address.toNat 8) = d.value :=
        BitVec.eq_of_toNat_eq (hword.trans hmet.symm)
      simp [heq, heq']
  subst hu
  unfold execWaitSatisfied
  rw [hwait]
  dsimp only
  split
  · next h => exact absurd h (by obtain h | h := hkind <;> rw [h] <;> decide)
  · next h => exact absurd h (by obtain h | h := hkind <;> rw [h] <;> decide)
  · rw [hflash, if_neg Bool.false_ne_true, hgood, if_neg Bool.false_ne_true, if_pos hcond]

theorem execWaitTimeout_missed (htimeout : d.timeout ≠ 0) (hheld : d.lost s = false) :
    execWaitTimeout c n s = .next ((s.endWait c o St.eventMissed).raiseStatus sevNotice St.eventMissed
      { Event.blank with context := s.ctxId c, opId := o.hdr.opId, step := o.step }) := by
  unfold execWaitTimeout
  rw [hwait]
  dsimp only
  rw [if_neg htimeout, if_neg (by rw [hheld]; decide)]

end wait

/-- Settles O37: an end is `finishOp`, with the status of the work or of the condition that holds. -/
theorem operationsEnd : Obligations.OperationsEnd := by
  refine ⟨fun s c n o r hfound hrun hrunning hdone => execOperationComplete_ends hfound hrun hrunning hdone,
    fun s c n o d oc hwait => ?_⟩
  intro u
  refine ⟨fun hkind hall => execWaitSatisfied_drain hwait hkind hall, fun hkind hheld hcount => ?came,
    fun hkind hlost => ?lost, fun hkind hflash hgood hmet => execWaitSatisfied_word hwait hkind hflash rfl hgood hmet,
    fun htimeout hheld => execWaitTimeout_missed hwait htimeout ?timeout⟩
  case came =>
    exact (execWaitSatisfied_meridian hwait hkind).trans (by rw [hheld, if_neg (by decide), if_pos hcount]; rfl)
  case lost => exact (execWaitSatisfied_meridian hwait hkind).trans (by rw [hlost, if_pos (by decide)]; rfl)
  case timeout =>
    by_cases hkind : d.wkind = 1
    · simp [WaitD.lost, hheld hkind]
    · rw [WaitD.lost, beq_false_of_ne hkind, Bool.false_and]

end Sys2Proof.Machine

namespace Sys2Proof.Machine

/-! ### The status of a list (R211, R212) -/

/-- The end of an operation: its number, OP_ID and status, and whether it carries CONTINUE. -/
abbrev OpEnd := Nat × U32 × U16 × Bool

/-- The end decides the status of a list among `ends`: it is the first of those that end the list, or, where there is
none, the first with NUMERIC_INVALID (R212). -/
def Decides (ends : List OpEnd) (e : OpEnd) : Prop :=
  e ∈ ends ∧
    if endsList e.2.2.1 then ∀ x ∈ ends, endsList x.2.2.1 = true → e.1 ≤ x.1
    else e.2.2.1 = St.numericInvalid ∧ (∀ x ∈ ends, endsList x.2.2.1 = false) ∧
      ∀ x ∈ ends, x.2.2.1 = St.numericInvalid → e.1 ≤ x.1

/-- What a list has decided once `ends` have come is their decision: none where all are OK. -/
def Decided (ends : List OpEnd) (d : Option (U16 × U32 × Nat)) : Prop :=
  (d = none ∧ ∀ x ∈ ends, x.2.2.1 = St.ok) ∨ ∃ e, Decides ends e ∧ d = some (e.2.2.1, e.2.1, e.1)

theorem endsList_eq_false {st : U16} : endsList st = false ↔ st = St.ok ∨ st = St.numericInvalid := by
  rw [endsList, Bool.not_eq_false', Bool.or_eq_true, beq_iff_eq, beq_iff_eq]

/-- What the next end makes of the decision so far (R211, R212). -/
theorem ListRec.take_decided (l : ListRec) (n : Nat) (id : U32) (st : U16) (cont : Bool) :
    (l.take n id st cont).decided =
      match l.decided with
      | none => if st = St.ok then none else some (st, id, n)
      | some (st', id', m) =>
        if endsList st then if endsList st' ∧ m < n then some (st', id', m) else some (st, id, n)
        else if st = St.numericInvalid ∧ endsList st' = false ∧ n < m then some (st, id, n)
        else some (st', id', m) := by
  unfold ListRec.take
  cases l.decided with
  | none => rfl
  | some x => simp [and_assoc]

/-- One more end: a decision of `ends` becomes one of them with it. -/
theorem Decided.take {ends : List OpEnd} {l : ListRec} (h : Decided ends l.decided) (e : OpEnd) :
    Decided (ends ++ [e]) (l.take e.1 e.2.1 e.2.2.1 e.2.2.2).decided := by
  have hok : endsList St.ok = false := rfl
  have hnum : endsList St.numericInvalid = false := rfl
  rw [ListRec.take_decided]
  obtain ⟨hnone, hall⟩ | ⟨f, ⟨hmem, hfirst⟩, hsome⟩ := h
  · rw [hnone]
    dsimp only
    split
    · exact .inl ⟨rfl, by grind⟩
    · refine .inr ⟨e, ⟨by simp, ?_⟩, rfl⟩
      grind [endsList_eq_false]
  · rw [hsome]
    dsimp only
    split
    · split
      · exact .inr ⟨f, ⟨by simp [hmem], by grind⟩, rfl⟩
      · exact .inr ⟨e, ⟨by simp, by grind⟩, rfl⟩
    · split
      · exact .inr ⟨e, ⟨by simp, by grind⟩, rfl⟩
      · exact .inr ⟨f, ⟨by simp [hmem], by grind [endsList_eq_false]⟩, rfl⟩

/-- The ends of a list, in whatever order they come, decide it. -/
theorem ListRec.decided_foldl_take (l : ListRec) (h : l.decided = none) (ends : List OpEnd) :
    Decided ends (ends.foldl (fun (l : ListRec) e => l.take e.1 e.2.1 e.2.2.1 e.2.2.2) l).decided := by
  induction ends using List.reverseRecOn with
  | nil => exact .inl ⟨h, by simp⟩
  | append_singleton ends e ih =>
    rw [List.foldl_concat]
    exact ih.take e

/-- An end that decides does not have the status OK. -/
theorem Decides.not_ok {ends : List OpEnd} {e : OpEnd} (h : Decides ends e) : e.2.2.1 ≠ St.ok := by
  rintro hok
  have hdec := h.2
  rw [hok, if_neg (by decide)] at hdec
  exact absurd hdec.1 (by decide)

/-- Two ends that decide have the same number. -/
theorem Decides.number_eq {ends : List OpEnd} {e f : OpEnd} (he : Decides ends e) (hf : Decides ends f) :
    e.1 = f.1 := by
  obtain ⟨hemem, he⟩ := he
  obtain ⟨hfmem, hf⟩ := hf
  split at he
  · next hend =>
    split at hf
    · next hend' => exact Nat.le_antisymm (he f hfmem hend') (hf e hemem hend)
    · exact absurd hend (by simp [hf.2.1 e hemem])
  · split at hf
    · next hend' => exact absurd hend' (by simp [he.2.1 f hfmem])
    · exact Nat.le_antisymm (he.2.2 f hfmem hf.1) (hf.2.2 e hemem he.1)

/-- Where the numbers are distinct, one end decides. -/
theorem Decided.eq_of_decides {ends : List OpEnd} {d : Option (U16 × U32 × Nat)} {e : OpEnd}
    (hnodup : (ends.map (·.1)).Nodup) (h : Decided ends d) (he : Decides ends e) : d = some (e.2.2.1, e.2.1, e.1) := by
  obtain ⟨-, hall⟩ | ⟨f, hf, rfl⟩ := h
  · exact absurd (hall e he.1) he.not_ok
  · rw [List.inj_on_of_nodup_map hnodup hf.1 he.1 (hf.number_eq he)]

/-- Settles O38: in whatever order the ends come, they decide the list, and one end only decides. -/
theorem listStatus : Obligations.ListStatus := by
  intro l ends hnone hnodup out
  have hout : Decided ends out := l.decided_foldl_take hnone ends
  refine ⟨fun e he hend hfirst => ?ended, fun e he hopen hinvalid hfirst => ?invalid, fun hall => ?ok⟩
  case ended => exact hout.eq_of_decides hnodup ⟨he, by rwa [if_pos hend]⟩
  case invalid =>
    refine hout.eq_of_decides hnodup ⟨he, ?_⟩
    rw [if_neg (by simp [hopen e he])]
    exact ⟨hinvalid, hopen, hfirst⟩
  case ok =>
    obtain ⟨hnone, -⟩ | ⟨e, he, -⟩ := hout
    · exact hnone
    · exact absurd (hall e he.1) he.not_ok

end Sys2Proof.Machine

namespace Sys2Proof.Machine

/-! ### The walk of a list (R188) -/

section walk

variable {s : State} {c : Slot} {e : SubEntry} {rest : List SubEntry}

/-- The state in which the next list taken in is walked. -/
def State.taking (s : State) (c : Slot) (rest : List SubEntry) : State :=
  s.modStream c (fun x => { x with subQueue := rest })

variable (hnext : (s.ctx c).stream.subQueue = e :: rest) (hholds : (s.ctx c).st.holds = true)
  (hready : s.boot.life = .ready) (hreach : s.listWaits c e = false)
include hnext hholds hready hreach

theorem execListWalk_takes : execListWalk c s =
    if e.nop then .next ((s.taking c rest).postList c e.tag St.ok 0 ((s.taking c rest).ctx c).stream.openStep)
    else match (s.taking c rest).walkList c e.list.toNat with
      | .error (st, id) => .next ((s.taking c rest).refuseList c e.tag st id
          (fieldBv 64 ((s.taking c rest).bytes c e.list.toNat 64) 16 8))
      | .ok w => .next ((s.taking c rest).acceptList c e w) := by
  unfold execListWalk
  rw [hnext]
  dsimp only
  rw [if_neg (by simp [hholds, hready, hreach])]
  rfl

end walk

/-! ### A list joins its stream (R189, R190) -/

theorem State.store_stream (s : State) (c d : Slot) (a : Nat) (b : Bytes) :
    ((s.store c a b).ctx d).stream = (s.ctx d).stream :=
  (State.store_slot (P := fun _ => False) s c a b d id).stream

theorem State.modTrain_stream (s : State) (c d : Slot) (f : CtxTrain → CtxTrain) :
    ((s.modTrain c f).ctx d).stream = (s.ctx d).stream := by
  rw [State.modTrain_ctx]
  split
  · next h => rw [h]
  · rfl

theorem State.journalWrite_stream (s : State) (c d : Slot) (e : JEntry) :
    ((s.journalWrite c e).ctx d).stream = (s.ctx d).stream := by
  unfold State.journalWrite
  split
  · exact s.store_stream c d _ _
  · rfl

theorem State.journalMod_stream (s : State) (c d : Slot) (step : U64) (f : JEntry → JEntry) :
    ((s.journalMod c step f).ctx d).stream = (s.ctx d).stream := by
  unfold State.journalMod
  split
  · rfl
  · split
    · rfl
    · extract_lets _ e' t
      split
      · rfl
      · exact (t.journalWrite_stream c d e').trans (s.modTrain_stream c d _)

theorem State.journalList_stream (s : State) (c d : Slot) (step : U64) (l : JList) :
    ((s.journalList c step l).1.ctx d).stream = (s.ctx d).stream := by
  unfold State.journalList
  split
  · rfl
  · exact s.journalMod_stream c d step _

/-- A list that holds an operation that has not ended does not complete. -/
theorem State.completeLists_open {s : State} {c : Slot}
    (hopen : ∀ l ∈ (s.ctx c).stream.lists, ∃ o ∈ (s.ctx c).stream.ops, o.list = l.id ∧ o.finished = false) :
    s.completeLists c = s := by
  have hnone : (s.ctx c).stream.lists.filter
      (fun l => ((s.ctx c).stream.ops.filter (fun o => o.list == l.id)).all OpRec.finished) = [] := by
    refine List.filter_eq_nil_iff.2 fun l hl hall => ?_
    obtain ⟨o, ho, hlist, hrunning⟩ := hopen l hl
    have hfinished := List.all_eq_true.1 hall o (List.mem_filter.2 ⟨ho, beq_iff_eq.2 hlist⟩)
    rw [hrunning] at hfinished
    exact absurd hfinished (by decide)
  unfold State.completeLists
  dsimp only
  rw [hnone]
  rfl

theorem filterMap_range_getElem? {α β : Type} (f : Nat → α → β) (l : List α) :
    (List.range l.length).filterMap (fun i => (l[i]?).map (f i)) = l.mapIdx f := by
  induction l using List.reverseRecOn with
  | nil => rfl
  | append_singleton l a ih =>
    have hinit : (List.range l.length).filterMap (fun i => ((l ++ [a])[i]?).map (f i)) = l.mapIdx f := by
      rw [← ih]
      exact List.filterMap_congr fun i hi => by rw [List.getElem?_append_left (List.mem_range.1 hi)]
    simp [List.range_succ, hinit, List.mapIdx_concat]

/-- The operation that descriptor `i` of a list becomes. -/
def CtxStream.newOp (x : CtxStream) (step : U64) (i : Nat) (p : DescHdr × Desc) : OpRec :=
  { n := x.nextOp + i, list := x.nextList, hdr := p.1, desc := p.2, step := step, st := .waiting, run := none,
    silent := false }

/-- A list joins the stream: its record, and its operations in list order under the numbers that follow. -/
def CtxStream.joined (x : CtxStream) (l : ListRec) (step : U64) (descs : List (DescHdr × Desc)) : CtxStream :=
  { x with
    lists := x.lists ++ [l]
    ops := x.ops ++ descs.mapIdx (x.newOp step)
    nextOp := x.nextOp + descs.length
    nextList := x.nextList + 1 }

/-- A list with a descriptor that joins the stream is open, and keeps the others open. -/
theorem CtxStream.joined_open {x : CtxStream} {l : ListRec} {step : U64} {descs : List (DescHdr × Desc)}
    (hid : l.id = x.nextList) (hdescs : descs ≠ [])
    (hopen : ∀ l ∈ x.lists, ∃ o ∈ x.ops, o.list = l.id ∧ o.finished = false) :
    ∀ y ∈ (x.joined l step descs).lists, ∃ o ∈ (x.joined l step descs).ops, o.list = y.id ∧ o.finished = false := by
  intro y hy
  obtain hy | hy := List.mem_append.1 hy
  · obtain ⟨o, ho, hlist⟩ := hopen y hy
    exact ⟨o, List.mem_append_left _ ho, hlist⟩
  · obtain rfl := List.mem_singleton.1 hy
    have hpos := List.length_pos_of_ne_nil hdescs
    exact ⟨x.newOp step 0 descs[0], List.mem_append_right _ (List.mem_mapIdx.2 ⟨0, hpos, rfl⟩), hid.symm, rfl⟩

/-- The step of a list: STEP of all ones is the open step (R189). -/
def Walked.stepIn (w : Walked) (x : CtxStream) : U64 := if w.step = 0xFFFFFFFFFFFFFFFF then x.openStep else w.step

/-- What the stream is once a list whose step has not passed has been accepted. -/
theorem State.acceptList_stream {s : State} {c : Slot} {e : SubEntry} {w : Walked} (hdescs : w.descs ≠ [])
    (hstep : (s.ctx c).stream.openStep ≤ w.step)
    (hopen : ∀ l ∈ (s.ctx c).stream.lists, ∃ o ∈ (s.ctx c).stream.ops, o.list = l.id ∧ o.finished = false) :
    ∃ l : ListRec, ((s.acceptList c e w).ctx c).stream =
      (s.ctx c).stream.joined l (w.stepIn (s.ctx c).stream) w.descs := by
  have hlate : ¬ w.stepIn (s.ctx c).stream < (s.ctx c).stream.openStep := by
    unfold Walked.stepIn
    split
    · exact BitVec.lt_irrefl _
    · exact BitVec.not_lt.2 hstep
  have hjournal := s.journalList_stream c c (w.stepIn (s.ctx c).stream)
    { programId := w.programId, count := w.count, addr := e.list }
  unfold State.acceptList
  dsimp only
  rw [← Walked.stepIn, if_neg hlate]
  generalize s.journalList c (w.stepIn (s.ctx c).stream)
    { programId := w.programId, count := w.count, addr := e.list } = q at hjournal ⊢
  obtain ⟨t, jpos⟩ := q
  dsimp only at hjournal ⊢
  rw [filterMap_range_getElem?]
  let l : ListRec :=
    { id := (s.ctx c).stream.nextList, tag := e.tag, programId := w.programId, count := w.count, addr := e.list
      step := w.stepIn (s.ctx c).stream, endedAt := none, decided := none, silent := false, jpos := jpos }
  generalize hu : t.modStream c _ = u
  have hjoined : (u.ctx c).stream = (s.ctx c).stream.joined l (w.stepIn (s.ctx c).stream) w.descs := by
    rw [← hu, State.modStream_ctx, if_pos rfl]
    dsimp only
    rw [hjournal]
    rfl
  refine ⟨l, ?_⟩
  rw [State.completeLists_open, hjoined]
  rw [hjoined]
  exact CtxStream.joined_open rfl hdescs hopen

/-- Settles O32: the walk's own case split, and what `CtxStream.joined` says of the list's operations. -/
theorem listsAreWalked : Obligations.ListsAreWalked := by
  refine ⟨fun s c e rest hnext hholds hready hreach => ?walk, fun s c e w hdescs hstep hopen _ => ?joins⟩
  case walk =>
    have hexec := execListWalk_takes hnext hholds hready hreach
    refine ⟨fun hnop => ?_, fun w hlist hwalk => ?_, fun st id hlist hwalk => ?_⟩
    · rw [if_pos hnop] at hexec
      exact hexec
    · rw [if_neg (Bool.eq_false_iff.1 hlist), State.taking, hwalk] at hexec
      exact hexec
    · rw [if_neg (Bool.eq_false_iff.1 hlist), State.taking, hwalk] at hexec
      exact hexec
  case joins =>
    obtain ⟨l, hjoined⟩ := State.acceptList_stream (e := e) hdescs hstep hopen
    intro x y
    have hy : y = x.joined l (w.stepIn x) w.descs := hjoined
    clear_value y
    subst hy
    refine ⟨List.take_left' rfl, by simp [CtxStream.joined], rfl, by simp [CtxStream.joined], fun i h =>
      ⟨x.newOp (w.stepIn x) i w.descs[i], ?_, rfl, rfl, rfl, rfl, rfl, rfl⟩⟩
    simp [CtxStream.joined, h]

end Sys2Proof.Machine

namespace Sys2Proof.Machine

/-! ### What a read's touch leaves (R229, R233, R234, R247) -/

/-- The plate at a key of the memory is marked, or holds an error that its reader meets. -/
def State.badAt (s : State) (k : Nat) : Bool :=
  s.poison.contains k || (kvGet s.tiers.latent k).any (· != .soft)

theorem State.poisoned_eq (s : State) (c : Slot) (a : Nat) : s.poisoned c a = s.badAt (memKey c (a / 64 * 64)) := rfl

/-- The page shows an image. -/
def Ctx.shown (x : Ctx) (p : Nat) : Bool := (x.page p).any (·.mapped.isSome)

theorem State.shows_eq (s : State) (c : Slot) (p : Nat) : s.shows c p = (s.ctx c).shown p := by
  unfold State.shows Ctx.shown
  cases (s.ctx c).page p <;> rfl

/-- No plate becomes bad between `s` and `t`, and no page begins or ceases to show an image. -/
structure Unharmed (s t : State) : Prop where
  bad : ∀ k, s.badAt k = false → t.badAt k = false
  shown : ∀ c p, (t.ctx c).shown p = (s.ctx c).shown p

theorem Unharmed.refl (s : State) : Unharmed s s := ⟨fun _ => id, fun _ _ => rfl⟩

theorem Unharmed.trans {s t u : State} (h : Unharmed s t) (k : Unharmed t u) : Unharmed s u :=
  ⟨fun n hn => k.bad n (h.bad n hn), fun c p => (k.shown c p).trans (h.shown c p)⟩

theorem Unharmed.foldl {α : Type} {f : State → α → State} (hf : ∀ s x, Unharmed s (f s x)) (l : List α) (s : State) :
    Unharmed s (l.foldl f s) :=
  List.foldlRecOn (motive := Unharmed s) l f (.refl s) fun t ht x _ => ht.trans (hf t x)

theorem kvGet_kvErase {α : Type} (l : List (Nat × α)) (k j : Nat) :
    kvGet (kvErase l k) j = if j = k then none else kvGet l j := by
  induction l with
  | nil => simp [kvErase, kvGet]
  | cons x l ih =>
    obtain ⟨n, v⟩ := x
    unfold kvErase at ih ⊢
    rw [List.filter_cons]
    grind [kvGet]

theorem Ctx.page_modPage (x : Ctx) (p q : Nat) (f : Page → Page) :
    (x.modPage p f).page q = if q = p then (x.page p).map f else x.page q := by
  unfold Ctx.modPage Ctx.page
  split
  · next h => split <;> simp_all
  · next pg h =>
    rw [kvGet_kvSet_eq_ite, h]
    rfl

theorem Ctx.shown_modPage {f : Page → Page} (hf : ∀ g, (f g).mapped = g.mapped) (x : Ctx) (p q : Nat) :
    (x.modPage p f).shown q = x.shown q := by
  unfold Ctx.shown
  rw [Ctx.page_modPage]
  split
  · next h =>
    subst h
    cases x.page q <;> simp [hf]
  · rfl

/-- A slot changes, but not which of its pages show an image. -/
theorem State.modCtx_unharmed {f : Ctx → Ctx} (hf : ∀ x p, (f x).shown p = x.shown p) (s : State) (c : Slot) :
    Unharmed s (s.modCtx c f) := by
  refine ⟨fun _ => id, fun d p => ?_⟩
  rw [State.modCtx_ctx]
  split
  · next h => rw [hf, h]
  · rfl

theorem State.modPage_unharmed {f : Page → Page} (hf : ∀ g, (f g).mapped = g.mapped) (s : State) (c : Slot) (p : Nat) :
    Unharmed s (s.modPage c p f) :=
  State.modCtx_unharmed (fun x q => x.shown_modPage hf p q) s c

theorem State.scrubCorrected_unharmed (s : State) (q : Slot × Nat) : Unharmed s (s.scrubCorrected q) := by
  unfold State.scrubCorrected
  split <;> exact ⟨fun _ => id, fun _ _ => rfl⟩

theorem State.correct_unharmed (s : State) (c : Slot) (a n : Nat) : Unharmed s (s.correct c a n) := by
  have herase (t : State) (j : Nat) :
      Unharmed t { t with tiers := { t.tiers with latent := kvErase t.tiers.latent j } } := by
    refine ⟨fun k hk => ?_, fun _ _ => rfl⟩
    simp only [State.badAt, kvGet_kvErase] at hk ⊢
    split <;> simp_all
  exact .foldl (fun t (x : Nat × Latent) =>
    (herase t x.1).trans (State.scrubCorrected_unharmed _ (c, x.1 - memKey c 0))) _ s

theorem State.countBad_unharmed (s : State) (c : Slot) (a : Nat) : Unharmed s (s.countBad c a) := by
  unfold State.countBad
  dsimp only
  split_ifs <;> exact ⟨fun _ => id, fun _ _ => rfl⟩

/-- Only a plate that is bad already is met, and marked. -/
theorem State.meet_unharmed (s : State) (c : Slot) (a : Nat) : Unharmed s (s.meet c a) := by
  unfold State.meet
  dsimp only
  split
  · next hhard =>
    have hmark : Unharmed s
        { s with tiers := { s.tiers with latent := kvSet s.tiers.latent (memKey c (a / 64 * 64)) .met } } := by
      refine ⟨fun k hk => ?_, fun _ _ => rfl⟩
      simp only [State.badAt, kvGet_kvSet_eq_ite] at hk ⊢
      split <;> simp_all
    exact hmark.trans (State.countBad_unharmed _ c a)
  · next d hflash =>
    refine ⟨fun k hk => ?_, fun _ _ => rfl⟩
    simp only [State.badAt, State.flashPoison, State.setPoison, kvGet_kvErase] at hk ⊢
    have hne : k ≠ memKey c (a / 64 * 64) := by rintro rfl; simp [hflash] at hk
    have hin : k ∉ insertNat s.poison (memKey c (a / 64 * 64)) := by
      rw [mem_insertNat]
      simp_all
    simp_all
  · exact .refl s

theorem State.meetPage_unharmed (s : State) (c : Slot) (p : Nat) : Unharmed s (s.meetPage c p) :=
  (s.correct_unharmed c _ _).trans (.foldl (fun t _ => t.meet_unharmed c _) _ _)

theorem State.leaveFrame_unharmed (s : State) (c : Slot) (p : Nat) : Unharmed s (s.leaveFrame c p) := by
  refine (s.meetPage_unharmed c p).trans ?_
  unfold State.leaveFrame
  dsimp only
  split <;> exact ⟨fun _ => id, fun _ _ => rfl⟩

theorem State.ddrFrame_unharmed (s : State) (d : Nat) : Unharmed s (s.ddrFrame d).1 := by
  unfold State.ddrFrame
  split
  · exact .refl s
  · split
    · exact .refl s
    · next c p _ _ =>
      dsimp only
      split
      · exact .refl s
      · refine (s.leaveFrame_unharmed c p).trans ?_
        dsimp only
        refine State.modCtx_unharmed (fun x q => ?_) _ c
        exact x.shown_modPage (f := fun g => { g with tier := .flash (homeOf s.sku.dies p g) }) (by intro _; rfl) p q

theorem State.placePage_unharmed (s : State) (c : Slot) (p : Nat) (pg : Page) (stay : Tier) :
    Unharmed s (s.placePage c p pg stay) := by
  have hput (t : State) (d : Nat) (x : Tier) : Unharmed t
      (t.modPage c p (fun g => { g with tier := x, home := some d })) :=
    State.modPage_unharmed (by intro _; rfl) t c p
  have hframe := s.ddrFrame_unharmed (homeOf s.sku.dies p pg)
  unfold State.placePage
  dsimp only
  generalize homeOf s.sku.dies p pg = d at hframe ⊢
  generalize s.ddrFrame d = q at hframe ⊢
  obtain ⟨t, f⟩ := q
  split
  · exact .refl s
  · split
    · exact hput s d _
    · split
      · exact hput s d _
      · split
        · split <;> exact hframe.trans (hput t d _)
        · exact hframe.trans (hput t d _)

theorem State.touchResident_unharmed (s : State) (c : Slot) (p : Nat) (pg : Page) (x : Nat) :
    Unharmed s (s.touchResident c p pg x) := by
  unfold State.touchResident
  split
  · exact (s.leaveFrame_unharmed c p).trans (State.modPage_unharmed (by intro _; rfl) _ c p)
  · exact .refl s

theorem State.touchPage_unharmed (s : State) (c : Slot) (p : Nat) : Unharmed s (s.touchPage c p) := by
  unfold State.touchPage
  split
  · exact .refl s
  · next pg _ =>
    dsimp only
    split
    · split
      · refine .trans ?_ (State.placePage_unharmed _ c p pg _)
        exact State.modPage_unharmed (by intro _; rfl) s c p
      · exact State.modPage_unharmed (by intro _; rfl) s c p
    · split
      · refine .trans ?_ (State.touchResident_unharmed _ c p pg _)
        exact State.modPage_unharmed (by intro _; rfl) s c p
      · exact State.modPage_unharmed (by intro _; rfl) s c p
    · exact State.modPage_unharmed (by intro _; rfl) s c p

theorem State.touch_unharmed (s : State) (c : Slot) (a n : Nat) : Unharmed s (s.touch c a n) :=
  (Unharmed.foldl (fun t p => t.touchPage_unharmed c p) _ s).trans (State.correct_unharmed _ c a n)

theorem Unharmed.poisoned {s t : State} (h : Unharmed s t) {c : Slot} {a : Nat} (hs : s.poisoned c a = false) :
    t.poisoned c a = false := by
  rw [State.poisoned_eq] at hs ⊢
  exact h.bad _ hs

theorem Unharmed.readOnly {s t : State} (h : Unharmed s t) (c : Slot) (a : Nat) : t.readOnly c a = s.readOnly c a := by
  rw [State.readOnly, State.readOnly, State.shows_eq, State.shows_eq, h.shown]

/-! ### MARK (R209) -/

/-- The bytes of a number are those of its remainder. -/
theorem natLe_mod (n v : Nat) : natLe n (v % 256 ^ n) = natLe n v := by
  induction n generalizing v with
  | zero => rfl
  | succ n ih =>
    have hhead : BitVec.ofNat 8 (v % 256 ^ (n + 1)) = BitVec.ofNat 8 v := by
      refine BitVec.eq_of_toNat_eq ?_
      rw [BitVec.toNat_ofNat, BitVec.toNat_ofNat]
      exact Nat.mod_mod_of_dvd v (Dvd.intro_left (256 ^ n) rfl)
    rw [natLe, natLe, hhead, Nat.pow_succ', Nat.mod_mul_right_div_self, ih]

/-- The bytes of a sum modulo 2^64. -/
theorem bvLe_sum (n : Nat) (v : U64) : bvLe 8 (BitVec.ofNat 64 n + v) = natLe 8 (n + v.toNat) := by
  rw [bvLe, ← natLe_mod 8 (n + v.toNat), BitVec.toNat_add, BitVec.toNat_ofNat, Nat.mod_add_mod]
  rfl

theorem State.bytes_eq_map_byte (s : State) (c : Slot) (a n : Nat) :
    s.bytes c a n = (List.range n).map (fun i => s.byte c (a + i)) := by
  unfold State.bytes State.byte
  exact List.map_congr_left fun i _ => congrArg (memGet s.mem) (by unfold memKey; omega)

/-- A store none of whose pages shows an image is read back. -/
theorem State.bytes_store {s : State} {c : Slot} {a : Nat} {b : Bytes} (h : MemInv s) (ha : a + b.length ≤ rangeBytes)
    (hopen : ∀ k, a ≤ k → k < a + b.length → s.readOnly c k = false) : (s.store c a b).bytes c a b.length = b := by
  rw [State.bytes_eq_map_byte]
  refine List.ext_getElem (by simp) fun i hi hi' => ?_
  rw [List.getElem_map, List.getElem_range, storeWritesItsBytes s c c a (a + i) b h ha (by omega),
    if_pos ⟨rfl, by omega, by omega, hopen _ (by omega) (by omega)⟩]
  simp [hi']

/-- An aligned word lies in one page. -/
theorem State.readOnly_word {s : State} {c : Slot} {a k : Nat} (ha : a % 8 = 0) (hlo : a ≤ k) (hhi : k < a + 8) :
    s.readOnly c k = s.readOnly c a := by
  have hpage : k / pageBytes = a / pageBytes := by unfold pageBytes; omega
  rw [State.readOnly, State.readOnly, hpage]

/-- The word that a MARK leaves at its address: its value, or the sum (R209). -/
def MarkD.word (d : MarkD) (old : Nat) : U64 :=
  if d.mflags.getLsbD 0 then d.value else BitVec.ofNat 64 old + d.value

section mark

variable {s : State} {o : OpRec} {oc : OpCtx} {vs : List (Nat × TView)} {d : MarkD} (hdesc : o.desc = .mark d)
include hdesc

theorem beginMark_neither (hwrite : d.mflags.getLsbD 0 = false) (hadd : d.mflags.getLsbD 1 = false) :
    beginMark s o oc vs = s := by
  simp only [beginMark, hdesc, hwrite, hadd, Bool.or_self, Bool.not_false, if_true]

/-- A MARK that writes or adds, at an address of the slot's own that can be read, stores its word. -/
theorem beginMark_stores (hown : (s.ctx oc.c).apertureAt d.address.toNat = none)
    (hgood : s.poisoned oc.c d.address.toNat = false)
    (hacts : (d.mflags.getLsbD 0 || d.mflags.getLsbD 1) = true) :
    beginMark s o oc vs = (s.touch oc.c d.address.toNat 8).store oc.c d.address.toNat
      (bvLe 8 (d.word (s.num oc.c d.address.toNat 8))) := by
  have hgood' := (s.touch_unharmed oc.c d.address.toNat 8).poisoned hgood
  have hnum : (s.touch oc.c d.address.toNat 8).num oc.c d.address.toNat 8 = s.num oc.c d.address.toNat 8 := by
    rw [State.num, State.num, State.bytes, State.bytes, State.touch_mem]
  simp only [beginMark, hdesc, hacts, hown, hgood', hnum, MarkD.word, Bool.not_true, Bool.false_eq_true, if_false]

end mark

/-- Settles O39: a MARK that writes or adds stores its word, and the touch before the store harms no plate. -/
theorem marksTakeEffect : Obligations.MarksTakeEffect := by
  intro s o oc vs d hdesc hown hgood hmem hrange halign hwritable
  have hstores := fun hacts => beginMark_stores (vs := vs) hdesc hown hgood hacts
  generalize d.address.toNat = a at *
  have hmem' : MemInv (s.touch oc.c a 8) := by rwa [MemInv, State.touch_mem]
  have hopen (k : Nat) (hlo : a ≤ k) (hhi : k < a + 8) : (s.touch oc.c a 8).readOnly oc.c k = false := by
    rw [State.readOnly_word halign hlo hhi, (s.touch_unharmed oc.c a 8).readOnly, hwritable]
  have hbytes (hacts : (d.mflags.getLsbD 0 || d.mflags.getLsbD 1) = true) :
      (beginMark s o oc vs).bytes oc.c a 8 = bvLe 8 (d.word (s.num oc.c a 8)) := by
    rw [hstores hacts]
    exact State.bytes_store (b := bvLe 8 _) hmem' (by rwa [bvLe_length]) (by simpa only [bvLe_length] using hopen)
  refine ⟨fun hwrite => ?writes, fun hwrite hadd => ?adds, fun hwrite hadd => beginMark_neither hdesc hwrite hadd,
    fun c k hk hother => ?frame⟩
  case writes =>
    rw [hbytes (by rw [hwrite, Bool.true_or]), MarkD.word, if_pos hwrite, bvLe]
  case adds =>
    rw [hbytes (by rw [hadd, Bool.or_true]), MarkD.word, if_neg (Bool.eq_false_iff.1 hwrite), bvLe_sum]
  case frame =>
    by_cases hacts : (d.mflags.getLsbD 0 || d.mflags.getLsbD 1) = true
    · rw [hstores hacts, storeWritesItsBytes _ _ _ _ _ _ hmem' (by rwa [bvLe_length]) hk, bvLe_length,
        if_neg (fun h => hother ⟨h.1, h.2.1, h.2.2.1⟩), State.byte, State.touch_mem, State.byte]
    · simp only [Bool.or_eq_true, not_or, Bool.not_eq_true] at hacts
      rw [beginMark_neither hdesc hacts.1 hacts.2]

end Sys2Proof.Machine

namespace Sys2Proof.Machine

/-! ### What completions, traffic and records leave of the Meridian -/

/-- The Meridian, the module's life, and the delays of the ports' links: what neither a store nor a completion, a
packet's way nor a Logbook record changes. -/
def State.clock (s : State) : Meridian × Boot × (Nat → U32) := (s.mer, s.boot, fun n => (s.port n).delayNs)

theorem State.eq_of_clock {s t : State} (h : s.clock = t.clock) :
    s.mer = t.mer ∧ s.boot = t.boot ∧ ∀ n, (s.port n).delayNs = (t.port n).delayNs :=
  ⟨congrArg (·.1) h, congrArg (·.2.1) h, fun n => congrFun (congrArg (·.2.2) h) n⟩

theorem State.clock_of_besidesMemory {s t : State} (h : s.besidesMemory = t.besidesMemory) : s.clock = t.clock := by
  have hclock : s.besidesMemory.clock = t.besidesMemory.clock := congrArg State.clock h
  exact hclock

@[simp] theorem State.clock_store (s : State) (c : Slot) (a : Nat) (b : Bytes) : (s.store c a b).clock = s.clock :=
  State.clock_of_besidesMemory (s.besidesMemory_store c a b)

@[simp] theorem State.clock_emit (s : State) (o : Out) : (s.emit o).clock = s.clock := rfl

@[simp] theorem State.clock_modCtx (s : State) (c : Slot) (f : Ctx → Ctx) : (s.modCtx c f).clock = s.clock := rfl

@[simp] theorem State.clock_sendMsix (s : State) (f : Func) (v : U8) : (s.sendMsix f v).clock = s.clock := by
  unfold State.sendMsix
  dsimp only
  split <;> rfl

@[simp] theorem State.clock_setRing (s : State) (r : Ring) (x : CmplRing) : (s.setRing r x).clock = s.clock := by
  cases r <;> rfl

@[simp] theorem State.clock_ringMessage (s : State) (r : Ring) : (s.ringMessage r).clock = s.clock := by
  simp [State.ringMessage]

@[simp] theorem State.clock_writeCmpl (s : State) (r : Ring) (e : Cmpl) : (s.writeCmpl r e).clock = s.clock := by
  unfold State.writeCmpl
  cases r with
  | module => dsimp only; split <;> simp
  | ctx c => dsimp only; split_ifs <;> simp

@[simp] theorem State.clock_post (s : State) (r : Ring) (e : Cmpl) : (s.post r e).clock = s.clock := by
  unfold State.post
  dsimp only
  split_ifs <;> simp

@[simp] theorem State.clock_postCtx (s : State) (c : Slot) (e : Cmpl) : (s.postCtx c e).clock = s.clock := by
  unfold State.postCtx
  split <;> simp

/-- A port's registers change, but not the delay of its link. -/
theorem State.clock_setPort {s : State} {n : Nat} {p : Port} (h : p.delayNs = (s.port n).delayNs) :
    (s.setPort n p).clock = s.clock := by
  refine Prod.ext rfl (Prod.ext rfl (funext fun m => ?_))
  simp only [State.clock, State.setPort_port]
  split
  · next hm => rw [h, hm]
  · rfl

theorem State.clock_modPort {f : Port → Port} (hf : ∀ p, (f p).delayNs = p.delayNs) (s : State) (n : Nat) :
    (s.modPort n f).clock = s.clock := State.clock_setPort (hf _)

@[simp] theorem State.clock_sendCodeword (s : State) (n : Nat) (beacon : Bool) (slots : List Bytes) :
    (s.sendCodeword n beacon slots).clock = s.clock := by
  unfold State.sendCodeword State.putWord
  dsimp only
  rw [State.clock_emit]
  exact State.clock_setPort rfl

@[simp] theorem State.clock_putBeacons (s : State) (n k : Nat) : (s.putBeacons n k).clock = s.clock := by
  induction k generalizing s with
  | zero => rfl
  | succ k ih =>
    unfold State.putBeacons
    split
    · rfl
    · split
      · rfl
      · exact (ih _).trans ((State.clock_sendCodeword _ _ _ _).trans (State.clock_modPort (by intro _; rfl) s.draw.1 n))

@[simp] theorem State.clock_putCtrl (s : State) (n : Nat) : (s.putCtrl n).clock = s.clock := by
  unfold State.putCtrl
  dsimp only
  split
  · rfl
  · split
    · rfl
    · exact (State.clock_sendCodeword _ _ _ _).trans (State.clock_setPort rfl)

theorem Port.spend_delayNs (p : Port) (vc n : Nat) : (p.spend vc n).delayNs = p.delayNs := by
  unfold Port.spend
  split <;> rfl

@[simp] theorem State.clock_issue (s : State) (n : Nat) (pk : Packet) : (s.issue n pk).clock = s.clock :=
  (State.clock_modPort (by intro _; rfl) _ n).trans
    ((foldl_shows State.clock (fun t c => t.clock_sendCodeword n false c) _ _).trans
      (State.clock_modPort (fun p => p.spend_delayNs _ _) s n))

@[simp] theorem State.clock_pumpPort (s : State) (n : Nat) : (s.pumpPort n).clock = s.clock := by
  unfold State.pumpPort
  dsimp only
  rw [State.clock_modPort (by intro _; rfl)]
  refine (foldl_shows (fun acc : State × List Packet × List Nat => acc.1.clock) ?_ _ _).trans ?_
  · rintro ⟨t, held, blocked⟩ pk
    dsimp only
    split
    · rfl
    · exact t.clock_issue n pk
  · simp [State.clock_modPort]

@[simp] theorem State.clock_route (s : State) (p : Packet) : (s.route p).1.clock = s.clock := by
  unfold State.route
  split
  · rfl
  · split
    · rfl
    · simp [State.clock_modPort]

@[simp] theorem State.clock_mgmtPacket (s : State) (dest : BitVec 24) (b : Bytes) :
    (s.mgmtPacket dest b).clock = s.clock := by
  unfold State.mgmtPacket
  dsimp only
  split
  · exact s.clock_route _
  · rfl

@[simp] theorem State.clock_noticeMessages (s : State) (r : LogRec) : (s.noticeMessages r).clock = s.clock := by
  refine foldl_shows State.clock (fun t x => ?_) _ s
  dsimp only
  split
  · exact t.clock_mgmtPacket _ _
  · rfl

@[simp] theorem State.clock_noticeCompletions (s : State) (r : LogRec) : (s.noticeCompletions r).clock = s.clock := by
  unfold State.noticeCompletions
  dsimp only
  split_ifs <;> simp

@[simp] theorem State.clock_dropRecord (s : State) (r : LogRec) : (s.dropRecord r).clock = s.clock :=
  (State.clock_noticeCompletions _ _).trans (State.clock_noticeMessages _ _)

@[simp] theorem State.clock_raise (s : State) (e : Event) : (s.raise e).clock = s.clock := by
  unfold State.raise
  dsimp only
  split
  · rfl
  · split
    · exact State.clock_dropRecord _ _
    · split
      · rfl
      · split
        · rfl
        · exact State.clock_dropRecord _ _

@[simp] theorem State.clock_raiseStatus (s : State) (sev : BitVec 2) (st : U16) (e : Event) :
    (s.raiseStatus sev st e).clock = s.clock := s.clock_raise _

@[simp] theorem State.clock_noticeSlots (s : State) (status : U16) (seq : U64) :
    (s.noticeSlots status seq).clock = s.clock :=
  foldl_shows State.clock (fun t c => t.clock_postCtx c _) _ s

@[simp] theorem State.clock_sendBeacon (s : State) (n : Nat) (b : Beacon) : (s.sendBeacon n b).clock = s.clock :=
  (State.clock_pumpPort _ n).trans (State.clock_modPort (by intro _; rfl) s n)

@[simp] theorem State.clock_forwardBeacon (s : State) (b : Beacon) : (s.forwardBeacon b).clock = s.clock :=
  foldl_shows State.clock (fun t n => t.clock_sendBeacon n _) _ s

/-! ### What the end of an operation runs (R199, R211) -/

/-- The operations of every slot's stream. -/
def State.streams (s : State) (c : Slot) : List OpRec := (s.ctx c).stream.ops

theorem State.streams_of_lasting {s t : State} (h : s.lasting = t.lasting) : s.streams = t.streams :=
  funext fun c => congrArg (fun x : List DueEntry × (Slot → Ctx) => (x.2 c).stream.ops) h

theorem State.streams_of_standing {s t : State} (h : s.standing = t.standing) : s.streams = t.streams := by
  obtain ⟨-, -, hlasting, -⟩ := State.eq_of_standing h
  exact State.streams_of_lasting hlasting

/-- The Meridian with the operations: what the end of an operation leaves, but for the operations that end with it. -/
def State.waitsView (s : State) : (Meridian × Boot × (Nat → U32)) × (Slot → List OpRec) := (s.clock, s.streams)

theorem State.waitsView_store (s : State) (c : Slot) (a : Nat) (b : Bytes) :
    (s.store c a b).waitsView = s.waitsView :=
  Prod.ext (s.clock_store c a b) (State.streams_of_lasting (s.lasting_store c a b))

theorem State.waitsView_postCtx (s : State) (c : Slot) (e : Cmpl) : (s.postCtx c e).waitsView = s.waitsView :=
  Prod.ext (s.clock_postCtx c e) (State.streams_of_lasting (s.lasting_postCtx c e))

theorem State.waitsView_raiseStatus (s : State) (sev : BitVec 2) (st : U16) (e : Event) :
    (s.raiseStatus sev st e).waitsView = s.waitsView :=
  Prod.ext (s.clock_raiseStatus sev st e) (State.streams_of_standing (s.standing_raiseStatus sev st e))

theorem State.waitsView_modCtx {f : Ctx → Ctx} (hf : ∀ x, (f x).stream.ops = x.stream.ops) (s : State) (c : Slot) :
    (s.modCtx c f).waitsView = s.waitsView := by
  refine Prod.ext rfl (funext fun d => ?_)
  simp only [State.waitsView, State.streams, State.modCtx_ctx]
  split
  · next h => rw [hf, h]
  · rfl

theorem State.waitsView_scratchUndefined (s : State) (c : Slot) (d : Desc) (run : Option RunData) :
    (s.scratchUndefined c d run).waitsView = s.waitsView := by
  unfold State.scratchUndefined
  split
  · split
    · split
      · exact State.waitsView_store _ _ _ _
      · rfl
    · rfl
  · rfl

theorem State.waitsView_stashStart (s : State) (c : Slot) (d : Desc) (up : Bool) :
    (s.stashStart c d up).waitsView = s.waitsView := by
  unfold State.stashStart
  split
  · rfl
  · exact State.waitsView_modCtx (by intro _; rfl) s c

theorem State.waitsView_stashMod (s : State) (c : Slot) (q : Nat × Nat) (f : StashRing → StashRing) :
    (s.stashMod c q f).waitsView = s.waitsView := by
  have hmod := State.waitsView_modCtx (f := fun x => { x with train := x.train.modRing q.1 f }) (by intro _; rfl) s c
  unfold State.stashMod
  dsimp only
  split
  · refine Eq.trans ?_ hmod
    unfold State.stashWrite
    dsimp only
    split
    · rfl
    · exact (State.waitsView_store _ _ _ _).trans (State.waitsView_store _ _ _ _)
  · exact hmod

theorem State.waitsView_stashComplete (s : State) (c : Slot) (d : Desc) :
    (s.stashComplete c d).waitsView = s.waitsView :=
  (foldl_shows State.waitsView (fun t q => t.waitsView_stashMod c q _) _ _).trans
    (foldl_shows State.waitsView (fun t q => t.waitsView_stashMod c q _) _ s)

theorem State.waitsView_freePages (s : State) (c : Slot) (ps : List Nat) :
    (s.freePages c ps).waitsView = s.waitsView :=
  (foldl_shows State.waitsView (by intro _ _; rfl) _ _).trans
    ((State.waitsView_modCtx (by intro _; rfl) _ c).trans (foldl_shows State.waitsView (by intro _ _; rfl) ps s))

theorem State.waitsView_freeAfter (s : State) (c : Slot) (n : Nat) : (s.freeAfter c n).waitsView = s.waitsView := by
  unfold State.freeAfter
  dsimp only
  refine (foldl_shows State.waitsView (fun t f => ?_) _ _).trans (State.waitsView_modCtx (by intro _; rfl) s c)
  refine (State.waitsView_modCtx (fun x => ?_) _ c).trans (t.waitsView_freePages c _)
  split <;> rfl

/-- `t` runs no operation that `s` does not run, and the Meridian is the same. -/
structure RunsWithin (s t : State) : Prop where
  clock : t.clock = s.clock
  runs : ∀ c, ∀ x ∈ t.streams c, x.st = .running → x ∈ s.streams c

theorem RunsWithin.refl (s : State) : RunsWithin s s := ⟨rfl, fun _ _ h _ => h⟩

theorem RunsWithin.trans {s t u : State} (h : RunsWithin s t) (k : RunsWithin t u) : RunsWithin s u :=
  ⟨k.clock.trans h.clock, fun c x hx hr => h.runs c x (k.runs c x hx hr) hr⟩

theorem RunsWithin.of_waitsView {s t : State} (h : t.waitsView = s.waitsView) : RunsWithin s t :=
  ⟨congrArg Prod.fst h, fun c x hx _ => by rwa [← show t.streams c = s.streams c from congrFun (congrArg Prod.snd h) c]⟩

/-- A change of one slot's stream that adds no running operation. -/
theorem State.modStream_runsWithin (s : State) (c : Slot) {f : CtxStream → CtxStream}
    (hf : ∀ y, ∀ x ∈ (f y).ops, x.st = .running → x ∈ y.ops) : RunsWithin s (s.modStream c f) := by
  refine ⟨rfl, fun d x hx hr => ?_⟩
  simp only [State.streams, State.modStream_ctx] at hx ⊢
  split at hx
  · next h => exact h ▸ hf _ x hx hr
  · exact hx

theorem RunsWithin.foldl {α : Type} {f : State → α → State} (hf : ∀ s x, RunsWithin s (f s x)) (l : List α)
    (s : State) : RunsWithin s (l.foldl f s) :=
  List.foldlRecOn (motive := RunsWithin s) l f (.refl s) fun t ht x _ => ht.trans (hf t x)

theorem CtxStream.mem_of_mem_dropEnded {y : CtxStream} {x : OpRec} (hx : x ∈ y.dropEnded.ops) (hr : x.st = .running) :
    x ∈ y.ops := by
  obtain ⟨z, hz, rfl⟩ := List.mem_map.1 hx
  revert hr
  split
  · split
    · split
      · simp
      · exact fun _ => hz
    · exact fun _ => hz
  · exact fun _ => hz

theorem State.completeLists_runsWithin (s : State) (c : Slot) : RunsWithin s (s.completeLists c) := by
  refine .foldl (fun t l => ?_) _ s
  have hlist (st : U16) : RunsWithin t (t.modStream c (fun x =>
      { x with lists := x.lists.filter (fun y => y.id != l.id), ops := x.ops.filter (fun o => o.list != l.id)
               listsCompleted := x.listsCompleted + 1, lastStatus := st })) :=
    t.modStream_runsWithin c (fun y x hx _ => (List.mem_filter.1 hx).1)
  dsimp only
  split
  · exact hlist _
  · exact (hlist _).trans (.of_waitsView (State.waitsView_postCtx _ _ _))

/-- The operations of a stream in which operation `n` has ended. -/
theorem State.modOp_done {s : State} {c : Slot} {n : Nat} {f : OpRec → OpRec} (hf : ∀ o, (f o).st ≠ .running) :
    RunsWithin s (s.modOp c n f) ∧ ∀ x ∈ (s.modOp c n f).streams c, x.st = .running → x.n ≠ n := by
  have hmap (l : List OpRec) : ∀ x ∈ l.map (fun o => if o.n == n then f o else o), x.st = .running →
      x ∈ l ∧ x.n ≠ n := by
    intro x hx hr
    obtain ⟨o, ho, rfl⟩ := List.mem_map.1 hx
    by_cases hn : o.n = n
    · simp [hn, hf] at hr
    · simp [hn, ho]
  refine ⟨s.modStream_runsWithin c (fun y x hx hr => (hmap y.ops x hx hr).1), fun x hx hr => ?_⟩
  simp only [State.streams, State.modOp, State.modStream_ctx, if_true] at hx
  exact (hmap _ x hx hr).2

/-- An operation that ends runs no more, and nothing else begins to run. -/
theorem State.finishOp_ends (s : State) (c : Slot) (o : OpRec) (status : U16) (started : Bool) :
    RunsWithin s (s.finishOp c o status started) ∧
      ∀ x ∈ (s.finishOp c o status started).streams c, x.st = .running → x.n ≠ o.n := by
  have hscratch := s.waitsView_scratchUndefined c o.desc o.run
  obtain ⟨hdone, hgone⟩ := (s.scratchUndefined c o.desc o.run).modOp_done (c := c) (n := o.n)
    (f := fun x => { x with st := .done status, run := none }) (by simp)
  suffices h : RunsWithin ((s.scratchUndefined c o.desc o.run).modOp c o.n
      (fun x => { x with st := .done status, run := none })) (s.finishOp c o status started) from
    ⟨((RunsWithin.of_waitsView hscratch).trans hdone).trans h, fun x hx hr => hgone x (h.runs c x hx hr) hr⟩
  unfold State.finishOp
  extract_lets s1 s2 s3 s4 s5 s6 s7 s8 post s9
  have h3 : RunsWithin s2 s3 := by
    dsimp only [s3]
    split
    · exact .of_waitsView (State.waitsView_modCtx (by intro _; rfl) s2 c)
    · exact .refl _
  have h4 : RunsWithin s3 s4 := by
    dsimp only [s4]
    split
    · exact .of_waitsView (s3.waitsView_stashStart c o.desc false)
    · exact .refl _
  have h5 : RunsWithin s4 s5 := by
    dsimp only [s5]
    split
    · exact .of_waitsView (s4.waitsView_stashComplete c o.desc)
    · exact .refl _
  have h6 : RunsWithin s5 s6 := .of_waitsView (State.waitsView_modCtx (by intro _; rfl) s5 c)
  have h7 : RunsWithin s6 s7 := s6.modStream_runsWithin c (fun _ _ => CtxStream.mem_of_mem_dropEnded)
  have h8 : RunsWithin s7 s8 := .of_waitsView (s7.waitsView_freeAfter c o.n)
  have h9 : RunsWithin s8 s9 := by
    dsimp only [s9]
    split
    · exact .of_waitsView (s8.waitsView_postCtx c _)
    · exact .refl _
  exact ((((((h3.trans h4).trans h5).trans h6).trans h7).trans h8).trans h9).trans (s9.completeLists_runsWithin c)

/-! ### The loss of the Meridian (R208, R262) -/

theorem State.waitLost_ends (s : State) (c : Slot) (o : OpRec) :
    RunsWithin s (s.waitLost c o) ∧ ∀ x ∈ (s.waitLost c o).streams c, x.st = .running → x.n ≠ o.n := by
  obtain ⟨hwithin, hgone⟩ := s.finishOp_ends c o St.meridianLost true
  have hraise : RunsWithin (s.endWait c o St.meridianLost) (s.waitLost c o) :=
    .of_waitsView (State.waitsView_raiseStatus _ _ _ _)
  exact ⟨hwithin.trans hraise, fun x hx hr => hgone x (hraise.runs c x hx hr) hr⟩

theorem State.foldl_waitLost_ends (c : Slot) (l : List OpRec) (s : State) :
    RunsWithin s (l.foldl (fun s o => s.waitLost c o) s) ∧
      ∀ x ∈ (l.foldl (fun s o => s.waitLost c o) s).streams c, x.st = .running → ∀ o ∈ l, x.n ≠ o.n := by
  induction l generalizing s with
  | nil => exact ⟨.refl s, by simp⟩
  | cons o l ih =>
    obtain ⟨hwithin, hgone⟩ := s.waitLost_ends c o
    obtain ⟨hrest, hothers⟩ := ih (s.waitLost c o)
    refine ⟨hwithin.trans hrest, fun x hx hr => List.forall_mem_cons.2 ⟨?_, hothers x hx hr⟩⟩
    exact hgone x (hrest.runs c x hx hr) hr

/-- The slot runs no wait that the loss of the Meridian ends. -/
def State.NoLostWait (s : State) (c : Slot) : Prop :=
  ∀ x ∈ s.streams c, ∀ d, x.desc = .wait d → d.lost s = true → x.st ≠ .running

theorem State.NoLostWait.within {s t : State} {c : Slot} (h : s.NoLostWait c) (k : RunsWithin s t) :
    t.NoLostWait c := by
  intro x hx d hdesc hlost hr
  have hmer : t.mer = s.mer := (State.eq_of_clock k.clock).1
  exact h x (k.runs c x hx hr) d hdesc (by simpa only [WaitD.lost, hmer] using hlost) hr

theorem State.NoLostWait.op_not_running {s : State} {c : Slot} {n : Nat} {o : OpRec} {d : WaitD} (h : s.NoLostWait c)
    (hfound : s.op? c n = some o) (hdesc : o.desc = .wait d) (hlost : d.lost s = true) : o.st ≠ .running :=
  h o (List.mem_of_find?_eq_some hfound) d hdesc hlost

/-- One slot loses its waits for the Meridian. -/
def State.loseSlot (s : State) (c : Slot) : State :=
  ((s.ctx c).stream.ops.filter (fun o => o.st == .running &&
    (match o.desc with | .wait d => d.lost s | _ => false))).foldl (fun s o => s.waitLost c o) s

theorem State.loseWaits_eq (s : State) : s.loseWaits = slots.foldl State.loseSlot s := rfl

theorem State.loseSlot_ends (s : State) (c : Slot) : RunsWithin s (s.loseSlot c) ∧ (s.loseSlot c).NoLostWait c := by
  obtain ⟨hwithin, hgone⟩ := State.foldl_waitLost_ends c ((s.ctx c).stream.ops.filter (fun o => o.st == .running &&
    (match o.desc with | .wait d => d.lost s | _ => false))) s
  refine ⟨hwithin, fun x hx d hdesc hlost hr => hgone x hx hr x ?_ rfl⟩
  have hmer : (s.loseSlot c).mer = s.mer := (State.eq_of_clock hwithin.clock).1
  have hlost' : d.lost s = true := by simpa only [WaitD.lost, hmer] using hlost
  exact List.mem_filter.2 ⟨hwithin.runs c x hx hr, by simp [hr, hdesc, hlost']⟩

theorem State.foldl_loseSlot_ends (l : List Slot) (s : State) :
    RunsWithin s (l.foldl State.loseSlot s) ∧ ∀ c ∈ l, (l.foldl State.loseSlot s).NoLostWait c := by
  induction l generalizing s with
  | nil => exact ⟨.refl s, by simp⟩
  | cons c l ih =>
    obtain ⟨hwithin, hnone⟩ := s.loseSlot_ends c
    obtain ⟨hrest, hothers⟩ := ih (s.loseSlot c)
    exact ⟨hwithin.trans hrest, List.forall_mem_cons.2 ⟨hnone.within hrest, hothers⟩⟩

theorem State.loseWaits_ends (s : State) : s.loseWaits.clock = s.clock ∧ ∀ c, s.loseWaits.NoLostWait c := by
  obtain ⟨hwithin, hnone⟩ := State.foldl_loseSlot_ends slots s
  rw [State.loseWaits_eq]
  exact ⟨hwithin.clock, fun c => hnone c (List.mem_finRange c)⟩

/-! ### The followers' states (R258 to R262, R318) -/

theorem Meridian.to_changes {m : Meridian} {st : U8} (h : m.state ≠ st) :
    m.to st = { m with state := st, changes := m.changes + 1 } := if_neg h

/-- Neither the records nor the notices of the transition touch the Meridian. -/
theorem State.mer_enterHoldover {s : State} (h : s.mer.state ≠ 2) : s.enterHoldover.mer =
    { s.mer.deaf with state := 2, changes := s.mer.changes + 1, holdover := 0 } := by
  have hclock : s.enterHoldover.clock = (s.modMer (fun m => { m.deaf.to 2 with holdover := 0 })).clock :=
    (State.clock_noticeSlots _ _ _).trans (State.clock_raiseStatus _ _ _ _)
  rw [(State.eq_of_clock hclock).1, State.modMer, Meridian.to_changes (m := s.mer.deaf) h]
  rfl

/-- The waits that end with the loss do not touch it either. -/
theorem State.mer_enterLost {s : State} (h : s.mer.state ≠ 3) : s.enterLost.mer =
    { s.mer.deaf with state := 3, changes := s.mer.changes + 1, holdover := 200000 } := by
  have hclock : s.enterLost.clock = (s.modMer (fun m => { m.deaf.to 3 with holdover := 200000 })).clock :=
    (State.loseWaits_ends _).1.trans ((State.clock_noticeSlots _ _ _).trans (State.clock_raiseStatus _ _ _ _))
  rw [(State.eq_of_clock hclock).1, State.modMer, Meridian.to_changes (m := s.mer.deaf) h]
  rfl

theorem State.noLostWait_enterLost (s : State) (c : Slot) : s.enterLost.NoLostWait c := (State.loseWaits_ends _).2 c

theorem execBeaconTimeout_holdover {s : State} (hrole : s.mer.role ≠ 1) (hstate : s.mer.state = 1)
    (hsilent : s.mer.silent = true) : execBeaconTimeout s = .next s.enterHoldover := by
  simp only [execBeaconTimeout, bne_iff_ne.2 hrole, hstate, hsilent, beq_self_eq_true, Bool.and_self, if_true]

theorem execHoldoverExpiry_lost {s : State} (hrole : s.mer.role ≠ 1) (hstate : s.mer.state = 2) :
    execHoldoverExpiry s = .next s.enterLost := by
  simp only [execHoldoverExpiry, bne_iff_ne.2 hrole, hstate, beq_self_eq_true, Bool.and_self, if_true]

theorem execLostBeaconReturn_acquiring {s : State} (hrole : s.mer.role ≠ 1) (hstate : s.mer.state = 3)
    (hfollowed : s.mer.followed.isSome = true) :
    execLostBeaconReturn s = .next (s.modMer (fun m => m.to 0)) := by
  simp only [execLostBeaconReturn, bne_iff_ne.2 hrole, hstate, hfollowed, beq_self_eq_true, Bool.and_self, if_true]

/-- The state of a follower that has synchronised to its root. -/
def State.synchronised (s : State) (ns : U32) : State :=
  s.modMer (fun m => { m.to 1 with lastCorrection := ns, wasSync := true })

/-- The module synchronises after bring-up: nothing but a record, which leaves the Meridian, may follow. -/
theorem execAcquisitionComplete_synchronised {s : State} {ns : U32} (hrole : s.mer.role ≠ 1)
    (hstate : s.mer.state = 0 ∨ s.mer.state = 2) (hfollowed : s.mer.followed.isSome = true)
    (hready : s.boot.life = .ready) :
    ∃ t, execAcquisitionComplete ns s = .next t ∧ t.clock = (s.synchronised ns).clock := by
  have hcond : (s.mer.role != 1 && (s.mer.state == 0 || s.mer.state == 2) && s.mer.followed.isSome) = true := by
    simpa only [bne_iff_ne.2 hrole, hfollowed, Bool.true_and, Bool.and_true, Bool.or_eq_true, beq_iff_eq] using hstate
  have hclock : (if s.mer.wasSync then (s.synchronised ns).raiseResync else s.synchronised ns).clock =
      (s.synchronised ns).clock := by
    split
    · exact State.clock_raise _ _
    · rfl
  have hlife : (if s.mer.wasSync then (s.synchronised ns).raiseResync else s.synchronised ns).boot.life = .ready := by
    rw [(State.eq_of_clock hclock).2.1]
    exact hready
  refine ⟨_, ?_, hclock⟩
  unfold execAcquisitionComplete
  dsimp only
  rw [if_pos hcond]
  exact if_neg (by rw [beq_iff_eq]; exact fun h => absurd (hlife.symm.trans h) (by decide))

/-- A follower's beacon has been taken in, and is heard. -/
def State.hears (s : State) (b : Beacon) : State :=
  { s with fab := { s.fab with beacons := s.fab.beacons.erase b }, mer := { s.mer with heard := s.mer.heard ++ [b] } }

theorem lowestRoot_isSome {l : List Beacon} (h : l ≠ []) : ∃ root, lowestRoot l = some root := by
  cases l with
  | nil => exact absurd rfl h
  | cons b rest =>
    unfold lowestRoot
    split <;> exact ⟨_, rfl⟩

/-- Two roots heard are noted, and nothing else of the Meridian changes. -/
theorem State.clock_noteRoots (s : State) (root : U32) : ∃ r, (s.noteRoots root).clock =
    (s.modMer (fun m => { m with twoRoots := r })).clock := by
  unfold State.noteRoots
  split
  · exact ⟨s.mer.twoRoots, rfl⟩
  · split
    · exact ⟨s.mer.twoRoots, rfl⟩
    · exact ⟨_, State.clock_raise _ _⟩

/-- The beacon used is followed; its way on to the other ports leaves the Meridian. -/
theorem State.mer_useBeacon (s : State) (b : Beacon) : (s.useBeacon b).mer =
    { s.mer with followed := some b, tickCode := b.tickCode.setWidth 8
                 domain := some (beaconCount b (match b.port with | some p => (s.port p.val).delayNs | none => 0))
                 root := if b.root = hostRoot then 0xFFFFFFFF else b.root } :=
  (State.eq_of_clock (State.clock_forwardBeacon _ b)).1

/-- A beacon to which a follower does not listen is taken, and changes nothing else. -/
theorem execBeaconReceive_ignored {s : State} {b : Beacon} (hport : s.noSuchPort b = false)
    (hdeaf : s.listens b = false) :
    execBeaconReceive b s = .next { s with fab := { s.fab with beacons := s.fab.beacons.erase b } } := by
  unfold execBeaconReceive
  change (if s.noSuchPort b = true then _ else if (!s.listens b) = true then _ else _) = _
  rw [hport, hdeaf, if_neg (by simp), if_pos (by simp)]

/-- A beacon that a follower listens to is heard, and used where it is the best of the lowest root's. -/
theorem execBeaconReceive_heard {s : State} {b : Beacon} {root : U32} (hport : s.noSuchPort b = false)
    (hlistens : s.listens b = true) (hroot : lowestRoot (s.mer.heard ++ [b] ++ s.mer.heardBefore) = some root) :
    execBeaconReceive b s =
      if bestBeacon root ((s.hears b).noteRoots root).mer.heard == some b then
        .next (((s.hears b).noteRoots root).useBeacon b) else .next ((s.hears b).noteRoots root) := by
  unfold execBeaconReceive
  change (if s.noSuchPort b = true then _ else if (!s.listens b) = true then _ else _) = _
  rw [hport, hlistens, if_neg (by simp), if_neg (by simp)]
  change (match lowestRoot (s.mer.heard ++ [b] ++ s.mer.heardBefore) with | none => _ | some root => _) = _
  rw [hroot]
  rfl

theorem execTickCodeChange_taken {s : State} {k : U8} (hcode : s.mer.nextCode = some k) (hroot : s.mer.role = 1)
    (hcount : s.mer.count.toNat % 65536 = 0) :
    execTickCodeChange s = .next (s.modMer (fun m => { m with tickCode := k, nextCode := none })) := by
  simp only [execTickCodeChange, hcode, hroot, hcount, decide_true, Bool.and_self, if_true]

/-- Settles O30: the records, notices and packets of a transition or a beacon leave the Meridian, so its registers are
those that the transition gives it. -/
theorem meridianFollows : Obligations.MeridianFollows := by
  refine ⟨fun s hrole => ⟨fun hstate hsilent => ?holdover, fun hstate => ?lost, fun hstate hfollowed => ?returns,
    fun ns hstate hfollowed hready => ?synchronised⟩, fun s b hport => ⟨fun hdeaf => ?ignored, fun hlistens => ?heard,
    fun k hcode hroot hcount => ?code⟩⟩
  case holdover =>
    have hmer := State.mer_enterHoldover (s := s) (by rw [hstate]; decide)
    refine ⟨_, execBeaconTimeout_holdover hrole hstate hsilent, ?_⟩
    rw [State.meridianField, hmer]
    exact ⟨rfl, rfl, rfl, rfl, rfl, rfl⟩
  case lost =>
    have hmer := State.mer_enterLost (s := s) (by rw [hstate]; decide)
    have hlost : s.enterLost.mer.held = false := by rw [hmer]; rfl
    have hwaits := s.noLostWait_enterLost
    refine ⟨_, execHoldoverExpiry_lost hrole hstate, ?_⟩
    generalize s.enterLost = t at hmer hlost hwaits
    refine ⟨by rw [hmer], by rw [hmer], by rw [hmer]; rfl, if_neg (by simp [hlost]), fun c n o d hfound hdesc hkind =>
      (hwaits c).op_not_running hfound hdesc (by simp [WaitD.lost, hkind, hlost])⟩
  case returns =>
    refine ⟨_, execLostBeaconReturn_acquiring hrole hstate hfollowed, ?_⟩
    rw [State.modMer, Meridian.to_changes (by rw [hstate]; decide)]
    exact ⟨rfl, rfl, rfl, rfl, rfl⟩
  case synchronised =>
    obtain ⟨t, hexec, hclock⟩ := execAcquisitionComplete_synchronised (ns := ns) hrole hstate hfollowed hready
    have hmer : t.mer = (s.synchronised ns).mer := (State.eq_of_clock hclock).1
    refine ⟨t, hexec, ?_⟩
    rw [hmer, State.synchronised, State.modMer,
      Meridian.to_changes (by rcases hstate with h | h <;> rw [h] <;> decide)]
    exact ⟨rfl, rfl, rfl, rfl, rfl⟩
  case ignored => exact execBeaconReceive_ignored hport hdeaf
  case heard =>
    obtain ⟨root, hroot⟩ := lowestRoot_isSome (l := s.mer.heard ++ [b] ++ s.mer.heardBefore) (by simp)
    have hexec := execBeaconReceive_heard hport hlistens hroot
    obtain ⟨r, hnoted⟩ := (s.hears b).clock_noteRoots root
    generalize (s.hears b).noteRoots root = t at hexec hnoted
    obtain ⟨hmer, -, hdelay⟩ := State.eq_of_clock hnoted
    have hheard : t.mer.heard = s.mer.heard ++ [b] := by rw [hmer]; rfl
    rw [hheard] at hexec
    by_cases hbest : bestBeacon root (s.mer.heard ++ [b]) = some b
    · rw [if_pos (beq_iff_eq.2 hbest)] at hexec
      have hused := t.mer_useBeacon b
      refine ⟨_, hexec, ?_⟩
      generalize t.useBeacon b = u at hused
      rw [hused, hmer]
      refine ⟨rfl, rfl, rfl, root, hroot, fun _ => ⟨rfl, rfl, rfl, ?_⟩, fun h => absurd hbest h⟩
      cases hport : b.port with
      | none => rfl
      | some p => exact congrArg (fun x => some (beaconCount b x)) (hdelay p.val)
    · rw [if_neg (mt beq_iff_eq.1 hbest)] at hexec
      refine ⟨t, hexec, hheard, ?_, ?_, root, hroot, fun h => absurd h hbest, fun _ => ?_⟩
      all_goals rw [hmer]
      · rfl
      · rfl
      · exact ⟨rfl, rfl, rfl, rfl⟩
  case code => exact execTickCodeChange_taken hcode hroot hcount

end Sys2Proof.Machine

namespace Sys2Proof.Machine

/-! ### What a packet's way leaves (R316, R320, R330) -/

/-- The state without what packets on their way change: the ports, the packets that have arrived, what has left the
module, and the count of free values drawn. -/
def State.besidesTraffic (s : State) : State :=
  { s with fab := { s.fab with ports := [], arrived := [] }, out := [], freeCtr := 0 }

/-- A reading `g` of the state that does not look at the traffic is the same in states that differ in it only. -/
theorem State.reads_same {α : Type} {s t : State} (h : s.besidesTraffic = t.besidesTraffic) (g : State → α)
    (hg : ∀ u : State, g u.besidesTraffic = g u := by intro _; rfl) : g s = g t := by rw [← hg s, h, hg t]

@[simp] theorem State.besidesTraffic_modPort (s : State) (n : Nat) (f : Port → Port) :
    (s.modPort n f).besidesTraffic = s.besidesTraffic := rfl

@[simp] theorem State.besidesTraffic_sendCodeword (s : State) (n : Nat) (beacon : Bool) (slots : List Bytes) :
    (s.sendCodeword n beacon slots).besidesTraffic = s.besidesTraffic := rfl

@[simp] theorem State.besidesTraffic_putBeacons (s : State) (n k : Nat) :
    (s.putBeacons n k).besidesTraffic = s.besidesTraffic := by
  induction k generalizing s with
  | zero => rfl
  | succ k ih =>
    unfold State.putBeacons
    split
    · rfl
    · split
      · rfl
      · exact ih _

@[simp] theorem State.besidesTraffic_putCtrl (s : State) (n : Nat) :
    (s.putCtrl n).besidesTraffic = s.besidesTraffic := by
  unfold State.putCtrl
  dsimp only
  split
  · rfl
  · split <;> rfl

@[simp] theorem State.besidesTraffic_issue (s : State) (n : Nat) (pk : Packet) :
    (s.issue n pk).besidesTraffic = s.besidesTraffic :=
  foldl_shows State.besidesTraffic (fun t c => t.besidesTraffic_sendCodeword n false c) _ _

@[simp] theorem State.besidesTraffic_pumpPort (s : State) (n : Nat) :
    (s.pumpPort n).besidesTraffic = s.besidesTraffic := by
  unfold State.pumpPort
  dsimp only
  rw [State.besidesTraffic_modPort]
  refine (foldl_shows (fun acc : State × List Packet × List Nat => acc.1.besidesTraffic) ?_ _ _).trans ?_
  · rintro ⟨t, held, blocked⟩ pk
    dsimp only
    split
    · rfl
    · exact t.besidesTraffic_issue n pk
  · simp

@[simp] theorem State.besidesTraffic_route (s : State) (p : Packet) :
    (s.route p).1.besidesTraffic = s.besidesTraffic := by
  unfold State.route
  split
  · rfl
  · split
    · rfl
    · simp

@[simp] theorem State.besidesTraffic_takeArrived (s : State) (p : Packet) :
    (s.takeArrived p).besidesTraffic = s.besidesTraffic := by
  unfold State.takeArrived
  split
  · rfl
  · split
    · rfl
    · dsimp only
      split <;> rfl

/-- An acknowledgement goes its way, or is counted as a drop (R330). -/
theorem State.besidesTraffic_ackPacket (s : State) (p : Packet) (st : U16) :
    (s.ackPacket p st).besidesTraffic = s.besidesTraffic ∨
      (s.ackPacket p st).besidesTraffic = s.countDropped.besidesTraffic := by
  unfold State.ackPacket State.sendPacket
  dsimp only
  split
  · exact .inl (s.besidesTraffic_route _)
  · exact .inr rfl

/-- A reading that looks neither at the traffic nor at the count of drops. -/
theorem State.ackPacket_reads_same {α : Type} (s : State) (p : Packet) (st : U16) (g : State → α)
    (hg : ∀ u : State, g u.besidesTraffic = g u := by intro _; rfl)
    (hdrop : ∀ u : State, g u.countDropped = g u := by intro _; rfl) : g (s.ackPacket p st) = g s := by
  rcases s.besidesTraffic_ackPacket p st with h | h
  · exact State.reads_same h g hg
  · exact (State.reads_same h g hg).trans (hdrop s)

@[simp] theorem State.ackPacket_mem (s : State) (p : Packet) (st : U16) : (s.ackPacket p st).mem = s.mem :=
  s.ackPacket_reads_same p st (·.mem)

@[simp] theorem State.ackPacket_ctx (s : State) (p : Packet) (st : U16) : (s.ackPacket p st).ctx = s.ctx :=
  s.ackPacket_reads_same p st State.ctx

@[simp] theorem State.ackPacket_poisoned (s : State) (p : Packet) (st : U16) :
    (s.ackPacket p st).poisoned = s.poisoned := s.ackPacket_reads_same p st State.poisoned

theorem State.ackPacket_byte (s : State) (p : Packet) (st : U16) (c : Slot) (k : Nat) :
    (s.ackPacket p st).byte c k = s.byte c k := by rw [State.byte, State.ackPacket_mem, State.byte]

theorem State.ackPacket_dropped (s : State) (p : Packet) (st : U16) :
    (s.ackPacket p st).fab.dropped = s.fab.dropped ∨ (s.ackPacket p st).fab.dropped = s.fab.dropped + 1 :=
  (s.besidesTraffic_ackPacket p st).imp (State.reads_same · (·.fab.dropped)) (State.reads_same · (·.fab.dropped))

/-! ### Packets that arrive read the state as it was -/

section taken

variable (s : State) (p : Packet)

@[simp] theorem State.takeArrived_mem : (s.takeArrived p).mem = s.mem :=
  State.reads_same (s.besidesTraffic_takeArrived p) (·.mem)

@[simp] theorem State.takeArrived_res : (s.takeArrived p).res = s.res :=
  State.reads_same (s.besidesTraffic_takeArrived p) (·.res)

@[simp] theorem State.takeArrived_dropped : (s.takeArrived p).fab.dropped = s.fab.dropped :=
  State.reads_same (s.besidesTraffic_takeArrived p) (·.fab.dropped)

@[simp] theorem State.takeArrived_boot : (s.takeArrived p).boot = s.boot :=
  State.reads_same (s.besidesTraffic_takeArrived p) (·.boot)

@[simp] theorem State.takeArrived_ctx : (s.takeArrived p).ctx = s.ctx :=
  State.reads_same (s.besidesTraffic_takeArrived p) State.ctx

@[simp] theorem State.takeArrived_ctxId : (s.takeArrived p).ctxId = s.ctxId :=
  State.reads_same (s.besidesTraffic_takeArrived p) State.ctxId

@[simp] theorem State.takeArrived_ownerOf : (s.takeArrived p).ownerOf = s.ownerOf :=
  State.reads_same (s.besidesTraffic_takeArrived p) State.ownerOf

@[simp] theorem State.takeArrived_allocated : (s.takeArrived p).allocated = s.allocated :=
  State.reads_same (s.besidesTraffic_takeArrived p) State.allocated

@[simp] theorem State.takeArrived_poisoned : (s.takeArrived p).poisoned = s.poisoned :=
  State.reads_same (s.besidesTraffic_takeArrived p) State.poisoned

@[simp] theorem State.takeArrived_shows : (s.takeArrived p).shows = s.shows :=
  State.reads_same (s.besidesTraffic_takeArrived p) State.shows

end taken

/-! ### A touch leaves which pages are usable (R242, R247) -/

/-- The usable pages of every slot. -/
def State.usablePages (s : State) (c : Slot) (p : Nat) : Bool := (s.ctx c).usable p

theorem State.allocated_of_usablePages {s t : State} (h : s.usablePages = t.usablePages) :
    s.allocated = t.allocated := by
  have husable (c : Slot) (p : Nat) : (s.ctx c).usable p = (t.ctx c).usable p := congrFun (congrFun h c) p
  funext c a n
  simp only [State.allocated, husable]

theorem Ctx.usable_eq (x : Ctx) (p : Nat) : x.usable p = (x.page p).any (!·.freePending) := by
  unfold Ctx.usable
  cases x.page p <;> rfl

theorem Ctx.usable_modPage {f : Page → Page} (hf : ∀ g, (f g).freePending = g.freePending) (x : Ctx) (p q : Nat) :
    (x.modPage p f).usable q = x.usable q := by
  rw [Ctx.usable_eq, Ctx.usable_eq, Ctx.page_modPage]
  split
  · next h =>
    subst h
    cases x.page q <;> simp [hf]
  · rfl

theorem State.usablePages_modCtx {f : Ctx → Ctx} (hf : ∀ x p, (f x).usable p = x.usable p) (s : State) (c : Slot) :
    (s.modCtx c f).usablePages = s.usablePages := by
  funext d p
  rw [State.usablePages, State.modCtx_ctx]
  split
  · next h => rw [hf, h, State.usablePages]
  · rfl

theorem State.usablePages_modPage {f : Page → Page} (hf : ∀ g, (f g).freePending = g.freePending) (s : State) (c : Slot)
    (p : Nat) : (s.modPage c p f).usablePages = s.usablePages :=
  State.usablePages_modCtx (fun x q => x.usable_modPage hf p q) s c

@[simp] theorem State.usablePages_scrubCorrected (s : State) (q : Slot × Nat) :
    (s.scrubCorrected q).usablePages = s.usablePages := by
  unfold State.scrubCorrected
  split <;> rfl

@[simp] theorem State.usablePages_correct (s : State) (c : Slot) (a n : Nat) :
    (s.correct c a n).usablePages = s.usablePages :=
  foldl_shows State.usablePages (by intro _ _; exact State.usablePages_scrubCorrected _ _) _ s

@[simp] theorem State.usablePages_countBad (s : State) (c : Slot) (a : Nat) :
    (s.countBad c a).usablePages = s.usablePages := by
  unfold State.countBad
  dsimp only
  split_ifs <;> rfl

@[simp] theorem State.usablePages_meet (s : State) (c : Slot) (a : Nat) :
    (s.meet c a).usablePages = s.usablePages := by
  unfold State.meet
  dsimp only
  split
  · exact State.usablePages_countBad _ _ _
  · rfl
  · rfl

@[simp] theorem State.usablePages_leaveFrame (s : State) (c : Slot) (p : Nat) :
    (s.leaveFrame c p).usablePages = s.usablePages := by
  have hmeet : (s.meetPage c p).usablePages = s.usablePages :=
    (foldl_shows State.usablePages (fun _ _ => State.usablePages_meet _ _ _) _ _).trans (s.usablePages_correct c _ _)
  rw [← hmeet]
  unfold State.leaveFrame
  dsimp only
  split <;> rfl

@[simp] theorem State.usablePages_ddrFrame (s : State) (d : Nat) :
    (s.ddrFrame d).1.usablePages = s.usablePages := by
  unfold State.ddrFrame
  split
  · rfl
  · split
    · rfl
    · next c p _ _ =>
      dsimp only
      split
      · rfl
      · refine .trans ?_ (s.usablePages_leaveFrame c p)
        dsimp only
        refine State.usablePages_modCtx (fun x q => ?_) _ c
        exact x.usable_modPage (f := fun g => { g with tier := .flash (homeOf s.sku.dies p g) }) (by intro _; rfl) p q

@[simp] theorem State.usablePages_placePage (s : State) (c : Slot) (p : Nat) (pg : Page) (stay : Tier) :
    (s.placePage c p pg stay).usablePages = s.usablePages := by
  have hput (t : State) (d : Nat) (x : Tier) :
      (t.modPage c p (fun g => { g with tier := x, home := some d })).usablePages = t.usablePages :=
    State.usablePages_modPage (by intro _; rfl) t c p
  unfold State.placePage
  dsimp only
  split
  · rfl
  · split
    · exact hput s _ _
    · split
      · exact hput s _ _
      · split
        · split <;> exact (hput _ _ _).trans (s.usablePages_ddrFrame _)
        · exact (hput _ _ _).trans (s.usablePages_ddrFrame _)

@[simp] theorem State.usablePages_touchResident (s : State) (c : Slot) (p : Nat) (pg : Page) (x : Nat) :
    (s.touchResident c p pg x).usablePages = s.usablePages := by
  unfold State.touchResident
  split
  · exact (State.usablePages_modPage (by intro _; rfl) _ c p).trans (s.usablePages_leaveFrame c p)
  · rfl

@[simp] theorem State.usablePages_touchPage (s : State) (c : Slot) (p : Nat) :
    (s.touchPage c p).usablePages = s.usablePages := by
  unfold State.touchPage
  split
  · rfl
  · next pg _ =>
    dsimp only
    split
    · split
      · exact (State.usablePages_placePage _ c p pg _).trans (State.usablePages_modPage (by intro _; rfl) s c p)
      · exact State.usablePages_modPage (by intro _; rfl) s c p
    · split
      · exact (State.usablePages_touchResident _ c p pg _).trans (State.usablePages_modPage (by intro _; rfl) s c p)
      · exact State.usablePages_modPage (by intro _; rfl) s c p
    · exact State.usablePages_modPage (by intro _; rfl) s c p

@[simp] theorem State.touch_allocated (s : State) (c : Slot) (a n : Nat) : (s.touch c a n).allocated = s.allocated :=
  State.allocated_of_usablePages ((State.usablePages_correct _ c a n).trans
    (foldl_shows State.usablePages (fun t p => t.usablePages_touchPage c p) _ s))

theorem State.touch_num (s : State) (c d : Slot) (a n b k : Nat) : (s.touch c a n).num d b k = s.num d b k := by
  rw [State.num, State.num, State.bytes, State.bytes, State.touch_mem]

theorem State.touch_boot (s : State) (c : Slot) (a n : Nat) : (s.touch c a n).boot = s.boot :=
  congrArg (·.boot) (s.besidesMemory_touch c a n)

/-! ### What a store makes of marks and of read-only bytes (R229, R234, R253) -/

theorem State.allocated_within {s : State} {c : Slot} {a n : Nat} (h : s.allocated c a n = true) (hn : n ≠ 0) :
    a + n ≤ rangeBytes := by
  simp only [State.allocated, hn, decide_false, Bool.false_or, Bool.and_eq_true, decide_eq_true_eq] at h
  exact h.1

theorem kvGet_clearLatent {l : List (Nat × Latent)} {j key n : Nat} (hlo : key ≤ j) (hhi : j + 64 ≤ key + n) :
    kvGet (clearLatent l key n) j = none := by
  unfold clearLatent
  induction l with
  | nil => rfl
  | cons x l ih =>
    obtain ⟨i, v⟩ := x
    rw [List.filter_cons]
    grind [kvGet]

/-- A plate that lands whole is not poisoned. -/
theorem State.land_poisoned {s : State} {c : Slot} {a k : Nat} {b : Bytes} (halign : k % 64 = 0) (hlo : a ≤ k)
    (hhi : k + 64 ≤ a + b.length) : (s.land c a b).poisoned c k = false := by
  have hplate : k / 64 * 64 = k := by omega
  have hkey : memKey c a ≤ memKey c k ∧ memKey c k + 64 ≤ memKey c a + b.length := by unfold memKey; omega
  simp only [State.poisoned, State.land, hplate, kvGet_clearLatent hkey.1 hkey.2, Option.any_none, Bool.or_false]
  simp [clearPoison, hkey]

theorem State.store_poisoned {s : State} {c : Slot} {a k : Nat} {b : Bytes} (hrange : a + b.length ≤ rangeBytes)
    (hopen : ∀ x ∈ pagesOf a b.length, s.shows c x = false) (halign : k % 64 = 0) (hlo : a ≤ k)
    (hhi : k + 64 ≤ a + b.length) : (s.store c a b).poisoned c k = false := by
  have hnone : (pagesOf a b.length).any (s.shows c) = false := by simpa using hopen
  rw [State.store_eq hrange, hnone, Bool.not_false, if_pos rfl]
  exact State.land_poisoned halign hlo hhi

theorem State.store_readOnly_byte {s : State} {c : Slot} {a k : Nat} {b : Bytes} (h : MemInv s) (hk : k < rangeBytes)
    (hshown : s.readOnly c k = true) : (s.store c a b).byte c k = s.byte c k := by
  by_cases hrange : a + b.length ≤ rangeBytes
  · rw [storeWritesItsBytes s c c a k b h hrange hk, if_neg (by simp [hshown])]
  · rw [State.store, if_pos (by omega)]

/-! ### Drops at an endpoint (R280, R330) -/

/-- A packet dropped at a slot changes no byte. -/
theorem State.dropLate_mem (s : State) (c : Slot) (p : Packet) : (s.dropLate c p).mem = s.mem :=
  State.ackPacket_mem _ p _

theorem State.dropStale_mem (s : State) (p : Packet) : (s.dropStale p).mem = s.mem := by
  unfold State.dropStale State.countDropAt
  cases s.ownerOf (destDie p.dest) (destEndpoint p.dest) <;> rfl

theorem State.dropStale_dropped (s : State) (p : Packet) : (s.dropStale p).fab.dropped = s.fab.dropped + 1 := by
  unfold State.dropStale State.countDropAt
  cases s.ownerOf (destDie p.dest) (destEndpoint p.dest) <;> rfl

/-- The drop of a stale packet changes two counters of its endpoint's owner (R280). -/
theorem State.dropStale_ctx {s : State} {p : Packet} {c : Slot}
    (howner : s.ownerOf (destDie p.dest) (destEndpoint p.dest) = some c) (d : Slot) :
    (s.dropStale p).ctx d = if d = c then { s.ctx c with
      fab := { (s.ctx c).fab with dropped := (s.ctx c).fab.dropped + 1 }, staleDiscards := (s.ctx c).staleDiscards + 1 }
      else s.ctx d := by
  have hcount : s.countDropped.ctx = s.ctx := rfl
  simp only [State.dropStale, howner, Option.getD_some, State.countDropAt, State.modCtx_ctx, hcount, if_true]
  split <;> rfl

/-! ### Packets for the endpoint of a slot (R280, R324, R330) -/

section delivery

variable {s : State} {p : Packet} {c : Slot} (hmine : s.isMine p.dest = true)
  (howner : s.ownerOf (destDie p.dest) (destEndpoint p.dest) = some c)
include hmine howner

theorem State.packetWaits_eq (a n : Nat) :
    s.packetWaits p a n = (p.destContext == s.ctxId c && s.flashWaits c a n) := by
  simp [State.packetWaits, hmine, howner]

theorem State.deliver_current (hhops : p.hops.toNat ≤ 63) (hid : p.destContext = s.ctxId c) (acks : Bool)
    (act : State → Slot → State) : s.deliver p acks act = act (s.takeArrived p) c := by
  simp [State.deliver, hmine, howner, hid, Nat.not_lt.2 hhops]

/-- A packet of a stale context is dropped as such, whatever it asks, unless its endpoint is forwarded. -/
theorem State.deliver_stale (hhops : p.hops.toNat ≤ 63) (hid : p.destContext ≠ s.ctxId c)
    (hforward : ∀ f ∈ s.res.forwards, f.context ≠ p.destContext) (acks : Bool) (act : State → Slot → State) :
    s.deliver p acks act = if acks then ((s.takeArrived p).dropStale p).ackPacket p St.latePacketDropped
      else (s.takeArrived p).dropStale p := by
  have hnone : s.res.forwards.find? (fun f => f.die == destDie p.dest && f.endpoint == destEndpoint p.dest &&
      f.context == p.destContext) = none := by
    simpa [List.find?_eq_none] using fun f hf _ _ => hforward f hf
  simp [State.deliver, hmine, howner, hid, Nat.not_lt.2 hhops, hnone]

/-- Each packet row delivers a packet of a stale context, which waits for no flash. -/
theorem exec_delivers_stale {i : Instr} (hid : p.destContext ≠ s.ctxId c)
    (hi : (i = .writePacket p ∧ p.kind = 0x10) ∨ (i = .addPacket p ∧ p.kind = 0x11) ∨
      (i = .collReady p ∧ p.kind = 0x20) ∨ (i = .collData p ∧ p.kind = 0x21) ∨ (i = .ack p ∧ p.kind = kindAck) ∨
      (i = .loss p ∧ p.kind = kindLoss)) :
    ∃ acks act, exec i s = .next (s.deliver p acks act) := by
  have hstale : (p.destContext == s.ctxId c) = false := by simpa using hid
  have hwaits (a n : Nat) : s.packetWaits p a n = false := by
    rw [State.packetWaits_eq hmine howner, hstale, Bool.false_and]
  rcases hi with ⟨rfl, hkind⟩ | ⟨rfl, hkind⟩ | ⟨rfl, hkind⟩ | ⟨rfl, hkind⟩ | ⟨rfl, hkind⟩ | ⟨rfl, hkind⟩
  · exact ⟨_, _, if_neg (by simp [hkind, hwaits])⟩
  · exact ⟨_, _, if_neg (by simp [hkind, hwaits])⟩
  · exact ⟨_, _, if_neg (by simp [hkind])⟩
  · exact ⟨_, _, if_neg (by simp [hkind, hmine, howner, hstale])⟩
  · exact ⟨_, _, if_neg (by simp [hkind])⟩
  · exact ⟨_, _, if_neg (by simp [hkind])⟩

end delivery

section execution

variable {s : State} {p : Packet} {c : Slot} (hmine : s.isMine p.dest = true) (hhops : p.hops.toNat ≤ 63)
  (howner : s.ownerOf (destDie p.dest) (destEndpoint p.dest) = some c) (hid : p.destContext = s.ctxId c)
include hmine howner hid

theorem execWritePacket_waits (hflash : s.flashWaits c p.address.toNat p.payload.length = true) :
    execWritePacket p s = .next s := by
  simp [execWritePacket, State.packetWaits_eq hmine howner, hid, hflash]

include hhops

/-- A WRITE stores its payload where nothing stands against it, and is dropped elsewhere. -/
theorem execWritePacket_acts (hkind : p.kind = 0x10)
    (hflash : s.flashWaits c p.address.toNat p.payload.length = false) :
    execWritePacket p s = .next (
      if s.boot.life.dead || !s.allocated c p.address.toNat p.payload.length ||
          (p.isWord && s.poisoned c p.address.toNat) then (s.takeArrived p).dropLate c p
      else ((s.takeArrived p).store c p.address.toNat p.payload).ackPacket p St.ok) := by
  have hwaits : s.packetWaits p p.address.toNat p.payload.length = false := by
    rw [State.packetWaits_eq hmine howner, hflash, Bool.and_false]
  rw [execWritePacket, if_neg (by simp [hkind, hwaits]), State.deliver_current hmine howner hhops hid]
  simp

/-- An ADD touches its word, and adds to it where nothing stands against it. -/
theorem execAddPacket_acts (hkind : p.kind = 0x11) (hflash : s.flashWaits c p.address.toNat 8 = false) :
    let v := (s.takeArrived p).touch c p.address.toNat 8
    execAddPacket p s = .next (
      if s.boot.life.dead || !s.allocated c p.address.toNat 8 || v.poisoned c p.address.toNat then v.dropLate c p
      else (v.store c p.address.toNat (natLe 8 (s.num c p.address.toNat 8 + p.value.toNat))).ackPacket p St.ok) := by
  have hwaits : s.packetWaits p p.address.toNat 8 = false := by
    rw [State.packetWaits_eq hmine howner, hflash, Bool.and_false]
  have hnum : (s.takeArrived p).num c p.address.toNat 8 = s.num c p.address.toNat 8 := by
    rw [State.num, State.num, State.bytes, State.bytes, State.takeArrived_mem]
  rw [execAddPacket, if_neg (by simp [hkind, hwaits]), State.deliver_current hmine howner hhops hid]
  simp only [State.touch_boot, State.takeArrived_boot, State.touch_allocated, State.takeArrived_allocated,
    State.touch_num, hnum, bvLe_sum]

end execution

/-- Settles O59: a packet of its owner's context acts at once, and the acknowledgement of it changes neither bytes nor
marks; a packet of a stale context reaches the drop before it can act. -/
theorem remoteWrites : Obligations.RemoteWrites := by
  refine ⟨fun s p c hmine hhops howner hid => ⟨fun hkind => ⟨fun hflash => ?waits, fun hflash => ?writes⟩,
    fun hkind hflash => ?adds⟩, fun i s p c hi hmine hhops howner hid hforward => ?stale⟩
  case waits => exact execWritePacket_waits hmine howner hid hflash
  case writes =>
    have hexec := execWritePacket_acts hmine hhops howner hid hkind hflash
    refine ⟨fun hlives halloc hgood => ⟨hexec.trans ?_, fun hmem k hk hshown => ?_, fun hopen k halign hlo hhi => ?_⟩,
      fun hrefused => ⟨_, hexec, ?_⟩⟩
    · rw [if_neg (by simpa [hlives, halloc] using hgood)]
    · have hmem' : MemInv (s.takeArrived p) := by rwa [MemInv, State.takeArrived_mem]
      have hshown' : (s.takeArrived p).readOnly c k = true := by rwa [State.readOnly, State.takeArrived_shows]
      rw [State.ackPacket_byte, State.store_readOnly_byte hmem' hk hshown', State.byte, State.takeArrived_mem,
        State.byte]
    · rw [State.ackPacket_poisoned]
      exact State.store_poisoned (State.allocated_within halloc (by omega)) (by simpa using hopen) halign hlo hhi
    · rw [if_pos (by simpa [or_assoc] using hrefused), State.dropLate_mem, State.takeArrived_mem]
  case adds =>
    have hexec := execAddPacket_acts hmine hhops howner hid hkind hflash
    refine ⟨fun hlives halloc hgood => hexec.trans ?_, fun hrefused => ⟨_, hexec, ?_⟩⟩
    · rw [if_neg (by simp [hlives, halloc, hgood])]
    · rw [if_pos (by simpa [or_assoc] using hrefused), State.dropLate_mem, State.touch_mem, State.takeArrived_mem]
  case stale =>
    obtain ⟨acks, act, hexec⟩ := exec_delivers_stale hmine howner hid hi
    rw [State.deliver_stale hmine howner hhops hid hforward] at hexec
    have hctx := State.dropStale_ctx (s := s.takeArrived p) (by rwa [State.takeArrived_ownerOf])
    have hmem : ((s.takeArrived p).dropStale p).mem = s.mem := by
      rw [State.dropStale_mem, State.takeArrived_mem]
    have hdropped : ((s.takeArrived p).dropStale p).fab.dropped = s.fab.dropped + 1 := by
      rw [State.dropStale_dropped, State.takeArrived_dropped]
    rw [State.takeArrived_ctx] at hctx
    generalize (s.takeArrived p).dropStale p = u at hexec hctx hmem hdropped
    have hslots : (u.ctx c).staleDiscards = (s.ctx c).staleDiscards + 1 ∧ (∀ d, d ≠ c → u.ctx d = s.ctx d) ∧
        ∀ d, (u.ctx d).stream = (s.ctx d).stream ∧ (u.ctx d).pool = (s.ctx d).pool :=
      ⟨by simp [hctx], fun d hd => by simp [hctx, hd], fun d => by rw [hctx]; split <;> simp_all⟩
    cases acks with
    | true =>
      refine ⟨_, hexec, by simpa using hmem, ?_, by simpa using hslots⟩
      exact (u.ackPacket_dropped p _).imp (·.trans hdropped) (·.trans (by rw [hdropped, BitVec.add_assoc]; rfl))
    | false => exact ⟨_, hexec, hmem, .inl hdropped, hslots⟩

end Sys2Proof.Machine

namespace Sys2Proof.Machine

/-! ### The bytes and the errors that wait, over a step (R234, R237, R239, R242) -/

/-- A step does nothing where no command waits; any other keeps what every command keeps. -/
theorem step_idle_or_keeps {s t : State} (h : step s = .next t) :
    t = s ∨ ∃ rest, Keeps { s with pending := rest } t := by
  cases hs : s.pending with
  | nil =>
    rw [step, hs] at h
    cases h
    exact .inl rfl
  | cons c rest => exact .inr ⟨rest, step_keeps hs h⟩

/-- Settles O4: an idle step changes nothing, and what every command keeps includes both forms. -/
theorem stepKeepsMemory : Obligations.StepKeepsMemory := by
  refine ⟨fun s t hform h => ?_, fun s t hform h => ?_⟩ <;> obtain rfl | ⟨rest, hkeeps⟩ := step_idle_or_keeps h
  · exact hform
  · exact hkeeps.mem hform
  · exact hform
  · exact hkeeps.lat hform

end Sys2Proof.Machine

namespace Sys2Proof.Machine

/-! ### What a pool request does to the slots (R241 to R245, R248) -/

/-- Pages listed one after another read as given; the others as before. -/
theorem Ctx.page_setPages (x : Ctx) (first n p : Nat) (pg : Page) :
    ((List.range n).foldl (fun x i => x.setPage (first + i) pg) x).page p =
      if first ≤ p ∧ p < first + n then some pg else x.page p := by
  induction n with
  | zero => simp
  | succ n ih =>
    rw [List.range_succ, List.foldl_append, List.foldl_cons, List.foldl_nil, Ctx.page, Ctx.setPage,
      kvGet_kvSet_eq_ite]
    rw [Ctx.page] at ih
    grind

theorem State.addPages_ctx_of_ne {s : State} {c d : Slot} (first n : Nat) (pg : Page) (hd : d ≠ c) :
    (s.addPages c first n pg).ctx d = s.ctx d := by
  rw [State.addPages, State.modCtx_ctx, if_neg hd]

theorem State.addPages_page (s : State) (c : Slot) {first n p : Nat} (pg : Page) (hlo : first ≤ p) (hhi : p < first + n) :
    ((s.addPages c first n pg).ctx c).page p = some pg := by
  rw [State.addPages, State.modCtx_ctx, if_pos rfl, Ctx.page_setPages, if_pos ⟨hlo, hhi⟩]

theorem State.freePages_ctx_of_ne {s : State} {c d : Slot} (ps : List Nat) (hd : d ≠ c) :
    (s.freePages c ps).ctx d = s.ctx d := by
  unfold State.freePages
  dsimp only
  rw [foldl_shows (fun t => State.ctx t d) (by intro _ _; rfl), State.modCtx_ctx, if_neg hd]
  exact foldl_shows (fun t => State.ctx t d) (f := fun s p => s.captureFirst c p) (by intro _ _; rfl) ps s

section frame

variable {P : Slot → Prop} {s0 s : State}

theorem State.classTarget_frame (p : Nat) (pg : Page) (hk : Frame P s0 s) : Frame P s0 (s.classTarget p pg).1 := by
  unfold State.classTarget
  dsimp only
  split
  · split
    · exact hk
    · exact State.ddrFrame_frame hk
    · exact hk
  · split <;> exact hk

theorem State.startMove_frame (c : Slot) (p : Nat) (hk : Frame P s0 s) : Frame P s0 (s.startMove c p) := by
  unfold State.startMove
  split
  · exact hk
  · dsimp only
    refine .ite (fun _ => hk) (fun _ => ?_)
    split
    · exact hk
    · exact State.modPage_frame (State.classTarget_frame p _ hk)

theorem State.reclass_frame (c : Slot) (p : Nat) (f : Page → Page) (hk : Frame P s0 s) :
    Frame P s0 (s.reclass c p f) :=
  State.startMove_frame c p (State.modPage_frame hk)

end frame

/-- A check that refuses does so with a status other than OK. -/
def Refuses (o : Option U16) : Prop := ∀ st, o = some st → st ≠ St.ok

theorem Refuses.pass : Refuses none := fun _ h => nomatch h

theorem Refuses.refusal {a : U16} (h : a ≠ St.ok) : Refuses (some a) := fun _ hst => Option.some.inj hst ▸ h

theorem Refuses.ite {p : Prop} [Decidable p] {o q : Option U16} (ho : Refuses o) (hq : Refuses q) :
    Refuses (if p then o else q) := by
  split <;> assumption

section request

variable {s : State} {c d : Slot} {r : PoolReq} {st : U16}

/-- A status with which a check refuses a request is not OK. -/
theorem State.poolCheck_refuses (s : State) (c : Slot) (r : PoolReq) : Refuses (s.poolCheck c r) :=
  have range : Refuses (some St.valueOutOfRange) := .refusal (by decide)
  .ite range <| .ite range <| .ite range <| .ite range <| .ite (.refusal (by decide)) <| .ite .pass <|
    .ite (.refusal (by decide)) <| .ite (.refusal (by decide)) <| .ite (.ite range .pass) <|
    .ite range <| .ite range .pass

/-- A request that passes its checks asks for one of the three actions. -/
theorem State.poolCheck_passes (h : s.poolCheck c r = none) : r.action = 1 ∨ r.action = 2 ∨ r.action = 3 := by
  have hact : ¬(r.action = 0 || 3 < r.action) = true := by
    intro hbad
    unfold State.poolCheck at h
    dsimp only at h
    rw [if_pos hbad] at h
    split at h <;> cases h
  simp only [Bool.or_eq_true, decide_eq_true_eq] at hact
  omega

/-- The pages that a request names, listed as an ALLOC lists them. -/
def State.listPages (s : State) (c : Slot) (r : PoolReq) : State :=
  s.addPages c (r.addr / pageBytes) r.pages.toNat (Page.fresh ((PageClass.ofCode r.cls).getD .auto) r.hint)

/-- How a request that ends with `st` leaves the module in `u`, before its result is recorded. -/
structure PoolActed (s : State) (c : Slot) (r : PoolReq) (u : State) (st : U16) : Prop where
  refused : st ≠ St.ok → u = s
  listed : st = St.ok → r.action = 1 → 0 < r.pages.toNat → u = s.listPages c r
  mem : r.action = 1 → u.mem = s.mem
  same : ∀ d, d ≠ c → SameSlot (s.ctx d) (u.ctx d)
  others : r.action ≠ 3 → ∀ d, d ≠ c → u.ctx d = s.ctx d

/-- A request that is refused, or that asks for no page, does nothing. -/
theorem PoolActed.nothing (h : st ≠ St.ok ∨ r.pages.toNat = 0) : PoolActed s c r s st where
  refused _ := rfl
  listed hok _ hpos := absurd h (by simp [hok, hpos.ne'])
  mem _ := rfl
  same _ _ := .refl _
  others _ _ _ := rfl

theorem St.poolExhausted_ne_ok : St.poolExhausted ≠ St.ok := by decide

/-- ALLOC: nothing is asked for, or the pool is exhausted, or the pages are listed. -/
theorem State.poolAct_alloc (hact : r.action = 1) (s : State) (c : Slot) :
    PoolActed s c r (s.poolAct c r).1 (s.poolAct c r).2.1 := by
  have hexhausted : PoolActed s c r s St.poolExhausted := .nothing (.inl St.poolExhausted_ne_ok)
  have hother (d : Slot) (hd : d ≠ c) : (s.listPages c r).ctx d = s.ctx d := State.addPages_ctx_of_ne _ _ _ hd
  unfold State.poolAct
  simp only [hact]
  split
  · next hn => exact .nothing (.inr hn)
  · split
    · exact hexhausted
    · split
      · exact hexhausted
      · exact ⟨fun hne => absurd rfl hne, fun _ _ _ => rfl, fun _ => rfl, fun d hd => hother d hd ▸ .refl _,
          fun _ => hother⟩

/-- FREE: it succeeds, and leaves the other slots. -/
theorem State.poolAct_free (hact : r.action = 2) (s : State) (c : Slot) :
    PoolActed s c r (s.poolAct c r).1 (s.poolAct c r).2.1 := by
  suffices h : (s.poolAct c r).2.1 = St.ok ∧ ∀ d, d ≠ c → (s.poolAct c r).1.ctx d = s.ctx d from
    ⟨fun hne => absurd h.1 hne, fun _ halloc => absurd halloc (by omega), fun halloc => absurd halloc (by omega),
      fun d hd => h.2 d hd ▸ .refl _, fun _ => h.2⟩
  unfold State.poolAct
  simp only [hact]
  split
  · exact ⟨rfl, fun _ _ => rfl⟩
  · split
    · exact ⟨rfl, fun _ hd => State.freePages_ctx_of_ne _ hd⟩
    · exact ⟨rfl, fun _ hd => by rw [State.modCtx_ctx, if_neg hd]⟩

/-- SET_CLASS: it moves pages, and evicts some of other slots (R248). -/
theorem State.poolAct_setClass (hact : r.action = 3) (s : State) (c : Slot) :
    PoolActed s c r (s.poolAct c r).1 (s.poolAct c r).2.1 := by
  unfold State.poolAct
  simp only [hact]
  split
  · next hn => exact .nothing (.inr hn)
  · split
    · exact .nothing (.inl St.poolExhausted_ne_ok)
    · refine ⟨fun hne => absurd rfl hne, fun _ halloc => absurd halloc (by omega), fun halloc => absurd halloc (by omega),
        fun d _ => ?_, fun hne => absurd hact hne⟩
      exact (Frame.foldl (P := fun _ => False) (fun _ p => State.reclass_frame c p _) (.refl _ s)).slot d not_false

theorem State.setPoolResult_ctx_of_ne (st : U16) (state : U8) (hd : d ≠ c) :
    (s.setPoolResult c r st state).ctx d = s.ctx d := by
  rw [State.setPoolResult, State.modCtx_ctx, if_neg hd]

theorem State.setPoolResult_page (st : U16) (state : U8) (p : Nat) :
    ((s.setPoolResult c r st state).ctx c).page p = (s.ctx c).page p := by
  rw [State.setPoolResult, State.modCtx_ctx, if_pos rfl]
  rfl

/-- A pool request acts, or is refused and does nothing; then its result is recorded. -/
theorem State.poolRequest_acted (s : State) (c : Slot) (r : PoolReq) : ∃ u state,
    s.poolRequest c r = (u.setPoolResult c r (s.poolRequest c r).2 state, (s.poolRequest c r).2) ∧
      PoolActed s c r u (s.poolRequest c r).2 := by
  unfold State.poolRequest
  split
  · next st hcheck => exact ⟨s, 1, rfl, .nothing (.inl (State.poolCheck_refuses s c r st hcheck))⟩
  · next hcheck =>
    refine ⟨(s.poolAct c r).1, (s.poolAct c r).2.2, rfl, ?_⟩
    obtain hact | hact | hact := State.poolCheck_passes hcheck
    · exact State.poolAct_alloc hact s c
    · exact State.poolAct_free hact s c
    · exact State.poolAct_setClass hact s c

end request

/-- Settles O23: what the request did before its result was recorded, and what the record changes. -/
theorem poolRequests : Obligations.PoolRequests := by
  intro s c r
  obtain ⟨u, state, hreq, hacted⟩ := State.poolRequest_acted s c r
  generalize (s.poolRequest c r).2 = st at hreq hacted ⊢
  rw [hreq]
  have hrecorded : (u.setPoolResult c r st state).ctx c = { u.ctx c with pool := { (u.ctx c).pool with
      result := { seq := r.seq, status := st, state := state, pages := r.pages, address := BitVec.ofNat 64 r.addr } } } := by
    rw [State.setPoolResult, State.modCtx_ctx, if_pos rfl]
  refine ⟨fun hne => by rw [hrecorded, hacted.refused hne], fun hok hact p hlo hhi => ?_, hacted.mem, by rw [hrecorded],
    by rw [hrecorded], fun d hd => ?_⟩
  · have hpage : ((u.setPoolResult c r st state).ctx c).page p =
        some (Page.fresh ((PageClass.ofCode r.cls).getD .auto) r.hint) := by
      rw [State.setPoolResult_page, hacted.listed hok hact (by omega)]
      exact State.addPages_page s c _ hlo hhi
    exact ⟨by rw [Ctx.usable, hpage]; rfl, hpage⟩
  · rw [State.setPoolResult_ctx_of_ne _ _ hd]
    exact ⟨hacted.same d hd, fun h => hacted.others h d hd⟩

end Sys2Proof.Machine

namespace Sys2Proof.Machine

/-! ### A record that pushes a notice out of the full Logbook writes a CMP_TAIL word (R301, R305, R373) -/

/-- What an outcome's next state shows. -/
def nextShows {α : Type} (g : State → α) : Host.Outcome State Fault Refusal → Option α
  | .next t => some (g t)
  | _ => none

theorem nextShows_eq {α : Type} {g : State → α} {o : Host.Outcome State Fault Refusal} {t : State} {a : α}
    (h : o = .next t) (hshows : nextShows g o = some a) : g t = a := by
  subst h
  exact Option.some.inj hshows

/-- A notice of the time group about the context of slot 0. -/
def eventMissedNotice : LogRec :=
  { seq := 1, opMs := 0, severity := sevNotice, meridianValid := false, clearRec := false, powerCycles := 0, meridian := 0
    event := St.eventMissed, status := St.eventMissed, context := 0, unit := 0xFFFF, opId := 0, handle := 0, step := 0
    address := 0, args := [] }

/-- A module at Ready whose Logbook queue is full of such notices, so that a fault pushes the newest one out, and that one's
NOTICE completion is posted (R305, R373). Slot 0 is bound, has room in its completion ring, and its submission ring stands
at the start of its page 1, a COLD page in the flash of die 0, whose move is `moving`; the errors `latent` wait. -/
def crowdedLogbook (moving : Option Tier) (latent : List (Nat × Latent)) : State :=
  { State.reset with
      host := { HostLink.reset with up := true }
      log := { Logbook.reset with queue := List.replicate 256 eventMissedNotice }
      tiers := { State.reset.tiers with
        latent := latent
        flash := [(0, { sparePct := 2, wearPct := 0, readRetries := 0, readFails := 0, bytesWritten := 0 })] } }.modCtx 0
    fun x => { x with
      st := .bound
      sub := { x.sub with base := BitVec.ofNat 64 pageBytes }
      ring := { x.ring with base := 4096, entries := 1 }
      pool := { x.pool with pages :=
        [(1, { Page.fresh .cold 0xFF with tier := .flash 0, home := some 0, moving := moving })] } }

/-- The address of the second plate of page 1, in slot 0 also the key of its bytes. -/
def secondPlate : Nat := pageBytes + 64

/-- Refutes O8: "no byte changes" fails where the read meets a plate of flash whose read fails while the Logbook's queue is
full. The fault of the read (R237) pushes a notice of the time group out of the queue, the notice's completion is posted
(R305), and the CMP_TAIL word of slot 0 becomes 1 (R301). Bytes and waiting errors of the state have their canonical
forms. -/
theorem not_bar2Reads : ¬ Obligations.Bar2Reads := by
  intro h
  have hread := h (crowdedLogbook none [(secondPlate, .flash 0)]) .pf secondPlate 64 (by decide +kernel)
  obtain ⟨t, b, ep, hexec, -, -, hmem, -⟩ := hread.2 (by decide +kernel)
  have hrun : t.mem = [(pageBytes + 12, 1)] := nextShows_eq (g := (·.mem)) hexec (by decide +kernel)
  have hbefore : (crowdedLogbook none [(secondPlate, .flash 0)]).mem = [] := rfl
  exact absurd (hbefore.symm.trans (hmem.symm.trans hrun)) (by simp)

/-- A round of flash work in which the spare of a die falls below 2 per cent, which is a fault (R238). -/
def spareFalls : FlashWork :=
  { retries := 0, bytesWritten := 0, sparePct := 1, wearPct := 0, failed := [], latent := [], failedImages := [] }

/-- Refutes O44: its last clause does not ask for `LatentInv`, and without it flash work can mark a plate. The fault of
the fallen spare pushes a notice of slot 0 out of the queue; its CMP_TAIL word is written to a page that waits for its
move up from flash, so the move is done first (R250) and meets the uncorrectable errors of the page. The one listed
stands at a plate's second byte, so the lookup by the plate's first byte finds the flash error there and marks the
plate (R237). -/
theorem not_pagesAndBackground : ¬ Obligations.PagesAndBackground := by
  intro h
  obtain ⟨-, hready⟩ := h
  obtain ⟨-, -, hflash⟩ := hready (crowdedLogbook (some (.ddr 0)) [(secondPlate, .flash 0), (secondPlate + 1, .hard)]) rfl
  obtain ⟨t, hexec, -, -, -, -, hpoison⟩ := hflash 0 spareFalls (by decide +kernel) (by decide +kernel) rfl
  have hrun : t.poison = [secondPlate] := nextShows_eq (g := (·.poison)) hexec (by decide +kernel)
  have hbefore : (crowdedLogbook (some (.ddr 0)) [(secondPlate, .flash 0), (secondPlate + 1, .hard)]).poison = [] := rfl
  exact absurd (hbefore.symm.trans (hpoison.symm.trans hrun)) (by simp)

end Sys2Proof.Machine

namespace Sys2Proof.Machine

set_option Elab.async false

/-! ### The step and the module power cap (R361) -/

/-- Settles O5: an idle step changes nothing, and what every command keeps includes the envelopes' sum. -/
theorem stepKeepsEnvelopes : Obligations.StepKeepsEnvelopes := by
  intro s t henv h
  obtain rfl | ⟨rest, hkeeps⟩ := step_idle_or_keeps h
  · exact henv
  · exact hkeeps.env henv

/-- Settles O1: the two branches of `step`. -/
theorem stepRunsTheFront : Obligations.StepRunsTheFront :=
  ⟨fun _ _ _ hs => step_of_pending hs, fun s hs => by rw [step, hs]⟩

/-- Settles O50: each clause is a branch of the write. -/
theorem envelopesKeepTheCap : Obligations.EnvelopesKeepTheCap := by
  intro s v b
  refine ⟨fun hlow => if_neg (Nat.not_le.mpr hlow), fun hfits => ?_, fun hkind hmin hmax => ?_⟩
  · rw [State.writeCap, if_pos hfits]
    exact ⟨rfl, rfl, rfl⟩
  · have hrange : ¬ ((decide (v.toNat < 15000) || decide (100000 < v.toNat)) = true) := by
      simp only [Bool.or_eq_true, decide_eq_true_eq]
      omega
    have hwrite : s.writeEnvelope b v =
        if (s.modBlock b (fun x => { x with envelope := some v })).envelopeSum ≤ s.capOf then
          (s.modBlock b (fun x => { x with envelope := some v }), St.ok) else (s, St.envelopeLimit) := by
      rw [State.writeEnvelope, hkind, if_neg (by simp), if_neg hrange]
      rfl
    exact ⟨fun hover => hwrite.trans (if_neg (Nat.not_le.mpr hover)), fun hfits => hwrite.trans (if_pos hfits)⟩

end Sys2Proof.Machine

namespace Sys2Proof.Machine

set_option Elab.async false

/-! ### Endpoint addresses (R319) -/

/-- The number of an endpoint address, which fits 24 bits. -/
theorem State.endpointAddr_toNat {s : State} {d e : Nat} (hd : d < 8) (he : e < 16)
    (hmodule : s.fab.moduleNumber.toNat < 2 ^ 17) :
    (s.endpointAddr d e).toNat = 128 * s.fab.moduleNumber.toNat + 16 * d + e := by
  rw [State.endpointAddr, BitVec.toNat_ofNat, Nat.mod_eq_of_lt (by omega)]

/-- Settles O56: the three fields do not overlap. -/
theorem endpointAddresses : Obligations.EndpointAddresses := by
  intro s d e hd he hmodule
  rw [destModule, destDie, destEndpoint, State.endpointAddr_toNat hd he hmodule]
  omega

end Sys2Proof.Machine

namespace Sys2Proof.Machine

set_option Elab.async false

/-! ### The Meridian at a tick boundary (R257, R263) -/

/-- The Meridian but for the count of missed entries, which is all of it that rings and their entries change. -/
def State.beat (s : State) : Meridian := { s.mer with missed := 0 }

theorem State.beat_of_clock {s t : State} (h : s.clock = t.clock) : s.beat = t.beat := by
  rw [State.beat, State.beat, (State.eq_of_clock h).1]

@[simp] theorem State.beat_modCtx (s : State) (c : Slot) (f : Ctx → Ctx) : (s.modCtx c f).beat = s.beat := rfl

@[simp] theorem State.beat_modEph (s : State) (c : Slot) (f : EphRing → EphRing) : (s.modEph c f).beat = s.beat := rfl

@[simp] theorem State.beat_modSub (s : State) (c : Slot) (f : SubRing → SubRing) : (s.modSub c f).beat = s.beat := rfl

@[simp] theorem State.beat_modStream (s : State) (c : Slot) (f : CtxStream → CtxStream) :
    (s.modStream c f).beat = s.beat := rfl

@[simp] theorem State.beat_store (s : State) (c : Slot) (a : Nat) (b : Bytes) : (s.store c a b).beat = s.beat :=
  State.beat_of_clock (s.clock_store c a b)

@[simp] theorem State.beat_entryNotice (s : State) (r : Ring) (e : EphEntry) (pos : U32) (st : U16) (late : Nat) :
    (s.entryNotice r e pos st late).beat = s.beat := State.beat_of_clock (s.clock_raiseStatus _ _ _)

@[simp] theorem State.beat_beyondNotice (s : State) (c : Slot) (v : U32) : (s.beyondNotice c v).beat = s.beat :=
  State.beat_of_clock (s.clock_raiseStatus _ _ _)

@[simp] theorem State.beat_arrive (s : State) (r : Ring) (pos : U32) (e : EphEntry) :
    (s.arrive r pos e).beat = s.beat := by
  unfold State.arrive
  cases r <;> dsimp only <;> split
  all_goals simp
  all_goals rfl

@[simp] theorem State.beat_swapRing (s : State) (c : Slot) : (s.swapRing c).beat = s.beat := by
  unfold State.swapRing
  dsimp only
  split <;> rfl

@[simp] theorem State.beat_takeEph (s : State) (c : Slot) : (s.takeEph c).beat = s.beat := by
  unfold State.takeEph
  dsimp only
  split_ifs
  · rfl
  · simp
  · simp
  · simp
  all_goals rw [State.beat_modEph, foldl_shows State.beat (fun _ _ => State.beat_arrive _ _ _ _), State.beat_swapRing]

/-! #### Submission rings -/

@[simp] theorem State.beat_postEntry (s : State) (c : Slot) (tag : U32) (st : U16) :
    (s.postEntry c tag st).beat = s.beat := State.beat_of_clock (s.clock_postCtx c _)

@[simp] theorem State.beat_takeSubEntry (s : State) (c : Slot) (b : Bytes) : (s.takeSubEntry c b).beat = s.beat := by
  unfold State.takeSubEntry
  dsimp only
  split_ifs <;> simp

@[simp] theorem State.beat_takeCmpHead (s : State) (c : Slot) (v : U32) : (s.takeCmpHead c v).beat = s.beat := by
  unfold State.takeCmpHead
  dsimp only
  split_ifs <;> simp

@[simp] theorem State.beat_writeSubHeader (s : State) (c : Slot) : (s.writeSubHeader c).beat = s.beat := by
  unfold State.writeSubHeader
  dsimp only
  split <;> simp

@[simp] theorem State.beat_takeSub (s : State) (c : Slot) : (s.takeSub c).beat = s.beat := by
  unfold State.takeSub
  dsimp only
  split_ifs
  · rfl
  · simp
  · simp
  · simp
  · simp
  · rw [State.beat_writeSubHeader, foldl_shows State.beat (fun _ _ => State.beat_takeSubEntry _ _ _),
      State.beat_takeCmpHead]

/-! #### Entries that fire -/

@[simp] theorem State.beat_setPending (s : State) (r : Ring) (l : List EphPending) : (s.setPending r l).beat = s.beat := by
  cases r <;> rfl

@[simp] theorem State.beat_writeEphHeader (s : State) (c : Slot) (tag : U32) (st : U16) (count : Option U64) :
    (s.writeEphHeader c tag st count).beat = s.beat := by
  unfold State.writeEphHeader
  cases count <;> dsimp only <;> split <;> simp

@[simp] theorem State.beat_headMoves (s : State) (r : Ring) (e : EphEntry) (st : U16) (count : Option U64) :
    (s.headMoves r e st count).beat = s.beat := by
  cases r <;> simp [State.headMoves]

@[simp] theorem State.beat_miss (s : State) (r : Ring) (e : EphEntry) (pos : U32) (late : Nat) :
    (s.miss r e pos late).beat = s.beat := by
  unfold State.miss
  dsimp only
  rw [State.beat_entryNotice]
  cases r <;> rfl

@[simp] theorem State.beat_postEph (s : State) (r : Ring) (e : EphEntry) (st : U16) (late : Bool) (count : U64) :
    (s.postEph r e st late count).beat = s.beat := by
  unfold State.postEph
  split
  · rfl
  · cases r
    · exact State.beat_of_clock (s.clock_post _ _)
    · exact State.beat_of_clock (s.clock_postCtx _ _)

@[simp] theorem State.beat_fireEntry (s : State) (r : Ring) (p : EphPending) (late : Nat) (missed : Bool) :
    (s.fireEntry r p late missed).beat = s.beat := by
  have hcount : ∀ l, (s.countFired r l).beat = s.beat := fun l => by cases r <;> rfl
  exact (State.beat_headMoves _ _ _ _ _).trans (hcount _)

@[simp] theorem State.beat_fireList (s : State) (r : Ring) (l : List EphPending) : (s.fireList r l).beat = s.beat := by
  induction l generalizing s with
  | nil => simp [State.fireList]
  | cons p rest ih =>
    unfold State.fireList
    cases r <;> dsimp only <;> split_ifs <;> simp [ih]

@[simp] theorem State.beat_fireCtx (s : State) (c : Slot) : (s.fireCtx c).beat = s.beat := by
  unfold State.fireCtx
  dsimp only
  split
  · rfl
  · split
    · simp
    · split_ifs <;> simp

theorem State.beat_boundary (s : State) (advanced : Bool) : (s.boundary advanced).beat = s.beat := by
  have htake : s.takeIn.beat = s.beat := foldl_shows State.beat (fun u c => by split <;> simp) _ s
  have hfire : ∀ u : State, u.fireAll.beat = u.beat := fun u => by
    unfold State.fireAll
    dsimp only
    rw [foldl_shows State.beat (fun u c => u.beat_fireCtx c)]
    split <;> simp
  unfold State.boundary
  dsimp only
  rw [foldl_shows State.beat (fun u c => u.beat_takeSub c), ← htake]
  split
  · exact hfire _
  · rfl

/-! #### The boundary itself -/

@[simp] theorem State.besidesTraffic_sendBeacon (s : State) (n : Nat) (b : Beacon) :
    (s.sendBeacon n b).besidesTraffic = s.besidesTraffic := State.besidesTraffic_pumpPort _ n

@[simp] theorem State.besidesTraffic_rootBeacons (s : State) : s.rootBeacons.besidesTraffic = s.besidesTraffic := by
  unfold State.rootBeacons
  split
  · exact foldl_shows State.besidesTraffic (fun u n => State.besidesTraffic_sendBeacon u n _) _ s
  · rfl

/-- The state at a boundary, its Meridian advanced and the root's beacons on their way. -/
def State.ticked (s : State) : State := ({ s with mer := s.mer.advance } : State).rootBeacons

theorem State.ticked_reads {α : Type} (s : State) (g : State → α)
    (hg : ∀ u : State, g u.besidesTraffic = g u := by intro _; rfl) :
    g s.ticked = g { s with mer := s.mer.advance } := State.reads_same (State.besidesTraffic_rootBeacons _) g hg

/-- A boundary leads to a state with the Meridian advanced; before Ready nothing but the beacons is sent. -/
theorem execTickBoundary_advances {s : State} (hlink : s.boot.life.hasLink = true) :
    ∃ t, execTickBoundary s = .next t ∧ t.beat = { s.mer.advance with missed := 0 } ∧
      (s.boot.life ≠ .ready → t = s.ticked) := by
  have hbeat : s.ticked.beat = { s.mer.advance with missed := 0 } := s.ticked_reads State.beat
  unfold execTickBoundary
  split
  · next h => exact ⟨_, rfl, (State.beat_boundary _ _).trans hbeat, fun hne => absurd h hne⟩
  · exact ⟨_, rfl, hbeat, fun _ => rfl⟩
  · exact ⟨_, rfl, hbeat, fun _ => rfl⟩
  · exact ⟨_, rfl, hbeat, fun _ => rfl⟩
  all_goals
    next h =>
      rw [h] at hlink
      exact absurd hlink (by simp [Life.hasLink])

theorem execTickBoundary_idle {s : State} (hlink : s.boot.life.hasLink = false) : execTickBoundary s = .next s := by
  unfold execTickBoundary
  split
  iterate 4
    next h =>
      rw [h] at hlink
      exact absurd hlink (by simp [Life.hasLink])
  all_goals rfl

theorem Meridian.le_next {m : Meridian} (h : m.count ≠ 0xFFFFFFFFFFFFFFFF) : m.count ≤ m.next.1 := by
  unfold Meridian.next
  repeat' split
  all_goals bv_omega

theorem Meridian.next_free {m : Meridian} (h : m.role = 1 ∨ m.state ≠ 1 ∨ m.domain = none) :
    m.next.1 = m.count + 1 := by
  unfold Meridian.next
  split
  · next hfollows =>
      simp only [Bool.and_eq_true, decide_eq_true_eq, bne_iff_ne] at hfollows
      rw [(h.resolve_left hfollows.2).resolve_left (not_not_intro hfollows.1)]
  · rfl

theorem Meridian.next_follows {m : Meridian} {d : U64} (hrole : m.role ≠ 1) (hstate : m.state = 1)
    (hdomain : m.domain = some d) : m.next.1 = if m.count < d + 1 then d + 1 else m.count := by
  rw [Meridian.next, if_pos (by simp only [hstate, bne_iff_ne.2 hrole, decide_true, Bool.and_self]), hdomain]
  exact apply_ite Prod.fst _ _ _

/-- Settles O26: what the boundary runs leaves the Meridian but for the count of missed entries. -/
theorem countNeverFalls : Obligations.CountNeverFalls := by
  intro s
  refine ⟨fun hlink => ?_, execTickBoundary_idle, Meridian.le_next, Meridian.next_free,
    fun d => Meridian.next_follows⟩
  obtain ⟨t, hexec, hbeat, hearly⟩ := execTickBoundary_advances hlink
  have hmer : ∀ {α : Type} (g : Meridian → α), (∀ m, g { m with missed := 0 } = g m) → g t.mer = g s.mer.advance :=
    fun g hg => (hg t.mer).symm.trans ((congrArg g hbeat).trans (hg _))
  refine ⟨t, hexec, hmer (·.count) (by intro _; rfl), hmer (·.state) (by intro _; rfl), hmer (·.role) (by intro _; rfl),
    hmer (·.tickCode) (by intro _; rfl), hmer (·.heardBefore) (by intro _; rfl), hmer (·.heard) (by intro _; rfl),
    fun hlife => ?_⟩
  rw [hearly hlife]
  exact ⟨s.ticked_reads State.mem, s.ticked_reads State.ctxs, s.ticked_reads State.modRing, s.ticked_reads State.due⟩

end Sys2Proof.Machine

namespace Sys2Proof.Machine

set_option Elab.async false

/-! ### What stores, completions, packets on their way and Logbook records leave -/

/-- The state without what stores, completions and interrupts, packets on their way and Logbook records change: the
slots and the bytes of the device ranges, the traffic, the PF's ring and the vectors, the Logbook's queue and its
counts, the numbers of the notices sent. -/
def State.besidesRecords (s : State) : State :=
  { s.besidesMemory with
      fab := { s.fab with ports := [], arrived := [], dropped := 0 }
      out := []
      freeCtr := 0
      host := { s.host with ring := HostLink.reset.ring, msix := [] }
      log := { s.log with nextSeq := 0, queue := [], dropped := [] }
      cat := { s.cat with subs := [] } }

/-- A reading `g` of the state that looks at nothing of these is the same in states that differ in them only. -/
theorem State.unrecorded {α : Type} {s t : State} (h : t.besidesRecords = s.besidesRecords) (g : State → α)
    (hg : ∀ u : State, g u.besidesRecords = g u := by intro _; rfl) : g t = g s := by rw [← hg t, h, hg s]

theorem State.besidesRecords_of_besidesMemory {s t : State} (h : s.besidesMemory = t.besidesMemory) :
    s.besidesRecords = t.besidesRecords := by
  have hrecords : s.besidesMemory.besidesRecords = t.besidesMemory.besidesRecords := congrArg State.besidesRecords h
  exact hrecords

theorem State.besidesRecords_of_besidesTraffic {s t : State} (h : s.besidesTraffic = t.besidesTraffic) :
    s.besidesRecords = t.besidesRecords := by
  have hrecords : s.besidesTraffic.besidesRecords = t.besidesTraffic.besidesRecords := congrArg State.besidesRecords h
  exact hrecords

@[simp] theorem State.besidesRecords_store (s : State) (c : Slot) (a : Nat) (b : Bytes) :
    (s.store c a b).besidesRecords = s.besidesRecords :=
  State.besidesRecords_of_besidesMemory (s.besidesMemory_store c a b)

@[simp] theorem State.besidesRecords_modCtx (s : State) (c : Slot) (f : Ctx → Ctx) :
    (s.modCtx c f).besidesRecords = s.besidesRecords := rfl

@[simp] theorem State.besidesRecords_emit (s : State) (o : Out) : (s.emit o).besidesRecords = s.besidesRecords := rfl

@[simp] theorem State.besidesRecords_sendMsix (s : State) (f : Func) (v : U8) :
    (s.sendMsix f v).besidesRecords = s.besidesRecords := by
  unfold State.sendMsix
  dsimp only
  split <;> rfl

@[simp] theorem State.besidesRecords_setRing (s : State) (r : Ring) (x : CmplRing) :
    (s.setRing r x).besidesRecords = s.besidesRecords := by
  cases r <;> rfl

@[simp] theorem State.besidesRecords_ringMessage (s : State) (r : Ring) :
    (s.ringMessage r).besidesRecords = s.besidesRecords := by
  simp [State.ringMessage]

@[simp] theorem State.besidesRecords_writeCmpl (s : State) (r : Ring) (e : Cmpl) :
    (s.writeCmpl r e).besidesRecords = s.besidesRecords := by
  unfold State.writeCmpl
  cases r with
  | module => dsimp only; split <;> simp
  | ctx c => dsimp only; split_ifs <;> simp

@[simp] theorem State.besidesRecords_post (s : State) (r : Ring) (e : Cmpl) :
    (s.post r e).besidesRecords = s.besidesRecords := by
  unfold State.post
  dsimp only
  split_ifs <;> simp

@[simp] theorem State.besidesRecords_postCtx (s : State) (c : Slot) (e : Cmpl) :
    (s.postCtx c e).besidesRecords = s.besidesRecords := by
  unfold State.postCtx
  split <;> simp

@[simp] theorem State.besidesRecords_pumpPort (s : State) (n : Nat) :
    (s.pumpPort n).besidesRecords = s.besidesRecords :=
  State.besidesRecords_of_besidesTraffic (s.besidesTraffic_pumpPort n)

@[simp] theorem State.besidesRecords_route (s : State) (p : Packet) :
    (s.route p).1.besidesRecords = s.besidesRecords :=
  State.besidesRecords_of_besidesTraffic (s.besidesTraffic_route p)

@[simp] theorem State.besidesRecords_countDropped (s : State) : s.countDropped.besidesRecords = s.besidesRecords := rfl

@[simp] theorem State.besidesRecords_mgmtPacket (s : State) (dest : BitVec 24) (b : Bytes) :
    (s.mgmtPacket dest b).besidesRecords = s.besidesRecords := by
  unfold State.mgmtPacket
  dsimp only
  split
  · exact s.besidesRecords_route _
  · rfl

@[simp] theorem State.besidesRecords_noticeMessages (s : State) (r : LogRec) :
    (s.noticeMessages r).besidesRecords = s.besidesRecords := by
  have hcat : ∀ (t : State) (subs : List Subscription), t.besidesRecords = s.besidesRecords →
      ({ t with cat := { s.cat with subs := subs } } : State).besidesRecords = s.besidesRecords := by
    intro t subs h
    have hback : ({ t.besidesRecords with cat := { s.cat with subs := [] } } : State) = s.besidesRecords := by rw [h]; rfl
    exact hback
  refine hcat _ _ (foldl_shows State.besidesRecords (fun t x => ?_) _ s)
  dsimp only
  split
  · exact t.besidesRecords_mgmtPacket _ _
  · rfl

@[simp] theorem State.besidesRecords_noticeCompletions (s : State) (r : LogRec) :
    (s.noticeCompletions r).besidesRecords = s.besidesRecords := by
  unfold State.noticeCompletions
  dsimp only
  split_ifs <;> simp

@[simp] theorem State.besidesRecords_dropRecord (s : State) (r : LogRec) :
    (s.dropRecord r).besidesRecords = s.besidesRecords :=
  (State.besidesRecords_noticeCompletions _ _).trans (State.besidesRecords_noticeMessages _ _)

@[simp] theorem State.besidesRecords_raise (s : State) (e : Event) :
    (s.raise e).besidesRecords = s.besidesRecords := by
  unfold State.raise
  dsimp only
  split
  · rfl
  · split
    · exact State.besidesRecords_dropRecord _ _
    · split
      · rfl
      · split
        · rfl
        · exact State.besidesRecords_dropRecord _ _

@[simp] theorem State.besidesRecords_raiseStatus (s : State) (sev : BitVec 2) (st : U16) (e : Event) :
    (s.raiseStatus sev st e).besidesRecords = s.besidesRecords := s.besidesRecords_raise _

end Sys2Proof.Machine

namespace Sys2Proof.Machine

set_option Elab.async false

/-! ### The bytes and the slots, over traffic and records (R301, R306) -/

section frame
variable {P : Slot → Prop} {s0 s : State}

/-- What only concerns packets on their way leaves the slots and their bytes. -/
theorem Frame.traffic {t : State} (hk : Frame P s0 s) (h : t.besidesTraffic = s.besidesTraffic)
    (hout : s.out.IsPrefix t.out) : Frame P s0 t := by
  have hmem : t.mem = s.mem := State.reads_same h State.mem
  have hctx : t.ctx = s.ctx := State.reads_same h State.ctx
  refine hk.trans ⟨fun hm => ?_, fun c _ => ?_, fun _ c k _ _ _ => ?_, hout⟩
  · rwa [MemInv, hmem]
  · rw [hctx]
    exact .refl _
  · rw [State.byte, hmem, State.byte]

/-- What has left the block of `s` has left that of `t`. -/
def Sends (s t : State) : Prop := s.out.IsPrefix t.out

theorem Sends.refl (s : State) : Sends s s := List.prefix_rfl

theorem Sends.foldl {α β : Type} {g : β → State} {f : β → α → β} {l : List α} {b : β}
    (hf : ∀ b x, Sends s0 (g b) → Sends s0 (g (f b x))) (h : Sends s0 (g b)) : Sends s0 (g (l.foldl f b)) :=
  List.foldlRecOn (motive := fun x => Sends s0 (g x)) l f h fun x hx a _ => hf x a hx

theorem State.modPort_sends (n : Nat) (f : Port → Port) (h : Sends s0 s) : Sends s0 (s.modPort n f) := h

theorem State.sendCodeword_sends (n : Nat) (beacon : Bool) (slots : List Bytes) (h : Sends s0 s) :
    Sends s0 (s.sendCodeword n beacon slots) := List.IsPrefix.trans h (List.prefix_append _ _)

theorem State.putBeacons_sends (n k : Nat) (h : Sends s0 s) : Sends s0 (s.putBeacons n k) := by
  induction k generalizing s with
  | zero => exact h
  | succ k ih =>
    unfold State.putBeacons
    split
    · exact h
    · split
      · exact h
      · exact ih (State.sendCodeword_sends n _ _ (State.modPort_sends n _ h))

theorem State.putCtrl_sends (n : Nat) (h : Sends s0 s) : Sends s0 (s.putCtrl n) := by
  unfold State.putCtrl
  dsimp only
  split
  · exact h
  · split
    · exact h
    · exact State.sendCodeword_sends n _ _ h

theorem State.issue_sends (n : Nat) (pk : Packet) (h : Sends s0 s) : Sends s0 (s.issue n pk) :=
  State.modPort_sends n _ (Sends.foldl (g := id) (fun _ _ ht => State.sendCodeword_sends n _ _ ht)
    (State.modPort_sends n _ h))

theorem State.pumpPort_sends (n : Nat) (h : Sends s0 s) : Sends s0 (s.pumpPort n) := by
  unfold State.pumpPort
  dsimp only
  refine State.modPort_sends n _ (Sends.foldl (g := fun acc : State × List Packet × List Nat => acc.1) ?_
    (State.modPort_sends n _ (State.putCtrl_sends n (State.putBeacons_sends n _ h))))
  rintro ⟨t, held, blocked⟩ pk ht
  dsimp only
  split
  · exact ht
  · exact State.issue_sends n pk ht

theorem State.route_sends (p : Packet) (h : Sends s0 s) : Sends s0 (s.route p).1 := by
  unfold State.route
  split
  · exact h
  · split
    · exact h
    · exact State.pumpPort_sends _ (State.modPort_sends _ _ h)

theorem State.pumpPort_frame (n : Nat) (hk : Frame P s0 s) : Frame P s0 (s.pumpPort n) :=
  hk.traffic (s.besidesTraffic_pumpPort n) (State.pumpPort_sends n (.refl s))

theorem State.route_frame (p : Packet) (hk : Frame P s0 s) : Frame P s0 (s.route p).1 :=
  hk.traffic (s.besidesTraffic_route p) (State.route_sends p (.refl s))

theorem State.mgmtPacket_frame (dest : BitVec 24) (b : Bytes) (hk : Frame P s0 s) :
    Frame P s0 (s.mgmtPacket dest b) := by
  unfold State.mgmtPacket
  dsimp only
  split
  · exact State.route_frame _ hk
  · exact hk.upd

theorem State.noticeMessages_frame (r : LogRec) (hk : Frame P s0 s) : Frame P s0 (s.noticeMessages r) := by
  unfold State.noticeMessages
  refine Frame.upd (Frame.foldl (fun t x ht => ?_) hk)
  dsimp only
  split
  · exact State.mgmtPacket_frame _ _ ht
  · exact State.emit_frame ht

theorem State.noticeCompletions_frame (r : LogRec) (hk : Frame P s0 s) : Frame P s0 (s.noticeCompletions r) := by
  unfold State.noticeCompletions
  dsimp only
  split
  · split
    · exact State.post_frame hk
    · exact State.postCtx_frame (State.post_frame hk)
  · exact hk

theorem State.dropRecord_frame (r : LogRec) (hk : Frame P s0 s) : Frame P s0 (s.dropRecord r) :=
  State.noticeCompletions_frame r (State.noticeMessages_frame r hk.upd)

theorem State.raise_frame (e : Event) (hk : Frame P s0 s) : Frame P s0 (s.raise e) := by
  unfold State.raise
  dsimp only
  split
  · exact hk.upd
  · split
    · exact State.dropRecord_frame _ hk.upd
    · split
      · exact hk.upd
      · split
        · exact hk.upd
        · exact State.dropRecord_frame _ hk.upd

theorem State.raiseStatus_frame (sev : BitVec 2) (st : U16) (e : Event) (hk : Frame P s0 s) :
    Frame P s0 (s.raiseStatus sev st e) := State.raise_frame _ hk

end frame

end Sys2Proof.Machine

namespace Sys2Proof.Machine

set_option Elab.async false

/-! ### Due entries act (R268, R269, R287) -/

/-- The first of those due is taken when what it writes can be reached. -/
theorem State.nextDue_front {s : State} {d : DueEntry} {rest : List DueEntry} (hdue : s.due = d :: rest)
    (hreach : s.dueWaits d = false) : s.nextDue = some (d, rest) := by
  rw [State.nextDue, hdue, firstDue, hreach]
  rfl

/-- The rows of the actions run the entry due. -/
theorem exec_actRow {i : Instr} {mine : DueEntry → Bool} {act : State → DueEntry → State × U16}
    (hrow : actRow i = some (mine, act)) (s : State) : exec i s = .next (s.actDue mine act) := by
  cases i with
  | startStep | ramp | snapshot | rebind | sample | ephemerisMark | phaseEntry => cases hrow; rfl
  | _ => cases hrow

theorem State.actDue_acts {s : State} {d : DueEntry} {rest : List DueEntry} {mine : DueEntry → Bool}
    (act : State → DueEntry → State × U16) (hnext : s.nextDue = some (d, rest)) (hmine : mine d = true) :
    s.actDue mine act = (act { s with due := rest } d).1.postEph d.ring d.entry
      (if (act { s with due := rest } d).2 = St.ok then missedStatus d.missed else (act { s with due := rest } d).2)
      (0 < d.lateness) d.at_ := by
  rw [State.actDue, hnext]
  exact if_pos hmine

/-- Settles O27: the rows of `actRow` run `actDue`, which takes the next entry due. -/
theorem dueEntriesAct : Obligations.DueEntriesAct :=
  ⟨fun _ _ _ => State.nextDue_front, fun _ s _ act _ _ hrow hnext hmine =>
    (exec_actRow hrow s).trans (congrArg _ (State.actDue_acts act hnext hmine))⟩

/-! ### The module's ring (R266) -/

/-- A record of a discarded entry leaves the module's ring as the arrival made it. -/
theorem State.arrive_modRing (s : State) (pos : U32) (e : EphEntry) :
    ∃ n, (s.arrive .module pos e).modRing = { s.modRing with
      pending := s.modRing.pending ++ [{ pos := pos, entry := e, discard := s.checkEntry .module e }]
      discarded := s.modRing.discarded + n } := by
  unfold State.arrive
  dsimp only
  split
  · exact ⟨_, rfl⟩
  · exact ⟨_, State.unrecorded (State.besidesRecords_raiseStatus _ _ _ _) State.modRing⟩

/-- The row of `module_entry`. -/
def moduleEntryRow : Row := .mk 0x7200 .one 2 "module_entry" 9 2 0 64 none 2

theorem catRows_moduleEntry : ∀ r ∈ catRows, r.base = 0x7200 ∧ r.sub = 2 → r = moduleEntryRow := by decide +kernel

/-- Settles O31: fewer than 256 pending entries leave room for one. -/
theorem moduleRingAppends : Obligations.ModuleRingAppends := by
  intro s b
  refine ⟨fun hroom => ?_, fun hfull => if_pos hfull, fun ch r v hrow hbase hsub => ?_⟩
  · rw [State.appendModuleEntry, if_neg (Nat.not_le.mpr hroom)]
    obtain ⟨n, harrived⟩ :=
      (s.modModRing (fun x => { x with next := x.next + 1 })).arrive_modRing s.modRing.next (EphEntry.parse b)
    dsimp only
    rw [harrived]
    exact ⟨rfl, rfl, rfl⟩
  · rw [catRows_moduleEntry r hrow ⟨hbase, hsub⟩]
    exact ⟨rfl, rfl⟩

end Sys2Proof.Machine

namespace Sys2Proof.Machine

set_option Elab.async false

/-! ### What stores leave of the slots (R226, R231 to R251) -/

/-- A slot without its pages and the count of those evicted. -/
def Ctx.besidesPages (x : Ctx) : Ctx := { x with pool := { x.pool with pages := [], evicted := 0 } }

/-- The state without the pages of the slots, their bytes, and what is kept of both. -/
def State.besidesPages (s : State) : State :=
  { s with ctxs := s.ctxs.map Ctx.besidesPages, mem := [], poison := [], tiers := State.reset.tiers, images := [] }

theorem State.besidesPages_ctx (s : State) (c : Slot) : s.besidesPages.ctx c = (s.ctx c).besidesPages := by
  simp [State.ctx, State.besidesPages]

/-- A reading `g` of the state that looks at no page and no byte is the same in states that differ in them only. -/
theorem State.unpaged {α : Type} {s t : State} (h : t.besidesPages = s.besidesPages) (g : State → α)
    (hg : ∀ u : State, g u.besidesPages = g u := by intro _; rfl) : g t = g s := by rw [← hg t, h, hg s]

/-- So is a reading of a slot. -/
theorem State.unpagedCtx {α : Type} {s t : State} (h : t.besidesPages = s.besidesPages) (c : Slot) (g : Ctx → α)
    (hg : ∀ x : Ctx, g x.besidesPages = g x := by intro _; rfl) : g (t.ctx c) = g (s.ctx c) :=
  State.unpaged h (fun u => g (u.ctx c)) fun u => by rw [State.besidesPages_ctx, hg]

theorem State.besidesPages_modCtx {f : Ctx → Ctx} (hf : ∀ x, (f x).besidesPages = x.besidesPages) (s : State)
    (c : Slot) : (s.modCtx c f).besidesPages = s.besidesPages := by
  have hctxs : (s.modCtx c f).ctxs.map Ctx.besidesPages = s.ctxs.map Ctx.besidesPages := by
    ext i hi
    simp only [State.modCtx, State.setCtx, Vector.getElem_map, Vector.getElem_set]
    split
    · next h =>
        subst h
        exact hf _
    · rfl
  unfold State.besidesPages
  rw [hctxs]
  rfl

theorem Ctx.besidesPages_modPage (x : Ctx) (p : Nat) (f : Page → Page) :
    (x.modPage p f).besidesPages = x.besidesPages := by
  unfold Ctx.modPage
  split <;> rfl

@[simp] theorem State.besidesPages_modPage (s : State) (c : Slot) (p : Nat) (f : Page → Page) :
    (s.modPage c p f).besidesPages = s.besidesPages :=
  State.besidesPages_modCtx (fun x => x.besidesPages_modPage p f) s c

@[simp] theorem State.besidesPages_countBad (s : State) (c : Slot) (a : Nat) :
    (s.countBad c a).besidesPages = s.besidesPages := by
  unfold State.countBad
  dsimp only
  split_ifs <;> rfl

@[simp] theorem State.besidesPages_scrubCorrected (s : State) (q : Slot × Nat) :
    (s.scrubCorrected q).besidesPages = s.besidesPages := by
  unfold State.scrubCorrected
  split <;> rfl

@[simp] theorem State.besidesPages_correct (s : State) (c : Slot) (a n : Nat) :
    (s.correct c a n).besidesPages = s.besidesPages :=
  foldl_shows State.besidesPages (by intro _ _; exact State.besidesPages_scrubCorrected _ _) _ s

@[simp] theorem State.besidesPages_meet (s : State) (c : Slot) (a : Nat) :
    (s.meet c a).besidesPages = s.besidesPages := by
  unfold State.meet
  dsimp only
  split
  · exact State.besidesPages_countBad _ _ _
  · rfl
  · rfl

@[simp] theorem State.besidesPages_meetPage (s : State) (c : Slot) (p : Nat) :
    (s.meetPage c p).besidesPages = s.besidesPages :=
  (foldl_shows State.besidesPages (fun _ _ => State.besidesPages_meet _ _ _) _ _).trans
    (State.besidesPages_correct _ _ _ _)

@[simp] theorem State.besidesPages_leaveFrame (s : State) (c : Slot) (p : Nat) :
    (s.leaveFrame c p).besidesPages = s.besidesPages := by
  rw [← s.besidesPages_meetPage c p]
  unfold State.leaveFrame
  dsimp only
  split <;> rfl

@[simp] theorem State.besidesPages_ddrFrame (s : State) (d : Nat) :
    (s.ddrFrame d).1.besidesPages = s.besidesPages := by
  unfold State.ddrFrame
  split
  · rfl
  · split
    · rfl
    · dsimp only
      split
      · rfl
      · refine (State.besidesPages_modCtx (fun x => ?_) _ _).trans (State.besidesPages_leaveFrame _ _ _)
        exact x.besidesPages_modPage _ _

@[simp] theorem State.besidesPages_placePage (s : State) (c : Slot) (p : Nat) (pg : Page) (stay : Tier) :
    (s.placePage c p pg stay).besidesPages = s.besidesPages := by
  unfold State.placePage
  dsimp only
  split
  · rfl
  · split
    · simp
    · split
      · simp
      · split
        · split <;> simp
        · simp

@[simp] theorem State.besidesPages_switchPage (s : State) (c : Slot) (p : Nat) (pg : Page) (t : Tier) :
    (s.switchPage c p pg t).besidesPages = s.besidesPages := by
  unfold State.switchPage
  rw [State.besidesPages_modPage]
  split
  · split <;> simp
  · simp

@[simp] theorem State.besidesPages_touchResident (s : State) (c : Slot) (p : Nat) (pg : Page) (x : Nat) :
    (s.touchResident c p pg x).besidesPages = s.besidesPages := by
  unfold State.touchResident
  split <;> simp

@[simp] theorem State.besidesPages_touchPage (s : State) (c : Slot) (p : Nat) :
    (s.touchPage c p).besidesPages = s.besidesPages := by
  unfold State.touchPage
  split
  · rfl
  · dsimp only
    split
    · split <;> simp
    · split <;> simp
    · simp

@[simp] theorem State.besidesPages_writePage (s : State) (c : Slot) (p : Nat) :
    (s.writePage c p).besidesPages = s.besidesPages := by
  have hcapture : (s.captureFirst c p).besidesPages = s.besidesPages := rfl
  unfold State.writePage
  dsimp only
  split
  · simp [hcapture]
  · split
    · simp [hcapture]
    · split <;> simp [hcapture]

@[simp] theorem State.besidesPages_land (s : State) (c : Slot) (a : Nat) (b : Bytes) :
    (s.land c a b).besidesPages = s.besidesPages :=
  foldl_shows State.besidesPages (fun s p => s.besidesPages_writePage c p) _ s

@[simp] theorem State.besidesPages_store (s : State) (c : Slot) (a : Nat) (b : Bytes) :
    (s.store c a b).besidesPages = s.besidesPages := by
  unfold State.store
  split_ifs
  · rfl
  · exact s.besidesPages_land c a b
  · exact foldl_shows State.besidesPages (fun s p => s.besidesPages_land c _ _) _ s

end Sys2Proof.Machine

namespace Sys2Proof.Machine

set_option Elab.async false

/-! ### The completion rings (R304, R306, R308) -/

theorem State.setRing_ringOf (s : State) (r : Ring) (x : CmplRing) : (s.setRing r x).ringOf r = x := by
  cases r with
  | module => rfl
  | ctx c => simp [State.setRing, State.ringOf]

theorem State.ringOf_reads {s t : State} (h : t.besidesPages = s.besidesPages) (r : Ring) : t.ringOf r = s.ringOf r := by
  cases r with
  | module => exact congrArg (·.ring) (State.unpaged h State.host)
  | ctx c => exact State.unpagedCtx h c Ctx.ring

theorem State.ringOf_emit (s : State) (r : Ring) (o : Out) : (s.emit o).ringOf r = s.ringOf r := by cases r <;> rfl

theorem State.ringOf_sendMsix (s : State) (r : Ring) (f : Func) (v : U8) : (s.sendMsix f v).ringOf r = s.ringOf r := by
  unfold State.sendMsix
  dsimp only
  split <;> cases r <;> rfl

/-- An entry has gone out: its ring has counted it. -/
def State.entrySent (s : State) (r : Ring) (e : Cmpl) : State :=
  let x := s.ringOf r
  (s.setRing r { x with cmpTail := x.cmpTail + 1, posted := x.posted + 1, dropNext := false, p := x.p + 1 }).emit
    (.hostWrite (s.ringFunc r) (x.base + BitVec.ofNat 64 (32 * (x.cmpTail.toNat % x.entries.toNat)))
      (e.bytes ((x.posted / x.entries.toNat) % 2 == 0) x.dropNext))

/-- The slot's CMP_TAIL word has been written after it; a message may follow. -/
def State.entryOut (s : State) (r : Ring) (e : Cmpl) : State :=
  match r with
  | .module => s.entrySent r e
  | .ctx c =>
    let t := s.entrySent r e
    let b := (t.ctx c).sub.base.toNat
    if b != 0 && t.allocated c b 64 && !t.boot.life.dead then t.store c (b + 12) (bvLe 4 ((s.ringOf r).cmpTail + 1)) else t

theorem State.writeCmpl_eq (s : State) (r : Ring) (e : Cmpl) : s.writeCmpl r e =
    if e.urgent || (s.ringOf r).p + 1 ≥ (s.ringOf r).modCount.toNat then (s.entryOut r e).ringMessage r
    else s.entryOut r e := rfl

theorem State.entrySent_ringOf (s : State) (r : Ring) (e : Cmpl) : (s.entrySent r e).ringOf r =
    { s.ringOf r with cmpTail := (s.ringOf r).cmpTail + 1, posted := (s.ringOf r).posted + 1
                      dropNext := false, p := (s.ringOf r).p + 1 } :=
  (State.ringOf_emit _ r _).trans (s.setRing_ringOf r _)

theorem State.entryOut_ringOf (s : State) (r : Ring) (e : Cmpl) :
    (s.entryOut r e).ringOf r = (s.entrySent r e).ringOf r := by
  cases r with
  | module => rfl
  | ctx c =>
    unfold State.entryOut
    dsimp only
    split
    · exact State.ringOf_reads (State.besidesPages_store _ _ _ _) _
    · rfl

/-- A written entry leaves the backlog of its ring as it was. -/
theorem State.writeCmpl_backlog (s : State) (r : Ring) (e : Cmpl) :
    ((s.writeCmpl r e).ringOf r).backlog = (s.ringOf r).backlog := by
  rw [State.writeCmpl_eq]
  split
  · rw [State.ringMessage, State.ringOf_sendMsix, State.setRing_ringOf, State.entryOut_ringOf, State.entrySent_ringOf]
  · rw [State.entryOut_ringOf, State.entrySent_ringOf]

theorem Sends.mem {s t : State} {o : Out} (h : Sends s t) (ho : o ∈ s.out) : o ∈ t.out := List.IsPrefix.subset h ho

/-- The entry goes out to its place in the ring, with the phase of its pass. -/
theorem State.writeCmpl_hostWrite (s : State) (r : Ring) (e : Cmpl) :
    .hostWrite (s.ringFunc r) ((s.ringOf r).base + BitVec.ofNat 64
        (32 * ((s.ringOf r).cmpTail.toNat % (s.ringOf r).entries.toNat)))
      (e.bytes (((s.ringOf r).posted / (s.ringOf r).entries.toNat) % 2 == 0) (s.ringOf r).dropNext) ∈
        (s.writeCmpl r e).out := by
  have hentry : Sends (s.entryOut r e) (s.writeCmpl r e) := by
    rw [State.writeCmpl_eq]
    split
    · exact (State.ringMessage_frame (P := fun _ => False) (.refl _ _)).out
    · exact .refl _
  have htail : Sends (s.entrySent r e) (s.entryOut r e) := by
    cases r with
    | module => exact .refl _
    | ctx c =>
      unfold State.entryOut
      dsimp only
      split
      · exact State.store_out _ _ _ _
      · exact .refl _
  exact hentry.mem (htail.mem (List.mem_append_right _ (List.mem_singleton_self _)))

theorem Cmpl.bytes_dropped (e : Cmpl) (phase drop : Bool) : ((e.bytes phase drop).getD 0 0).getLsbD 2 = drop := by
  have hflags : (e.bytes phase drop).getD 0 0 =
      BitVec.ofNat 8 ((if phase then 1 else 0) + (if e.late then 2 else 0) + (if drop then 4 else 0)) := rfl
  rw [hflags]
  cases phase <;> cases e.late <;> cases drop <;> rfl

theorem State.post_writes {s : State} {r : Ring} (e : Cmpl) (hbacklog : (s.ringOf r).backlog = [])
    (hroom : s.ringRoom r = true) : s.post r e = s.writeCmpl r e := by
  simp [State.post, hbacklog, hroom]

theorem State.post_waits {s : State} {r : Ring} (e : Cmpl) (h : (s.ringOf r).backlog ≠ [] ∨ s.ringRoom r = false)
    (hfew : (s.ringOf r).backlog.length < 4096) :
    s.post r e = s.setRing r { s.ringOf r with backlog := (s.ringOf r).backlog ++ [e] } := by
  have hblocked : ((s.ringOf r).backlog.isEmpty && s.ringRoom r) = false := by
    rcases h with h | h <;> simp [h]
  simp [State.post, hblocked, hfew]

theorem State.post_drops {s : State} {r : Ring} (e : Cmpl) (hfull : 4096 ≤ (s.ringOf r).backlog.length) :
    s.post r e = s.setRing r { s.ringOf r with dropped := (s.ringOf r).dropped + 1, dropNext := true } := by
  have hbacklog : (s.ringOf r).backlog ≠ [] := fun h => by simp [h] at hfull
  simp [State.post, hbacklog, Nat.not_lt.mpr hfull]

/-! #### Vectors -/

theorem State.setMsix_msixVec (s : State) (f : Func) (v : Nat) (x : MsixVec) : (s.setMsix f v x).msixVec f v = x := by
  simp [State.msixVec, State.setMsix, kvGetD, kvGet_kvSet_eq_ite]

theorem State.maskVector_unmasks (s : State) (f : Func) (v : Nat) :
    s.maskVector f v false =
      if (s.msixVec f v).pending then
        (s.setMsix f v { s.msixVec f v with masked := false, pending := false }).emit (.msix f (BitVec.ofNat 8 v))
      else s.setMsix f v { s.msixVec f v with masked := false, pending := false } := rfl

theorem execMsixUnmask_sends {s : State} {f : Func} {v : Fin 64} (hfunc : s.hasFunc f = true)
    (hvector : v.val < funcVectors f) : execMsixUnmask f v s = .next (s.maskVector f v.val false) := by
  rw [execMsixUnmask, if_neg (by simp [hfunc, hvector])]

/-! #### The backlog -/

/-- The oldest entry that waits leaves the backlog, whatever becomes of it. -/
theorem State.sendWaiting_backlog {s : State} {r : Ring} {e : Cmpl} {rest : List Cmpl}
    (h : (s.ringOf r).backlog = e :: rest) : ((s.sendWaiting r e).ringOf r).backlog = rest := by
  have hset : ((s.setRing r { s.ringOf r with backlog := (s.ringOf r).backlog.drop 1 }).ringOf r).backlog = rest := by
    rw [State.setRing_ringOf, h]
    rfl
  unfold State.sendWaiting
  cases r with
  | module => exact (State.writeCmpl_backlog _ _ _).trans hset
  | ctx c =>
    dsimp only
    split
    · exact (State.writeCmpl_backlog _ _ _).trans hset
    · simpa [State.ringOf] using hset

theorem State.drainBacklog_cons {s : State} {r : Ring} {e : Cmpl} {rest : List Cmpl}
    (h : (s.ringOf r).backlog = e :: rest) (hroom : s.ringRoom r = true) :
    s.drainBacklog r (e :: rest) = (s.sendWaiting r e).drainBacklog r rest := by
  rw [State.drainBacklog, hroom]
  cases r <;> simp [State.sendWaiting, h]

/-- The backlog drains from its oldest entry on, until it is empty or the ring is full. -/
theorem State.drainBacklog_sends (r : Ring) (l : List Cmpl) (s : State) (h : (s.ringOf r).backlog = l) :
    ∃ sent left, l = sent ++ left ∧ s.drainBacklog r l = sent.foldl (fun u e => u.sendWaiting r e) s ∧
      ((s.drainBacklog r l).ringOf r).backlog = left ∧ (left = [] ∨ (s.drainBacklog r l).ringRoom r = false) ∧
      (s.ringRoom r = true → l ≠ [] → sent ≠ []) := by
  induction l generalizing s with
  | nil => exact ⟨[], [], rfl, rfl, h, .inl rfl, fun _ hne => absurd rfl hne⟩
  | cons e rest ih =>
    by_cases hroom : s.ringRoom r = true
    · obtain ⟨sent, left, hsplit, hfold, hleft, hstop, -⟩ := ih (s.sendWaiting r e) (State.sendWaiting_backlog h)
      rw [State.drainBacklog_cons h hroom]
      exact ⟨e :: sent, left, by rw [hsplit]; rfl, hfold, hleft, hstop, fun _ _ => by simp⟩
    · have hfull : s.drainBacklog r (e :: rest) = s := by rw [State.drainBacklog, if_pos (by simpa using hroom)]
      rw [hfull]
      exact ⟨[], e :: rest, rfl, rfl, h, .inr (by simpa using hroom), fun hr => absurd hr hroom⟩

/-- Settles O42: each clause is a branch of the post or of its row, and the drain is an induction over the backlog. -/
theorem completionsAndInterrupts : Obligations.CompletionsAndInterrupts := by
  refine ⟨fun s r e => ⟨State.post_writes e, State.post_waits e, State.post_drops e, ⟨_, s.writeCmpl_hostWrite r e⟩,
    e.bytes_dropped⟩, fun s r hp htime => ?moderation, fun s f v hfunc hvector => ?unmask, fun s r => ?drain⟩
  case moderation =>
    exact if_pos (by simp only [bne_iff_ne.2 hp, bne_iff_ne.2 htime, Bool.and_self])
  case unmask =>
    refine ⟨_, execMsixUnmask_sends hfunc hvector, ?_⟩
    have hvec := s.setMsix_msixVec f v.val { s.msixVec f v.val with masked := false, pending := false }
    rw [State.maskVector_unmasks]
    cases hpending : (s.msixVec f v.val).pending with
    | true => exact ⟨hvec, rfl, rfl, rfl⟩
    | false => exact ⟨hvec, rfl, rfl, (List.append_nil _).symm⟩
  case drain =>
    obtain ⟨sent, left, hsplit, hfold, hleft, hstop, hfirst⟩ := State.drainBacklog_sends r _ s rfl
    exact ⟨sent, left, _, hsplit, rfl, hfold, hleft, hstop, hfirst⟩

end Sys2Proof.Machine

namespace Sys2Proof.Machine

set_option Elab.async false

/-! ### Requests of a slot (R271, R276, R279) -/

/-- What a request that a slot's state admits does, before its result is recorded. -/
def State.slotAct (s : State) (c : Slot) (action : Nat) (plan : U8) : State × U16 :=
  match action with
  | 1 => if 32 ≤ plan.toNat || (s.ctx c).st != .free then (s, St.valueOutOfRange) else s.bindSlot c plan
  | 2 => if (s.ctx c).st == .bound || (s.ctx c).st == .paused then (s.releaseSlot c, St.ok) else (s, St.valueOutOfRange)
  | 3 => if (s.ctx c).st == .bound then (s.modCtx c (fun x => { x with pausing := true }), St.ok)
    else (s, St.valueOutOfRange)
  | 4 => if (s.ctx c).st == .paused then (s.modCtx c (fun x => { x with st := .bound }), St.ok)
    else (s, St.valueOutOfRange)
  | _ => (s, St.valueOutOfRange)

/-- The result of an action is recorded, with the slot's id as it is then. -/
def slotDone (c : Slot) (seq : U32) (q : State × U16) : State × U16 := (q.1.slotResult seq q.2 (q.1.ctxId c), q.2)

theorem slotDone_ctx (c d : Slot) (seq : U32) (q : State × U16) : (slotDone c seq q).1.ctx d = q.1.ctx d := rfl

theorem State.slotRequest_eq {s : State} {b : Bytes} {c : Slot} (hslot : slotByte (fieldBv 8 b 1 1) = some c) :
    s.slotRequest b = slotDone c (fieldBv 32 b 4 4) (s.slotAct c (field b 0 1) (fieldBv 8 b 2 1)) := by
  unfold State.slotRequest State.slotAct
  rw [hslot]
  generalize field b 0 1 = action
  match action with
  | 0 | _ + 5 => rfl
  | 1 | 2 | 3 | 4 => exact (apply_ite (slotDone c (fieldBv 32 b 4 4)) _ _ _).symm

theorem State.planCheck_refuses (s : State) (bind : Option Slot) (busy : Bool) (b : Bytes) :
    Refuses (s.planCheck bind busy b) := by
  have hrange : Refuses (some St.valueOutOfRange) := .refusal (by decide)
  unfold State.planCheck lengthCheck
  split
  · next hlength =>
      split_ifs at hlength <;> cases hlength
      · exact .refusal (by decide)
      · exact .refusal (by decide)
  · exact .ite hrange (.ite hrange (.ite hrange (.ite hrange .pass)))

theorem State.queuePlan_eq (s : State) (k : U8) (b : Bytes) (why : PlanFor) :
    s.queuePlan k b why = (s, St.valueOutOfRange) ∨
      ∃ r, s.queuePlan k b why = ({ s with res := r }, St.ok) ∧ (∃ p, r.planQueue = s.res.planQueue ++ [p]) := by
  unfold State.queuePlan
  split
  · exact .inl rfl
  · exact .inr ⟨_, rfl, _, rfl⟩

/-- A slot is bound: the next generation waits for its plan. -/
def Ctx.binding (x : Ctx) : Ctx := { x with gen := x.gen + 1, st := .rebinding, energy := x.energy.rebind }

/-- A BIND is refused, and changes nothing, or queues its plan. -/
theorem State.bindSlot_eq (s : State) (c : Slot) (k : U8) :
    (∃ st, st ≠ St.ok ∧ s.bindSlot c k = (s, st)) ∨
      ∃ r, s.bindSlot c k = (({ s with res := r } : State).modCtx c Ctx.binding, St.ok) := by
  unfold State.bindSlot
  split
  · next st hrefused => exact .inl ⟨st, s.planCheck_refuses _ _ _ st hrefused, rfl⟩
  · obtain hfull | ⟨r, hqueued, -⟩ := s.queuePlan_eq k (s.res.plan k.toNat) (.bind c)
    · rw [hfull]
      exact .inl ⟨_, by decide, rfl⟩
    · rw [hqueued]
      exact .inr ⟨r, rfl⟩

/-- Whatever the action, no byte and no other slot changes. -/
theorem State.slotAct_others (s : State) (c : Slot) (action : Nat) (plan : U8) :
    (s.slotAct c action plan).1.mem = s.mem ∧ ∀ d, d ≠ c → (s.slotAct c action plan).1.ctx d = s.ctx d := by
  have hown : ∀ (r : Resources) (l : List DueEntry) (f : Ctx → Ctx),
      (({ s with res := r, due := l } : State).modCtx c f).mem = s.mem ∧
        ∀ d, d ≠ c → (({ s with res := r, due := l } : State).modCtx c f).ctx d = s.ctx d :=
    fun r l f => ⟨rfl, fun d hd => by rw [State.modCtx_ctx, if_neg hd]; rfl⟩
  have hnone : s.mem = s.mem ∧ ∀ d, d ≠ c → s.ctx d = s.ctx d := ⟨rfl, fun _ _ => rfl⟩
  unfold State.slotAct
  split
  · split
    · exact hnone
    · obtain ⟨st, -, hbind⟩ | ⟨r, hbind⟩ := s.bindSlot_eq c plan <;> rw [hbind]
      · exact hnone
      · exact hown r s.due _
  · split
    · exact hown s.res _ _
    · exact hnone
  · split
    · exact hown s.res s.due _
    · exact hnone
  · split
    · exact hown s.res s.due _
    · exact hnone
  · exact hnone

/-- Settles O22: the request records what its action did, and the action is the one the slot's state admits. -/
theorem slotRequests : Obligations.SlotRequests := by
  intro s b c hslot
  rw [State.slotRequest_eq hslot]
  have hothers := s.slotAct_others c (field b 0 1) (fieldBv 8 b 2 1)
  refine ⟨fun haction hfree hplan hok => ?bind, fun haction hstate => ?release, fun haction hstate => ?pause,
    fun haction hstate => ?resume, rfl, rfl, hothers⟩
  case bind =>
    have hact : s.slotAct c (field b 0 1) (fieldBv 8 b 2 1) = s.bindSlot c (fieldBv 8 b 2 1) := by
      rw [haction]
      exact if_neg (by simp [hfree, Nat.not_le.mpr hplan])
    rw [hact]
    obtain ⟨st, hst, hbind⟩ | ⟨r, hbind⟩ := s.bindSlot_eq c (fieldBv 8 b 2 1) <;> rw [hbind] at hok ⊢
    · exact absurd hok hst
    · rw [slotDone_ctx, State.modCtx_ctx, if_pos rfl]
      exact ⟨rfl, rfl, rfl⟩
  case release =>
    have hact : s.slotAct c (field b 0 1) (fieldBv 8 b 2 1) = (s.releaseSlot c, St.ok) := by
      rw [haction]
      exact if_pos (by rcases hstate with h | h <;> simp [h])
    rw [hact]
    refine ⟨rfl, ?_, fun d hd hring => ?_⟩
    · rw [slotDone_ctx, State.releaseSlot, State.modCtx_ctx, if_pos rfl]
      rfl
    · have hkept := (List.mem_filter.1 (show d ∈ s.due.filter _ from hd)).2
      simp [hring.1, hring.2] at hkept
  case pause =>
    have hact : s.slotAct c (field b 0 1) (fieldBv 8 b 2 1) =
        (s.modCtx c (fun x => { x with pausing := true }), St.ok) := by
      rw [haction]
      exact if_pos (by simp [hstate])
    rw [hact]
    rw [slotDone_ctx, State.modCtx_ctx, if_pos rfl]
    exact ⟨rfl, rfl⟩
  case resume =>
    have hact : s.slotAct c (field b 0 1) (fieldBv 8 b 2 1) =
        (s.modCtx c (fun x => { x with st := .bound }), St.ok) := by
      rw [haction]
      exact if_pos (by simp [hstate])
    rw [hact]
    rw [slotDone_ctx, State.modCtx_ctx, if_pos rfl]
    exact ⟨rfl, rfl⟩

end Sys2Proof.Machine

namespace Sys2Proof.Machine

set_option Elab.async false

/-! ### A slot that is freed or paused (R279, R437) -/

/-- What R437 keeps of a slot. -/
def Ctx.kept (x : Ctx) : U8 × CtxEnergy × U32 × U32 := (x.gen, x.energy, x.pool.floorDdr, x.pool.floorFlash)

def State.keptOf (s : State) (c : Slot) : U8 × CtxEnergy × U32 × U32 := (s.ctx c).kept

theorem State.keptOf_modCtx {f : Ctx → Ctx} (hf : ∀ x, (f x).kept = x.kept) (s : State) (d : Slot) :
    (s.modCtx d f).keptOf = s.keptOf := by
  funext c
  simp only [State.keptOf, State.modCtx_ctx]
  split
  · next h => rw [h, hf]
  · rfl

theorem State.keptOf_modStepAcc (s : State) (c : Slot) (step : U64) (f : StepAcc → StepAcc) :
    (s.modStepAcc c step f).keptOf = s.keptOf := by
  rw [State.modStepAcc, State.modNum]
  exact State.keptOf_modCtx (by intro _; rfl) s c

theorem State.keptOf_dropChecks (s : State) (late : Nat → BlinkCheck → Bool) :
    (s.dropChecks late).keptOf = s.keptOf := by
  unfold State.dropChecks
  exact foldl_shows State.keptOf (fun t (b : BlinkCheck) => t.keptOf_modStepAcc b.op.c b.op.step _) _ _

theorem State.keptOf_commitImage (s : State) (c : Slot) (img : Image) : (s.commitImage c img).keptOf = s.keptOf :=
  State.keptOf_modCtx (by intro _; rfl) _ c

theorem State.keptOf_freePages (s : State) (c : Slot) (ps : List Nat) : (s.freePages c ps).keptOf = s.keptOf :=
  (foldl_shows State.keptOf (by intro _ _; rfl) _ _).trans
    ((State.keptOf_modCtx (by intro _; rfl) _ _).trans (foldl_shows State.keptOf (by intro _ _; rfl) _ _))

theorem State.keptOf_commitAll (s : State) (c : Slot) : (s.commitAll c).keptOf = s.keptOf :=
  foldl_shows State.keptOf (fun t i => t.keptOf_commitImage c i) _ s

/-- The ramps that lapse leave the slots and the entries due. -/
theorem State.lapseRamps_leaves (s : State) (gs : List Nat) :
    (s.lapseRamps gs).keptOf = s.keptOf ∧ (s.lapseRamps gs).due = s.due :=
  ⟨foldl_shows State.keptOf (by intro _ _; rfl) _ s, foldl_shows State.due (by intro _ _; rfl) _ s⟩

/-- What a freed slot leaves elsewhere leaves what R437 keeps, and no entry of the slot is due. -/
theorem State.freeSlot_eq (s : State) (c : Slot) : ∃ u : State, s.freeSlot c = u.modCtx c Ctx.freed ∧ u.keptOf = s.keptOf ∧
    ∀ d ∈ u.due, d.ring ≠ .ctx c := by
  have hcleaned : ((s.ctx c).coreList.foldl (fun s k => s.cleanCore k)
      (s.dropChecks (fun _ b => b.op.c == c))).keptOf = s.keptOf := by
    rw [State.foldl_cleanCore]
    exact s.keptOf_dropChecks _
  unfold State.freeSlot
  dsimp only
  generalize List.foldl _ (s.dropChecks _) _ = t at hcleaned ⊢
  refine ⟨_, rfl, ?_, fun d hd hring => ?_⟩
  · rw [(State.lapseRamps_leaves _ _).1]
    exact (State.keptOf_commitAll _ c).trans ((State.keptOf_freePages _ c _).trans hcleaned)
  · rw [(State.lapseRamps_leaves _ _).2] at hd
    have hkept := (List.mem_filter.1 hd).2
    simp [hring] at hkept

theorem execSlotFreed_frees {s : State} {c : Slot} (hstate : (s.ctx c).st = .releasing)
    (hidle : (s.ctx c).runningOps = []) : execSlotFreed c s = .next (s.freeSlot c) := by
  simp [execSlotFreed, hstate, hidle]

theorem execPauseDone_pauses {s : State} {c : Slot} (hpausing : (s.ctx c).pausing = true)
    (hstate : (s.ctx c).st = .bound) (hdrained : (s.ctx c).drained = true) : execPauseDone c s =
      .next (s.setCtx c { (s.ctx c).writeBackWhere (s.pauseGone c) with st := .paused, pausing := false }) := by
  simp [execPauseDone, hpausing, hstate, hdrained]

/-- Settles O45: the freed slot is `Ctx.freed` of one that still has what R437 keeps; the paused one has written back. -/
theorem slotsFreedAndPaused : Obligations.SlotsFreedAndPaused := by
  refine fun s c => ⟨fun hstate hidle => ?freed, fun hpausing hstate hdrained => ?paused⟩
  case freed =>
    obtain ⟨u, hfreed, hkept, hdue⟩ := s.freeSlot_eq c
    refine ⟨_, execSlotFreed_frees hstate hidle, ?_⟩
    have hslot : (u.ctx c).kept = (s.ctx c).kept := congrFun hkept c
    obtain ⟨hgen, henergy, hddr, hflash⟩ : _ ∧ _ ∧ _ ∧ _ := by simpa only [Ctx.kept, Prod.mk.injEq] using hslot
    rw [hfreed, State.modCtx_ctx, if_pos rfl]
    exact ⟨rfl, rfl, rfl, rfl, rfl, rfl, rfl, rfl, rfl, rfl, rfl, hgen, henergy, hddr, hflash, hdue⟩
  case paused =>
    refine ⟨_, execPauseDone_pauses hpausing hstate hdrained, ?_⟩
    rw [State.setCtx_ctx, if_pos rfl]
    exact ⟨rfl, rfl, rfl, rfl, fun d hd => by rw [State.setCtx_ctx, if_neg hd]⟩

end Sys2Proof.Machine

namespace Sys2Proof.Machine

set_option Elab.async false

/-! ### Units have one owner (R275, R281) -/

/-- The width of the module-wide mask of a kind of units (R275). -/
def unitWidth (k : U8) : Nat := match k.toNat with | 1 => 64 | 2 => 160 | 3 => 128 | _ => 0

theorem Ctx.units_setUnits {j k : U8} (x : Ctx) (m : Nat) (hj : j = 1 ∨ j = 2 ∨ j = 3) (hk : k = 1 ∨ k = 2 ∨ k = 3) :
    (x.setUnits j m).units k = if j = k then m % 2 ^ unitWidth k else x.units k := by
  rcases hj with rfl | rfl | rfl <;> rcases hk with rfl | rfl | rfl
  case inl.inl | inr.inl.inr.inl | inr.inr.inr.inr => exact BitVec.toNat_ofNat _ _
  all_goals rfl

theorem Ctx.units_setFloor (x : Ctx) (j k : U8) (v : Nat) : (x.setFloor j v).units k = x.units k := rfl

theorem Assign.unit_kind {a : Assign} (h : a.unit = true) : a.kind = 1 ∨ a.kind = 2 ∨ a.kind = 3 := by
  simp only [Assign.unit, Bool.and_eq_true, decide_eq_true_eq] at h
  bv_omega

/-- A slot's units of kind `k` after an assignment: it loses the bits assigned, and the named slot gains them. -/
theorem State.assign_units (s : State) (a : Assign) {k : U8} (hk : k = 1 ∨ k = 2 ∨ k = 3) (c : Slot) :
    ((s.assign a).ctx c).units k =
      if a.unit = true ∧ a.kind = k then
        if slotByte a.slot = some c then
          (maskOff ((s.ctx c).units k) a.bits % 2 ^ unitWidth k ||| a.bits) % 2 ^ unitWidth k
        else maskOff ((s.ctx c).units k) a.bits % 2 ^ unitWidth k
      else (s.ctx c).units k := by
  unfold State.assign
  by_cases hunit : a.unit = true
  · have hcleared : ∀ d, ((slots.foldl (fun s c => s.modCtx c (fun x =>
        x.setUnits a.kind (maskOff (x.units a.kind) a.bits))) s).ctx d) =
          (s.ctx d).setUnits a.kind (maskOff ((s.ctx d).units a.kind) a.bits) := fun d => by
      rw [State.foldl_modCtx_ctx (l := slots) _ (List.nodup_finRange 16), if_pos (show d ∈ slots from List.mem_finRange d)]
    have hkind := Assign.unit_kind hunit
    rw [if_pos hunit]
    dsimp only
    generalize slots.foldl _ s = t at hcleared
    by_cases heq : a.kind = k
    · subst heq
      rw [if_pos ⟨hunit, rfl⟩]
      cases hslot : slotByte a.slot with
      | none => simp [hcleared, Ctx.units_setUnits _ _ hk hk]
      | some d =>
        dsimp only
        rw [State.modCtx_ctx]
        by_cases hd : c = d
        · subst hd
          simp [hcleared, Ctx.units_setUnits _ _ hk hk]
        · rw [if_neg hd, hcleared, Ctx.units_setUnits _ _ hk hk, if_pos rfl, if_neg (by simpa using fun h => hd h.symm)]
    · rw [if_neg (fun h => heq h.2)]
      cases slotByte a.slot with
      | none => simp [hcleared, Ctx.units_setUnits _ _ hkind hk, heq]
      | some d =>
        dsimp only
        rw [State.modCtx_ctx]
        split
        · next hd => subst hd; simp [hcleared, Ctx.units_setUnits _ _ hkind hk, heq]
        · simp [hcleared, Ctx.units_setUnits _ _ hkind hk, heq]
  · rw [if_neg hunit, if_neg (show ¬(a.unit = true ∧ a.kind = k) from fun h => hunit h.1)]
    have hfloor : ∀ (u : State) (d : Slot) (v : Ctx → Nat), ((u.modCtx d (fun x => x.setFloor a.kind (v x))).ctx c).units k =
        (u.ctx c).units k := fun u d v => by
      rw [State.modCtx_ctx]
      split
      · next h => rw [h, Ctx.units_setFloor]
      · rfl
    split
    · cases slotByte a.from_ <;> cases slotByte a.slot <;> simp only [hfloor]
    · rfl

theorem Nat.land_eq_zero_iff_testBit {m n : Nat} : m &&& n = 0 ↔ ∀ i, (m.testBit i && n.testBit i) = false := by
  rw [Nat.eq_iff_testBit_eq]
  simp

/-- Settles O47: each unit assigned is first taken from every slot. -/
theorem unitsHaveOneOwner : Obligations.UnitsHaveOneOwner := by
  intro s a k hk howned c d hcd
  have hbits := fun i => Nat.land_eq_zero_iff_testBit.1 (howned c d hcd) i
  rw [State.assign_units s a hk c, State.assign_units s a hk d, Nat.land_eq_zero_iff_testBit]
  intro i
  have hi := hbits i
  split
  · by_cases hc : slotByte a.slot = some c
    · have hd : slotByte a.slot ≠ some d := fun h => hcd (Option.some.inj (hc.symm.trans h))
      rw [if_pos hc, if_neg hd]
      simp only [maskOff, Nat.testBit_mod_two_pow, Nat.testBit_or, Nat.testBit_xor, Nat.testBit_and]
      grind
    · rw [if_neg hc]
      split
      all_goals
        simp only [maskOff, Nat.testBit_mod_two_pow, Nat.testBit_or, Nat.testBit_xor, Nat.testBit_and]
        grind
  · exact hi

end Sys2Proof.Machine

namespace Sys2Proof.Machine

set_option Elab.async false

/-! ### BARRIER, its timeout, and the end of a ramp (R268, R270, R272) -/

/-- The Ephemeris ring of a slot. -/
def State.ephOf (s : State) (c : Slot) : EphRing := (s.ctx c).eph

/-- The rings are registers of the slots' own work, which no frame without a slot changes. -/
theorem State.ephOf_frame {s t : State} (h : Frame (fun _ => False) s t) : t.ephOf = s.ephOf :=
  funext fun c => (h.slot c id).eph

theorem State.ephOf_store (s : State) (c : Slot) (a : Nat) (b : Bytes) : (s.store c a b).ephOf = s.ephOf :=
  funext fun d => State.unpagedCtx (s.besidesPages_store c a b) d Ctx.eph

@[simp] theorem State.ephOf_writeEphHeader (s : State) (c : Slot) (tag : U32) (st : U16) (count : Option U64) :
    (s.writeEphHeader c tag st count).ephOf = s.ephOf := by
  unfold State.writeEphHeader
  cases count <;> dsimp only <;> split <;> simp [State.ephOf_store]

theorem State.postEph_frame {P : Slot → Prop} {s0 s : State} (r : Ring) (e : EphEntry) (st : U16) (late : Bool)
    (count : U64) (hk : Frame P s0 s) : Frame P s0 (s.postEph r e st late count) := by
  unfold State.postEph
  split
  · exact hk
  · cases r
    · exact State.post_frame hk
    · exact State.postCtx_frame hk

@[simp] theorem State.ephOf_postEph (s : State) (r : Ring) (e : EphEntry) (st : U16) (late : Bool) (count : U64) :
    (s.postEph r e st late count).ephOf = s.ephOf := State.ephOf_frame (State.postEph_frame r e st late count (.refl _ s))

@[simp] theorem State.ephOf_entryNotice (s : State) (r : Ring) (e : EphEntry) (pos : U32) (st : U16) (late : Nat) :
    (s.entryNotice r e pos st late).ephOf = s.ephOf := State.ephOf_frame (State.raiseStatus_frame _ _ _ (.refl _ s))

theorem State.modEph_ephOf (s : State) (c : Slot) (f : EphRing → EphRing) : (s.modEph c f).ephOf c = f (s.ephOf c) := by
  simp [State.ephOf]

/-- A missed entry of a slot's ring counts in its ring. -/
theorem State.miss_ephOf (s : State) (c : Slot) (e : EphEntry) (pos : U32) (late : Nat) :
    (s.miss (.ctx c) e pos late).ephOf c = { s.ephOf c with missed := (s.ephOf c).missed + 1 } := by
  unfold State.miss
  rw [State.ephOf_entryNotice]
  have hcounted := State.modEph_ephOf s c (fun x => { x with missed := x.missed + 1 })
  exact hcounted

/-- And in the module's count of missed entries, the rest of the Meridian unchanged. -/
theorem State.miss_mer (s : State) (r : Ring) (e : EphEntry) (pos : U32) (late : Nat) :
    (s.miss r e pos late).mer = { s.mer with missed := s.mer.missed + 1 } := by
  unfold State.miss
  refine (State.eq_of_clock (State.clock_raiseStatus _ _ _ _)).1.trans ?_
  cases r <;> rfl

/-- What the header of a slot's ring and a completion leave of the Meridian. -/
theorem State.mer_headerAndPost (s : State) (c : Slot) (e : EphEntry) (st : U16) (late : Bool) (count : U64) :
    ((s.writeEphHeader c e.tag st none).postEph (.ctx c) e st late count).mer = s.mer := by
  have hheader : (s.writeEphHeader c e.tag st none).clock = s.clock := by
    unfold State.writeEphHeader
    dsimp only
    split <;> simp
  have hpost : ∀ u : State, (u.postEph (.ctx c) e st late count).clock = u.clock := fun u => by
    unfold State.postEph
    split
    · rfl
    · exact u.clock_postCtx _ _
  exact (State.eq_of_clock ((hpost _).trans hheader)).1

theorem execBarrier_begins {s : State} {c : Slot} {d : DueEntry} {rest : List DueEntry} {b : Barrier}
    (hnext : s.nextDue = some (d, rest)) (hring : d.ring = .ctx c) (hkind : d.entry.kind = 2)
    (hbarrier : (s.ctx c).eph.barrier = some b) (hpos : b.pos = d.pos) :
    execBarrier s = .next (({ s with due := rest } : State).modEph c
      (fun x => { x with barrier := some { b with began := true } })) := by
  unfold execBarrier
  rw [hnext]
  dsimp only
  rw [hring]
  dsimp only
  rw [if_neg (by simp [hkind])]
  change (match (s.ctx c).eph.barrier with | some b => _ | none => _) = _
  rw [hbarrier]
  exact if_pos (beq_iff_eq.2 hpos)

theorem execBarrier_met {s : State} {c : Slot} {d : DueEntry} {rest : List DueEntry}
    (hnext : s.nextDue = some (d, rest)) (hring : d.ring = .ctx c) (hkind : d.entry.kind = 2)
    (hbarrier : (s.ctx c).eph.barrier = none) :
    execBarrier s = .next (({ s with due := rest } : State).postEph (.ctx c) d.entry (missedStatus d.missed)
      (0 < d.lateness) d.at_) := by
  unfold execBarrier
  rw [hnext]
  dsimp only
  rw [hring]
  dsimp only
  rw [if_neg (by simp [hkind])]
  change (match (s.ctx c).eph.barrier with | some b => _ | none => _) = _
  rw [hbarrier]

/-- The state of a BARRIER that is missed, its completion posted. -/
def State.barrierMissed (s : State) (c : Slot) (b : Barrier) : State :=
  ((((s.modEph c (fun x => { x with barrier := none })).miss (.ctx c) b.entry b.pos b.lateness).writeEphHeader c
    b.entry.tag St.eventMissed none).postEph (.ctx c) b.entry St.eventMissed (0 < b.lateness) b.since)

theorem execBarrierTimeout_misses {s : State} {c : Slot} {b : Barrier} (hbarrier : (s.ctx c).eph.barrier = some b)
    (hbegan : b.began = true) (hlimit : b.entry.arg 2 ≠ 0) (hheld : s.mer.held = true)
    (hpassed : b.entry.arg 2 ≤ s.mer.count - b.since) (hmet : s.barrierMet c b.entry = false) :
    execBarrierTimeout c s =
      .next ((s.barrierMissed c b).fireList (.ctx c) ((s.barrierMissed c b).ctx c).eph.pending) := by
  unfold execBarrierTimeout
  rw [hbarrier]
  exact if_pos (by simp only [hbegan, bne_iff_ne.2 hlimit, hheld, hpassed, State.barrierHolds, hmet, decide_true, Bool.not_false,
    Bool.or_true, Bool.and_self])

theorem State.barrierMissed_ephOf (s : State) (c : Slot) (b : Barrier) : (s.barrierMissed c b).ephOf c =
    { s.ephOf c with barrier := none, missed := (s.ephOf c).missed + 1 } := by
  rw [State.barrierMissed, State.ephOf_postEph, State.ephOf_writeEphHeader, State.miss_ephOf, State.modEph_ephOf]

theorem State.barrierMissed_mer (s : State) (c : Slot) (b : Barrier) : (s.barrierMissed c b).mer =
    { s.mer with missed := s.mer.missed + 1 } :=
  (State.mer_headerAndPost _ _ _ _ _ _).trans (State.miss_mer _ _ _ _ _)

theorem execRampEnd_ends {s : State} {b : Nat} {fromModule : Bool} (hblock : (s.sku.blockKind b).isSome = true)
    (hover : s.rampOver (if fromModule then (s.block b).rampModule else (s.block b).rampContext) = true) :
    execRampEnd b fromModule s = .next (s.setBlock b
      (if fromModule then { s.block b with rampModule := none } else { s.block b with rampContext := none })) := by
  have hpresent : ¬ (s.sku.blockKind b).isNone = true := by
    rw [Option.isNone_iff_eq_none]
    exact Option.isSome_iff_ne_none.1 hblock
  rw [execRampEnd, if_neg hpresent]
  cases fromModule with
  | true => exact (if_pos rfl).trans (if_pos hover)
  | false => exact (if_neg (by simp)).trans (if_pos hover)

/-- Settles O29: the records and completions of a missed BARRIER leave the counters of its ring and of the Meridian. -/
theorem barriersAndRamps : Obligations.BarriersAndRamps := by
  refine ⟨fun s c => ⟨fun d rest hnext hring hkind => ⟨fun b hbarrier hpos => ?begins, execBarrier_met hnext hring hkind⟩,
    fun b hbarrier hbegan hlimit hheld hpassed hmet hpending => ?timeout⟩, fun s b fromModule => execRampEnd_ends⟩
  case begins =>
    refine ⟨_, execBarrier_begins hnext hring hkind hbarrier hpos, rfl, ?_, rfl⟩
    exact State.modEph_ephOf { s with due := rest } c _
  case timeout =>
    refine ⟨_, execBarrierTimeout_misses hbarrier hbegan hlimit hheld hpassed hmet, ?_⟩
    have heph := s.barrierMissed_ephOf c b
    have hmer := s.barrierMissed_mer c b
    generalize s.barrierMissed c b = t at heph hmer
    have hnone : (t.ctx c).eph.pending = [] := (congrArg (·.pending) heph).trans hpending
    have hrest : (t.fireList (.ctx c) []).ephOf c = { s.ephOf c with
        barrier := none, missed := (s.ephOf c).missed + 1, pending := [] } := by
      rw [State.fireList, State.setPending, State.modEph_ephOf, heph]
    have hclock : (t.fireList (.ctx c) []).mer = t.mer := rfl
    rw [hnone, hclock, hmer]
    exact ⟨congrArg (·.barrier) hrest, congrArg (·.missed) hrest, rfl, rfl⟩

end Sys2Proof.Machine

namespace Sys2Proof.Machine

set_option Elab.async false

/-! ### BAR2 writes (R298) -/

/-- A part of an access lies within it. -/
theorem pageParts_within {a n : Nat} {q : Nat × Nat × Nat} (hq : q ∈ pageParts a n) :
    a ≤ q.2.1 ∧ q.2.1 + q.2.2 ≤ a + n := by
  obtain ⟨p, hp, rfl⟩ := List.mem_map.1 hq
  have hwithin := pagePart_within (a := a) (p := p) (b := zeros n) (by simpa [zeros] using hp)
  simp only [pagePart, zeros, List.length_take, List.length_drop, List.length_replicate] at hwithin
  dsimp only
  have hmax : Nat.max a (p * pageBytes) = max a (p * pageBytes) := rfl
  have hmin : Nat.min (a + n) ((p + 1) * pageBytes) = min (a + n) ((p + 1) * pageBytes) := rfl
  rw [hmax] at hwithin ⊢
  rw [hmin]
  omega

theorem slice_length (b : Bytes) (o n : Nat) : (slice b o n).length = n := by
  simp only [slice, List.length_append, List.length_replicate, List.length_take]
  omega

/-- Notices go out without touching a byte. -/
theorem State.noticeMessages_mem (s : State) (r : LogRec) : (s.noticeMessages r).mem = s.mem := by
  refine foldl_shows State.mem (fun t x => ?_) _ s
  dsimp only
  split
  · unfold State.mgmtPacket
    dsimp only
    split
    · exact State.reads_same (t.besidesTraffic_route _) State.mem
    · rfl
  · rfl

/-- A record of no fault and not of the time group posts no completion, even where the queue drops it. -/
theorem State.raise_minor_mem (s : State) {e : Event} (hminor : 2 ≤ e.severity.toNat)
    (hstatus : e.status.toNat / 256 ≠ 8) : (s.raise e).mem = s.mem := by
  have hquiet : ∀ t : State, (t.dropRecord (s.recordOf e)).mem = t.mem := fun t => by
    have hnone : ¬ (decide ((s.recordOf e).severity.toNat ≤ 1) || decide ((s.recordOf e).status.toNat / 256 = 8)) = true := by
      have hsev : (s.recordOf e).severity = e.severity := rfl
      have hst : (s.recordOf e).status = e.status := rfl
      simp only [hsev, hst, Bool.or_eq_true, decide_eq_true_eq]
      omega
    rw [State.dropRecord, State.noticeCompletions, if_neg hnone]
    exact State.noticeMessages_mem _ _
  unfold State.raise
  dsimp only
  split
  · rfl
  · rw [if_pos (show 2 ≤ (s.recordOf e).severity.toNat from hminor)]
    exact hquiet _

theorem MemInv.of_mem {s t : State} (h : MemInv s) (hmem : t.mem = s.mem) : MemInv t := by rwa [MemInv, hmem]

/-- A part changes no byte but those it stores: one that is refused is only counted and noticed. -/
theorem State.writePart_cases (s : State) (c : Slot) (q : Nat × Nat × Nat) (b : Bytes) :
    (s.writePart c q b).mem = s.mem ∨ s.writePart c q b = s.store c q.2.1 b := by
  obtain ⟨p, a, n⟩ := q
  unfold State.writePart
  dsimp only
  split_ifs
  · exact .inl rfl
  · exact .inl rfl
  · exact .inl (State.raise_minor_mem _ (Nat.le_refl 2) (by simp [Event.blank]))
  · exact .inr rfl

/-- The parts of a write change no byte outside it. -/
theorem State.writeParts_other {c : Slot} {a : Nat} {data : Bytes} {d : Slot} {k : Nat} (hk : k < rangeBytes)
    (hout : ¬ (d = c ∧ a ≤ k ∧ k < a + data.length)) (s : State) (hinv : MemInv s) :
    ((pageParts a data.length).foldl (fun s q => s.writePart c q (slice data (q.2.1 - a) q.2.2)) s).byte d k =
      s.byte d k := by
  refine (List.foldlRecOn (motive := fun t : State => MemInv t ∧ t.byte d k = s.byte d k) _ _ ⟨hinv, rfl⟩ ?_).2
  rintro t ⟨ht, hbyte⟩ q hq
  obtain ⟨hlo, hhi⟩ := pageParts_within hq
  obtain hmem | hstore := t.writePart_cases c q (slice data (q.2.1 - a) q.2.2)
  · exact ⟨ht.of_mem hmem, by rw [State.byte, hmem]; exact hbyte⟩
  · rw [hstore]
    refine ⟨State.store_wf _ _ _ _ ht, (State.store_other ht hk ?_).trans hbyte⟩
    rw [slice_length]
    by_contra hin
    simp only [not_or, not_not, not_lt, not_le] at hin
    exact hout ⟨hin.1, by omega, by omega⟩

/-- An access within one page has one part. -/
theorem pageParts_single {a n : Nat} (hn : 0 < n) (hpage : a % pageBytes + n ≤ pageBytes) :
    pageParts a n = [(a / pageBytes, a, n)] := by
  have hdiv := Nat.div_add_mod a pageBytes
  have hmul := Nat.mul_comm pageBytes (a / pageBytes)
  have hlast : (a + n - 1) / pageBytes = a / pageBytes :=
    Nat.div_eq_of_lt_le (by omega) (by rw [Nat.add_mul]; omega)
  have hlo : Nat.max a (a / pageBytes * pageBytes) = a := Nat.max_eq_left (Nat.div_mul_le_self a pageBytes)
  have hhi : Nat.min (a + n) ((a / pageBytes + 1) * pageBytes) = a + n := Nat.min_eq_left (by
    rw [Nat.add_mul, Nat.mul_comm]
    omega)
  have hpages : pagesOf a n = [a / pageBytes] := by
    rw [pagesOf, if_neg (by omega), hlast, Nat.sub_self]
    rfl
  simp only [pageParts, hpages, List.map_cons, List.map_nil, hlo, hhi, Nat.add_sub_cancel_left]

theorem slice_all (b : Bytes) : slice b 0 b.length = b := by simp [slice]

theorem execBar2Write_parts {s : State} {f : Func} {off : Nat} {data : Bytes}
    (hok : s.bar2Ok f off data.length maxPayload = true) (hfree : s.windowFree f = false) :
    execBar2Write f off data s = .next ((pageParts ((s.window f).2 + off) data.length).foldl (fun t q =>
      t.writePart (s.window f).1 q (slice data (q.2.1 - ((s.window f).2 + off)) q.2.2)) s) := by
  simp [execBar2Write, hok, hfree]

/-- Settles O9: the write is that of its parts, of which a page that is not usable or out of reach takes none. -/
theorem bar2Writes : Obligations.Bar2Writes := by
  intro s f off data hok
  refine ⟨fun hfree => by simp [exec, execBar2Write, hok, hfree], fun hfree hinv hrange => ?_⟩
  refine ⟨_, execBar2Write_parts hok hfree, fun d k hk hout => State.writeParts_other hk hout s hinv, ?_⟩
  intro c a hwindow hoff hlen hpage husable halive hreach
  have hbase : (s.window f).2 + off = a := by rw [hwindow]; omega
  have hslot : (s.window f).1 = c := by rw [hwindow]
  rw [hbase, hslot, pageParts_single hlen hpage, List.foldl_cons, List.foldl_nil]
  simp [State.writePart, husable, halive, hreach, slice_all]

end Sys2Proof.Machine

namespace Sys2Proof.Machine

set_option Elab.async false

/-! ### Function level resets (R296, R349, R354) -/

theorem State.setCtx_setCtx (s : State) (c : Slot) (x y : Ctx) : (s.setCtx c x).setCtx c y = s.setCtx c y := by
  simp [State.setCtx, Vector.set_set]

theorem State.setCtx_self (s : State) (c : Slot) : s.setCtx c (s.ctx c) = s := by
  have hctxs : s.ctxs.set c (s.ctx c) c.isLt = s.ctxs := Vector.set_getElem_self c.isLt
  rw [State.setCtx, hctxs]

/-- Lists that are all silent complete without a word: only the stream changes, and nothing joins it. -/
theorem State.completeLists_silent {s : State} {c : Slot} (hsilent : ∀ l ∈ (s.ctx c).stream.lists, l.silent = true) :
    ∃ y : CtxStream, s.completeLists c = s.setCtx c { s.ctx c with stream := y } ∧
      y.subQueue = (s.ctx c).stream.subQueue ∧ y.lists ⊆ (s.ctx c).stream.lists ∧ y.ops ⊆ (s.ctx c).stream.ops := by
  have hself : s = s.setCtx c { s.ctx c with stream := (s.ctx c).stream } := (s.setCtx_self c).symm
  unfold State.completeLists
  dsimp only
  refine List.foldlRecOn (motive := fun t : State => ∃ y : CtxStream, t = s.setCtx c { s.ctx c with stream := y } ∧
    y.subQueue = (s.ctx c).stream.subQueue ∧ y.lists ⊆ (s.ctx c).stream.lists ∧ y.ops ⊆ (s.ctx c).stream.ops) _ _
    ⟨_, hself, rfl, List.Subset.refl _, List.Subset.refl _⟩ ?_
  rintro t ⟨y, rfl, hqueue, hlists, hops⟩ l hl
  dsimp only
  rw [if_pos (hsilent l (List.mem_filter.1 hl).1), State.modStream, State.modCtx, State.setCtx_setCtx]
  simp only [State.setCtx_ctx, if_true]
  exact ⟨_, rfl, hqueue, fun x hx => hlists (List.mem_filter.1 hx).1, fun x hx => hops (List.mem_filter.1 hx).1⟩

/-- A slot after the reset of its function: rings without a base, and a stream of what had begun, silenced. -/
structure FlrSlot (x y : Ctx) : Prop where
  subBase : y.sub.base = 0
  ringBase : y.ring.base = 0
  backlog : y.ring.backlog = []
  subQueue : y.stream.subQueue = []
  lists : ∀ l ∈ y.stream.lists, l.silent = true
  ops : ∀ o ∈ y.stream.ops, o.silent = true ∧ o.st ≠ .waiting
  gen : y.gen = x.gen
  st : y.st = x.st

theorem CtxStream.flr_lists (x : CtxStream) : ∀ l ∈ x.flr.lists, l.silent = true := by
  intro l hl
  obtain ⟨l', -, rfl⟩ := List.mem_map.1 hl
  rfl

theorem CtxStream.flr_ops (x : CtxStream) : ∀ o ∈ x.flr.ops, o.silent = true ∧ o.st ≠ .waiting := by
  intro o ho
  obtain ⟨o', -, rfl⟩ := List.mem_map.1 ho
  refine ⟨rfl, ?_⟩
  dsimp only
  split
  · simp
  · next h => simpa using h

theorem State.flrSlot_eq (s : State) (c : Slot) :
    ∃ x, s.flrSlot c = s.setCtx c x ∧ FlrSlot (s.ctx c) x := by
  have hlists := (s.ctx c).stream.flr_lists
  have hops := (s.ctx c).stream.flr_ops
  unfold State.flrSlot
  have hsilent : ∀ l ∈ ((s.modCtx c (fun x => { x with stream := x.stream.flr, sub := { x.sub with base := 0 }
                                                       ring := { x.ring with base := 0, backlog := [], posted := 0 } })).ctx c).stream.lists,
      l.silent = true := by
    rw [State.modCtx_ctx, if_pos rfl]
    exact hlists
  obtain ⟨y, heq, hqueue, hsubLists, hsubOps⟩ := State.completeLists_silent hsilent
  rw [State.modCtx_ctx, if_pos rfl] at heq hqueue hsubLists hsubOps
  rw [heq, State.modCtx, State.setCtx_setCtx]
  exact ⟨_, rfl, rfl, rfl, rfl, hqueue, fun l hl => hlists l (hsubLists hl), fun o ho => hops o (hsubOps ho), rfl, rfl⟩

/-- The mailbox and the vectors of a function reset: no slot and no byte changes, and no request of its channel waits. -/
def State.resetFunc (s : State) (f : Func) : State := (s.resetMailbox f).resetMsix f

theorem State.resetFunc_ctx (s : State) (f : Func) : (s.resetFunc f).ctx = s.ctx := rfl

theorem State.resetFunc_mem (s : State) (f : Func) : (s.resetFunc f).mem = s.mem := rfl

theorem State.resetFunc_requests (s : State) (c : Slot) : ∀ q ∈ (s.resetFunc (.vf c)).cat.requests, q.ch ≠ .vf c := by
  intro q hq hch
  have hkept := (List.mem_filter.1 (show q ∈ s.cat.requests.filter (fun r => r.ch != .vf c) from hq)).2
  simp [hch] at hkept

theorem execFlrVf_resets {s : State} {c : Slot} (hfunc : s.hasFunc (.vf c) = true) (hopen : s.boot.life.open = true) :
    execFlrVf c s = .next ((s.flrSlot c).resetFunc (.vf c)) := by
  rw [execFlrVf, hfunc, hopen]
  rfl

theorem execFlrPf_resets {s : State} (hfunc : s.hasFunc .pf = true) (hopen : s.boot.life.open = true) :
    execFlrPf s = .next s.flrPf := by
  rw [execFlrPf, hfunc, hopen]
  rfl

/-- Resetting slots one by one leaves every listed one without ring bases. -/
theorem State.foldl_flrSlot (l : List Slot) (s : State) {c : Slot}
    (h : c ∈ l ∨ (s.ctx c).sub.base = 0 ∧ (s.ctx c).ring.base = 0) :
    ((l.foldl (fun s c => s.flrSlot c) s).ctx c).sub.base = 0 ∧
      ((l.foldl (fun s c => s.flrSlot c) s).ctx c).ring.base = 0 := by
  induction l generalizing s with
  | nil => exact h.resolve_left (by simp)
  | cons d l ih =>
    refine ih (s.flrSlot d) ?_
    obtain ⟨x, heq, hflr⟩ := s.flrSlot_eq d
    rw [heq, State.setCtx_ctx]
    by_cases hd : c = d
    · rw [if_pos hd]
      exact .inr ⟨hflr.subBase, hflr.ringBase⟩
    · rw [if_neg hd]
      exact h.imp_left fun hmem => (List.mem_cons.1 hmem).resolve_left hd

theorem State.flrSlot_mem (s : State) (c : Slot) : (s.flrSlot c).mem = s.mem := by
  obtain ⟨x, heq, -⟩ := s.flrSlot_eq c
  rw [heq]
  rfl

/-- The PF's reset leaves the slots as `flrSlot` made them, and the host link without VFs, window and ring. -/
theorem State.flrPf_shows (s : State) : s.flrPf.mem = s.mem ∧ s.flrPf.host.vfEnable = false ∧
    s.flrPf.host.windowBase = 0 ∧ s.flrPf.host.ring.base = 0 ∧
    s.flrPf.ctx = (slots.foldl (fun s c => s.flrSlot c) s).ctx := by
  unfold State.flrPf
  dsimp only
  generalize slots = l
  generalize Func.pf :: l.map Func.vf = fs
  refine ⟨?_, rfl, rfl, rfl, ?_⟩
  · exact (foldl_shows State.mem (fun t f => t.resetFunc_mem f) fs _).trans
      (foldl_shows State.mem (fun t c => t.flrSlot_mem c) l s)
  · exact foldl_shows State.ctx (fun t f => t.resetFunc_ctx f) fs _

end Sys2Proof.Machine

namespace Sys2Proof.Machine

set_option Elab.async false

/-! ### The host link goes down (R294, R306) -/

/-- From `s` to `t` nothing was written: completions joined the backlogs, and the slots' rings and streams stand where
they stood. -/
structure Withheld (s t : State) : Prop where
  mem : t.mem = s.mem
  up : t.host.up = s.host.up
  stream : ∀ c, (t.ctx c).stream = (s.ctx c).stream
  sub : ∀ c, (t.ctx c).sub = (s.ctx c).sub
  base : ∀ c, (t.ctx c).ring.base = (s.ctx c).ring.base
  backlog : ∀ c, (s.ctx c).ring.backlog <+: (t.ctx c).ring.backlog

theorem Withheld.of_same {s t : State} (hmem : t.mem = s.mem) (hup : t.host.up = s.host.up) (hctx : t.ctx = s.ctx) :
    Withheld s t := by
  refine ⟨hmem, hup, fun c => ?_, fun c => ?_, fun c => ?_, fun c => ?_⟩ <;> rw [hctx]

theorem Withheld.refl (s : State) : Withheld s s := .of_same rfl rfl rfl

theorem Withheld.trans {s t u : State} (h : Withheld s t) (k : Withheld t u) : Withheld s u where
  mem := k.mem.trans h.mem
  up := k.up.trans h.up
  stream c := (k.stream c).trans (h.stream c)
  sub c := (k.sub c).trans (h.sub c)
  base c := (k.base c).trans (h.base c)
  backlog c := (h.backlog c).trans (k.backlog c)

theorem Withheld.modCtx (s : State) (c : Slot) {f : Ctx → Ctx} (hstream : ∀ x, (f x).stream = x.stream)
    (hsub : ∀ x, (f x).sub = x.sub) (hbase : (f (s.ctx c)).ring.base = (s.ctx c).ring.base)
    (hbacklog : (s.ctx c).ring.backlog <+: (f (s.ctx c)).ring.backlog) : Withheld s (s.modCtx c f) := by
  refine ⟨rfl, rfl, fun d => ?_, fun d => ?_, fun d => ?_, fun d => ?_⟩
  all_goals
    rw [State.modCtx_ctx]
    split
    · next h => subst h; simp only [hstream, hsub, hbase, hbacklog]
    · rfl

theorem State.setRing_withheld {s : State} (r : Ring) {x : CmplRing} (hbase : x.base = (s.ringOf r).base)
    (hbacklog : (s.ringOf r).backlog <+: x.backlog) : Withheld s (s.setRing r x) := by
  cases r with
  | module => exact .of_same rfl rfl rfl
  | ctx d => exact .modCtx (f := fun y => { y with ring := x }) s d (fun _ => rfl) (fun _ => rfl) hbase hbacklog

theorem State.mgmtPacket_ctx (s : State) (dest : BitVec 24) (b : Bytes) : (s.mgmtPacket dest b).ctx = s.ctx := by
  unfold State.mgmtPacket
  dsimp only
  split
  · exact State.reads_same (s.besidesTraffic_route _) State.ctx
  · rfl

theorem State.noticeMessages_ctx (s : State) (r : LogRec) : (s.noticeMessages r).ctx = s.ctx := by
  refine foldl_shows State.ctx (fun t x => ?_) _ s
  dsimp only
  split
  · exact t.mgmtPacket_ctx _ _
  · rfl

theorem State.noticeMessages_withheld (s : State) (r : LogRec) : Withheld s (s.noticeMessages r) :=
  .of_same (s.noticeMessages_mem r) (State.unrecorded (s.besidesRecords_noticeMessages r) (fun u => u.host.up))
    (s.noticeMessages_ctx r)

/-- `with` a field of `s` changed that the relation does not read, it still holds. -/
theorem Withheld.upd {s t u : State} (hk : Withheld s t) (hmem : u.mem = t.mem) (hup : u.host.up = t.host.up)
    (hctx : u.ctx = t.ctx) : Withheld s u := hk.trans (.of_same hmem hup hctx)

section down
variable {s t : State} (hdown : s.host.up = false) (hk : Withheld s t)
include hdown hk

/-- No ring has room while the link is down. -/
theorem State.post_withheld (r : Ring) (e : Cmpl) : Withheld s (t.post r e) := by
  have hroom : t.ringRoom r = false := by simp [State.ringRoom, hk.up, hdown]
  refine hk.trans ?_
  by_cases hfull : 4096 ≤ (t.ringOf r).backlog.length
  · rw [State.post_drops e hfull]
    exact State.setRing_withheld r rfl List.prefix_rfl
  · rw [State.post_waits e (.inr hroom) (Nat.not_le.mp hfull)]
    exact State.setRing_withheld r rfl (List.prefix_append _ _)

theorem State.postCtx_withheld (c : Slot) (e : Cmpl) : Withheld s (t.postCtx c e) := by
  unfold State.postCtx
  split
  · exact State.post_withheld hdown hk _ e
  · exact hk.trans (.modCtx t c (fun _ => rfl) (fun _ => rfl) rfl List.prefix_rfl)

theorem State.noticeCompletions_withheld (r : LogRec) : Withheld s (t.noticeCompletions r) := by
  unfold State.noticeCompletions
  dsimp only
  split
  · have hpost := State.post_withheld hdown hk .module
    split
    · exact hpost _
    · exact State.postCtx_withheld hdown (hpost _) _ _
  · exact hk

theorem State.dropRecord_withheld (r : LogRec) : Withheld s (t.dropRecord r) :=
  State.noticeCompletions_withheld hdown
    ((hk.upd (u := { t with log := t.log.countDrop r.severity }) rfl rfl rfl).trans (State.noticeMessages_withheld _ r)) r

theorem State.raise_withheld (e : Event) : Withheld s (t.raise e) := by
  have hlog : ∀ l, Withheld s { t with log := l } := fun l => hk.upd rfl rfl rfl
  unfold State.raise
  dsimp only
  split
  · exact hlog _
  · split
    · exact State.dropRecord_withheld hdown (hlog _) _
    · split
      · exact hlog _
      · split
        · exact hlog _
        · exact State.dropRecord_withheld hdown (hlog _) _

theorem State.noticeSlots_withheld (status : U16) (seq : U64) : Withheld s (t.noticeSlots status seq) := by
  unfold State.noticeSlots
  exact List.foldlRecOn (motive := fun u => Withheld s u) _ _ hk fun u hu c _ =>
    State.postCtx_withheld hdown hu _ _

theorem State.enterHoldover_withheld : Withheld s t.enterHoldover :=
  State.noticeSlots_withheld hdown
    (State.raise_withheld hdown (hk.upd (u := t.modMer fun m => { m.deaf.to 2 with holdover := 0 }) rfl rfl rfl) _) _ _

end down

@[simp] theorem State.besidesRecords_noticeSlots (s : State) (status : U16) (seq : U64) :
    (s.noticeSlots status seq).besidesRecords = s.besidesRecords :=
  foldl_shows State.besidesRecords (fun t c => t.besidesRecords_postCtx c _) _ s

/-- The host link without its ring and its vectors' states. -/
def State.link (s : State) : HostLink := { s.host with ring := HostLink.reset.ring, msix := [] }

/-- States whose links agree read the same of them. -/
theorem State.link_reads {s t : State} (h : t.link = s.link) : t.host.downs = s.host.downs ∧
    t.host.correctable = s.host.correctable ∧ t.host.rate = s.host.rate ∧ t.host.width = s.host.width ∧
    t.host.vfEnable = s.host.vfEnable := by
  have hreads : ∀ {α : Type} (g : HostLink → α), g t.link = g s.link := fun g => congrArg g h
  exact ⟨hreads HostLink.downs, hreads HostLink.correctable, hreads HostLink.rate, hreads HostLink.width,
    hreads HostLink.vfEnable⟩

theorem State.enterHoldover_link (s : State) : s.enterHoldover.link = s.link :=
  State.unrecorded (s := s.modMer fun m => { m.deaf.to 2 with holdover := 0 })
    ((State.besidesRecords_noticeSlots _ _ _).trans (State.besidesRecords_raiseStatus _ _ _ _)) State.link

theorem slots_nodup : slots.Nodup := List.nodup_finRange 16

theorem mem_slots (c : Slot) : c ∈ slots := List.mem_finRange c

/-- A slot whose rings have lost their bases. -/
def Ctx.unbased (x : Ctx) : Ctx :=
  { x with sub := { x.sub with base := 0 }, ring := { x.ring with base := 0, posted := 0 } }

/-- The PCIe state reset (R296): the slots keep all but the bases of their rings, and those are gone. -/
theorem State.resetPcie_shows (s : State) (c : Slot) : s.resetPcie.mem = s.mem ∧ s.resetPcie.host.vfEnable = false ∧
    s.resetPcie.host.downs = s.host.downs ∧ s.resetPcie.host.correctable = s.host.correctable ∧
    s.resetPcie.ctx c = (s.ctx c).unbased := by
  have hnodup := slots_nodup
  have hmem := mem_slots c
  unfold State.resetPcie
  dsimp only
  generalize slots = l at *
  generalize Func.pf :: l.map Func.vf = fs
  have hshows : ∀ {β : Type} (g : State → β), (∀ t f, g (State.resetFunc t f) = g t) →
      (∀ t c, g (State.modCtx t c Ctx.unbased) = g t) →
      g (l.foldl (fun t c => t.modCtx c Ctx.unbased) (fs.foldl State.resetFunc s)) = g s := fun g hf hc =>
    (foldl_shows g hc l _).trans (foldl_shows g hf fs s)
  refine ⟨hshows State.mem State.resetFunc_mem fun _ _ => rfl, rfl, ?_, ?_, ?_⟩
  · exact hshows (fun t => t.host.downs) (fun _ _ => rfl) fun _ _ => rfl
  · exact hshows (fun t => t.host.correctable) (fun _ _ => rfl) fun _ _ => rfl
  · refine (State.foldl_modCtx_ctx Ctx.unbased hnodup _ c).trans ?_
    rw [if_pos hmem]
    exact congrArg (fun g => (g c).unbased) (foldl_shows State.ctx State.resetFunc_ctx fs s)

theorem State.modHost_ctx (s : State) (f : HostLink → HostLink) : (s.modHost f).ctx = s.ctx := rfl

/-- The link once down, before the module says so. -/
def State.unlinked (s : State) : State :=
  s.resetPcie.modHost (fun h => { h with up := false, rate := 0, width := 0, ltssm := 0, downs := h.downs + 1 })

theorem State.unlinked_host (s : State) : s.unlinked.host =
    { s.resetPcie.host with up := false, rate := 0, width := 0, ltssm := 0, downs := s.resetPcie.host.downs + 1 } := rfl

theorem State.unlinked_ctx (s : State) : s.unlinked.ctx = s.resetPcie.ctx := State.modHost_ctx _ _

theorem State.unlinked_mem (s : State) : s.unlinked.mem = s.resetPcie.mem := State.modHost_mem _ _

theorem State.linkDown_shows (s : State) : s.linkDown.link = s.unlinked.link ∧ Withheld s.unlinked s.linkDown := by
  have hraised := State.raise_withheld rfl (.refl s.unlinked)
    { Event.blank with severity := sevFault, event := St.linkDown, status := St.linkDown }
  have hlink : (s.unlinked.raiseStatus sevFault St.linkDown Event.blank).link = s.unlinked.link :=
    State.unrecorded (State.besidesRecords_raiseStatus _ _ _ _) State.link
  unfold State.linkDown
  dsimp only
  split
  · exact ⟨(State.enterHoldover_link _).trans hlink, State.enterHoldover_withheld rfl hraised⟩
  · exact ⟨hlink, hraised⟩

/-- Settles O49: a function's reset goes through its slot's stream once (`flrSlot_eq`), and while the link is down no
ring has room, so that every completion of the link's going down joins a backlog (`Withheld`). -/
theorem functionsAndLink : Obligations.FunctionsAndLink := by
  unfold Obligations.FunctionsAndLink
  refine ⟨fun s c => ⟨fun hfunc hopen => ?_, fun hfunc hopen => ?_, fun hup => ?_⟩,
    fun s rate width link en n => ⟨fun hup hlink hrate hwidth => ?_, fun hup hopen => ?_⟩⟩
  · obtain ⟨x, heq, hflr⟩ := s.flrSlot_eq c
    have hctx : ((s.flrSlot c).resetFunc (.vf c)).ctx c = x := by
      rw [State.resetFunc_ctx, heq, State.setCtx_ctx, if_pos rfl]
    refine ⟨_, execFlrVf_resets hfunc hopen, ?_⟩
    rw [hctx]
    refine ⟨hflr.subBase, hflr.ringBase, hflr.backlog, hflr.subQueue, hflr.lists, hflr.ops,
      State.resetFunc_requests _ c, hflr.gen, hflr.st,
      (State.resetFunc_mem _ _).trans (s.flrSlot_mem c), fun d hd => ?_⟩
    rw [State.resetFunc_ctx, heq, State.setCtx_ctx, if_neg hd]
  · obtain ⟨hmem, hvf, hwindow, hring, hctx⟩ := s.flrPf_shows
    obtain ⟨hsubBase, hringBase⟩ := State.foldl_flrSlot slots s (.inl (mem_slots c))
    refine ⟨_, execFlrPf_resets hfunc hopen, hvf, hwindow, hring, ?_, ?_, hmem⟩
    · rw [hctx]
      exact hsubBase
    · rw [hctx]
      exact hringBase
  · obtain ⟨hmem, hvf, hdowns, hcorrectable, hctx⟩ := s.resetPcie_shows c
    obtain ⟨hlink, hwithheld⟩ := s.linkDown_shows
    have hup' := hwithheld.up
    obtain ⟨hdowns', hcorrectable', hrate, hwidth, hvf'⟩ := State.link_reads hlink
    rw [State.unlinked_host] at hup' hdowns' hcorrectable' hrate hwidth hvf'
    refine ⟨s.linkDown, if_pos hup, hup', ?_, hcorrectable'.trans hcorrectable, hrate, hwidth, hvf'.trans hvf,
      ?_, ?_, ?_, ?_, ?_⟩
    · rw [hdowns', hdowns]
    · rw [hwithheld.sub, State.unlinked_ctx, hctx]
      rfl
    · rw [hwithheld.base, State.unlinked_ctx, hctx]
      rfl
    · rw [hwithheld.stream, State.unlinked_ctx, hctx]
      rfl
    · have hbacklog := hwithheld.backlog c
      rw [State.unlinked_ctx, hctx] at hbacklog
      exact hbacklog
    · rw [hwithheld.mem, State.unlinked_mem, hmem]
  · have hrate' : linkRates.contains rate = true := List.contains_iff_mem.2 hrate
    have hwidth' : linkWidths.contains width = true := List.contains_iff_mem.2 hwidth
    refine if_neg ?_
    rw [hup, hlink, hrate', hwidth']
    decide
  · refine if_pos ?_
    rw [hup, hopen]
    rfl

end Sys2Proof.Machine

namespace Sys2Proof.Machine

set_option Elab.async false

/-! ### The module at Ready (R337, R405) -/

theorem reset_invariants : MemInv State.reset ∧ LatentInv State.reset ∧ EnvelopeInv State.reset := by
  refine ⟨⟨.nil, fun x hx => (List.not_mem_nil hx).elim⟩, ⟨.nil, fun x hx => (List.not_mem_nil hx).elim⟩, .nil, ?_⟩
  decide +kernel

theorem State.reset_ctx (c : Slot) : State.reset.ctx c = Ctx.reset := Vector.getElem_replicate c.isLt

theorem State.reset_block (b : Nat) : State.reset.block b = Block.reset := rfl

/-- The reset state reads each default, row by row of the catalogue. -/
theorem reset_reads_defaults : ∀ r ∈ catRows, r.scalar = true → ∀ d : Nat, r.dflt = some d →
    State.reset.valueOf .pf r r.base 0 r.size = some (natLe r.size d) := by
  decide +kernel

/-- Settles O6, from the reset state's fields; the defaults are read off the catalogue. -/
theorem resetIsReady : Obligations.ResetIsReady := by
  unfold Obligations.ResetIsReady
  refine ⟨reset_invariants, ⟨rfl, rfl, rfl, rfl, fun c => ?_, rfl, rfl, rfl, fun b => ?_⟩, reset_reads_defaults⟩
  · rw [State.reset_ctx]
    exact ⟨rfl, rfl, rfl, rfl, rfl, rfl⟩
  · unfold State.pointInForce
    rw [State.reset_block]
    rfl

end Sys2Proof.Machine

namespace Sys2Proof.Machine

set_option Elab.async false

/-! ### Requests at the front of the queue (R344 to R346) -/

/-- A request that is served is answered, and nothing follows its answer unless it starts the module anew. -/
theorem State.serve_nothing {s : State} {q : Request} {t : State} {a : Reply} (f : Option StartFindings)
    (hrecall : s.popped.recall q = none) (hanswer : s.popped.answer q = (t, a, .nothing)) :
    s.serve q f = t.respond q a := by
  unfold State.serve
  dsimp only
  rw [show (s.modCat fun k => { k with requests := k.requests.drop 1 }) = s.popped from rfl, hrecall, hanswer]

theorem State.serves_shows {s : State} {q : Request} (h : s.serves q = true) :
    (∃ rest, s.cat.requests = q :: rest) ∧ (s.boot.life != .off) = true ∧ s.popped.recall q = none := by
  simp only [State.serves, Bool.and_eq_true, beq_iff_eq, Option.isNone_iff_eq_none] at h
  obtain ⟨⟨hhead, hlife⟩, hrecall⟩ := h
  exact ⟨List.head?_eq_some_iff.1 hhead, hlife, hrecall⟩

theorem State.serveIf_serves {s : State} {q : Request} {is : Request → Bool} (f : Option StartFindings)
    (h : s.serves q = true) (his : is q = true) : s.serveIf f is = s.serve q f := by
  obtain ⟨⟨rest, hrequests⟩, hlife, -⟩ := State.serves_shows h
  simp only [State.serveIf, hrequests]
  rw [if_pos]
  rw [hlife, his]
  rfl

/-- A request that the row names and that nothing follows is served. -/
theorem State.serveIf_answers {s : State} {q : Request} {is : Request → Bool} {t : State} {a : Reply}
    (h : s.serves q = true) (his : is q = true) (hanswer : s.popped.answer q = (t, a, .nothing)) :
    s.serveIf none is = t.respond q a := by
  rw [State.serveIf_serves none h his]
  exact State.serve_nothing none (State.serves_shows h).2.2 hanswer

section answers
variable (s : State) {q : Request} (hversion : q.version = 1)
include hversion

theorem State.answer_read (hop : q.op = 1) : s.answer q = ((s.readReq q).1, (s.readReq q).2, .nothing) := by
  simp [State.answer, hversion, hop]

theorem State.answer_write (hop : q.op = 2) : s.answer q = s.writeReq q := by
  simp [State.answer, hversion, hop]

theorem State.answer_describe (hop : q.op = 3) : s.answer q = ((s.describeReq q).1, (s.describeReq q).2, .nothing) := by
  simp [State.answer, hversion, hop]

theorem State.answer_authorise (hop : q.op = 4) :
    s.answer q = ((s.authoriseReq q).1, (s.authoriseReq q).2, .nothing) := by
  simp [State.answer, hversion, hop]

theorem State.answer_subscribe (hop : q.op = 5) :
    s.answer q = ((s.subscribeReq q).1, (s.subscribeReq q).2, .nothing) := by
  simp [State.answer, hversion, hop]

theorem State.answer_nextIndex (hop : q.op = 6) : s.answer q = (s, if s.boot.life.open then
    q.part (natLe 2 (s.nextIndex q.ch q.index.toNat)) else { status := St.accessDenied }, .nothing) := by
  simp [State.answer, hversion, hop]

theorem Request.isOp_iff {n : Nat} : q.isOp n = true ↔ q.op.toNat = n := by simp [Request.isOp, hversion]

end answers

/-! ### Entries (R332) -/

theorem le_foldl_max (l : List Nat) (a : Nat) : a ≤ l.foldl Nat.max a ∧ ∀ x ∈ l, x ≤ l.foldl Nat.max a := by
  induction l generalizing a with
  | nil => simp
  | cons y l ih =>
    obtain ⟨hstart, hrest⟩ := ih (Nat.max a y)
    refine ⟨(Nat.le_max_left a y).trans hstart, fun x hx => ?_⟩
    rcases List.mem_cons.1 hx with rfl | hx
    · exact (Nat.le_max_right a x).trans hstart
    · exact hrest x hx

theorem foldl_max_mem (l : List Nat) (a : Nat) : l.foldl Nat.max a = a ∨ l.foldl Nat.max a ∈ l := by
  induction l generalizing a with
  | nil => exact .inl rfl
  | cons y l ih =>
    rw [List.foldl_cons]
    rcases ih (Nat.max a y) with hstart | hrest
    · rw [hstart]
      rcases Nat.le_total a y with h | h
      · rw [show Nat.max a y = y from Nat.max_eq_right h]
        exact .inr List.mem_cons_self
      · exact .inl (Nat.max_eq_left h)
    · exact .inr (List.mem_cons_of_mem y hrest)

theorem le_maxNat {α : Type} (f : α → Nat) {l : List α} {x : α} (hx : x ∈ l) : f x ≤ maxNat f l :=
  (le_foldl_max (l.map f) 0).2 (f x) (List.mem_map_of_mem hx)

theorem maxNat_mem {α : Type} (f : α → Nat) {l : List α} (hl : l ≠ []) : ∃ x ∈ l, f x = maxNat f l := by
  rcases foldl_max_mem (l.map f) 0 with hzero | hmem
  · obtain ⟨x, rest, rfl⟩ := List.exists_cons_of_ne_nil hl
    exact ⟨x, List.mem_cons_self, (Nat.le_antisymm (le_maxNat f List.mem_cons_self) (hzero.le.trans (Nat.zero_le _)))⟩
  · exact List.mem_map.1 hmem

theorem Sku.row?_zero (k : Sku) {index : Nat} (h : k.rowsAt index ≠ []) :
    ∃ r : Row, k.row? index 0 = some (highestSub r.base r.span) := by
  obtain ⟨r, rest, hrows⟩ := List.exists_cons_of_ne_nil h
  exact ⟨r, by simp [Sku.row?, hrows]⟩

theorem Sku.row?_unknown (k : Sku) {index sub : Nat}
    (h : k.rowsAt index = [] ∨ (sub ≠ 0 ∧ ∀ x ∈ k.rowsAt index, x.sub ≠ sub)) : k.row? index sub = none := by
  unfold Sku.row?
  dsimp only
  rcases h with hnone | ⟨hsub, hgap⟩
  · rw [hnone]
    split <;> rfl
  · rw [if_neg hsub, List.find?_eq_none]
    exact fun x hx => by simpa using hgap x hx

/-- Settles O14: subindex 0 finds `highestSub` before any row is looked at, and no row is found elsewhere. -/
theorem Catalogue.highestSub : Obligations.HighestSub := by
  unfold Obligations.HighestSub
  intro s q
  refine ⟨fun hrows => ?_, fun hversion hop hgap => ?_⟩
  · obtain ⟨r, hrow⟩ := s.sku.row?_zero hrows
    refine ⟨_, hrow, rfl, rfl, rfl, rfl, ?_, fun x hx => le_maxNat _ hx, maxNat_mem _ hrows⟩
    rw [State.valueOf]
    rfl
  · have hrow : s.sku.row? q.index.toNat q.sub.toNat = none :=
      s.sku.row?_unknown (hgap.imp_right fun ⟨hsub, hrows⟩ => ⟨fun h => hsub (BitVec.eq_of_toNat_eq h), hrows⟩)
    rcases hop with hop | hop | hop
    · rw [s.answer_read hversion hop, State.readReq, hrow]
    · rw [s.answer_write hversion hop, State.writeReq, hrow]
    · rw [s.answer_describe hversion hop, State.describeReq, hrow]

/-! ### Requests that are not writes -/

/-- An answer that needs no more than its row: a `serveIf` of the row's operation. -/
theorem State.serveIf_isOp {s : State} {q : Request} {n : Nat} {t : State} {a : Reply} (h : s.serves q = true)
    (hversion : q.version = 1) (hop : q.op.toNat = n) (hanswer : s.popped.answer q = (t, a, .nothing)) :
    s.serveIf none (fun q => q.isOp n) = t.respond q a :=
  State.serveIf_answers h ((Request.isOp_iff hversion).2 hop) hanswer

section read
variable {s : State} {q : Request} {r : Row} (hrow : s.sku.row? q.index.toNat q.sub.toNat = some r)
  (hallowed : s.readAllowed q r = true)
  (hlength : lengthStatus q.ch false r.size q.length.toNat q.offset.toNat = none) (hsome : q.length ≠ 0)
include hrow hallowed hlength hsome

/-- A READ that passes its checks gives the part it asks for. -/
theorem State.readReq_value (hlog : ¬ (r.base = 0x9000 ∧ r.sub = 6)) {b : Bytes}
    (hvalue : s.valueOf q.ch r q.index.toNat q.offset.toNat q.length.toNat = some b) :
    s.readReq q = (s, { status := St.ok, layered := r.layered,
                        value := (if r.base = 0x8000 ∧ r.sub = 2 then b
                          else if r.typ = 7 then (b.drop q.offset.toNat).take q.length.toNat
                          else slice b q.offset.toNat q.length.toNat) ++
                          (if r.layered then s.trailer q.index.toNat else []) }) := by
  have hread : s.readValue q.ch r q.index.toNat q.offset.toNat q.length.toNat =
      (s, if r.base = 0x8000 ∧ r.sub = 2 then b
        else if r.typ = 7 then (b.drop q.offset.toNat).take q.length.toNat
        else slice b q.offset.toNat q.length.toNat) := by
    simp only [State.readValue, hvalue, Bool.and_eq_true, decide_eq_true_eq]
    split_ifs <;> rfl
  unfold State.readReq
  simp only [hrow, hallowed, hlength, hsome, hread, Bool.not_true, Bool.false_eq_true, if_false]
  rw [if_neg (by simpa using hlog)]
  cases r.layered <;> simp

theorem State.readReq_records (hbase : r.base = 0x9000) (hsub : r.sub = 6) (hoffset : q.offset = 0)
    (hmin : 128 ≤ q.length.toNat) :
    s.readReq q = (s, { status := St.ok, value := (s.log.readRecords (s.chan q.ch).readFrom
      (s.chan q.ch).readSeverity (q.length.toNat / 128)).flatMap LogRec.bytes }) := by
  rw [hoffset] at hlength
  unfold State.readReq
  simp only [hrow, hallowed, hlength, hsome, hbase, hsub, Bool.not_true, Bool.false_eq_true, if_false, decide_true,
    Bool.and_self, if_true, State.readLog, hoffset, Nat.not_lt.2 hmin, decide_false, Bool.or_false, bne_self_eq_false]

end read

/-- Settles O15: each row serves its operation (`serveIf_isOp`), and a READ passes check after check to its value. -/
theorem requestsAnswered : Obligations.RequestsAnswered := by
  unfold Obligations.RequestsAnswered
  refine ⟨fun s q hserves hversion => ⟨fun hop => ?_, fun hop hindex hsub => ?_, fun hop => ?_, fun hop => ?_,
    fun hop => ?_, fun hop => ?_⟩, fun s q r hrow hallowed hlength hsome =>
    ⟨fun hlog b hvalue => State.readReq_value hrow hallowed hlength hsome hlog hvalue,
      fun hbase hsub hoffset hmin => State.readReq_records hrow hallowed hlength hsome hbase hsub hoffset hmin⟩⟩
  · have his : (q.isOp 1 || q.unknown) = true := by rw [(Request.isOp_iff hversion).2 (by rw [hop]; rfl)]; rfl
    exact congrArg Host.Outcome.next (State.serveIf_answers hserves his (s.popped.answer_read hversion hop))
  · have his : (q.isOp 1 && q.index == 0x9000 && q.sub == 6) = true := by
      rw [(Request.isOp_iff hversion).2 (by rw [hop]; rfl), hindex, hsub]
      rfl
    exact congrArg Host.Outcome.next (State.serveIf_answers (is := fun q => q.isOp 1 && q.index == 0x9000 && q.sub == 6)
      hserves his (s.popped.answer_read hversion hop))
  · exact congrArg Host.Outcome.next
      (State.serveIf_isOp hserves hversion (by rw [hop]; rfl) (s.popped.answer_describe hversion hop))
  · exact congrArg Host.Outcome.next
      (State.serveIf_isOp hserves hversion (by rw [hop]; rfl) (s.popped.answer_authorise hversion hop))
  · exact congrArg Host.Outcome.next
      (State.serveIf_isOp hserves hversion (by rw [hop]; rfl) (s.popped.answer_subscribe hversion hop))
  · exact congrArg Host.Outcome.next
      (State.serveIf_isOp hserves hversion (by rw [hop]; rfl) (s.popped.answer_nextIndex hversion hop))

end Sys2Proof.Machine

namespace Sys2Proof.Machine

set_option Elab.async false

/-! ### Writes that pass every check (R346 to R348) -/

/-- What `accepts` checks, one by one. -/
structure Accepted (s : State) (q : Request) (r : Row) (token : U64) : Prop where
  version : q.version = 1
  op : q.op = 2
  row : s.sku.row? q.index.toNat q.sub.toNat = some r
  allowed : s.popped.writeAllowed q r = true
  signed : if r.acc = 3 then s.popped.signedBy q.ch r q.index.toNat = some token else token = 0
  length : lengthStatus q.ch (r.typ == 8) r.size q.length.toNat q.offset.toNat = none
  nonempty : q.length ≠ 0
  whole : q.more = false
  shape : r.shapeOk (s.popped.gather q) = true
  value : r.scalar = true →
    s.popped.scalarCheck r q.index.toNat (leNat ((s.popped.gather q).into (zeros r.size))) = none

theorem State.accepts_shows {s : State} {q : Request} {r : Row} {token : U64} (h : s.accepts q r token = true) :
    Accepted s q r token := by
  simp only [State.accepts, Bool.and_eq_true, beq_iff_eq, Option.isNone_iff_eq_none, bne_iff_ne, ne_eq,
    Bool.not_eq_true', Bool.or_eq_true] at h
  obtain ⟨⟨⟨⟨⟨⟨⟨⟨⟨hversion, hop⟩, hrow⟩, hallowed⟩, hsigned⟩, hlength⟩, hnonempty⟩, hwhole⟩, hshape⟩, hvalue⟩ := h
  refine ⟨hversion, hop, hrow, hallowed, ?_, hlength, hnonempty, hwhole, hshape, fun hscalar => ?_⟩
  · split_ifs at hsigned ⊢ with hacc
    · exact beq_iff_eq.1 hsigned
    · exact beq_iff_eq.1 hsigned
  · exact hvalue.resolve_left (by simp [hscalar])

section accepted
variable {s : State} {q : Request} {r : Row} {token : U64} (h : Accepted s q r token)
include h

theorem Accepted.writeReq :
    s.popped.writeReq q = (s.popped.unstage q).complete q r token (s.popped.gather q) := by
  have hentry : s.popped.writeEntry q r token = (s.popped.unstage q).complete q r token (s.popped.gather q) := by
    simp only [State.writeEntry, h.length, h.nonempty, h.whole, Bool.false_eq_true, if_false]
  have hrow : s.popped.sku.row? q.index.toNat q.sub.toNat = some r := h.row
  have hsigned := h.signed
  simp only [State.writeReq, hrow, h.allowed, Bool.not_true, Bool.false_eq_true, if_false]
  split_ifs at hsigned ⊢ with hacc
  · rw [hsigned]
    exact hentry
  · rw [← hsigned]
    exact hentry

theorem Accepted.complete : (s.popped.unstage q).complete q r token (s.popped.gather q) =
    if (s.written q r token).2 = St.ok then
      ((s.written q r token).1, okReply, (s.popped.unstage q).afterWrite r (s.popped.gather q))
    else
      (((s.popped.unstage q).applyWrite q.ch r q.index.toNat (s.popped.gather q)).1,
        { status := ((s.popped.unstage q).applyWrite q.ch r q.index.toNat (s.popped.gather q)).2 }, .nothing) := by
  have hcheck : (if r.scalar then (s.popped.unstage q).scalarCheck r q.index.toNat
      (leNat ((s.popped.gather q).into (zeros r.size))) else none) = none := by
    cases hscalar : r.scalar with
    | false => rfl
    | true => exact h.value hscalar
  unfold State.complete
  simp only [h.shape, hcheck, Bool.not_true, Bool.false_eq_true, if_false]
  rfl

/-- A WRITE that passes every check and takes effect is answered OK, and what follows is `afterWrite`'s. -/
theorem Accepted.answer (hok : (s.written q r token).2 = St.ok) : s.popped.answer q =
    ((s.written q r token).1, okReply, (s.popped.unstage q).afterWrite r (s.popped.gather q)) := by
  rw [s.popped.answer_write h.version h.op, h.writeReq, h.complete, if_pos hok]

theorem Accepted.isOp : q.isOp 2 = true := (Request.isOp_iff h.version).2 (by rw [h.op]; rfl)

end accepted

/-- Each write row serves the front request when it is one of its own. -/
theorem writeRow_serves {i : Instr} {is : State → Request → Bool} (h : writeRow i = some is) (s : State) :
    exec i s = .next (s.serveIf none (is s)) := by
  cases i <;> cases h <;> rfl

/-- Settles O16: a write row serves what it names (`writeRow_serves`), and an accepted request is answered OK. -/
theorem writesAccepted : Obligations.WritesAccepted := by
  unfold Obligations.WritesAccepted
  intro i s q r token hserves haccepts hok hreset is hrow his
  have h := State.accepts_shows haccepts
  have hafter : (s.popped.unstage q).afterWrite r (s.popped.gather q) = .nothing := by
    unfold State.afterWrite
    rw [if_neg (by simpa using fun hbase hsub => hreset ⟨hbase, .inl hsub⟩),
      if_neg (by simpa using fun hbase hsub => hreset ⟨hbase, .inr hsub⟩)]
  have hanswer := h.answer hok
  rw [hafter] at hanswer
  rw [writeRow_serves hrow, State.serveIf_answers hserves his hanswer]

/-! ### Writes that start the module anew (R389, R407, R409) -/

/-- `module_reset` and `recovery_image`, as the catalogue gives them. -/
def moduleResetRow : Row := .mk 0xA050 .one 1 "module_reset" 1 3 0 1 (some 0x0) 2
def recoveryImageRow : Row := .mk 0xA050 .one 7 "recovery_image" 8 2 0 67108864 none 0

theorem Sku.row?_moduleReset (k : Sku) : k.row? 0xA050 1 = some moduleResetRow := by cases k <;> decide +kernel

theorem Sku.row?_recoveryImage (k : Sku) : k.row? 0xA050 7 = some recoveryImageRow := by cases k <;> decide +kernel

theorem Accepted.row_moduleReset {s : State} {q : Request} {r : Row} {token : U64} (h : Accepted s q r token)
    (hindex : q.index = 0xA050) (hsub : q.sub = 1) : r = moduleResetRow := by
  have hrow := h.row
  rw [hindex, hsub] at hrow
  exact Option.some.inj (hrow.symm.trans s.sku.row?_moduleReset)

theorem Accepted.row_recoveryImage {s : State} {q : Request} {r : Row} {token : U64} (h : Accepted s q r token)
    (hindex : q.index = 0xA050) (hsub : q.sub = 7) : r = recoveryImageRow := by
  have hrow := h.row
  rw [hindex, hsub] at hrow
  exact Option.some.inj (hrow.symm.trans s.sku.row?_recoveryImage)

theorem Accepted.writes {s : State} {q : Request} {r : Row} {token : U64} (h : Accepted s q r token)
    (hindex : q.index = 0xA050) {sub : Nat → Bool} (hsub : sub q.sub.toNat = true) : q.writes 0xA050 1 sub = true := by
  rw [Request.writes, h.isOp, hindex, hsub]
  rfl

theorem State.serve_reset {s t : State} {q : Request} {a : Reply} {cold : Bool} (f : StartFindings)
    (hrecall : s.popped.recall q = none) (hanswer : s.popped.answer q = (t, a, .reset cold)) :
    s.serve q (some f) = (t.respond q a).moduleReset q.ch cold f := by
  unfold State.serve
  dsimp only
  rw [show (s.modCat fun k => { k with requests := k.requests.drop 1 }) = s.popped from rfl, hrecall, hanswer]

theorem State.serve_recover {s t : State} {q : Request} {a : Reply} {img : Bytes} (f : StartFindings)
    (hrecall : s.popped.recall q = none) (hanswer : s.popped.answer q = (t, a, .recover img)) :
    s.serve q (some f) = (t.respond q a).recoverWith img f := by
  unfold State.serve
  dsimp only
  rw [show (s.modCat fun k => { k with requests := k.requests.drop 1 }) = s.popped from rfl, hrecall, hanswer]

/-- An accepted `module_reset` of a value: the answer, then the start. -/
theorem Accepted.serve_moduleReset {s : State} {q : Request} {r : Row} {token : U64} (h : Accepted s q r token)
    (hserves : s.serves q = true) (hindex : q.index = 0xA050) (hsub : q.sub = 1) (hok : (s.written q r token).2 = St.ok)
    {n : Nat} (haction : s.action q = n) (hvalue : leNat ((s.popped.gather q).into (zeros 1)) = n) (f : StartFindings) :
    s.serveAction 0xA050 1 1 n (some f) = ((s.written q r token).1.respond q okReply).moduleReset q.ch (n == 2) f := by
  have his : (q.writes 0xA050 1 (· == 1) && s.action q == n) = true := by
    rw [h.writes hindex (by rw [hsub]; rfl), haction, beq_self_eq_true]
    rfl
  have hanswer := h.answer hok
  rw [h.row_moduleReset hindex hsub] at hanswer ⊢
  rw [show (s.popped.unstage q).afterWrite moduleResetRow (s.popped.gather q) =
    .reset (leNat ((s.popped.gather q).into (zeros 1)) == 2) from rfl, hvalue] at hanswer
  rw [State.serveAction, State.serveIf_serves (some f) hserves his]
  exact State.serve_reset f (State.serves_shows hserves).2.2 hanswer

/-- Settles O17: the request is answered as any write, and what follows the answer is read off its row. -/
theorem resetsStart : Obligations.ResetsStart := by
  unfold Obligations.ResetsStart
  intro s q r token f hserves haccepts hindex u
  have h := State.accepts_shows haccepts
  have hrecall := (State.serves_shows hserves).2.2
  refine ⟨fun hsub hok haction hvalue => ?_, fun hsub hok haction hvalue => ?_, fun hsub => ?_⟩
  · have hserve := h.serve_moduleReset hserves hindex hsub hok haction hvalue f
    rw [show u = (s.written q r token).1.respond q okReply by simp only [u, hok]; rfl]
    exact congrArg Host.Outcome.next hserve
  · have hserve := h.serve_moduleReset hserves hindex hsub hok haction hvalue f
    rw [show u = (s.written q r token).1.respond q okReply by simp only [u, hok]; rfl]
    exact congrArg Host.Outcome.next hserve
  · have his : q.writes 0xA050 1 (· == 7) = true := h.writes hindex (by rw [hsub]; rfl)
    have hrow := h.row_recoveryImage hindex hsub
    refine congrArg Host.Outcome.next ((State.serveIf_serves (some f) hserves his).trans ?_)
    split
    · next hok =>
      have hanswer := h.answer hok
      rw [show u = (s.written q r token).1.respond q okReply by simp only [u, hok]; rfl]
      subst hrow
      exact State.serve_recover f hrecall hanswer
    · next hok =>
      have hanswer : s.popped.answer q =
          ((s.written q r token).1, { status := (s.written q r token).2 }, .nothing) := by
        rw [s.popped.answer_write h.version h.op, h.writeReq, h.complete, if_neg hok, hrow]
        rfl
      exact State.serve_nothing (some f) hrecall hanswer

end Sys2Proof.Machine

namespace Sys2Proof.Machine

set_option Elab.async false

/-! ### Channels (R347, R349, R351, R352) -/

theorem State.chan_ch (s : State) (ch : Channel) : (s.chan ch).ch = ch := by
  unfold State.chan
  cases h : s.cat.chans.find? (fun x => x.ch == ch) with
  | none => rfl
  | some x => simpa using List.find?_some h

theorem find?_putChan (x : ChanState) (l : List ChanState) :
    (putChan x l).find? (fun y => y.ch == x.ch) = some x := by
  induction l with
  | nil => simp [putChan]
  | cons y l ih =>
    unfold putChan
    split
    · simp
    · next h => rw [List.find?_cons_of_neg (by simpa using h), ih]

/-- A channel reads as the change made of it, when that leaves its name. -/
theorem State.modChan_chan (s : State) (ch : Channel) (f : ChanState → ChanState)
    (hname : (f (s.chan ch)).ch = ch) : (s.modChan ch f).chan ch = f (s.chan ch) := by
  have hfound := find?_putChan (f (s.chan ch)) s.cat.chans
  rw [hname] at hfound
  exact congrArg (·.getD (ChanState.new ch)) hfound

/-- Settles O21: each expiry is one change of its channel, or one filter of what the catalogue holds of it. -/
theorem channelExpiries : Obligations.ChannelExpiries := by
  unfold Obligations.ChannelExpiries
  intro s ch seq src d
  refine ⟨fun hstaged => ?_, fun hauth hended => ?_, fun hchannel => ?_, ⟨_, rfl, ?_, ?_⟩, ⟨_, rfl, ?_, ?_⟩,
    fun hlife => ?_⟩
  · refine ⟨_, if_pos hstaged, ?_⟩
    rw [State.modChan_chan s ch (fun x => { x with staged := none }) (s.chan_ch ch)]
    exact ⟨rfl, rfl⟩
  · refine ⟨s.modChan ch (fun x => { x with auth := none }), if_pos (by rw [hauth, hended]; rfl), ?_⟩
    rw [State.modChan_chan s ch (fun x => { x with auth := none }) (s.chan_ch ch)]
    exact ⟨rfl, rfl⟩
  · refine ⟨s.resetChan ch, if_neg (by simp [hchannel]), ?_⟩
    exact s.modChan_chan ch _ rfl
  · intro x hx
    simpa using (List.mem_filter.1 hx).2
  · exact fun x hx hch => List.mem_filter.2 ⟨hx, by simpa using hch⟩
  · intro x hx
    simpa [← not_and_or] using (List.mem_filter.1 hx).2
  · exact fun x hx hnot => List.mem_filter.2 ⟨hx, by simpa [← not_and_or] using hnot⟩
  · have hon : (s.boot.life == .off) = false := beq_eq_false_iff_ne.2 hlife
    refine ⟨?_, ?_, ?_, ?_⟩ <;> exact if_neg (by rw [hon]; decide)

/-! ### How requests come in (R322, R352, R354, R355) -/

theorem kvGetD_kvMod {α : Type} (l : List (Nat × α)) (k : Nat) (d : α) (f : α → α) :
    kvGetD (kvMod l k d f) k d = f (kvGetD l k d) := by
  rw [kvGetD, kvMod, kvGet_kvSet_eq_ite, if_pos rfl, Option.getD_some]

theorem State.modMailbox_mailbox (s : State) (f : Func) (g : Mailbox → Mailbox) :
    (s.modMailbox f g).mailbox f = g (s.mailbox f) := kvGetD_kvMod s.host.mailboxes (funcNum f) .reset g

theorem padTo_self {n : Nat} {b : Bytes} (h : b.length = n) : padTo n b = b := by
  rw [padTo, ← h, slice_all]

theorem State.setArea_mailbox (s : State) (f : Func) {area : Bytes} (h : area.length = 4088) :
    (s.setArea f area).mailbox f = { s.mailbox f with request := area } := by
  rw [State.setArea, State.modMailbox_mailbox, padTo_self h]

theorem State.mbGo_idle {s : State} {f : Func} {v : Nat} {m : Mailbox} (hm : s.mailbox f = m)
    (hbusy : m.busy = false) (hseq : field m.request 2 2 = v) (hserves : s.mailboxServes f = true) :
    s.mbGo f v = (s.modMailbox f (fun m => { m with busy := true })).enqueue (Request.parse (funcChannel f) 0 m.request) := by
  subst hm hseq
  simp [State.mbGo, hbusy, hserves]

theorem State.mbGo_refused {s : State} {f : Func} {v : Nat} {m : Mailbox} (hm : s.mailbox f = m)
    (h : m.busy = true ∨ field m.request 2 2 ≠ v ∨ s.mailboxServes f = false) : s.mbGo f v = s := by
  subst hm
  unfold State.mbGo
  refine if_pos ?_
  rcases h with h | h | h
  · simp [h]
  · simp [Ne.symm h]
  · simp [h]

theorem State.mailboxServes_iff (s : State) (f : Func) :
    s.mailboxServes f = true ↔ (f = .pf ∨ s.fab.moduleNumber ≠ 0xFFFFFFFF) := by
  simp [State.mailboxServes]

/-- A write of MB_GO where BAR0 is open: the area is set, and then MB_GO looks at it. -/
theorem execMbGo_open {s : State} {f : Func} {seq : U16} {area : Bytes} (hlink : s.boot.life.hasLink = true)
    (hfunc : s.hasFunc f = true) : execMbGo f seq area s = .next ((s.setArea f area).mbGo f seq.toNat) :=
  if_pos (by rw [State.bar0Open, hlink, hfunc]; rfl)

section datagrams
variable {s : State} {a : BitVec 128} {port : U16} {ok : Bool} {b : Bytes} (hlife : s.boot.life ≠ .off)
include hlife

/-- A datagram is good: its checksum, its source, its size, and the value it counts. -/
def goodDatagram (s : State) (a : BitVec 128) (port : U16) (ok : Bool) (b : Bytes) : Bool :=
  ok && s.cat.admits a && 24 ≤ b.length && b.length ≤ 1232 &&
    !((Request.parse (.mgmt a port) 0 b).carries && b.length - 24 < (Request.parse (.mgmt a port) 0 b).length.toNat)

theorem execMgmtDatagram_eq : execMgmtDatagram a port ok b s =
    if goodDatagram s a port ok b = false then .next s.discardMessage
    else match s.recall (Request.parse (.mgmt a port) 0 b) with
      | some old => .next (s.emit (.message (.mgmt a port) old))
      | none => if 16 ≤ s.cat.heldMgmt then .next s.discardMessage
        else .next (s.enqueue (Request.parse (.mgmt a port) 0 b)) := by
  have hon : ¬ (s.boot.life == .off) = true := by simpa using hlife
  have hgood : (!ok || !s.cat.admits a || decide (b.length < 24) || decide (1232 < b.length) ||
      ((Request.parse (.mgmt a port) 0 b).carries &&
        b.length - 24 < (Request.parse (.mgmt a port) 0 b).length.toNat)) = !goodDatagram s a port ok b := by
    simp only [goodDatagram, Bool.not_and, Bool.not_or, Bool.not_not, ← decide_not, Nat.not_le, not_not]
  unfold execMgmtDatagram
  dsimp only
  rw [if_neg hon, hgood]
  simp only [Bool.not_eq_true']
  rfl

end datagrams

/-- A whole MGMT packet for die 0 from a source in reach. -/
theorem execMgmtPacket_taken {s : State} {p : Packet} (hlink : s.boot.life.hasLink = true) (hkind : p.kind = 0x40)
    (hmine : s.isMine p.dest = true) (hhops : p.hops.toNat ≤ 63) (hdie : destDie p.dest = 0)
    (hreaches : (s.takeArrived p).reaches p.src = true) {q : Request}
    (hq : q = Request.parse (.fabric (BitVec.ofNat 20 (p.src.toNat / 16))) p.src p.data.flatten)
    (hsize : 24 ≤ p.data.flatten.length) (hcarries : (q.carries && p.data.flatten.length - 24 < q.length.toNat) = false) :
    execMgmtPacket p s = match (s.takeArrived p).recall q with
      | some old => .next ((s.takeArrived p).sendReply q old)
      | none => .next ((s.takeArrived p).enqueue q) := by
  subst hq
  unfold execMgmtPacket
  dsimp only
  rw [if_neg (by simp [hlink, hkind, hmine]), if_neg (Nat.not_lt.2 hhops), hdie, hreaches, hcarries,
    if_neg (by simpa using hsize)] <;> rfl

/-- Settles O20: what MB_GO, a datagram and a MGMT packet pass on their way into the queue, check by check. -/
theorem requestsArrive : Obligations.RequestsArrive := by
  unfold Obligations.RequestsArrive
  refine ⟨fun s f seq area hlink hfunc harea => ⟨fun hidle hseq hserves => ?_, fun hrefused => ?_, s.mailboxServes_iff f⟩,
    fun s a port ok b hlife => ?_, fun s p hlink hkind hmine hhops hdie hreaches => ?_⟩
  · have hmailbox := s.setArea_mailbox f harea
    refine ⟨_, (execMbGo_open hlink hfunc).trans (congrArg _ (State.mbGo_idle hmailbox hidle hseq hserves)), ?_, rfl, rfl,
      rfl⟩
    exact congrArg Mailbox.busy (State.modMailbox_mailbox (s.setArea f area) f _)
  · have hmailbox := s.setArea_mailbox f harea
    exact (execMbGo_open hlink hfunc).trans (congrArg _ (State.mbGo_refused hmailbox hrefused))
  · intro q good
    have heq := execMgmtDatagram_eq (a := a) (port := port) (ok := ok) (b := b) hlife
    have hbad : good = true → ¬ goodDatagram s a port ok b = false := fun h => by
      rw [show goodDatagram s a port ok b = true from h]
      decide
    refine ⟨fun hgood => ?_, fun hgood old hold => ?_, fun hgood hnew hroom => ?_, fun hgood hnew hfull => ?_⟩
    all_goals refine heq.trans ?_
    · exact if_pos hgood
    · rw [if_neg (hbad hgood), show s.recall _ = some old from hold]
    · rw [if_neg (hbad hgood), show s.recall _ = none from hnew]
      exact if_neg (Nat.not_le.2 hroom)
    · rw [if_neg (hbad hgood), show s.recall _ = none from hnew]
      exact if_pos hfull
  · intro q hsize hcarries
    have heq := execMgmtPacket_taken hlink hkind hmine hhops hdie hreaches rfl hsize hcarries
    refine ⟨fun hnew => heq.trans ?_, fun old hold => heq.trans ?_⟩
    · rw [show (s.takeArrived p).recall _ = none from hnew]
    · rw [show (s.takeArrived p).recall _ = some old from hold]

end Sys2Proof.Machine

namespace Sys2Proof.Machine

set_option Elab.async false

/-! ### What a notice leaves -/

/-- The state without what the messages of a record's notice change: the traffic, and the numbers of the messages. -/
def State.besidesNotices (s : State) : State :=
  { s.besidesTraffic with
      fab := { s.fab with ports := [], arrived := [], dropped := 0 }
      cat := { s.cat with subs := [] } }

/-- … and without what a record of no fault changes of the Logbook. -/
def State.besidesMinor (s : State) : State :=
  { s.besidesNotices with log := { s.log with nextSeq := 0, queue := [], dropped := [] } }

theorem State.unnoticed {α : Type} {s t : State} (h : t.besidesNotices = s.besidesNotices) (g : State → α)
    (hg : ∀ u : State, g u.besidesNotices = g u := by intro _; rfl) : g t = g s := by rw [← hg t, h, hg s]

theorem State.besidesMinor_of_besidesNotices {s t : State} (h : t.besidesNotices = s.besidesNotices) :
    t.besidesMinor = s.besidesMinor := by
  have hminor : t.besidesNotices.besidesMinor = s.besidesNotices.besidesMinor := congrArg State.besidesMinor h
  exact hminor

theorem State.minor_reads {α : Type} {s t : State} (h : t.besidesMinor = s.besidesMinor) (g : State → α)
    (hg : ∀ u : State, g u.besidesMinor = g u := by intro _; rfl) : g t = g s := by rw [← hg t, h, hg s]

theorem State.besidesNotices_mgmtPacket (s : State) (dest : BitVec 24) (b : Bytes) :
    (s.mgmtPacket dest b).besidesNotices = s.besidesNotices := by
  have hnotices : ∀ {t : State}, t.besidesTraffic = s.besidesTraffic → t.besidesNotices = s.besidesNotices := by
    intro t h
    have hboth : t.besidesTraffic.besidesNotices = s.besidesTraffic.besidesNotices := congrArg State.besidesNotices h
    exact hboth
  unfold State.mgmtPacket
  dsimp only
  split
  · exact hnotices (s.besidesTraffic_route _)
  · rfl

theorem State.besidesNotices_noticeMessages (s : State) (r : LogRec) :
    (s.noticeMessages r).besidesNotices = s.besidesNotices := by
  have hsubs : ∀ (t : State) (subs : List Subscription), t.besidesNotices = s.besidesNotices →
      ({ t with cat := { s.cat with subs := subs } } : State).besidesNotices = s.besidesNotices := by
    intro t subs h
    have hback : ({ t.besidesNotices with cat := { s.cat with subs := [] } } : State) = s.besidesNotices := by rw [h]; rfl
    exact hback
  refine hsubs _ _ (foldl_shows State.besidesNotices (fun t x => ?_) _ s)
  dsimp only
  split
  · exact t.besidesNotices_mgmtPacket _ _
  · rfl

/-- A record of no fault and not of the time group posts no completion. -/
theorem State.noticeCompletions_minor (s : State) {r : LogRec} (hminor : 2 ≤ r.severity.toNat)
    (hstatus : r.status.toNat / 256 ≠ 8) : s.noticeCompletions r = s := by
  refine if_neg ?_
  simp only [Bool.or_eq_true, decide_eq_true_eq]
  omega

/-- A record of no fault and not of the time group changes no more than the Logbook's queue and what its messages change:
where the queue is full, it is the one that is dropped. -/
theorem State.besidesMinor_raise (s : State) {e : Event} (hminor : 2 ≤ e.severity.toNat)
    (hstatus : e.status.toNat / 256 ≠ 8) : (s.raise e).besidesMinor = s.besidesMinor := by
  have hquiet : ∀ t : State, (t.dropRecord (s.recordOf e)).besidesMinor = t.besidesMinor := fun t => by
    rw [State.dropRecord, State.noticeCompletions_minor _ (show 2 ≤ (s.recordOf e).severity.toNat from hminor) hstatus]
    exact (State.besidesMinor_of_besidesNotices (State.besidesNotices_noticeMessages _ _)).trans rfl
  unfold State.raise
  dsimp only
  split
  · rfl
  · rw [if_pos (show 2 ≤ (s.recordOf e).severity.toNat from hminor)]
    exact (hquiet _).trans rfl

/-- While the queue has room, a record joins it, and nothing else changes. -/
theorem State.raise_room (s : State) (e : Event) (hroom : s.log.queue.length < 256) :
    s.raise e = s.modLog fun l => { l with nextSeq := l.nextSeq + 1, queue := l.queue ++ [s.recordOf e] } :=
  if_pos hroom

/-! ### Clears of the Logbook (R383, R384) -/

/-- The Logbook after a clear of the severities of a mask, up to a SEQ. -/
def Logbook.clear (l : Logbook) (mask : U8) (top : U64) : Logbook :=
  let l := { l with
    clearMask := mask
    watermarks := (List.range 4).map (fun i => if mask.getLsbD i then top else l.watermarks.getD i 0) }
  { l with
    primary := l.primary.filter (fun x => !l.cleared x.2)
    mirror := l.mirror.filter (fun x => !l.cleared x.2)
    mirrorQueue := l.mirrorQueue.filter (fun x => !l.cleared x) }

/-- What a clear covers: records of its severities up to its SEQ, and what earlier clears cover. -/
theorem Logbook.cleared_clear (l : Logbook) (mask : U8) (top : U64) (r : LogRec) :
    (l.clear mask top).cleared r =
      (!r.clearRec && r.seq ≤ if mask.getLsbD r.severity.toNat then top else l.watermarks.getD r.severity.toNat 0) := by
  have hsev : r.severity.toNat < 4 := r.severity.isLt
  simp [Logbook.cleared, Logbook.clear, hsev]

theorem Logbook.mem_readable {l : Logbook} {r : LogRec} : r ∈ l.readable ↔
    r ∈ l.primary.map (·.2) ∨ r ∈ l.mirror.map (·.2) ∧ ∀ x ∈ l.primary, x.2.seq ≠ r.seq := by
  simp [Logbook.readable]

/-- A clear leaves what it does not cover, and nothing else. -/
theorem Logbook.readable_clear {l : Logbook} {mask : U8} {top : U64} {r : LogRec} :
    (r ∈ (l.clear mask top).readable → (l.clear mask top).cleared r = false) ∧
    (r ∈ l.readable → (l.clear mask top).cleared r = false → r ∈ (l.clear mask top).readable) := by
  have hstored : ∀ (store : List (Nat × LogRec)), r ∈ (store.filter fun x => !(l.clear mask top).cleared x.2).map (·.2) ↔
      r ∈ store.map (·.2) ∧ (l.clear mask top).cleared r = false := by
    intro store
    simp only [List.mem_map, List.mem_filter, Bool.not_eq_true']
    constructor
    · rintro ⟨x, ⟨hx, hkept⟩, rfl⟩
      exact ⟨⟨x, hx, rfl⟩, hkept⟩
    · rintro ⟨⟨x, hx, rfl⟩, hkept⟩
      exact ⟨x, ⟨hx, hkept⟩, rfl⟩
  refine ⟨fun h => ?_, fun h hkept => ?_⟩
  · rcases Logbook.mem_readable.1 h with hprimary | ⟨hmirror, -⟩
    · exact ((hstored l.primary).1 hprimary).2
    · exact ((hstored l.mirror).1 hmirror).2
  · refine Logbook.mem_readable.2 ?_
    rcases Logbook.mem_readable.1 h with hprimary | ⟨hmirror, hgone⟩
    · exact .inl ((hstored l.primary).2 ⟨hprimary, hkept⟩)
    · exact .inr ⟨(hstored l.mirror).2 ⟨hmirror, hkept⟩, fun x hx => hgone x (List.mem_filter.1 hx).1⟩

theorem State.readable_raise (s : State) {e : Event} (hminor : 2 ≤ e.severity.toNat)
    (hstatus : e.status.toNat / 256 ≠ 8) : (s.raise e).log.readable = s.log.readable :=
  State.minor_reads (s.besidesMinor_raise hminor hstatus) (fun t => t.log.readable)

theorem maskAllowed {mask : U8} (hzero : mask ≠ 0) (hmax : mask.toNat ≤ 15) :
    ¬ (decide (mask = 0) || decide (15 < mask.toNat)) = true := by
  simp only [Bool.or_eq_true, decide_eq_true_eq, not_or, not_lt]
  exact ⟨hzero, hmax⟩

theorem State.clearLog_clears {s : State} {ch : Channel} {auth : U64} {mask : U8} (hzero : mask ≠ 0)
    (hmax : mask.toNat ≤ 15) (hdie : s.dieRuns 0 = true) : (s.clearLog ch auth mask).2 = St.ok ∧
      (s.clearLog ch auth mask).1.log.readable = (s.log.clear mask (s.log.nextSeq - 1)).readable := by
  unfold State.clearLog
  rw [if_neg (maskAllowed hzero hmax), if_neg (by simp [hdie])]
  exact ⟨rfl, State.readable_raise _ (by simp [Event.blank]) (by simp [Event.blank])⟩

/-- Settles O55: what is readable after a clear is what it does not cover (`readable_clear`), and the record of the clear
itself changes the queue alone. -/
theorem logbookClears : Obligations.LogbookClears := by
  unfold Obligations.LogbookClears
  intro s ch auth mask
  refine ⟨fun hmask => ?_, fun hzero hmax hdie => ?_, fun hzero hmax hdie => ?_⟩
  · exact if_pos (by simpa using hmask)
  · unfold State.clearLog
    rw [if_neg (maskAllowed hzero hmax), if_pos (by simp [hdie])]
  · obtain ⟨hok, hreadable⟩ := s.clearLog_clears (ch := ch) (auth := auth) hzero hmax hdie
    refine ⟨hok, fun r hr hselected hclear => ?_, fun r hr hkept hbefore => ?_⟩
    · rw [hreadable] at hr
      have hcleared := Logbook.readable_clear.1 hr
      rw [Logbook.cleared_clear, hclear, if_pos hselected] at hcleared
      simpa using hcleared
    · rw [hreadable]
      refine Logbook.readable_clear.2 hr ?_
      rw [Logbook.cleared_clear]
      rcases hkept with hother | hclear
      · rw [if_neg (by simp [hother])]
        exact hbefore
      · rw [hclear]
        rfl

end Sys2Proof.Machine

namespace Sys2Proof.Machine

set_option Elab.async false

/-! ### What completions leave -/

/-- The state without what completions and their interrupts change: the slots, the bytes of the device ranges, the PF's
ring, the vectors, and what leaves the module. -/
def State.besidesCompletions (s : State) : State :=
  { s.besidesMemory with host := { s.host with ring := HostLink.reset.ring, msix := [] }, out := [] }

theorem State.uncompleted {α : Type} {s t : State} (h : t.besidesCompletions = s.besidesCompletions) (g : State → α)
    (hg : ∀ u : State, g u.besidesCompletions = g u := by intro _; rfl) : g t = g s := by rw [← hg t, h, hg s]

section completions
variable (s : State)

@[simp] theorem State.besidesCompletions_store (c : Slot) (a : Nat) (b : Bytes) :
    (s.store c a b).besidesCompletions = s.besidesCompletions := by
  have hboth : (s.store c a b).besidesMemory.besidesCompletions = s.besidesMemory.besidesCompletions :=
    congrArg State.besidesCompletions (s.besidesMemory_store c a b)
  exact hboth

@[simp] theorem State.besidesCompletions_emit (o : Out) : (s.emit o).besidesCompletions = s.besidesCompletions := rfl

@[simp] theorem State.besidesCompletions_setRing (r : Ring) (x : CmplRing) :
    (s.setRing r x).besidesCompletions = s.besidesCompletions := by cases r <;> rfl

@[simp] theorem State.besidesCompletions_sendMsix (f : Func) (v : U8) :
    (s.sendMsix f v).besidesCompletions = s.besidesCompletions := by
  unfold State.sendMsix
  dsimp only
  split <;> rfl

@[simp] theorem State.besidesCompletions_ringMessage (r : Ring) :
    (s.ringMessage r).besidesCompletions = s.besidesCompletions := by simp [State.ringMessage]

@[simp] theorem State.besidesCompletions_writeCmpl (r : Ring) (e : Cmpl) :
    (s.writeCmpl r e).besidesCompletions = s.besidesCompletions := by
  unfold State.writeCmpl
  cases r with
  | module => dsimp only; split <;> simp
  | ctx c => dsimp only; split_ifs <;> simp

@[simp] theorem State.besidesCompletions_post (r : Ring) (e : Cmpl) :
    (s.post r e).besidesCompletions = s.besidesCompletions := by
  unfold State.post
  dsimp only
  split_ifs <;> simp

@[simp] theorem State.besidesCompletions_postCtx (c : Slot) (e : Cmpl) :
    (s.postCtx c e).besidesCompletions = s.besidesCompletions := by
  unfold State.postCtx
  split
  · exact s.besidesCompletions_post _ e
  · rfl

@[simp] theorem State.besidesCompletions_noticeCompletions (r : LogRec) :
    (s.noticeCompletions r).besidesCompletions = s.besidesCompletions := by
  unfold State.noticeCompletions
  dsimp only
  split_ifs <;> simp

end completions

/-! ### The Logbook at work (R372, R373, R377 to R379) -/

@[simp] theorem State.noticeCompletions_log (s : State) (r : LogRec) : (s.noticeCompletions r).log = s.log :=
  State.uncompleted (s.besidesCompletions_noticeCompletions r) State.log

@[simp] theorem State.noticeMessages_log (s : State) (r : LogRec) : (s.noticeMessages r).log = s.log :=
  State.unnoticed (s.besidesNotices_noticeMessages r) State.log

@[simp] theorem State.dropRecord_log (s : State) (r : LogRec) : (s.dropRecord r).log = s.log.countDrop r.severity := by
  rw [State.dropRecord, State.noticeCompletions_log, State.noticeMessages_log]

/-- The Logbook after the commit of a record: the record is in the slot R377 gives it, or covered by a clear, or lost. -/
def Logbook.commit (l : Logbook) (r : LogRec) : Logbook :=
  if l.cleared r then l.countWritten r.severity
  else match placeOf l.primary primaryQuarter r with
    | none => l.countDrop r.severity
    | some (slot, old) => (l.put r slot old).countWritten r.severity

theorem State.commitRecord_log (s : State) (r : LogRec) (notices : Bool) :
    (s.commitRecord r notices).log = s.log.commit r := by
  unfold State.commitRecord Logbook.commit
  dsimp only
  split
  · cases notices <;> simp
  · cases placeOf s.log.primary primaryQuarter r with
    | none => cases notices <;> simp
    | some p => cases notices <;> simp

theorem State.commitRecord_quiet (s : State) (r : LogRec) : (s.commitRecord r false).out = s.out := by
  unfold State.commitRecord
  dsimp only
  split
  · rfl
  · cases placeOf s.log.primary primaryQuarter r <;> rfl

theorem Logbook.overwrite_queue (l : Logbook) (x : LogRec) :
    (l.overwrite x).queue = l.queue ∧ (l.overwrite x).nextSeq = l.nextSeq := by
  unfold Logbook.overwrite
  split <;> exact ⟨rfl, rfl⟩

theorem Logbook.put_queue (l : Logbook) (r : LogRec) (slot : Nat) (old : Option LogRec) :
    (l.put r slot old).queue = l.queue ∧ (l.put r slot old).nextSeq = l.nextSeq := by
  cases old with
  | none => exact ⟨rfl, rfl⟩
  | some x => exact l.overwrite_queue x

theorem Logbook.commit_queue (l : Logbook) (r : LogRec) :
    (l.commit r).queue = l.queue ∧ (l.commit r).nextSeq = l.nextSeq := by
  unfold Logbook.commit
  split
  · exact ⟨rfl, rfl⟩
  · split
    · exact ⟨rfl, rfl⟩
    · next slot old _ => exact l.put_queue r slot old

/-- A record put into a slot stands there, and the mirror is to have it. -/
theorem Logbook.commit_put {l : Logbook} {r : LogRec} {slot : Nat} {old : Option LogRec} (hkept : l.cleared r = false)
    (hplace : placeOf l.primary primaryQuarter r = some (slot, old)) :
    kvGet (l.commit r).primary slot = some r ∧ r ∈ (l.commit r).mirrorQueue := by
  unfold Logbook.commit
  rw [if_neg (by simp [hkept]), hplace]
  refine ⟨?_, List.mem_append_right _ List.mem_cons_self⟩
  exact (kvGet_kvSet_eq_ite _ slot slot r).trans (if_pos rfl)

/-- The Logbook after one record of the mirror's queue. -/
def Logbook.mirrorOne (l : Logbook) (r : LogRec) (rest : List LogRec) : Logbook :=
  let l := { l with mirrorQueue := rest }
  if l.cleared r then l
  else match placeOf l.mirror mirrorQuarter r with
    | some (slot, _) => { l with mirror := kvSet l.mirror slot r }
    | none => l

theorem Logbook.mirrorOne_shows (l : Logbook) (r : LogRec) (rest : List LogRec) :
    (l.mirrorOne r rest).mirrorQueue = rest ∧ (l.mirrorOne r rest).primary = l.primary := by
  unfold Logbook.mirrorOne
  dsimp only
  split
  · exact ⟨rfl, rfl⟩
  · split <;> exact ⟨rfl, rfl⟩

theorem Logbook.mirrorOne_put {l : Logbook} {r : LogRec} {rest : List LogRec} {slot : Nat} {old : Option LogRec}
    (hkept : l.cleared r = false) (hplace : placeOf l.mirror mirrorQuarter r = some (slot, old)) :
    kvGet (l.mirrorOne r rest).mirror slot = some r := by
  unfold Logbook.mirrorOne
  dsimp only
  rw [if_neg (show ¬ Logbook.cleared { l with mirrorQueue := rest } r = true from by
    rw [show Logbook.cleared { l with mirrorQueue := rest } r = l.cleared r from rfl, hkept]; decide), hplace]
  exact (kvGet_kvSet_eq_ite _ slot slot r).trans (if_pos rfl)

/-! ### Reports signed (R394) -/

theorem State.besidesMinor_noteStaged (s : State) (img : Bytes) : (s.noteStaged img).besidesMinor = s.besidesMinor := by
  unfold State.noteStaged
  split
  · exact s.besidesMinor_raise (by simp [Event.blank]) (by simp [Event.blank])
  · rfl

theorem State.verifyStaged_shows (s : State) :
    s.verifyStaged.sec = s.sec ∧ s.verifyStaged.mem = s.mem ∧ s.verifyStaged.ctxs = s.ctxs := by
  unfold State.verifyStaged
  split
  · exact ⟨rfl, rfl, rfl⟩
  · dsimp only
    have hnoted : ∀ t : State, (s.boot.verifying.foldl State.noteStaged t).besidesMinor = t.besidesMinor := fun t =>
      foldl_shows State.besidesMinor (fun u img => u.besidesMinor_noteStaged img) _ t
    have hreads : ∀ t : State, (s.boot.verifying.foldl State.noteStaged t).sec = t.sec ∧
        (s.boot.verifying.foldl State.noteStaged t).mem = t.mem ∧
        (s.boot.verifying.foldl State.noteStaged t).ctxs = t.ctxs := fun t =>
      ⟨State.minor_reads (hnoted t) State.sec, State.minor_reads (hnoted t) State.mem,
        State.minor_reads (hnoted t) State.ctxs⟩
    split <;> exact hreads _

/-- A report asked for is signed once the images that wait are verified; its record changes the queue alone. -/
theorem execAttestSignComplete_signs {s : State} {body : Bytes} {ch : Channel} {mask : U8}
    (hsigning : s.sec.attest.signing = some (body, ch, mask)) : ∃ t, execAttestSignComplete s = .next t ∧
      t.sec = { s.sec with attest := { s.sec.attest with
        state := 2, signing := none, report := body ++ natLe 49856 (Config.identitySign body) } } ∧
      t.mem = s.mem ∧ t.ctxs = s.ctxs := by
  obtain ⟨hsec, hmem, hctxs⟩ := s.verifyStaged_shows
  unfold execAttestSignComplete
  dsimp only
  rw [hsec, hsigning]
  have hraised : ∀ {t : State} {e : Event}, 2 ≤ e.severity.toNat → e.status.toNat / 256 ≠ 8 →
      (t.raise e).sec = t.sec ∧ (t.raise e).mem = t.mem ∧ (t.raise e).ctxs = t.ctxs := fun {t e} hminor hstatus =>
    ⟨State.minor_reads (t.besidesMinor_raise hminor hstatus) State.sec,
      State.minor_reads (t.besidesMinor_raise hminor hstatus) State.mem,
      State.minor_reads (t.besidesMinor_raise hminor hstatus) State.ctxs⟩
  obtain ⟨hsec', hmem', hctxs'⟩ := hraised (t := { s.verifyStaged with sec := { s.sec with attest := { s.sec.attest with
      state := 2, signing := none, report := body ++ natLe 49856 (Config.identitySign body) } } })
    (e := { Event.blank with
      event := 0x8105, args := chanArgs ch (mask.setWidth 64) [fieldBv 64 s.sec.attest.nonce 0 8] })
    (by simp [Event.blank]) (by simp [Event.blank])
  exact ⟨_, rfl, hsec', hmem'.trans hmem, hctxs'.trans hctxs⟩

/-- Settles O54, from what a commit (`Logbook.commit`) and a record mirrored (`Logbook.mirrorOne`) make of the Logbook. -/
theorem logbookWork : Obligations.LogbookWork := by
  unfold Obligations.LogbookWork
  refine ⟨fun s r rest hlife hqueue => ?_, fun s r rest hlife hholdup hqueue => ?_, fun s r rest hlife hflash hqueue => ?_,
    fun s hlife => ?_, fun s body ch mask hsigning => ?_⟩
  · have hon : (s.boot.life == .off) = false := beq_eq_false_iff_ne.2 hlife
    have hexec : execLogbookCommit s = .next ((s.modLog (fun l => { l with queue := rest })).commitRecord r true) := by
      simp only [execLogbookCommit, hqueue, hon, Bool.false_and, Bool.false_eq_true, if_false, bne, Bool.not_false]
    have hlog := State.commitRecord_log (s.modLog (fun l => { l with queue := rest })) r true
    obtain ⟨hrest, hseq⟩ := Logbook.commit_queue { s.log with queue := rest } r
    refine ⟨_, hexec, rfl, (congrArg Logbook.queue hlog).trans hrest, (congrArg Logbook.nextSeq hlog).trans hseq,
      fun slot old hkept hplace => ?_⟩
    rw [hlog]
    exact Logbook.commit_put hkept hplace
  · have hexec : execLogbookCommit s = .next ((s.modLog (fun l => { l with queue := rest })).commitRecord r false) := by
      simp only [execLogbookCommit, hqueue, hlife, hholdup, Bool.not_true, Bool.and_false, Bool.false_eq_true, if_false,
        bne_self_eq_false]
    have hlog := State.commitRecord_log (s.modLog (fun l => { l with queue := rest })) r false
    exact ⟨_, hexec, rfl, (congrArg Logbook.queue hlog).trans (Logbook.commit_queue _ r).1, State.commitRecord_quiet _ r⟩
  · have hon : (s.boot.life == .off) = false := beq_eq_false_iff_ne.2 hlife
    have hexec : execMirrorWrite s = .next { s with log := s.log.mirrorOne r rest } := by
      simp only [execMirrorWrite, hqueue, hon, hflash, Bool.not_true, Bool.or_false, Bool.false_eq_true, if_false]
      rfl
    obtain ⟨hrest, hprimary⟩ := s.log.mirrorOne_shows r rest
    exact ⟨_, hexec, hrest, hprimary, rfl, rfl, fun slot old hkept hplace => Logbook.mirrorOne_put hkept hplace⟩
  · exact if_neg (by simpa using hlife)
  · obtain ⟨t, hexec, hsec, hmem, hctxs⟩ := execAttestSignComplete_signs hsigning
    exact ⟨t, hexec, by rw [hsec], by rw [hsec], by rw [hsec], by rw [hsec], hmem, hctxs⟩

end Sys2Proof.Machine

namespace Sys2Proof.Machine

set_option Elab.async false

/-! ### A write that no authorisation allows (R348, R350) -/

/-- A refusal is remembered on its channel and recorded; what reads neither the catalogue nor the records is the same. -/
theorem State.refuseRws_reads {α : Type} (s : State) (q : Request) (g : State → α)
    (hminor : ∀ u : State, g u.besidesMinor = g u := by intro _; rfl)
    (hcat : ∀ (u : State) f, g (u.modCat f) = g u := by intro _ _; rfl) : g (s.refuseRws q) = g s := by
  unfold State.refuseRws
  dsimp only
  split_ifs
  · rfl
  · exact (State.minor_reads (State.besidesMinor_raise _ (by simp [sevNotice]) (by simp [Event.blank])) g hminor).trans
      (hcat s _)

/-- While the Logbook's queue has room, the notice of the refusal waits there, and nothing leaves. -/
theorem State.refuseRws_fab (s : State) (q : Request) (hroom : s.log.queue.length < 256) :
    (s.refuseRws q).fab = s.fab := by
  unfold State.refuseRws
  dsimp only
  split_ifs
  · rfl
  · exact (congrArg State.fab (State.raise_room (s.modChan q.ch _) _ hroom)).trans rfl

/-- Settles O19: the write's rights end at the missing authorisation, and what the refusal records is minor. -/
theorem rwsNeedsAuthorisation : Obligations.RwsNeedsAuthorisation := by
  unfold Obligations.RwsNeedsAuthorisation
  intro s q r hserves hversion hop hrow hacc hallowed hunsigned
  have hanswer : s.popped.answer q = (s.popped.refuseRws q, { status := St.accessDenied }, .nothing) := by
    have hpopped : s.popped.sku.row? q.index.toNat q.sub.toNat = some r := hrow
    rw [s.popped.answer_write hversion hop, State.writeReq]
    simp only [hpopped, hallowed, hacc, hunsigned, Bool.not_true, Bool.false_eq_true, if_false, if_true]
  refine ⟨?_, ?_, ?_, ?_, ?_, fun hroom => ?_, ?_⟩
  · exact congrArg Host.Outcome.next
      (State.serveIf_isOp hserves hversion (by rw [hop]; rfl) hanswer)
  · exact s.popped.refuseRws_reads q State.ctxs
  · exact s.popped.refuseRws_reads q State.mem
  · exact s.popped.refuseRws_reads q State.power
  · exact s.popped.refuseRws_reads q State.sec
  · exact s.popped.refuseRws_fab q hroom
  · exact s.popped.refuseRws_reads q State.boot

end Sys2Proof.Machine

namespace Sys2Proof.Machine

set_option Elab.async false

/-! ### Other packets, and what waits too long (R285, R320, R321, R324 to R330) -/

@[simp] theorem State.takeArrived_isMine (s : State) (p : Packet) : (s.takeArrived p).isMine = s.isMine :=
  State.reads_same (s.besidesTraffic_takeArrived p) State.isMine

@[simp] theorem State.takeArrived_dataColl (s : State) (p : Packet) : (s.takeArrived p).dataColl = s.dataColl :=
  State.reads_same (s.besidesTraffic_takeArrived p) State.dataColl

/-- A packet for another die of the module has arrived there, at no port. -/
theorem State.route_mine {s : State} {p : Packet} (h : s.isMine p.dest = true) :
    (none, p) ∈ (s.route p).1.fab.arrived := by
  rw [State.route, if_pos h]
  exact List.mem_append_right _ List.mem_cons_self

section forward
variable {s : State} {p : Packet} {n : Fin 32} (hport : n.val < s.sku.ports)
include hport

theorem execPacketForward_mine (hmine : s.isMine p.dest = true) :
    execPacketForward n p s = .next ((s.takeArrived p).route p).1 := by
  simp [execPacketForward, Nat.not_le.2 hport, hmine]

theorem execPacketForward_routed (hother : s.isMine p.dest = false) (hhops : p.hops.toNat < 63)
    (hroute : ((s.takeArrived p).route { p with hops := p.hops + 1 }).2 = true) :
    execPacketForward n p s = .next ((s.takeArrived p).route { p with hops := p.hops + 1 }).1 := by
  simp only [execPacketForward, Nat.not_le.2 hport, State.takeArrived_isMine, hother, Bool.false_eq_true, if_false,
    Nat.not_le.2 hhops]
  split
  · next hrouted => rw [hrouted]
  · next hlost => rw [hlost] at hroute; cases hroute

theorem execPacketForward_late (hother : s.isMine p.dest = false) (hhops : 63 ≤ p.hops.toNat) :
    execPacketForward n p s = .next ((s.takeArrived p).countDropped.tell (n.val / 4) p St.latePacketDropped) := by
  simp only [execPacketForward, Nat.not_le.2 hport, State.takeArrived_isMine, hother, Bool.false_eq_true, if_false,
    hhops, if_true]

end forward

/-- A COLL_DATA of a rank that a collective awaits. -/
theorem execCollData_taken {s : State} {p : Packet} {c : Slot} {w : CWork} {q : Nat} (hmine : s.isMine p.dest = true)
    (howner : s.ownerOf (destDie p.dest) (destEndpoint p.dest) = some c) (hhops : p.hops.toNat ≤ 63)
    (hid : p.destContext = s.ctxId c) (hkind : p.kind = 0x21) (hcoll : s.dataColl c p = some w)
    (hrank : w.rankOf p.src = some q) (hagrees : w.agrees p = true) (hawaits : w.awaits q p = true)
    (hready : w.waits s = false) : execCollData p s = .next ((s.takeArrived p).takeData w q p) := by
  have hcond : (p.kind != 0x21 || (s.isMine p.dest && (s.ownerOf (destDie p.dest) (destEndpoint p.dest)).any (fun c =>
      p.destContext == s.ctxId c && (s.dataColl c p).any (fun w => w.waits s)))) = false := by
    rw [hkind, howner, hmine, Option.any_some, hcoll, Option.any_some, hready, Bool.and_false]
    rfl
  rw [execCollData, hcond, State.deliver_current hmine howner hhops hid]
  simp only [State.takeArrived_dataColl, hcoll, hrank, hagrees, hawaits, Bool.false_eq_true, if_false, Bool.and_self,
    if_true]

/-- Settles O60: packets of a context that holds their endpoint are delivered (`deliver_current`), the others are
forwarded, and a timeout ends what it names. -/
theorem packetsAndTimeouts : Obligations.PacketsAndTimeouts := by
  unfold Obligations.PacketsAndTimeouts
  intro s p c
  refine ⟨fun hmine hhops howner hid => ?_, fun n w hcoll => ?_, fun n hport => ?_, fun d e hdie => ?_⟩
  · refine ⟨fun hkind => ?_, fun hkind => ?_, fun hkind w hfound => ?_,
      fun hkind w q hcoll hrank hagrees hawaits hready => ?_⟩
    · refine (if_neg (by simp [hkind])).trans ?_
      rw [State.deliver_current hmine howner hhops hid]
    · refine (if_neg (by simp [hkind])).trans ?_
      rw [State.deliver_current hmine howner hhops hid]
    · refine (if_neg (by simp [hkind])).trans ?_
      rw [State.deliver_current hmine howner hhops hid]
      simp only [hfound]
    · rw [State.takeArrived_dataColl] at hcoll
      exact execCollData_taken hmine howner hhops hid hkind hcoll hrank hagrees hawaits hready
  · show execCollectiveTimeout c n s = _
    rw [execCollectiveTimeout, hcoll]
  · exact ⟨fun hmine => ⟨execPacketForward_mine hport hmine, State.route_mine (by rwa [State.takeArrived_isMine])⟩,
      fun hother hhops hroute => execPacketForward_routed hport hother hhops hroute,
      fun hother hhops => execPacketForward_late hport hother hhops⟩
  · refine ⟨_, if_neg (Nat.not_le.2 hdie), fun f hf => ?_, fun f hf hnot => ?_, rfl, rfl⟩
    · simpa [← not_and_or] using (List.mem_filter.1 hf).2
    · exact List.mem_filter.2 ⟨hf, by simpa [← not_and_or] using hnot⟩

end Sys2Proof.Machine

namespace Sys2Proof.Machine

set_option Elab.async false

/-! ### What traffic leaves of a port -/

/-- What neither the codewords nor the packets of a port change of it. -/
def Port.firm (p : Port) : U8 × U8 × U8 × U32 × U32 × U32 × BitVec 12 :=
  (p.state, p.width, p.live, p.peer, p.delayNs, p.retrains, p.rxSeq)

theorem Port.eq_of_firm {p q : Port} (h : p.firm = q.firm) : p.state = q.state ∧ p.width = q.width ∧ p.live = q.live ∧
    p.peer = q.peer ∧ p.delayNs = q.delayNs ∧ p.retrains = q.retrains ∧ p.rxSeq = q.rxSeq := by
  simpa only [Port.firm, Prod.mk.injEq] using h

def State.firmPorts (s : State) (n : Nat) : U8 × U8 × U8 × U32 × U32 × U32 × BitVec 12 := (s.port n).firm

theorem State.firmPorts_of_ports {s t : State} (h : s.fab.ports = t.fab.ports) : s.firmPorts = t.firmPorts := by
  funext n
  simp only [State.firmPorts, State.port, h]

theorem State.firmPorts_setPort {s : State} {n : Nat} {p : Port} (h : p.firm = (s.port n).firm) :
    (s.setPort n p).firmPorts = s.firmPorts := by
  funext m
  simp only [State.firmPorts, State.setPort_port]
  split
  · next hm => rw [h, hm]
  · rfl

theorem State.firmPorts_modPort {f : Port → Port} (hf : ∀ p, (f p).firm = p.firm) (s : State) (n : Nat) :
    (s.modPort n f).firmPorts = s.firmPorts := State.firmPorts_setPort (hf _)

@[simp] theorem State.firmPorts_sendCodeword (s : State) (n : Nat) (beacon : Bool) (slots : List Bytes) :
    (s.sendCodeword n beacon slots).firmPorts = s.firmPorts :=
  (State.firmPorts_of_ports rfl).trans (State.firmPorts_setPort rfl)

@[simp] theorem State.firmPorts_putBeacons (s : State) (n k : Nat) : (s.putBeacons n k).firmPorts = s.firmPorts := by
  induction k generalizing s with
  | zero => rfl
  | succ k ih =>
    unfold State.putBeacons
    split
    · rfl
    · split
      · rfl
      · exact (ih _).trans ((State.firmPorts_sendCodeword _ _ _ _).trans
          (State.firmPorts_modPort (by intro _; rfl) s.draw.1 n))

@[simp] theorem State.firmPorts_putCtrl (s : State) (n : Nat) : (s.putCtrl n).firmPorts = s.firmPorts := by
  unfold State.putCtrl
  dsimp only
  split
  · rfl
  · split
    · rfl
    · exact (State.firmPorts_sendCodeword _ _ _ _).trans (State.firmPorts_setPort rfl)

theorem Port.spend_firm (p : Port) (vc n : Nat) : (p.spend vc n).firm = p.firm := by
  unfold Port.spend
  split <;> rfl

@[simp] theorem State.firmPorts_issue (s : State) (n : Nat) (pk : Packet) : (s.issue n pk).firmPorts = s.firmPorts :=
  (State.firmPorts_modPort (by intro _; rfl) _ n).trans
    ((foldl_shows State.firmPorts (fun t c => t.firmPorts_sendCodeword n false c) _ _).trans
      (State.firmPorts_modPort (fun p => p.spend_firm _ _) s n))

@[simp] theorem State.firmPorts_pumpPort (s : State) (n : Nat) : (s.pumpPort n).firmPorts = s.firmPorts := by
  unfold State.pumpPort
  dsimp only
  rw [State.firmPorts_modPort (by intro _; rfl)]
  refine (foldl_shows (fun acc : State × List Packet × List Nat => acc.1.firmPorts) ?_ _ _).trans ?_
  · rintro ⟨t, held, blocked⟩ pk
    dsimp only
    split
    · rfl
    · exact t.firmPorts_issue n pk
  · rw [State.firmPorts_modPort (by intro _; rfl)]
    simp

@[simp] theorem State.firmPorts_route (s : State) (p : Packet) : (s.route p).1.firmPorts = s.firmPorts := by
  unfold State.route
  split
  · rfl
  · split
    · rfl
    · exact (State.firmPorts_pumpPort _ _).trans (State.firmPorts_modPort (by intro _; rfl) s _)

@[simp] theorem State.firmPorts_countDropped (s : State) : s.countDropped.firmPorts = s.firmPorts := rfl

/-! #### Records and faults -/

theorem State.firmPorts_mgmtPacket (s : State) (dest : BitVec 24) (b : Bytes) :
    (s.mgmtPacket dest b).firmPorts = s.firmPorts := by
  unfold State.mgmtPacket
  dsimp only
  split
  · exact s.firmPorts_route _
  · rfl

theorem State.firmPorts_dropRecord (s : State) (r : LogRec) : (s.dropRecord r).firmPorts = s.firmPorts := by
  have hmessages : ∀ t : State, (t.noticeMessages r).firmPorts = t.firmPorts := fun t => by
    refine foldl_shows State.firmPorts (fun u x => ?_) _ t
    dsimp only
    split
    · exact u.firmPorts_mgmtPacket _ _
    · rfl
  have hcompletions : ∀ t : State, (t.noticeCompletions r).firmPorts = t.firmPorts := fun t =>
    State.firmPorts_of_ports (State.uncompleted (t.besidesCompletions_noticeCompletions r) (fun u => u.fab.ports))
  exact (hcompletions _).trans ((hmessages _).trans rfl)

@[simp] theorem State.firmPorts_raise (s : State) (e : Event) : (s.raise e).firmPorts = s.firmPorts := by
  unfold State.raise
  dsimp only
  split
  · rfl
  · split
    · exact State.firmPorts_dropRecord _ _
    · split
      · rfl
      · split
        · rfl
        · exact State.firmPorts_dropRecord _ _

@[simp] theorem State.firmPorts_raiseStatus (s : State) (sev : BitVec 2) (st : U16) (e : Event) :
    (s.raiseStatus sev st e).firmPorts = s.firmPorts := s.firmPorts_raise _

theorem State.firmPorts_faultOp (s : State) (o : OpCtx) (status : U16) (handle : U32) (addr : Nat)
    (args : List U64) : (s.faultOp o status handle addr args).firmPorts = s.firmPorts := by
  unfold State.faultOp
  split
  · rfl
  · split
    · rfl
    · have hmeet : (if unreadable status then (s.meet o.c addr, s.badStatus o.c addr)
          else (s, status)).1.firmPorts = s.firmPorts := by
        split
        · exact State.firmPorts_of_ports (congrArg (·.fab.ports) (s.besidesMemory_meet o.c addr))
        · rfl
      rw [← hmeet]
      generalize (if unreadable status then (s.meet o.c addr, s.badStatus o.c addr) else (s, status)) = q
      obtain ⟨t, st⟩ := q
      dsimp only
      have hended : (t.endFaulted o st).firmPorts = t.firmPorts := rfl
      split_ifs
      · exact hended
      · exact (State.firmPorts_raiseStatus _ _ _ _).trans hended
      · exact hended

theorem State.firmPorts_ownLost (s : State) (p : Packet) : (s.ownLost p).firmPorts = s.firmPorts := by
  unfold State.ownLost
  split
  · rfl
  · unfold State.resultOf
    split
    · rfl
    · dsimp only
      rw [if_neg (by decide)]
      exact (State.firmPorts_faultOp _ _ _ _ _ _).trans rfl

theorem State.firmPorts_lose (s : State) (d : Nat) (p : Packet) (status : U16) :
    (s.lose d p status).firmPorts = s.firmPorts := by
  have htold : (s.tellLoss d p status).1.firmPorts = s.firmPorts := by
    unfold State.tellLoss
    split
    · rfl
    · exact s.firmPorts_route _
  unfold State.lose
  dsimp only
  split
  · exact htold
  · rfl

/-- A port that stops has the state it is given, and no lanes in use. -/
theorem State.portStops_port (s : State) (n : Nat) (st : U8) :
    ((s.portStops n st).port n).state = st ∧ ((s.portStops n st).port n).width = 0 := by
  have hgone (t : State) (pk : Packet) :
      (if t.isMine pk.src then t.ownLost pk else t.lose (n / 4) pk St.linkDown).firmPorts = t.firmPorts := by
    split
    · exact t.firmPorts_ownLost pk
    · exact t.firmPorts_lose _ _ _
  have hfirm : (s.portStops n st).firmPorts = (s.setPort n { s.port n with
      state := st, width := 0, inFlight := [], replay := [], waiting := [], partialSlots := [], beacon := none
      beaconDue := 0, ctrlDue := none }).firmPorts := by
    unfold State.portStops
    dsimp only
    refine (foldl_shows State.firmPorts (fun t pk => ?_) _ _).trans
      (foldl_shows State.firmPorts (fun t (f : BitVec 12 × Packet) => hgone t f.2) _ _)
    split
    · exact t.firmPorts_route pk
    · exact hgone t pk
  obtain ⟨hstate, hwidth, -⟩ := Port.eq_of_firm (congrFun hfirm n)
  rw [hstate, hwidth, State.setPort_port, if_pos rfl]
  exact ⟨rfl, rfl⟩

end Sys2Proof.Machine

namespace Sys2Proof.Machine

set_option Elab.async false

/-! ### Codewords on their lanes (R313, R315) -/

/-- A codeword as port `n` sends it, and sends it again. -/
def Port.sent (p : Port) (n : Nat) (w : SentWord) : Out :=
  .codeword n (p.laneOf w.seq) (linkHeader w.seq (p.llane w.seq) w.beacon) w.slots

theorem State.modPort_port (s : State) (n : Nat) (f : Port → Port) : (s.modPort n f).port n = f (s.port n) := by
  rw [State.modPort, State.setPort_port, if_pos rfl]

theorem State.foldl_putWord (n : Nat) (l : List SentWord) (s : State) :
    l.foldl (fun s w => s.putWord n w) s = { s with out := s.out ++ l.map ((s.port n).sent n) } := by
  induction l generalizing s with
  | nil => simp
  | cons w l ih =>
    rw [List.foldl_cons, ih]
    have hport : (s.putWord n w).port n = s.port n := rfl
    rw [hport, List.map_cons, ← List.singleton_append (l := l.map _), ← List.append_assoc]
    rfl

theorem State.replayAll_eq (s : State) (n : Nat) :
    s.replayAll n = { s with out := s.out ++ (s.port n).replay.map ((s.port n).sent n) } :=
  State.foldl_putWord n (s.port n).replay s

/-- A replay sends what is not acknowledged, and retrains the link at the eighth time without progress. -/
theorem State.replayFrom_shows (s : State) (n : Nat) :
    (s.replayFrom n).out = s.out ++ (s.port n).replay.map ((s.port n).sent n) ∧
    (s.replayFrom n).port n = if 8 ≤ (s.port n).stuck + 1 then
      { s.port n with replays := (s.port n).replays + 1, stuck := 0, state := 1 }
    else { s.port n with replays := (s.port n).replays + 1, stuck := (s.port n).stuck + 1 } := by
  obtain ⟨u, hu⟩ : ∃ u, s.modPort n (fun p => { p with replays := p.replays + 1, stuck := p.stuck + 1 }) = u := ⟨_, rfl⟩
  have hport : u.port n = { s.port n with replays := (s.port n).replays + 1, stuck := (s.port n).stuck + 1 } := by
    rw [← hu, State.modPort_port]
  have hout : u.out = s.out := by rw [← hu]; rfl
  have hsent : (u.port n).sent n = (s.port n).sent n := by rw [hport]; rfl
  have hresent : u.replayAll n = { u with out := s.out ++ (s.port n).replay.map ((s.port n).sent n) } := by
    rw [State.replayAll_eq, hout, hsent, hport]
  have hkept : (u.replayAll n).port n = u.port n := by rw [hresent]; rfl
  unfold State.replayFrom
  dsimp only
  rw [hu, hkept]
  have hstuck : (u.port n).stuck = (s.port n).stuck + 1 := by rw [hport]
  rw [hstuck]
  split
  · refine ⟨?_, ?_⟩
    · rw [State.retrain, hresent]
      rfl
    · rw [State.retrain, State.modPort_port, hkept, hport]
  · exact ⟨by rw [hresent], by rw [hkept, hport]⟩

/-- The port once a codeword has taken its SEQ, with what it may have to send again. -/
def Port.numbered (p : Port) (replay : List SentWord) : Port :=
  { p with txSeq := (nextSeq p.txSeq p.txWraps).1, txWraps := (nextSeq p.txSeq p.txWraps).2, replay := replay }

/-- The number of a codeword, and so its lane, is the same once the next one has its SEQ. -/
theorem Port.sent_next (p : Port) (n : Nat) (w : SentWord) (hw : w.seq = p.txSeq) (replay : List SentWord) :
    (p.numbered replay).sent n w = p.sent n w := by
  have hnumber : (p.numbered replay).txNumber p.txSeq = p.txNumber p.txSeq := by
    have hone : (p.txSeq + 1 - p.txSeq).toNat = 1 := by
      rw [show p.txSeq + 1 - p.txSeq = 1 by bv_omega]
      rfl
    have hzero : (p.txSeq - p.txSeq).toNat = 0 := by simp
    simp only [Port.txNumber, Port.numbered, nextSeq, hone, hzero]
    split
    · next hlast => rw [hlast]; simp; omega
    · next hnot =>
      have hstep : (p.txSeq + 1).toNat = p.txSeq.toNat + 1 := by
        have hlt := p.txSeq.isLt
        have hne : p.txSeq.toNat ≠ 4095 := fun h => hnot (BitVec.eq_of_toNat_eq h)
        rw [BitVec.toNat_add]
        simp
        omega
      omega
  simp only [Port.sent, Port.laneOf, Port.llane, hw, hnumber]
  rfl

theorem State.sendCodeword_shows (s : State) (n : Nat) (beacon : Bool) (slots : List Bytes) :
    (s.sendCodeword n beacon slots).out =
        s.out ++ [(s.port n).sent n { seq := (s.port n).txSeq, beacon := beacon, slots := slots }] ∧
      (s.sendCodeword n beacon slots).port n = (s.port n).numbered
        ((s.port n).replay ++ [{ seq := (s.port n).txSeq, beacon := beacon, slots := slots }]) := by
  have hport := s.setPort_port n n ((s.port n).numbered
    ((s.port n).replay ++ [{ seq := (s.port n).txSeq, beacon := beacon, slots := slots }]))
  rw [if_pos rfl] at hport
  refine ⟨?_, hport⟩
  have hsent := (s.port n).sent_next n { seq := (s.port n).txSeq, beacon := beacon, slots := slots } rfl
    ((s.port n).replay ++ [{ seq := (s.port n).txSeq, beacon := beacon, slots := slots }])
  rw [← hport] at hsent
  exact congrArg (fun o => s.out ++ [o]) hsent

/-! ### Acknowledgements (R314 to R316) -/

/-- The LINK_CTRL slot of an acknowledgement: what was received, and the credits owed. -/
def Port.ctrl (p : Port) (nak : Bool) : LinkCtrl :=
  { ackSeq := p.rxSeq - 1, nak := nak, credit0 := BitVec.ofNat 16 p.owed0, credit1 := BitVec.ofNat 16 p.owed1
    credit2 := BitVec.ofNat 16 p.owed2 }

/-- The codeword that carries it. -/
def Port.ctrlWord (p : Port) (nak : Bool) : SentWord :=
  { seq := p.txSeq, beacon := false, slots := (p.ctrl nak).slot :: List.replicate 9 idleSlot }

/-- The port once its acknowledgement has gone out. -/
def Port.acknowledged (p : Port) (nak : Bool) : Port :=
  Port.numbered { p with ctrlDue := none, sinceAck := 0, owed0 := 0, owed1 := 0, owed2 := 0 }
    (p.replay ++ [p.ctrlWord nak])

theorem State.putCtrl_due {s : State} {n : Nat} {nak : Bool} (hdue : (s.port n).ctrlDue = some nak)
    (hroom : (s.port n).room = true) : (s.putCtrl n).out = s.out ++ [(s.port n).sent n ((s.port n).ctrlWord nak)] ∧
      (s.putCtrl n).port n = (s.port n).acknowledged nak := by
  have heq : s.putCtrl n = (s.setPort n { s.port n with
      ctrlDue := none, sinceAck := 0, owed0 := 0, owed1 := 0, owed2 := 0 }).sendCodeword n false
        (((s.port n).ctrl nak).slot :: List.replicate 9 idleSlot) := by
    simp only [State.putCtrl, hdue, hroom, Bool.not_true, Bool.false_eq_true, if_false]
    rfl
  obtain ⟨hout, hport⟩ := State.sendCodeword_shows (s.setPort n { s.port n with
      ctrlDue := none, sinceAck := 0, owed0 := 0, owed1 := 0, owed2 := 0 }) n false
        (((s.port n).ctrl nak).slot :: List.replicate 9 idleSlot)
  rw [State.setPort_port, if_pos rfl] at hout hport
  rw [heq]
  exact ⟨hout, hport⟩

/-- An acknowledgement on a port with room goes out at once. -/
theorem State.acknowledge_out {s : State} {n : Nat} (hdue : (s.port n).ctrlDue = none)
    (hroom : (s.port n).room = true) : (s.acknowledge n false).out =
        s.out ++ [(s.port n).sent n ((s.port n).ctrlWord false)] ∧
      (s.acknowledge n false).port n = (s.port n).acknowledged false := by
  obtain ⟨u, hu⟩ : ∃ u, s.modPort n (fun p => { p with
    ctrlDue := some (false || p.ctrlDue == some true), nakSent := p.nakSent || false }) = u := ⟨_, rfl⟩
  have hport : u.port n = { s.port n with ctrlDue := some false } := by
    rw [← hu, State.modPort_port, hdue, Bool.or_false]
    rfl
  have hout : u.out = s.out := by rw [← hu]; rfl
  obtain ⟨hsent, hacked⟩ := State.putCtrl_due (s := u) (n := n) (nak := false) (by rw [hport]) (by rw [hport]; exact hroom)
  rw [hport] at hsent hacked
  unfold State.acknowledge
  rw [hu]
  refine ⟨?_, hacked⟩
  rw [hsent, hout]
  rfl

/-- Whatever an acknowledgement does, it counts no codeword as lost, and nothing arrives by it. -/
theorem State.acknowledge_leaves (s : State) (n : Nat) (nak : Bool) :
    ((s.acknowledge n nak).port n).uncorrectable = (s.port n).uncorrectable ∧
      (s.acknowledge n nak).fab.arrived = s.fab.arrived := by
  obtain ⟨u, hu⟩ : ∃ u, s.modPort n (fun p => { p with
    ctrlDue := some (nak || p.ctrlDue == some true), nakSent := p.nakSent || nak }) = u := ⟨_, rfl⟩
  have hport : (u.port n).uncorrectable = (s.port n).uncorrectable := by rw [← hu, State.modPort_port]
  have harrived : u.fab.arrived = s.fab.arrived := by rw [← hu]; rfl
  unfold State.acknowledge
  rw [hu, ← hport, ← harrived]
  unfold State.putCtrl
  dsimp only
  split
  · exact ⟨rfl, rfl⟩
  · split
    · exact ⟨rfl, rfl⟩
    · refine ⟨?_, rfl⟩
      rw [(State.sendCodeword_shows _ _ _ _).2, State.setPort_port, if_pos rfl]
      rfl

/-- A port with nothing to send is left as it is. -/
theorem State.pumpPort_idle {s : State} {n : Nat} (hwaiting : (s.port n).waiting = []) (hbeacon : (s.port n).beaconDue = 0)
    (hdue : (s.port n).ctrlDue = none) : (s.pumpPort n).out = s.out ∧ (s.pumpPort n).port n = s.port n := by
  have hquiet : (s.putBeacons n (s.port n).beaconDue).putCtrl n = s := by
    rw [hbeacon]
    simp only [State.putBeacons, State.putCtrl, hdue]
  unfold State.pumpPort
  dsimp only
  rw [hquiet, hwaiting]
  refine ⟨rfl, ?_⟩
  rw [List.foldl_nil]
  dsimp only
  rw [State.modPort_port, State.modPort_port]
  show { s.port n with waiting := [] } = s.port n
  rw [← hwaiting]

theorem Port.release_queues (p : Port) (ack : BitVec 12) : (p.release ack).waiting = p.waiting ∧
    (p.release ack).beaconDue = p.beaconDue ∧ (p.release ack).ctrlDue = p.ctrlDue ∧
    (p.release ack).credit0 = p.credit0 ∧ (p.release ack).credit1 = p.credit1 ∧
    (p.release ack).credit2 = p.credit2 := by
  unfold Port.release
  split <;> exact ⟨rfl, rfl, rfl, rfl, rfl, rfl⟩

/-- The port once a LINK_CTRL slot of the far end has been taken in. -/
def Port.credited (p : Port) (ctl : LinkCtrl) : Port :=
  { p.release ctl.ackSeq with
    credit0 := (p.release ctl.ackSeq).credit0 + ctl.credit0.toNat
    credit1 := (p.release ctl.ackSeq).credit1 + ctl.credit1.toNat
    credit2 := (p.release ctl.ackSeq).credit2 + ctl.credit2.toNat }

theorem execLinkCtrl_idle {s : State} {n : Fin 32} {ctl : LinkCtrl} (hport : n.val < s.sku.ports)
    (hup : (s.port n.val).state = 2) (hack : ctl.nak = false) (hwaiting : (s.port n.val).waiting = [])
    (hbeacon : (s.port n.val).beaconDue = 0) (hdue : (s.port n.val).ctrlDue = none) :
    ∃ t, execLinkCtrl n ctl s = .next t ∧ t.port n.val = (s.port n.val).credited ctl ∧ t.out = s.out := by
  obtain ⟨hw, hb, hd, -⟩ := (s.port n.val).release_queues ctl.ackSeq
  obtain ⟨u, hu⟩ : ∃ u, State.modPort { s with fab := { s.fab with ctrls := s.fab.ctrls.erase (n, ctl) } } n.val
    (fun p => p.credited ctl) = u := ⟨_, rfl⟩
  have hcredited : u.port n.val = (s.port n.val).credited ctl := by
    rw [← hu, State.modPort_port]
    rfl
  have hout : u.out = s.out := by rw [← hu]; rfl
  obtain ⟨hsame, hkept⟩ := State.pumpPort_idle (s := u) (n := n.val) (by rw [hcredited]; exact hw.trans hwaiting)
    (by rw [hcredited]; exact hb.trans hbeacon) (by rw [hcredited]; exact hd.trans hdue)
  refine ⟨u.pumpPort n.val, ?_, hkept.trans hcredited, hsame.trans hout⟩
  unfold execLinkCtrl
  dsimp only
  rw [if_neg (Nat.not_le.2 hport), if_neg (by rw [hup]; decide), hack, Bool.false_and, if_neg (by decide)]
  exact congrArg (fun t => Host.Outcome.next (State.pumpPort t n.val)) hu

theorem execCodewordReceive_up {s : State} {n : Fin 32} (cw : Codeword) (hport : n.val < s.sku.ports)
    (hup : (s.port n.val).state = 2) : execCodewordReceive n cw s = .next (s.receiveCodeword n cw) := by
  rw [execCodewordReceive, if_neg (Nat.not_le.2 hport), if_pos hup]

/-- A codeword that cannot be corrected is counted, and brings nothing. -/
theorem State.receiveCodeword_lost {s : State} {n : Fin 32} {cw : Codeword} (hlost : cw.uncorrectable = true) :
    ((s.receiveCodeword n cw).port n.val).uncorrectable = (s.port n.val).uncorrectable + 1 ∧
      (s.receiveCodeword n cw).fab.arrived = s.fab.arrived := by
  have hnak : ∀ t : State, ((t.nak n.val).port n.val).uncorrectable = (t.port n.val).uncorrectable ∧
      (t.nak n.val).fab.arrived = t.fab.arrived := fun t => by
    unfold State.nak
    split
    · exact ⟨rfl, rfl⟩
    · exact t.acknowledge_leaves n.val true
  unfold State.receiveCodeword
  dsimp only
  rw [if_pos hlost]
  obtain ⟨hcount, harrived⟩ := hnak ((s.modPort n.val fun p => { p with
    corrected := p.corrected + BitVec.ofNat 64 cw.corrected }).setPort n.val { (s.modPort n.val fun p => { p with
      corrected := p.corrected + BitVec.ofNat 64 cw.corrected }).port n.val with
        uncorrectable := ((s.modPort n.val fun p => { p with
          corrected := p.corrected + BitVec.ofNat 64 cw.corrected }).port n.val).uncorrectable + 1 })
  refine ⟨hcount.trans ?_, harrived⟩
  rw [State.setPort_port, if_pos rfl, State.modPort_port]

theorem execAckTimeoutReplay_up {s : State} {n : Fin 32} (hport : n.val < s.sku.ports)
    (hup : (s.port n.val).state = 2) (hreplay : (s.port n.val).replay ≠ []) :
    execAckTimeoutReplay n s = .next (s.replayFrom n.val) := by
  unfold execAckTimeoutReplay
  dsimp only
  rw [if_neg (Nat.not_le.2 hport), if_pos]
  simp [hup, hreplay]

theorem execLinkAcknowledgement_up {s : State} {n : Fin 32} (hport : n.val < s.sku.ports)
    (hup : (s.port n.val).state = 2) (hsince : (s.port n.val).sinceAck ≠ 0) :
    execLinkAcknowledgement n s = .next (s.acknowledge n.val false) := by
  unfold execLinkAcknowledgement
  dsimp only
  rw [if_neg (Nat.not_le.2 hport), if_pos]
  simp [hup, hsince]

/-- Settles O57: each row's codewords are those `Port.sent` names, and its port the one `Port.acknowledged`,
`Port.credited` or `replayFrom_shows` gives. -/
theorem linkLayer : Obligations.LinkLayer := by
  unfold Obligations.LinkLayer
  intro s n hport hup resent
  refine ⟨fun cw => ⟨execCodewordReceive_up cw hport hup, fun hlost => State.receiveCodeword_lost hlost⟩,
    fun ctl hack hwaiting hbeacon hdue => ?_, fun hreplay hstuck => ?_, fun hreplay hstuck => ?_,
    fun hsince hdue hroom => ?_⟩
  · obtain ⟨t, hexec, hcredited, hout⟩ := execLinkCtrl_idle (ctl := ctl) hport hup hack hwaiting hbeacon hdue
    obtain ⟨-, -, -, hcredit0, hcredit1, hcredit2⟩ := (s.port n.val).release_queues ctl.ackSeq
    exact ⟨t, hexec, by rw [hcredited, Port.credited, hcredit0], by rw [hcredited, Port.credited, hcredit1],
      by rw [hcredited, Port.credited, hcredit2], by rw [hcredited]; rfl, hout⟩
  · obtain ⟨hout, hport'⟩ := s.replayFrom_shows n.val
    rw [if_neg (by omega)] at hport'
    exact ⟨_, execAckTimeoutReplay_up hport hup hreplay, by rw [hport'], by rw [hport']; exact hup, hout⟩
  · obtain ⟨hout, hport'⟩ := s.replayFrom_shows n.val
    rw [if_pos (by omega)] at hport'
    exact ⟨_, execAckTimeoutReplay_up hport hup hreplay, by rw [hport'], hout⟩
  · obtain ⟨hout, hport'⟩ := State.acknowledge_out hdue hroom
    refine ⟨_, execLinkAcknowledgement_up hport hup hsince, ?_⟩
    rw [hport']
    exact ⟨rfl, rfl, rfl, rfl, rfl, (s.port n.val).ctrl false, (s.port n.val).ctrlWord false, rfl, rfl, rfl, hout, rfl,
      rfl, rfl, rfl, rfl, rfl⟩

end Sys2Proof.Machine

namespace Sys2Proof.Machine

set_option Elab.async false

/-! ### Ports that train (R312, R317, R318, R322) -/

/-- A training begun: it is counted, and the far end is told the die's address. -/
def State.trains (s : State) (n : Nat) : State :=
  (s.setPort n { s.port n with retrains := (s.port n).retrains + 1 }).emit (.training n (s.dieAddr (n / 4)))

theorem State.trains_port (s : State) (n : Nat) :
    (s.trains n).port n = { s.port n with retrains := (s.port n).retrains + 1 } :=
  (s.setPort_port n n _).trans (if_pos rfl)

theorem State.trains_out (s : State) (n : Nat) : Out.training n (s.dieAddr (n / 4)) ∈ (s.trains n).out :=
  List.mem_append_right _ List.mem_cons_self

theorem State.train_eq (s : State) (n : Nat) (t : Training) : s.train n t true =
    if t.ok && (s.port n).live &&& t.locked != 0 then
      (((s.trains n).setPort n (((s.trains n).port n).trained t)).replayAll n).lateBeacon n
    else if ((s.trains n).port n).state = 0 then
      (s.trains n).setPort n { (s.trains n).port n with live := (s.port n).live &&& t.locked }
    else
      if 3 ≤ ((s.trains n).port n).fails + 1 || (s.port n).live &&& t.locked = 0 then
        ((s.trains n).setPort n { (s.trains n).port n with
          live := (s.port n).live &&& t.locked, fails := ((s.trains n).port n).fails + 1 }).portDown n
      else (s.trains n).setPort n { (s.trains n).port n with
          live := (s.port n).live &&& t.locked, fails := ((s.trains n).port n).fails + 1 } := rfl

/-- The state in which a port has come up, before it sends a beacon. -/
def State.trainedUp (s : State) (n : Nat) (t : Training) : State :=
  ((s.trains n).setPort n (((s.trains n).port n).trained t)).replayAll n

theorem State.train_up {s : State} {n : Nat} {t : Training} (hok : t.ok = true)
    (hlane : (s.port n).live &&& t.locked ≠ 0) : s.train n t true = (s.trainedUp n t).lateBeacon n := by
  rw [State.train_eq, if_pos (by rw [hok, bne_iff_ne.2 hlane]; rfl)]
  rfl

theorem State.trainedUp_port (s : State) (n : Nat) (t : Training) : (s.trainedUp n t).port n =
    Port.trained { s.port n with retrains := (s.port n).retrains + 1 } t := by
  rw [State.trainedUp, State.replayAll_eq, ← s.trains_port n]
  exact (State.setPort_port _ n n _).trans (if_pos rfl)

theorem State.trainedUp_out (s : State) (n : Nat) (t : Training) :
    Out.training n (s.dieAddr (n / 4)) ∈ (s.trainedUp n t).out := by
  rw [State.trainedUp, State.replayAll_eq]
  exact List.mem_append_left _ (s.trains_out n)

theorem State.trainedUp_beaconNow (s : State) (n : Nat) (t : Training) :
    (s.trainedUp n t).beaconNow = s.beaconNow := by
  have htraffic : (s.trainedUp n t).besidesTraffic = s.besidesTraffic := by
    rw [State.trainedUp, State.replayAll_eq]
    rfl
  exact State.reads_same htraffic State.beaconNow

/-- A beacon changes nothing of a port that lasts, and takes nothing back. -/
theorem State.lateBeacon_shows (s : State) (n : Nat) :
    (s.lateBeacon n).firmPorts = s.firmPorts ∧ s.out <+: (s.lateBeacon n).out := by
  unfold State.lateBeacon
  split
  · refine ⟨(State.firmPorts_pumpPort _ n).trans (State.firmPorts_modPort (by intro _; rfl) s n), ?_⟩
    exact State.pumpPort_sends n (State.modPort_sends n _ (Sends.refl s))
  · exact ⟨s.firmPorts_pumpPort n, State.pumpPort_sends n (Sends.refl s)⟩

/-- Where there is no beacon to send, a port with nothing to send is left as it is. -/
theorem State.lateBeacon_none {s : State} {n : Nat} (hnone : s.beaconNow n = none) (hwaiting : (s.port n).waiting = [])
    (hbeacon : (s.port n).beaconDue = 0) (hdue : (s.port n).ctrlDue = none) : (s.lateBeacon n).port n = s.port n := by
  rw [State.lateBeacon, hnone]
  exact (State.pumpPort_idle hwaiting hbeacon hdue).2

theorem Port.trained_queues (p : Port) (t : Training) (hwaiting : p.waiting = []) (hbeacon : p.beaconDue = 0)
    (hdue : p.ctrlDue = none) :
    (p.trained t).waiting = [] ∧ (p.trained t).beaconDue = 0 ∧ (p.trained t).ctrlDue = none := by
  unfold Port.trained
  dsimp only
  split
  · exact ⟨hwaiting, rfl, rfl⟩
  · exact ⟨hwaiting, hbeacon, hdue⟩

/-- A port that carried a link before keeps its link layer; one that was down begins anew. -/
theorem Port.trained_again {p : Port} (t : Training) (hwidth : p.width ≠ 0) : p.trained t =
    { p with state := 2, live := p.live &&& t.locked, width := BitVec.ofNat 8 (popCount (p.live &&& t.locked).toNat 8)
             peer := t.peer, delayNs := t.delayNs, fails := 0, stuck := 0, nakSent := false } :=
  if_neg (by simpa using hwidth)

theorem Port.trained_anew {p : Port} (t : Training) (hwidth : p.width = 0) :
    (p.trained t).state = 2 ∧ (p.trained t).replay = [] ∧ (p.trained t).txSeq = 0 ∧ (p.trained t).rxSeq = 0 := by
  unfold Port.trained
  dsimp only
  rw [if_pos (by simpa using hwidth)]
  exact ⟨rfl, rfl, rfl, rfl⟩

/-- A training that fails for the third time takes a port down. -/
theorem State.train_down {s : State} {n : Nat} {t : Training} (hfailed : t.ok = false) (htraining : (s.port n).state = 1)
    (hfails : 2 ≤ (s.port n).fails) :
    ((s.train n t true).port n).state = 0 ∧ ((s.train n t true).port n).width = 0 := by
  have hport := s.trains_port n
  have hstate : ¬ ((s.trains n).port n).state = 0 := by rw [hport]; simp [htraining]
  have hthird : (decide (3 ≤ ((s.trains n).port n).fails + 1) || decide ((s.port n).live &&& t.locked = 0)) = true := by
    have hsame : ((s.trains n).port n).fails = (s.port n).fails := by rw [hport]
    simp only [hsame, Bool.or_eq_true, decide_eq_true_eq]
    omega
  rw [State.train_eq, hfailed, Bool.false_and, if_neg (by decide), if_neg hstate, if_pos hthird]
  exact State.portStops_port _ n 0

theorem State.train_failedDown {s : State} {n : Nat} {t : Training} (hfailed : t.ok = false)
    (hdown : (s.port n).state = 0) : ((s.train n t true).port n).state = 0 := by
  have hstate : ((s.trains n).port n).state = 0 := by rw [s.trains_port]; exact hdown
  rw [State.train_eq, hfailed, Bool.false_and, if_neg (by decide), if_pos hstate, State.setPort_port, if_pos rfl]
  exact hstate

/-- Settles O58: a port that comes up is `trainedUp`, and its beacon leaves what lasts of it; one that fails goes the
way of `portStops`. -/
theorem portsTrain : Obligations.PortsTrain := by
  unfold Obligations.PortsTrain
  intro s n t hport hlink hruns p
  have htraining : (s.port n.val).state = 1 → execLinkTraining n t s = .next (s.train n.val t true) := fun hstate => by
    unfold execLinkTraining
    dsimp only
    rw [if_neg (Nat.not_le.2 hport), if_pos (by simp [hlink, hstate, hruns])]
  have hretry : (s.port n.val).state = 0 → execDownPortRetry n t s = .next (s.train n.val t true) := fun hstate => by
    unfold execDownPortRetry
    dsimp only
    rw [if_neg (Nat.not_le.2 hport), if_pos (by simp [hlink, hstate, hruns])]
  refine ⟨fun hok hlane hwaiting hbeacon hdue => ?_, fun hfailed hstate hfails => ?_, fun hfailed hstate => ?_⟩
  · have hup := s.trainedUp_port n.val t
    obtain ⟨hfirm, hout⟩ := (s.trainedUp n.val t).lateBeacon_shows n.val
    obtain ⟨hstate', -, hlive, hpeer, hdelay, hretrains, hrx⟩ := Port.eq_of_firm (congrFun hfirm n.val)
    obtain ⟨hw, hb, hd⟩ := Port.trained_queues { s.port n.val with retrains := (s.port n.val).retrains + 1 } t
      hwaiting hbeacon hdue
    have hidle : s.beaconNow n.val = none → ((s.trainedUp n.val t).lateBeacon n.val).port n.val =
        Port.trained { s.port n.val with retrains := (s.port n.val).retrains + 1 } t := fun hnone => by
      rw [← hup] at hw hb hd ⊢
      exact State.lateBeacon_none (by rw [State.trainedUp_beaconNow]; exact hnone) hw hb hd
    rw [hup] at hstate' hlive hpeer hdelay hretrains hrx
    refine ⟨fun hstate hwidth => ?_, fun hstate hwidth => ?_⟩
    · have hagain := Port.trained_again (p := { s.port n.val with retrains := (s.port n.val).retrains + 1 }) t hwidth
      rw [hagain] at hstate' hlive hpeer hdelay hretrains hidle
      refine ⟨_, (htraining hstate).trans (congrArg _ (State.train_up hok hlane)), hstate', hlive, fun hnone => ?_, hpeer,
        hdelay, hretrains, hout.subset (s.trainedUp_out n.val t)⟩
      rw [hidle hnone]
      exact ⟨rfl, rfl⟩
    · obtain ⟨hstate2, hreplay, htx, hrx0⟩ :=
        Port.trained_anew (p := { s.port n.val with retrains := (s.port n.val).retrains + 1 }) t hwidth
      refine ⟨_, (hretry hstate).trans (congrArg _ (State.train_up hok hlane)), hstate'.trans hstate2, fun hnone => ?_,
        hrx.trans hrx0⟩
      rw [hidle hnone]
      exact ⟨hreplay, htx⟩
  · exact ⟨_, htraining hstate, State.train_down hfailed hstate hfails⟩
  · exact ⟨_, hretry hstate, State.train_failedDown hfailed hstate⟩

end Sys2Proof.Machine

namespace Sys2Proof.Machine

set_option Elab.async false

/-! ### Committed images stay (R226, R239) -/

/-- The images that are committed. -/
def State.committed (s : State) : List Image := s.images.filter (fun i => i.committed)

@[simp] theorem State.committed_modPage (s : State) (c : Slot) (p : Nat) (f : Page → Page) :
    (s.modPage c p f).committed = s.committed := rfl

@[simp] theorem State.committed_scrubCorrected (s : State) (q : Slot × Nat) :
    (s.scrubCorrected q).committed = s.committed := by
  unfold State.scrubCorrected
  split <;> rfl

@[simp] theorem State.committed_correct (s : State) (c : Slot) (a n : Nat) : (s.correct c a n).committed = s.committed :=
  foldl_shows State.committed (by intro _ _; exact State.committed_scrubCorrected _ _) _ s

@[simp] theorem State.committed_meet (s : State) (c : Slot) (a : Nat) : (s.meet c a).committed = s.committed := by
  unfold State.meet State.countBad
  dsimp only
  split
  · split_ifs <;> rfl
  · rfl
  · rfl

@[simp] theorem State.committed_meetPage (s : State) (c : Slot) (p : Nat) : (s.meetPage c p).committed = s.committed :=
  (foldl_shows State.committed (fun _ _ => State.committed_meet _ _ _) _ _).trans (State.committed_correct _ _ _ _)

@[simp] theorem State.committed_leaveFrame (s : State) (c : Slot) (p : Nat) :
    (s.leaveFrame c p).committed = s.committed := by
  rw [← s.committed_meetPage c p]
  unfold State.leaveFrame
  dsimp only
  split <;> rfl

@[simp] theorem State.committed_ddrFrame (s : State) (d : Nat) : (s.ddrFrame d).1.committed = s.committed := by
  unfold State.ddrFrame
  split
  · rfl
  · split
    · rfl
    · dsimp only
      split
      · rfl
      · exact State.committed_leaveFrame _ _ _

@[simp] theorem State.committed_placePage (s : State) (c : Slot) (p : Nat) (pg : Page) (stay : Tier) :
    (s.placePage c p pg stay).committed = s.committed := by
  unfold State.placePage
  dsimp only
  split
  · rfl
  · split
    · rfl
    · split
      · simp
      · split
        · split <;> simp
        · simp

@[simp] theorem State.committed_switchPage (s : State) (c : Slot) (p : Nat) (pg : Page) (t : Tier) :
    (s.switchPage c p pg t).committed = s.committed := by
  unfold State.switchPage
  rw [State.committed_modPage]
  split
  · split <;> simp
  · simp

@[simp] theorem State.committed_touchPage (s : State) (c : Slot) (p : Nat) : (s.touchPage c p).committed = s.committed := by
  have hresident (t : State) (pg : Page) (x : Nat) : (t.touchResident c p pg x).committed = t.committed := by
    unfold State.touchResident
    split <;> simp
  unfold State.touchPage
  split
  · rfl
  · dsimp only
    split
    · split <;> simp
    · split <;> simp [hresident]
    · simp

/-- A capture takes its page before a write, and only into an image that is not committed. -/
@[simp] theorem State.committed_captureFirst (s : State) (c : Slot) (p : Nat) :
    (s.captureFirst c p).committed = s.committed := by
  unfold State.captureFirst State.committed
  dsimp only
  induction s.images with
  | nil => rfl
  | cons i l ih =>
    have hcapture : (i.capture s.mem c p).committed = i.committed := rfl
    rw [List.map_cons, List.filter_cons, List.filter_cons, ih]
    cases hi : i.committed with
    | true => simp [hi]
    | false => rw [Bool.not_false, Bool.true_and]; split <;> simp [hi, hcapture]

@[simp] theorem State.committed_writePage (s : State) (c : Slot) (p : Nat) :
    (s.writePage c p).committed = s.committed := by
  unfold State.writePage
  dsimp only
  split
  · simp
  · split
    · simp
    · split <;> simp

@[simp] theorem State.committed_land (s : State) (c : Slot) (a : Nat) (b : Bytes) : (s.land c a b).committed = s.committed :=
  foldl_shows State.committed (fun s p => s.committed_writePage c p) _ s

@[simp] theorem State.committed_store (s : State) (c : Slot) (a : Nat) (b : Bytes) :
    (s.store c a b).committed = s.committed := by
  unfold State.store
  split_ifs
  · rfl
  · exact s.committed_land c a b
  · exact foldl_shows State.committed (fun s p => s.committed_land c _ _) _ s

/-! #### Completions and records -/

@[simp] theorem State.committed_emit (s : State) (o : Out) : (s.emit o).committed = s.committed := rfl

@[simp] theorem State.committed_setRing (s : State) (r : Ring) (x : CmplRing) : (s.setRing r x).committed = s.committed := by
  cases r <;> rfl

@[simp] theorem State.committed_sendMsix (s : State) (f : Func) (v : U8) : (s.sendMsix f v).committed = s.committed := by
  unfold State.sendMsix
  dsimp only
  split <;> rfl

@[simp] theorem State.committed_ringMessage (s : State) (r : Ring) : (s.ringMessage r).committed = s.committed := by
  simp [State.ringMessage]

@[simp] theorem State.committed_writeCmpl (s : State) (r : Ring) (e : Cmpl) : (s.writeCmpl r e).committed = s.committed := by
  unfold State.writeCmpl
  cases r with
  | module => dsimp only; split <;> simp
  | ctx c => dsimp only; split_ifs <;> simp

@[simp] theorem State.committed_post (s : State) (r : Ring) (e : Cmpl) : (s.post r e).committed = s.committed := by
  unfold State.post
  dsimp only
  split_ifs <;> simp

@[simp] theorem State.committed_postCtx (s : State) (c : Slot) (e : Cmpl) : (s.postCtx c e).committed = s.committed := by
  unfold State.postCtx
  split
  · exact s.committed_post _ e
  · rfl

@[simp] theorem State.committed_noticeCompletions (s : State) (r : LogRec) :
    (s.noticeCompletions r).committed = s.committed := by
  unfold State.noticeCompletions
  dsimp only
  split_ifs <;> simp

@[simp] theorem State.committed_dropRecord (s : State) (r : LogRec) : (s.dropRecord r).committed = s.committed :=
  (State.committed_noticeCompletions _ _).trans
    (State.unnoticed (State.besidesNotices_noticeMessages _ r) State.committed)

@[simp] theorem State.committed_raise (s : State) (e : Event) : (s.raise e).committed = s.committed := by
  unfold State.raise
  dsimp only
  split
  · rfl
  · split
    · exact State.committed_dropRecord _ _
    · split
      · rfl
      · split
        · rfl
        · exact State.committed_dropRecord _ _

/-! #### The end of an operation -/

theorem State.committed_scratchUndefined (s : State) (c : Slot) (d : Desc) (run : Option RunData) :
    (s.scratchUndefined c d run).committed = s.committed := by
  unfold State.scratchUndefined
  split
  · split
    · split
      · exact State.committed_store _ _ _ _
      · rfl
    · rfl
  · rfl

theorem State.committed_stashStart (s : State) (c : Slot) (d : Desc) (up : Bool) :
    (s.stashStart c d up).committed = s.committed := by
  unfold State.stashStart
  split <;> rfl

theorem State.committed_stashMod (s : State) (c : Slot) (q : Nat × Nat) (f : StashRing → StashRing) :
    (s.stashMod c q f).committed = s.committed := by
  have hwrite (t : State) (r : StashRing) : (t.stashWrite c r).committed = t.committed := by
    unfold State.stashWrite
    dsimp only
    split
    · rfl
    · exact (State.committed_store _ _ _ _).trans (State.committed_store _ _ _ _)
  unfold State.stashMod
  dsimp only
  split
  · exact (hwrite _ _).trans rfl
  · rfl

theorem State.committed_stashComplete (s : State) (c : Slot) (d : Desc) :
    (s.stashComplete c d).committed = s.committed :=
  (foldl_shows State.committed (fun t q => t.committed_stashMod c q _) _ _).trans
    (foldl_shows State.committed (fun t q => t.committed_stashMod c q _) _ s)

theorem State.committed_freePages (s : State) (c : Slot) (ps : List Nat) :
    (s.freePages c ps).committed = s.committed :=
  (foldl_shows State.committed (by intro _ _; rfl) _ _).trans
    (show (State.modCtx _ c _).committed = s.committed from
      foldl_shows State.committed (fun t p => t.committed_captureFirst c p) ps s)

theorem State.committed_freeAfter (s : State) (c : Slot) (n : Nat) : (s.freeAfter c n).committed = s.committed := by
  unfold State.freeAfter
  dsimp only
  refine (foldl_shows State.committed (fun t f => ?_) _ _).trans rfl
  exact t.committed_freePages c _

theorem State.committed_completeLists (s : State) (c : Slot) : (s.completeLists c).committed = s.committed := by
  refine foldl_shows State.committed (fun t l => ?_) _ s
  dsimp only
  split
  · rfl
  · exact (State.committed_postCtx _ _ _).trans rfl

theorem State.committed_finishOp (s : State) (c : Slot) (o : OpRec) (status : U16) (started : Bool) :
    (s.finishOp c o status started).committed = s.committed := by
  rw [← s.committed_scratchUndefined c o.desc o.run]
  unfold State.finishOp
  extract_lets s1 s2 s3 s4 s5 s6 s7 s8 post s9
  have h3 : s3.committed = s1.committed := by
    dsimp only [s3]
    split <;> rfl
  have h4 : s4.committed = s3.committed := by
    dsimp only [s4]
    split
    · exact s3.committed_stashStart c o.desc false
    · rfl
  have h5 : s5.committed = s4.committed := by
    dsimp only [s5]
    split
    · exact s4.committed_stashComplete c o.desc
    · rfl
  have h8 : s8.committed = s5.committed := (s7.committed_freeAfter c o.n).trans rfl
  have h9 : s9.committed = s8.committed := by
    dsimp only [s9]
    split
    · exact s8.committed_postCtx c _
    · rfl
  rw [s9.committed_completeLists, h9, h8, h5, h4, h3]

end Sys2Proof.Machine

namespace Sys2Proof.Machine

set_option Elab.async false

/-! ### Records of a module that holds no pages (R369, R426) -/

theorem State.allocated_none {s : State} {c : Slot} (h : (s.ctx c).pool.pages = []) (a : Nat) :
    s.allocated c a 64 = false := by
  have husable : ∀ p, (s.ctx c).usable p = false := fun p => by simp [Ctx.usable, Ctx.page, h, kvGet]
  simp only [State.allocated, husable, Bool.or_eq_false_iff, Bool.and_eq_false_iff, List.all_eq_false]
  exact ⟨rfl, .inr ⟨0, by simp, by simp⟩⟩

/-- From `s` to `t` the pages, the bytes and the images are the same. -/
structure Bare (s t : State) : Prop where
  mem : t.mem = s.mem
  poison : t.poison = s.poison
  images : t.images = s.images
  pages : ∀ c, (t.ctx c).pool.pages = (s.ctx c).pool.pages

theorem Bare.refl (s : State) : Bare s s := ⟨rfl, rfl, rfl, fun _ => rfl⟩

theorem Bare.trans {s t u : State} (h : Bare s t) (k : Bare t u) : Bare s u :=
  ⟨k.mem.trans h.mem, k.poison.trans h.poison, k.images.trans h.images, fun c => (k.pages c).trans (h.pages c)⟩

theorem State.modCtx_bare (s : State) (c : Slot) {f : Ctx → Ctx} (hf : ∀ x, (f x).pool.pages = x.pool.pages) :
    Bare s (s.modCtx c f) := by
  refine ⟨rfl, rfl, rfl, fun d => ?_⟩
  rw [State.modCtx_ctx]
  split
  · next h => rw [hf, h]
  · rfl

theorem State.setRing_bare (s : State) (r : Ring) (x : CmplRing) : Bare s (s.setRing r x) := by
  cases r with
  | module => exact ⟨rfl, rfl, rfl, fun _ => rfl⟩
  | ctx c => exact s.modCtx_bare c (f := fun y => { y with ring := x }) (fun _ => rfl)

theorem State.sendMsix_bare (s : State) (f : Func) (v : U8) : Bare s (s.sendMsix f v) := by
  unfold State.sendMsix
  dsimp only
  split <;> exact ⟨rfl, rfl, rfl, fun _ => rfl⟩

theorem State.ringMessage_bare (s : State) (r : Ring) : Bare s (s.ringMessage r) :=
  (s.setRing_bare r _).trans (State.sendMsix_bare _ _ _)

section bare
variable {s t : State} (hnone : ∀ c, (s.ctx c).pool.pages = []) (hk : Bare s t)
include hnone hk

/-- A completion finds no submission ring to write its tail to. -/
theorem State.writeCmpl_bare (r : Ring) (e : Cmpl) : Bare s (t.writeCmpl r e) := by
  have hsent : Bare s (t.entrySent r e) := (hk.trans (t.setRing_bare r _)).trans ⟨rfl, rfl, rfl, fun _ => rfl⟩
  have hout : Bare s (t.entryOut r e) := by
    cases r with
    | module => exact hsent
    | ctx c =>
      unfold State.entryOut
      dsimp only
      rw [State.allocated_none ((hsent.pages c).trans (hnone c)), Bool.and_false, Bool.false_and, if_neg (by decide)]
      exact hsent
  rw [State.writeCmpl_eq]
  split
  · exact hout.trans (State.ringMessage_bare _ r)
  · exact hout

theorem State.post_bare (r : Ring) (e : Cmpl) : Bare s (t.post r e) := by
  unfold State.post
  dsimp only
  split
  · exact State.writeCmpl_bare hnone hk r e
  · split
    · exact hk.trans (t.setRing_bare r _)
    · exact hk.trans (t.setRing_bare r _)

theorem State.postCtx_bare (c : Slot) (e : Cmpl) : Bare s (t.postCtx c e) := by
  unfold State.postCtx
  split
  · exact State.post_bare hnone hk _ e
  · exact hk.trans (t.modCtx_bare c (fun _ => rfl))

theorem State.dropRecord_bare (r : LogRec) : Bare s (t.dropRecord r) := by
  have hmessages : ∀ u : State, Bare u (u.noticeMessages r) := fun u =>
    ⟨u.noticeMessages_mem r, State.unnoticed (u.besidesNotices_noticeMessages r) State.poison,
      State.unnoticed (u.besidesNotices_noticeMessages r) State.images, fun c => by rw [u.noticeMessages_ctx r]⟩
  have hcounted : Bare s ({ t with log := t.log.countDrop r.severity } : State) :=
    hk.trans ⟨rfl, rfl, rfl, fun _ => rfl⟩
  have hsent := hcounted.trans (hmessages _)
  unfold State.dropRecord State.noticeCompletions
  dsimp only
  split
  · have hpost := State.post_bare hnone hsent .module
    split
    · exact hpost _
    · exact State.postCtx_bare hnone (hpost _) _ _
  · exact hsent

theorem State.raise_bare (e : Event) : Bare s (t.raise e) := by
  have hlog : ∀ l, Bare s { t with log := l } := fun l => hk.trans ⟨rfl, rfl, rfl, fun _ => rfl⟩
  unfold State.raise
  dsimp only
  split
  · exact hlog _
  · split
    · exact State.dropRecord_bare hnone (hlog _) _
    · split
      · exact hlog _
      · split
        · exact hlog _
        · exact State.dropRecord_bare hnone (hlog _) _

end bare

/-! ### What a stop ends (R369, R426, R433) -/

/-- Operations finished one after the other: none of them runs any more, and no other begins to. -/
theorem State.foldl_finishOp_ends (c : Slot) (started : Bool) (st : OpRec → U16) (l : List OpRec) (s : State) :
    RunsWithin s (l.foldl (fun s o => s.finishOp c o (st o) started) s) ∧
      ∀ x ∈ (l.foldl (fun s o => s.finishOp c o (st o) started) s).streams c, x.st = .running → ∀ o ∈ l, x.n ≠ o.n := by
  induction l generalizing s with
  | nil => exact ⟨.refl s, by simp⟩
  | cons o l ih =>
    obtain ⟨hwithin, hgone⟩ := s.finishOp_ends c o (st o) started
    obtain ⟨hrest, hothers⟩ := ih (s.finishOp c o (st o) started)
    refine ⟨hwithin.trans hrest, fun x hx hr => List.forall_mem_cons.2 ⟨?_, hothers x hx hr⟩⟩
    exact hgone x (hrest.runs c x hx hr) hr

/-- A slot stopped, and its capture dropped. -/
def State.halted (s : State) (c : Slot) : State := (s.stopSlot c).modTrain c CtxTrain.dropCapture

theorem State.halted_ends (s : State) (c : Slot) :
    RunsWithin s (s.halted c) ∧ ∀ x ∈ (s.halted c).streams c, x.st ≠ .running := by
  have htrain : RunsWithin (s.stopSlot c) (s.halted c) :=
    .of_waitsView (State.waitsView_modCtx (by intro _; rfl) (s.stopSlot c) c)
  obtain ⟨hwithin, hgone⟩ := State.foldl_finishOp_ends c true
    (fun o => match o.run with | some r => r.fault.getD St.coolantFault | none => St.coolantFault)
    ((s.ctx c).stream.ops.filter (fun o => o.st == .running)) s
  refine ⟨hwithin.trans htrain, fun x hx hr => ?_⟩
  have hstopped := htrain.runs c x hx hr
  exact hgone x hstopped hr x (List.mem_filter.2 ⟨hwithin.runs c x hstopped hr, by simp [hr]⟩) rfl

theorem State.halted_committed (s : State) (c : Slot) : (s.halted c).committed = s.committed :=
  foldl_shows State.committed (fun t o => t.committed_finishOp c o _ true) _ s

theorem State.foldl_halted_ends (l : List Slot) (s : State) : RunsWithin s (l.foldl State.halted s) ∧
    ∀ c ∈ l, ∀ x ∈ (l.foldl State.halted s).streams c, x.st ≠ .running := by
  induction l generalizing s with
  | nil => exact ⟨.refl s, by simp⟩
  | cons c l ih =>
    obtain ⟨hwithin, hnone⟩ := s.halted_ends c
    obtain ⟨hrest, hothers⟩ := ih (s.halted c)
    exact ⟨hwithin.trans hrest, List.forall_mem_cons.2
      ⟨fun x hx hr => hnone x (hrest.runs c x hx hr) hr, hothers⟩⟩

/-- A slot without pages. -/
def Ctx.pageless (x : Ctx) : Ctx := { x with pool := { x.pool with pages := [], pendingFrees := [] } }

theorem State.loseRanges_shows (s : State) : s.loseRanges.mem = [] ∧ s.loseRanges.poison = [] ∧
    s.loseRanges.images = s.committed ∧ s.loseRanges.arrays = s.arrays ∧ s.loseRanges.boot = s.boot ∧
    ∀ c, s.loseRanges.ctx c = (s.ctx c).pageless := by
  have hnodup := slots_nodup
  have hmem := mem_slots
  unfold State.loseRanges
  dsimp only
  generalize slots = l at *
  have hreads : ∀ {β : Type} (g : State → β), (∀ t c, g (State.modCtx t c Ctx.pageless) = g t) →
      g (l.foldl (fun t c => t.modCtx c Ctx.pageless) s) = g s := fun g hg => foldl_shows g hg l s
  exact ⟨rfl, rfl, hreads State.committed fun _ _ => rfl, hreads State.arrays fun _ _ => rfl,
    hreads State.boot fun _ _ => rfl,
    fun c => (State.foldl_modCtx_ctx Ctx.pageless hnodup s c).trans (if_pos (hmem c))⟩

theorem State.dropCopied_shows (s : State) : ∃ b : Boot, s.dropCopied = { s with boot := b } ∧ b.life = s.boot.life := by
  unfold State.dropCopied
  split
  · exact ⟨_, rfl, rfl⟩
  · exact ⟨_, rfl, rfl⟩

/-- What a stop leaves, but for the record of it. -/
structure Stopped (s t : State) : Prop where
  life : t.boot.life = s.boot.life.afterStop
  afterThermal : t.boot.afterThermal = true
  mem : t.mem = []
  poison : t.poison = []
  arrays : t.arrays = .empty
  images : t.images = s.committed
  pages : ∀ c, (t.ctx c).pool.pages = []
  ops : ∀ c, ∀ o ∈ t.streams c, o.st ≠ .running

theorem Stopped.raise {s t : State} (h : Stopped s t) (e : Event) : Stopped s (t.raise e) := by
  have hbare := State.raise_bare h.pages (.refl t) e
  have hrecords := t.besidesRecords_raise e
  have hboot := State.unrecorded hrecords State.boot
  refine ⟨?_, ?_, hbare.mem.trans h.mem, hbare.poison.trans h.poison, (State.unrecorded hrecords State.arrays).trans h.arrays,
    hbare.images.trans h.images, fun c => (hbare.pages c).trans (h.pages c), ?_⟩
  · rw [hboot]; exact h.life
  · rw [hboot]; exact h.afterThermal
  · rw [State.streams_of_standing (t.standing_raise e)]; exact h.ops

/-- All slots stopped. -/
def State.haltAll (s : State) : State := slots.foldl State.halted s

theorem State.haltAll_shows (s : State) : s.haltAll.boot = s.boot ∧ s.haltAll.committed = s.committed ∧
    ∀ c, ∀ o ∈ s.haltAll.streams c, o.st ≠ .running := by
  obtain ⟨hwithin, hnone⟩ := State.foldl_halted_ends slots s
  exact ⟨(State.eq_of_clock hwithin.clock).2.1, foldl_shows State.committed State.halted_committed slots s,
    fun c => hnone c (mem_slots c)⟩

/-- The module with its slots stopped, its arrays off and its ranges lost. -/
def State.darkened (s : State) : State :=
  ({ s.haltAll.mapBlocks (fun x => { x with taking := [] }) with arrays := .empty } : State).loseRanges

/-- The same with the module's life ended. -/
def State.stoppedAt (s : State) : State :=
  { s.darkened.dropCopied with boot := { s.darkened.dropCopied.boot with
      life := s.darkened.dropCopied.boot.life.afterStop, afterThermal := true, toLearn := none } }

theorem State.thermalStop_eq (s : State) (args : List U64) :
    s.thermalStop args = s.stoppedAt.raiseStatus sevFatal St.coolantFault { Event.blank with args := args } := by
  unfold State.thermalStop State.stoppedAt State.darkened State.haltAll
  generalize slots = l
  rfl

theorem State.darkened_shows (s : State) : s.darkened.mem = [] ∧ s.darkened.poison = [] ∧ s.darkened.arrays = .empty ∧
    s.darkened.images = s.committed ∧ s.darkened.boot = s.boot ∧
    (∀ c, (s.darkened.ctx c).pool.pages = []) ∧ ∀ c, ∀ o ∈ s.darkened.streams c, o.st ≠ .running := by
  obtain ⟨hboot, hcommitted, hops⟩ := s.haltAll_shows
  unfold State.darkened
  generalize s.haltAll = t at *
  obtain ⟨u, hu⟩ : ∃ u : State, { t.mapBlocks (fun x => { x with taking := [] }) with arrays := .empty } = u := ⟨_, rfl⟩
  have hsame : u.arrays = .empty ∧ u.committed = t.committed ∧ u.boot = t.boot ∧ u.ctx = t.ctx := by
    rw [← hu]
    exact ⟨rfl, rfl, rfl, rfl⟩
  obtain ⟨harrays, hcommitted', hboot', hctx'⟩ := hsame
  rw [hu]
  obtain ⟨hmem, hpoison, himages, hkept, hlives, hctx⟩ := u.loseRanges_shows
  refine ⟨hmem, hpoison, hkept.trans harrays, himages.trans (hcommitted'.trans hcommitted),
    hlives.trans (hboot'.trans hboot), fun c => ?_, fun c o ho => ?_⟩
  · rw [hctx]
    rfl
  · rw [State.streams, hctx, hctx'] at ho
    exact hops c o ho

theorem State.stoppedAt_stopped (s : State) : Stopped s s.stoppedAt := by
  obtain ⟨hmem, hpoison, harrays, himages, hboot, hpages, hops⟩ := s.darkened_shows
  obtain ⟨b, hdropped, hlife⟩ := s.darkened.dropCopied_shows
  unfold State.stoppedAt
  rw [hdropped]
  generalize s.darkened = t at *
  exact ⟨congrArg Life.afterStop (hlife.trans (congrArg Boot.life hboot)), rfl, hmem, hpoison, harrays, himages, hpages,
    hops⟩

theorem State.thermalStop_stopped (s : State) (args : List U64) : Stopped s (s.thermalStop args) := by
  rw [State.thermalStop_eq]
  exact s.stoppedAt_stopped.raise _

end Sys2Proof.Machine

namespace Sys2Proof.Machine

set_option Elab.async false

/-! ### Loss of main power (R370, R379, R405) -/

/-- The state without its power figures. -/
def State.besidesPower (s : State) : State := { s with power := Power.reset }

theorem State.unpowered {α : Type} {s t : State} (h : t.besidesPower = s.besidesPower) (g : State → α)
    (hg : ∀ u : State, g u.besidesPower = g u := by intro _; rfl) : g t = g s := by rw [← hg t, h, hg s]

/-- What survives, before the limits in force are set anew. -/
def State.survivors (s : State) (cycle : Bool) : State :=
  { State.reset with
    pending := s.pending, sku := s.sku, ident := s.ident
    ctxs := Vector.ofFn (fun (c : Slot) => { Ctx.reset with gen := (s.ctx c).gen })
    tiers := s.tiers.kept cycle
    images := s.images.filter (fun i => i.committed)
    res := { Resources.reset with notStarted := if cycle then s.res.notStarted else 0 }
    fab := { Fabric.reset with moduleNumber := s.fab.moduleNumber }
    cat := s.cat.kept, power := s.power.kept, log := { s.log with clearMask := 0 }, sec := { s.sec.kept with fw := s.slotsKept }
    boot := { Boot.reset with afterThermal := s.boot.afterThermal, life := s.boot.life }
    out := s.out, freeCtr := s.freeCtr }

theorem State.besidesPower_keep (s : State) (cycle : Bool) :
    (s.keep cycle).besidesPower = (s.survivors cycle).besidesPower := by
  refine foldl_shows State.besidesPower (fun t b => ?_) _ (s.survivors cycle)
  split <;> rfl

theorem State.survivors_ctx (s : State) (cycle : Bool) (c : Slot) :
    (s.survivors cycle).ctx c = { Ctx.reset with gen := (s.ctx c).gen } := Vector.getElem_ofFn c.isLt

/-- What a power cycle keeps and what it does not. -/
theorem State.keep_shows (s : State) (cycle : Bool) : (s.keep cycle).mem = [] ∧
    (s.keep cycle).log = { s.log with clearMask := 0 } ∧ (s.keep cycle).sec.rollback = s.sec.rollback ∧
    (s.keep cycle).ident = s.ident ∧ (s.keep cycle).images = s.committed ∧
    ∀ c, (s.keep cycle).ctx c = { Ctx.reset with gen := (s.ctx c).gen } := by
  have hkept := s.besidesPower_keep cycle
  exact ⟨State.unpowered hkept State.mem, State.unpowered hkept State.log,
    State.unpowered hkept (fun t => t.sec.rollback), State.unpowered hkept State.ident,
    State.unpowered hkept State.images, fun c => (congrFun (State.unpowered hkept State.ctx) c).trans (s.survivors_ctx cycle c)⟩

theorem Logbook.commit_watermarks (l : Logbook) (r : LogRec) : (l.commit r).watermarks = l.watermarks := by
  have hput : ∀ slot old, (l.put r slot old).watermarks = l.watermarks := by
    intro slot old
    cases old with
    | none => rfl
    | some x =>
      show (l.overwrite x).watermarks = _
      unfold Logbook.overwrite
      split <;> rfl
  unfold Logbook.commit
  split
  · rfl
  · split
    · rfl
    · next slot old _ => exact hput slot old

/-- A commit without notices changes the Logbook alone. -/
theorem State.commitRecord_holdup (s : State) (r : LogRec) :
    s.commitRecord r false = { s with log := s.log.commit r } := by
  unfold State.commitRecord Logbook.commit
  dsimp only
  split
  · rfl
  · cases placeOf s.log.primary primaryQuarter r <;> rfl

theorem State.foldl_commit_holdup (l : List LogRec) (s : State) :
    ∃ log, l.foldl (fun s r => s.commitRecord r false) s = { s with log := log } ∧ log.watermarks = s.log.watermarks := by
  induction l generalizing s with
  | nil => exact ⟨_, rfl, rfl⟩
  | cons r l ih =>
    obtain ⟨log, heq, hmarks⟩ := ih { s with log := s.log.commit r }
    rw [List.foldl_cons, s.commitRecord_holdup, heq]
    exact ⟨log, rfl, hmarks.trans (s.log.commit_watermarks r)⟩

/-- In hold-up the queue empties, and the Logbook's stores take what they can. -/
theorem State.commitOnHoldup_eq (s : State) (n : Nat) : ∃ log : Logbook, s.commitOnHoldup n = { s with log := log } ∧
    log.queue = [] ∧ log.watermarks = s.log.watermarks := by
  obtain ⟨log, heq, hmarks⟩ := State.foldl_commit_holdup (s.log.queue.take n) s
  unfold State.commitOnHoldup
  dsimp only
  rw [heq]
  exact ⟨_, rfl, rfl, hmarks⟩

/-- The record of the loss of main power. -/
def powerLost (mv : U32) (ov : Bool) : Event :=
  { Event.blank with severity := sevFatal, event := 0x8012, args := [mv.setWidth 64, if ov then 1 else 0] }

/-- How many records hold-up commits: all of them when its energy is ready. -/
def State.heldUp (s : State) : State × Nat :=
  if s.log.holdupReady then (s, s.log.queue.length)
  else let q := s.draw; (q.1, q.2.toNat % (s.log.queue.length + 1))

theorem State.heldUp_traffic (s : State) : s.heldUp.1.besidesTraffic = s.besidesTraffic := by
  unfold State.heldUp
  split <;> rfl

/-- The module off, with what hold-up commits and what a power cycle keeps. -/
def State.poweredOff (s : State) (n : Nat) : State :=
  { (s.commitOnHoldup n).keep false with boot := { ((s.commitOnHoldup n).keep false).boot with life := .off } }

theorem execPowerLoss_off {s : State} {mv : U32} {ov : Bool} (hlife : s.boot.life ≠ .off)
    (hlow : if ov then 60000 < mv.toNat else mv.toNat < 44000) : execPowerLoss mv ov s =
      .next ((s.raise (powerLost mv ov)).heldUp.1.poweredOff (s.raise (powerLost mv ov)).heldUp.2) := by
  have hcond : (s.boot.life != .off &&
      if ov = true then decide (60000 < mv.toNat) else decide (mv.toNat < 44000)) = true := by
    rw [bne_iff_ne.2 hlife, Bool.true_and]
    cases ov <;> simpa using hlow
  exact if_pos hcond

theorem State.poweredOff_shows (s : State) (n : Nat) : (s.poweredOff n).mem = [] ∧ (s.poweredOff n).log.queue = [] ∧
    (s.poweredOff n).sec.rollback = s.sec.rollback ∧ (s.poweredOff n).ident = s.ident ∧
    (s.poweredOff n).images = s.committed ∧ (s.poweredOff n).log.watermarks = s.log.watermarks ∧
    ∀ c, (s.poweredOff n).ctx c = { Ctx.reset with gen := (s.ctx c).gen } := by
  obtain ⟨log, heq, hqueue, hmarks⟩ := s.commitOnHoldup_eq n
  obtain ⟨hmem, hlog, hrollback, hident, himages, hctx⟩ := (s.commitOnHoldup n).keep_shows false
  rw [heq] at hmem hlog hrollback hident himages hctx
  unfold State.poweredOff
  rw [heq]
  exact ⟨hmem, (congrArg Logbook.queue hlog).trans hqueue, hrollback, hident, himages,
    (congrArg Logbook.watermarks hlog).trans hmarks, hctx⟩

theorem State.raise_watermarks (s : State) (e : Event) : (s.raise e).log.watermarks = s.log.watermarks :=
  State.unrecorded (s.besidesRecords_raise e) (fun t => t.log.watermarks)

theorem Ctx.gen_of_lasting {x y : Ctx} (h : x.lasting = y.lasting) : x.gen = y.gen := by
  have hgen : x.lasting.gen = y.lasting.gen := congrArg Ctx.gen h
  exact hgen

theorem State.raise_gen (s : State) (e : Event) (c : Slot) : ((s.raise e).ctx c).gen = (s.ctx c).gen := by
  obtain ⟨-, -, hlasting, -⟩ := State.eq_of_standing (s.standing_raise e)
  exact Ctx.gen_of_lasting (congrFun (congrArg Prod.snd hlasting) c)

/-- Settles O52: what a stop leaves holds of the state before its record (`stoppedAt_stopped`), and its record finds no
pages to write to; the loss of main power is read off what a power cycle keeps. -/
theorem moduleStops : Obligations.ModuleStops := by
  unfold Obligations.ModuleStops
  refine ⟨fun s cause i hstoppable hi => ?_, fun s mv ov hlife hlow => ?_⟩
  · have hstop : ∃ args, exec i s = .next (s.thermalStop args) := by
      rcases hi with ⟨rfl, hreached, hheld⟩ | rfl
      · refine ⟨[], if_pos ?_⟩
        rw [hstoppable, hreached, Bool.true_and, Bool.true_and]
        cases hlife : (s.boot.life == .held) with
        | false => rfl
        | true => rw [hheld (by simpa using hlife)]; rfl
      · exact ⟨[1], if_pos hstoppable⟩
    obtain ⟨args, hexec⟩ := hstop
    have h := s.thermalStop_stopped args
    refine ⟨_, hexec, h.life, fun hready => ?_, h.afterThermal, h.mem, h.poison, h.arrays, h.images, fun c =>
      ⟨h.pages c, h.ops c⟩⟩
    rw [h.life, hready]
    rfl
  · refine ⟨_, execPowerLoss_off hlife hlow, rfl, ?_⟩
    have htraffic := (s.raise (powerLost mv ov)).heldUp_traffic
    have hrecords := s.besidesRecords_raise (powerLost mv ov)
    obtain ⟨hmem, hqueue, hrollback, hident, himages, hmarks, hctx⟩ := State.poweredOff_shows
      (s.raise (powerLost mv ov)).heldUp.1 (s.raise (powerLost mv ov)).heldUp.2
    refine ⟨hmem, hqueue, ?_, ?_, ?_, ?_, fun c => ?_⟩
    · rw [hrollback, State.reads_same htraffic (fun t => t.sec.rollback)]
      exact State.unrecorded hrecords (fun t => t.sec.rollback)
    · rw [hident, State.reads_same htraffic State.ident]
      exact State.unrecorded hrecords State.ident
    · rw [himages, State.reads_same htraffic State.committed]
      exact s.committed_raise _
    · rw [hmarks, State.reads_same htraffic (fun t => t.log.watermarks)]
      exact s.raise_watermarks _
    · rw [hctx, State.reads_same htraffic State.ctx]
      exact ⟨s.raise_gen _ c, rfl⟩

end Sys2Proof.Machine

namespace Sys2Proof.Machine

set_option Elab.async false

/-! ### Power windows (R358, R364, R366) -/

/-- Main power is there. -/
theorem State.powered_of_on {s : State} (h : s.boot.life ≠ .off) : s.powered = true := by
  rw [State.powered, bne_iff_ne.2 h]
  rfl

theorem State.raise_power (s : State) (e : Event) : (s.raise e).power = s.power :=
  State.unrecorded (s.besidesRecords_raise e) State.power

/-- What a window counts by, and what it counts. -/
def State.counts (s : State) : Sku × Ident := (s.sku, s.ident)

theorem State.gained_shows (s : State) (n : Nat) (gain : F32) :
    (s.gained n gain).1.counts = s.counts ∧ (s.gained n gain).1.power = s.power := by
  unfold State.gained
  split
  · split
    · exact ⟨rfl, rfl⟩
    · dsimp only
      split <;> exact ⟨rfl, rfl⟩
  · exact ⟨rfl, rfl⟩

theorem State.counts_raise (s : State) (e : Event) : (s.raise e).counts = s.counts :=
  State.unrecorded (s.besidesRecords_raise e) State.counts

theorem State.counts_apportion (s : State) (b e : Nat) : (s.apportion b e).counts = s.counts := by
  refine foldl_shows State.counts (fun t q => ?_) (s.sharers b) s
  rfl

theorem State.counts_overLimit (s : State) (b : Nat) : (s.overLimit b).counts = s.counts := by
  have hraise : (s.modBlock b fun x => { x with overRun := 0 }).counts = s.counts := rfl
  unfold State.overLimit
  dsimp only
  split
  · split
    · exact (State.counts_raise _ _).trans hraise
    · exact (State.counts_raise _ _).trans hraise
  · split
    · exact (State.counts_raise _ _).trans hraise
    · exact (State.counts_raise _ _).trans hraise

theorem State.counts_blockWindow (s : State) (r : WindowReadings) (b : Nat) : (s.blockWindow r b).counts = s.counts := by
  have hgained := (s.gained_shows (sumNat (fun (q : Nat × Nat) => q.2) (r.energy.filter (fun q => q.1 == b)))
    (s.effective (0x2010 + b))).1
  unfold State.blockWindow
  dsimp only
  rw [← hgained]
  generalize s.gained _ _ = q
  obtain ⟨t, e⟩ := q
  have hlimit : ∀ u : State, (u.setLimit b).counts = u.counts := fun _ => rfl
  dsimp only
  rw [hlimit, apply_ite State.counts, State.counts_overLimit, State.counts_apportion, ite_self]
  rfl

theorem State.retireLimits_shows (s : State) : s.retireLimits.counts = s.counts ∧ s.retireLimits.power = s.power :=
  ⟨foldl_shows State.counts (fun t _ => t.counts_raise _) _ _, foldl_shows State.power (fun t _ => t.raise_power _) _ _⟩

theorem State.verifyStaged_counts (s : State) : s.verifyStaged.counts = s.counts ∧ s.verifyStaged.power = s.power := by
  unfold State.verifyStaged
  split
  · exact ⟨rfl, rfl⟩
  · dsimp only
    have hnoted : ∀ t : State, (s.boot.verifying.foldl State.noteStaged t).besidesMinor = t.besidesMinor := fun t =>
      foldl_shows State.besidesMinor (fun u img => u.besidesMinor_noteStaged img) _ t
    have hreads : ∀ t : State, (s.boot.verifying.foldl State.noteStaged t).counts = t.counts ∧
        (s.boot.verifying.foldl State.noteStaged t).power = t.power := fun t =>
      ⟨State.minor_reads (hnoted t) State.counts, State.minor_reads (hnoted t) State.power⟩
    split <;> exact hreads _

/-- The sensors are taken over; the blocks and the module's power are those of the window. -/
theorem State.readSensors_shows (s : State) (r : WindowReadings) : (s.readSensors r).counts = s.counts ∧
    (s.readSensors r).power.busbarMv = r.busbarMv ∧ (s.readSensors r).power.inletMc = r.inletMc ∧
    (s.readSensors r).power.outletMc = r.outletMc ∧ (s.readSensors r).power.dpPa = r.dpPa ∧
    (s.readSensors r).power.modulePower = s.power.modulePower ∧ (s.readSensors r).power.blocks = s.power.blocks := by
  obtain ⟨hcounts, hpower⟩ := s.gained_shows r.flowMl.toNat (s.effective 0x2100)
  unfold State.readSensors
  generalize s.gained _ _ = q at *
  obtain ⟨t, flow⟩ := q
  have hsame : ∀ {α : Type} (g : Power → α), g t.power = g s.power := fun g => congrArg g hpower
  exact ⟨hcounts, rfl, rfl, rfl, rfl, hsame Power.modulePower, hsame Power.blocks⟩

/-- A window's end: the blocks first, then the sums, then the sensors and what is due. -/
theorem execPowerWindowEnd_shows {s : State} (r : WindowReadings) (hlife : s.boot.life ≠ .off) :
    ∃ t, execPowerWindowEnd r s = .next t ∧ t.ident.operatingMs = s.ident.operatingMs + 1 ∧
      t.power.busbarMv = r.busbarMv ∧ t.power.inletMc = r.inletMc ∧ t.power.outletMc = r.outletMc ∧
      t.power.dpPa = r.dpPa ∧
      t.power.modulePower = BitVec.ofNat 32 (sumNat (fun b => (t.block b).power.toNat) t.sku.blocks) := by
  obtain ⟨u, hu⟩ : ∃ u : State, { s with ident := { s.ident with operatingMs := s.ident.operatingMs + 1 } } = u := ⟨_, rfl⟩
  obtain ⟨v, hv⟩ : ∃ v : State, s.sku.blocks.foldl (fun s b => s.blockWindow r b) u = v := ⟨_, rfl⟩
  obtain ⟨w, hw⟩ : ∃ w : State, { v with power := { v.power with
    modulePower := BitVec.ofNat 32 (sumNat (fun b => (v.block b).power.toNat) v.sku.blocks) } } = w := ⟨_, rfl⟩
  have hexec : execPowerWindowEnd r s = .next ((w.readSensors r).retireLimits).verifyStaged := by
    subst hw hv hu
    exact if_neg (by simpa using hlife)
  have hcounts : w.counts = u.counts := by
    rw [← hw, ← hv]
    exact foldl_shows State.counts (fun t b => t.counts_blockWindow r b) _ u
  have hblocks : w.power.modulePower = BitVec.ofNat 32 (sumNat (fun b => (w.block b).power.toNat) w.sku.blocks) := by
    rw [← hw]
    rfl
  obtain ⟨hread, hbusbar, hinlet, houtlet, hdp, hmodule, hsame⟩ := w.readSensors_shows r
  obtain ⟨hretired, hpower⟩ := (w.readSensors r).retireLimits_shows
  obtain ⟨hverified, hpower'⟩ := (w.readSensors r).retireLimits.verifyStaged_counts
  have hend := hverified.trans (hretired.trans (hread.trans hcounts))
  refine ⟨_, hexec, ?_, ?_, ?_, ?_, ?_, ?_⟩
  · have hms : u.ident.operatingMs = s.ident.operatingMs + 1 := by rw [← hu]
    rw [← hms]
    exact congrArg (fun q : Sku × Ident => q.2.operatingMs) hend
  · rw [hpower', hpower, hbusbar]
  · rw [hpower', hpower, hinlet]
  · rw [hpower', hpower, houtlet]
  · rw [hpower', hpower, hdp]
  · have hsku : (w.readSensors r).retireLimits.verifyStaged.sku = w.sku :=
      congrArg Prod.fst (hverified.trans (hretired.trans hread))
    have hblock : ∀ b, (w.readSensors r).retireLimits.verifyStaged.block b = w.block b := fun b => by
      simp only [State.block, hpower', hpower, hsame]
    simp only [hpower', hpower, hmodule, hsku, hblock, hblocks]

/-! ### The conditions of cooling and supply (R367, R368) -/

theorem State.lowerAll_shows (s : State) : s.lowerAll.power.thermalDies = s.power.thermalDies ∧
    s.lowerAll.power.coolantDerate = s.power.coolantDerate ∧ s.lowerAll.power.supplyDerate = s.power.supplyDerate := by
  have hreads : ∀ {β : Type} (g : State → β), (∀ t b, g (State.lowerLimit t b) = g t) → g s.lowerAll = g s :=
    fun g hg => foldl_shows g hg s.sku.blocks s
  have hlower : ∀ {β : Type} (g : State → β), (∀ (t : State) b x, g (t.setBlock b x) = g t) →
      ∀ t b, g (State.lowerLimit t b) = g t := by
    intro β g hg t b
    unfold State.lowerLimit
    dsimp only
    split
    · exact hg t b _
    · rfl
  exact ⟨hreads (fun t => t.power.thermalDies) (hlower (fun t => t.power.thermalDies) fun _ _ _ => rfl),
    hreads (fun t => t.power.coolantDerate) (hlower (fun t => t.power.coolantDerate) fun _ _ _ => rfl),
    hreads (fun t => t.power.supplyDerate) (hlower (fun t => t.power.supplyDerate) fun _ _ _ => rfl)⟩

/-- The end of the cooling's condition, of the supply's and of a die's heat: the conditions in force afterwards. -/
theorem execConditionCleared_shows {s : State} {bits : U8} {die : Option (Fin 8)} {cool volt heat : Bool} {hot : U8}
    (hlife : s.boot.life ≠ .off)
    (hhot : die.elim 0 (fun d => if s.power.thermalDies.getLsbD d.val then BitVec.ofNat 8 (2 ^ d.val) else 0) = hot)
    (hcool : (bits.getLsbD 0 && s.power.coolantDerate && decide (s.power.inletMc.toInt ≤ 44000) &&
      decide (11000 ≤ s.power.flowMl.toNat)) = cool)
    (hvolt : (bits.getLsbD 1 && s.power.supplyDerate && decide (48500 ≤ s.power.busbarMv.toNat)) = volt)
    (hheat : (bits.getLsbD 2 && hot != 0 &&
      die.any (fun d => decide ((s.power.dieMc.getD d.val 0).toInt ≤ 90000))) = heat)
    (hany : (cool || volt || heat) = true) : ∃ t, execConditionCleared bits die s = .next t ∧
      t.power.coolantDerate = (s.power.coolantDerate && !cool) ∧ t.power.supplyDerate = (s.power.supplyDerate && !volt) ∧
      t.power.thermalDies = if heat then s.power.thermalDies ^^^ hot else s.power.thermalDies := by
  subst hhot hcool hvolt hheat
  have hgo : ∀ q : Bool, q = true → ¬ (!s.powered || !q) = true := by
    intro q hq
    rw [State.powered_of_on hlife, hq]
    decide
  cases die
  all_goals
    refine ⟨_, if_neg (hgo _ hany), ?_⟩
    rw [State.raise_power]
    exact ⟨rfl, rfl, rfl⟩

/-- Settles O51: a window's sums come after its blocks; each condition sets or clears its own bit, and the record of it
leaves the power figures. -/
theorem powerAndCooling : Obligations.PowerAndCooling := by
  unfold Obligations.PowerAndCooling
  refine ⟨fun s r hlife => execPowerWindowEnd_shows r hlife, fun s d v f hlife =>
    ⟨fun hdie hhot hclear => ?_, fun hclear hbad => ?_, fun hclear hlo hhi => ?_, fun hclear hlo hhi => ?_,
      fun hset hin hflow => ?_, fun hset hmv => ?_, fun hset hmc => ?_⟩⟩
  all_goals have hon := State.powered_of_on hlife
  · refine ⟨_, (if_neg (Nat.not_le.2 hdie)).trans (if_neg ?_), ?_⟩
    · rw [hon, hclear, decide_eq_false (not_lt.2 hhot)]
      decide
    · rw [State.raise_power]
      exact (State.lowerAll_shows _).1
  · refine ⟨_, if_pos ?_, ?_⟩
    · simpa [hon, hclear] using hbad
    · exact (congrArg Power.coolantDerate (State.raise_power _ _)).trans (State.lowerAll_shows _).2.1
  · refine ⟨_, if_pos ?_, ?_⟩
    · simp [hon, hclear, hlo, hhi]
    · exact (congrArg Power.supplyDerate (State.raise_power _ _)).trans (State.lowerAll_shows _).2.2
  · refine ⟨_, if_pos ?_, ?_⟩
    · simp [hon, hclear, hlo, hhi]
    · exact congrArg Power.busbarHigh (State.raise_power _ _)
  · obtain ⟨t, hexec, hcool, hvolt, hheat⟩ := execConditionCleared_shows (bits := 1) (die := none) (cool := true)
      (volt := false) (heat := false) hlife rfl (by rw [hset, decide_eq_true hin, decide_eq_true hflow]; decide)
      (by simp) (by simp) rfl
    exact ⟨t, hexec, by rw [hcool, Bool.not_true, Bool.and_false], by rw [hvolt, Bool.not_false, Bool.and_true],
      hheat⟩
  · obtain ⟨t, hexec, hcool, hvolt, hheat⟩ := execConditionCleared_shows (bits := 2) (die := none) (cool := false)
      (volt := true) (heat := false) hlife rfl (by simp) (by rw [hset, decide_eq_true hmv]; decide) (by simp) rfl
    exact ⟨t, hexec, by rw [hvolt, Bool.not_true, Bool.and_false], by rw [hcool, Bool.not_false, Bool.and_true],
      hheat⟩
  · have hbit : ∀ d : Fin 8, (BitVec.ofNat 8 (2 ^ d.val) != 0) = true := by decide
    obtain ⟨t, hexec, hcool, hvolt, hheat⟩ := execConditionCleared_shows (bits := 4) (die := some d) (cool := false)
      (volt := false) (heat := true) hlife (if_pos hset) (by simp) (by simp)
      (by rw [hbit d, Option.any_some, decide_eq_true hmc]; decide) rfl
    exact ⟨t, hexec, hheat, by rw [hcool, Bool.not_false, Bool.and_true], by rw [hvolt, Bool.not_false, Bool.and_true]⟩

end Sys2Proof.Machine

namespace Sys2Proof.Machine

set_option Elab.async false

/-! ### The module's identity through a start (R402) -/

section ident
variable (s : State)

@[simp] theorem State.raise_ident (e : Event) : (s.raise e).ident = s.ident :=
  State.unrecorded (s.besidesRecords_raise e) State.ident

@[simp] theorem State.raiseStatus_ident (sev : BitVec 2) (st : U16) (e : Event) :
    (s.raiseStatus sev st e).ident = s.ident := s.raise_ident _

@[simp] theorem State.pumpPort_ident (n : Nat) : (s.pumpPort n).ident = s.ident :=
  State.reads_same (s.besidesTraffic_pumpPort n) State.ident

@[simp] theorem State.route_ident (p : Packet) : (s.route p).1.ident = s.ident :=
  State.reads_same (s.besidesTraffic_route p) State.ident

theorem State.faultOp_ident (o : OpCtx) (status : U16) (handle : U32) (addr : Nat) (args : List U64) :
    (s.faultOp o status handle addr args).ident = s.ident := by
  unfold State.faultOp
  split
  · rfl
  · split
    · rfl
    · have hmeet : (if unreadable status then (s.meet o.c addr, s.badStatus o.c addr)
          else (s, status)).1.ident = s.ident := by
        split
        · exact congrArg (·.ident) (s.besidesMemory_meet o.c addr)
        · rfl
      rw [← hmeet]
      generalize (if unreadable status then (s.meet o.c addr, s.badStatus o.c addr) else (s, status)) = q
      obtain ⟨t, st⟩ := q
      dsimp only
      split_ifs
      · rfl
      · exact (State.raiseStatus_ident _ _ _ _).trans rfl
      · rfl

theorem State.ownLost_ident (p : Packet) : (s.ownLost p).ident = s.ident := by
  unfold State.ownLost
  split
  · rfl
  · unfold State.resultOf
    split
    · rfl
    · dsimp only
      rw [if_neg (by decide)]
      exact (State.faultOp_ident _ _ _ _ _ _).trans rfl

theorem State.lose_ident (d : Nat) (p : Packet) (status : U16) : (s.lose d p status).ident = s.ident := by
  have htold : (s.tellLoss d p status).1.ident = s.ident := by
    unfold State.tellLoss
    split
    · rfl
    · exact s.route_ident _
  unfold State.lose
  dsimp only
  split
  · exact htold
  · rfl

@[simp] theorem State.portStops_ident (n : Nat) (st : U8) : (s.portStops n st).ident = s.ident := by
  have hgone (t : State) (pk : Packet) :
      (if t.isMine pk.src then t.ownLost pk else t.lose (n / 4) pk St.linkDown).ident = t.ident := by
    split
    · exact t.ownLost_ident pk
    · exact t.lose_ident _ _ _
  unfold State.portStops
  dsimp only
  refine (foldl_shows State.ident (fun t pk => ?_) _ _).trans
    ((foldl_shows State.ident (fun t (f : BitVec 12 × Packet) => hgone t f.2) _ _).trans rfl)
  split
  · exact t.route_ident pk
  · exact hgone t pk

@[simp] theorem State.portDown_ident (n : Nat) : (s.portDown n).ident = s.ident := by simp [State.portDown]

@[simp] theorem State.beginTraining_ident (n : Nat) : (s.beginTraining n).ident = s.ident := by
  unfold State.beginTraining
  dsimp only
  split
  · exact (State.portDown_ident _ n).trans rfl
  · rfl

@[simp] theorem State.lateBeacon_ident (n : Nat) : (s.lateBeacon n).ident = s.ident := by
  unfold State.lateBeacon
  split
  · exact (State.pumpPort_ident _ n).trans rfl
  · exact s.pumpPort_ident n

@[simp] theorem State.replayAll_ident (n : Nat) : (s.replayAll n).ident = s.ident := by rw [State.replayAll_eq]

@[simp] theorem State.train_ident (n : Nat) (t : Training) (count : Bool) : (s.train n t count).ident = s.ident := by
  unfold State.train
  dsimp only
  split_ifs <;> simp

/-! #### Firmware, dies and cores -/

@[simp] theorem State.modFw_ident (d : Nat) (f : FwSlots → FwSlots) : (s.modFw d f).ident = s.ident := rfl

theorem State.tryFw_ident (d : Nat) (slot : Bool) : (s.tryFw d slot).1.ident = s.ident := by
  unfold State.tryFw
  dsimp only
  split_ifs <;> rfl

@[simp] theorem State.loadDie_ident (d : Nat) : (s.loadDie d).1.ident = s.ident := by
  have htried : ∀ {t u : State} {slot : Bool} {st : U16}, t.tryFw d slot = (u, st) → u.ident = t.ident :=
    fun {t u slot st} h => by rw [← t.tryFw_ident d slot, h]
  unfold State.loadDie
  dsimp only
  split
  · next t hfirst =>
    have hran := htried hfirst
    exact hran
  · next hfirst =>
    split
    · next hsecond =>
      have hran := (htried hsecond).trans (htried hfirst)
      exact (State.raise_ident _ _).trans hran
    · next hsecond =>
      have hran := (htried hsecond).trans (htried hfirst)
      exact hran

@[simp] theorem State.dieDead_ident (d : Nat) (status : U16) : (s.dieDead d status).ident = s.ident :=
  (State.raise_ident _ _).trans rfl

@[simp] theorem State.failure_ident (st : Option U16) : (s.failure st).ident = s.ident := by
  unfold State.failure
  split
  · rfl
  · cases st <;> rfl

@[simp] theorem State.goCold_ident (code phase : U8) : (s.goCold code phase).ident = s.ident :=
  (State.raise_ident _ _).trans rfl

@[simp] theorem State.verifyStaged_ident : s.verifyStaged.ident = s.ident :=
  congrArg Prod.snd s.verifyStaged_counts.1

@[simp] theorem State.extend_ident (r : Nat) (d : BitVec 512) : (s.extend r d).ident = s.ident :=
  (State.raise_ident _ _).trans s.verifyStaged_ident

@[simp] theorem State.loadDies_ident : s.loadDies.ident = s.ident := by
  refine foldl_shows State.ident (fun t d => ?_) _ s
  split
  · rfl
  · have hloaded := t.loadDie_ident d
    split
    · next h => rw [← hloaded, h]
    · next h => rw [State.failure_ident, State.dieDead_ident, ← hloaded, h]

@[simp] theorem State.alignReleases_ident : s.alignReleases.ident = s.ident := by
  unfold State.alignReleases
  dsimp only
  split
  · rfl
  · refine foldl_shows State.ident (fun t d => ?_) _ s
    split
    · rfl
    · exact (State.failure_ident _ _).trans (State.dieDead_ident _ _ _)

@[simp] theorem State.selfTest_ident (f : StartFindings) : (s.selfTest f).ident = s.ident := by
  have hcore : ∀ (t : State) (n : Nat), (t.testCore n).ident = t.ident := fun t n => by
    unfold State.testCore
    split
    · exact (State.raise_ident _ _).trans rfl
    · exact (State.raise_ident _ _).trans rfl
  refine (foldl_shows State.ident (fun t d => ?_) _ _).trans (foldl_shows State.ident (fun t n => ?_) _ s)
  · exact (State.failure_ident _ _).trans (State.dieDead_ident _ _ _)
  · exact (State.failure_ident _ _).trans (hcore t n)

@[simp] theorem State.unlearn_ident : s.unlearn.ident = s.ident := rfl

@[simp] theorem State.trainDdr_ident (f : StartFindings) : (s.trainDdr f).ident = s.ident := by
  unfold State.trainDdr
  dsimp only
  refine (foldl_shows State.ident (fun t p => ?_) _ _).trans ?_
  · exact (State.failure_ident _ _).trans ((State.raise_ident _ _).trans rfl)
  · split_ifs
    · rfl
    · exact (State.unlearn_ident _).trans (s.goCold_ident 4 4)
    · rfl

@[simp] theorem State.trainPorts_ident (f : StartFindings) : (s.trainPorts f).ident = s.ident := by
  unfold State.trainPorts
  dsimp only
  refine (foldl_shows State.ident (fun t (q : Nat × Training) => t.train_ident q.1 q.2 false) _ _).trans
    ((foldl_shows State.ident (fun t n => ?_) _ _).trans ((foldl_shows State.ident (fun t q => ?_) _ _).trans ?_))
  · split
    · exact t.beginTraining_ident n
    · rfl
  · exact (State.failure_ident _ _).trans rfl
  · split
    · exact (State.unlearn_ident _).trans (s.goCold_ident 4 5)
    · rfl

@[simp] theorem State.setRoot_ident (start : Bool) : (s.setRole 1 start).ident = s.ident := by
  unfold State.setRole
  dsimp only
  rw [if_pos rfl]
  split
  · exact (State.raise_ident _ _).trans rfl
  · rfl

@[simp] theorem State.learn_ident (l : List (Nat × Bytes)) : (s.learn l).ident = s.ident := rfl

@[simp] theorem State.setPhase_ident (n : U8) : (s.setPhase n).ident = s.ident := rfl

@[simp] theorem State.modStart_ident (f : StartRecord → StartRecord) : (s.modStart f).ident = s.ident := rfl

@[simp] theorem State.enterRecovery_ident (st : U16) : (s.enterRecovery st).ident = s.ident :=
  (State.raise_ident _ _).trans rfl

@[simp] theorem State.measureStart_ident : s.measureStart.ident = s.ident := by
  unfold State.measureStart State.extendLearned State.extendUser State.extendSecurity State.extendAlmanac
  dsimp only
  rw [State.extend_ident, State.extend_ident, State.extend_ident, State.extend_ident]
  exact (foldl_shows State.ident (fun u d => u.extend_ident 1 _) _ _).trans (s.extend_ident 0 _)

@[simp] theorem State.finishStart_ident : s.finishStart.ident = s.ident := by
  unfold State.finishStart
  dsimp only
  rw [State.raise_ident, State.modBoot_ident, State.modStart_ident, State.measureStart_ident]
  split
  · cases s.boot.toLearn <;> rfl
  · cases s.boot.toLearn <;> rfl

/-- The rest of a start up to its last setting of where the module is. -/
def State.restBegun (s : State) (f : StartFindings) : State :=
  (((((((s.setPhase 3).selfTest f).setPhase 4).trainDdr f).setPhase 5).trainPorts f).setPhase 6).modBoot
    (fun b => { b with life := .acquiring, toLearn := some f.learned })

theorem State.restBegun_ident (f : StartFindings) : (s.restBegun f).ident = s.ident := by simp [State.restBegun]

/-- The rest of a start ends in recovery, and otherwise waits for its Meridian or is finished as the root's. -/
theorem State.startRest_eq (f : StartFindings) : s.startRest f =
    if f.diesFailed.contains 0 then (s.setPhase 3).enterRecovery St.ok
    else if (s.restBegun f).mer.role = 1 then ((s.restBegun f).setRole 1 true).finishStart else s.restBegun f := rfl

@[simp] theorem State.startRest_ident (f : StartFindings) : (s.startRest f).ident = s.ident := by
  rw [State.startRest_eq]
  split
  · exact (State.enterRecovery_ident _ _).trans rfl
  · split
    · exact (State.finishStart_ident _).trans ((State.setRoot_ident _ true).trans (s.restBegun_ident f))
    · exact s.restBegun_ident f

@[simp] theorem State.scanLog_ident (torn : List (Bool × Nat)) : (s.scanLog torn).ident = s.ident :=
  foldl_shows State.ident (fun t _ => t.modLog_ident _) torn s

/-- A start of main power's return, before it reads the Logbook. -/
def State.woken : State :=
  let s := (s.modBoot (fun b => { b with life := .held })).setPhase 1
  { s with ident := { s.ident with powerCycles := s.ident.powerCycles + 1 }
           log := { s.log with queue := [], holdup := false } }

/-- The same start up to the load of die 0. -/
def State.wokenRead (cause : U8) (wantCold : Bool) (f : StartFindings) : State :=
  let s := s.woken.scanLog f.torn
  let ms := (List.range 7).map (fun i => f.phaseMs.getD i 0)
  let code := s.downgrade wantCold
  let s := s.modBoot (fun b => { b with
    afterThermal := false
    starting := { StartRecord.reset with
      kind := 2, cause := cause, phaseMs := ms, totalMs := ms.foldl (· + ·) 0 } })
  let s := if code = 0 then s else s.goCold code 1
  s.setPhase 2

theorem State.wokenRead_ident (cause : U8) (wantCold : Bool) (f : StartFindings) :
    (s.wokenRead cause wantCold f).ident = s.woken.ident := by
  unfold State.wokenRead
  dsimp only
  split <;> simp

/-- A start with die 0 running. -/
def State.wokenDies : State :=
  let s := s.loadDies.alignReleases
  s.modBoot (fun b => { b with supervisorRelease := (s.fwSlots 0).running })

/-- A start without die 0. -/
def State.wokenDead (st : U16) : State :=
  ((List.range s.sku.dies).foldl (fun s d => s.modFw d (fun x => { x with running := 0 })) s).enterRecovery st

/-- Main power's return: die 0 loads, and then the start is held for its coolant or goes on; or it does not. -/
theorem State.start_power_eq (cause : U8) (wantCold : Bool) (f : StartFindings) {t : State} {st : U16}
    (h : (s.wokenRead cause wantCold f).loadDie 0 = (t, st)) : s.start cause wantCold true f =
      if st = 0 then
        if coolantStops f.coolant then t.wokenDies.modBoot (fun b => { b with life := .held })
        else t.wokenDies.startRest f
      else t.wokenDead st := by
  unfold State.wokenRead State.woken at h
  unfold State.start
  dsimp only at h ⊢
  rw [if_pos rfl, h]
  clear h
  split
  · next heq =>
    cases heq
    rfl
  · next hst heq =>
    cases heq
    exact (if_neg hst).symm

theorem State.wokenDies_ident : s.wokenDies.ident = s.ident := by
  unfold State.wokenDies
  simp

theorem State.wokenDead_ident (st : U16) : (s.wokenDead st).ident = s.ident :=
  (State.enterRecovery_ident _ _).trans (foldl_shows State.ident (fun t d => t.modFw_ident d _) _ s)

end ident

/-! ### Where the module is at the end of a start -/

section life
variable (s : State)

theorem State.raise_boot (e : Event) : (s.raise e).boot = s.boot :=
  State.unrecorded (s.besidesRecords_raise e) State.boot

theorem State.enterRecovery_life (st : U16) : (s.enterRecovery st).boot.life = .recovery := by
  unfold State.enterRecovery
  rw [State.raise_boot]
  rfl

theorem State.finishStart_boot : s.finishStart.boot.life = .ready ∧ s.finishStart.boot.record.phase = 8 := by
  unfold State.finishStart
  dsimp only
  rw [State.raise_boot]
  exact ⟨rfl, rfl⟩

theorem State.startRest_life (f : StartFindings) : (s.startRest f).boot.life =
    if f.diesFailed.contains 0 then .recovery else if (s.restBegun f).mer.role = 1 then .ready else .acquiring := by
  rw [State.startRest_eq]
  split_ifs
  · exact State.enterRecovery_life _ _
  · exact (State.finishStart_boot _).1
  · rfl

theorem State.startRest_on (f : StartFindings) : (s.startRest f).boot.life ≠ .off := by
  rw [State.startRest_life]
  split_ifs <;> decide

theorem State.start_power_on (cause : U8) (wantCold : Bool) (f : StartFindings) :
    (s.start cause wantCold true f).boot.life ≠ .off ∧
      (s.start cause wantCold true f).ident.powerCycles = s.ident.powerCycles + 1 := by
  obtain ⟨t, st, hloaded⟩ : ∃ t st, (s.wokenRead cause wantCold f).loadDie 0 = (t, st) := ⟨_, _, rfl⟩
  have hident : t.ident = s.woken.ident := by
    rw [← s.wokenRead_ident cause wantCold f, ← (s.wokenRead cause wantCold f).loadDie_ident 0, hloaded]
  have hcount : t.ident.powerCycles = s.ident.powerCycles + 1 := congrArg Ident.powerCycles hident
  rw [s.start_power_eq cause wantCold f hloaded]
  split_ifs
  · have hon : Life.held ≠ Life.off := by decide
    exact ⟨hon, (congrArg Ident.powerCycles t.wokenDies_ident).trans hcount⟩
  · refine ⟨State.startRest_on _ f, ?_⟩
    rw [State.startRest_ident, State.wokenDies_ident, hcount]
  · refine ⟨?_, ?_⟩
    · unfold State.wokenDead
      rw [State.enterRecovery_life]
      decide
    · rw [State.wokenDead_ident, hcount]

end life

theorem coolantRated_iff (c : Coolant) :
    coolantRated c = true ↔ 11000 ≤ c.flowMl.toNat ∧ 20000 ≤ c.inletMc.toInt ∧ c.inletMc.toInt ≤ 45000 := by
  simp [coolantRated, and_assoc]

/-- Settles O53: a start counts its power cycle in the first state of it and leaves the module's identity from there on
(`State.start_power_on`); where it ends is the last setting of `life` on each of its branches (`State.startRest_life`). -/
theorem startsEnd : Obligations.StartsEnd := by
  unfold Obligations.StartsEnd
  intro s f now
  refine ⟨fun hoff => ?_, fun hheld hlow => ?_, fun hheld hflow hcold hwarm hdies => ?_, fun hacquiring => ?_⟩
  · obtain ⟨hon, hcount⟩ := (s.keep false).start_power_on 0 false f
    rw [(s.keep_shows false).2.2.2.1] at hcount
    exact ⟨if_pos (beq_iff_eq.2 hoff), hcount, hon⟩
  · have hunrated : coolantRated now ≠ true := by
      rw [ne_eq, coolantRated_iff]
      omega
    have hstopped := s.thermalStop_stopped []
    refine ⟨s.thermalStop [], (if_pos (beq_iff_eq.2 hheld)).trans (if_neg hunrated), ?_, hstopped.afterThermal⟩
    rw [hstopped.life, hheld]
    rfl
  · have hrated : coolantRated now = true := (coolantRated_iff now).2 ⟨hflow, hcold, hwarm⟩
    refine ⟨_, (if_pos (beq_iff_eq.2 hheld)).trans (if_pos hrated), ?_⟩
    rw [State.startRest_life, hdies, if_neg (by decide)]
    split
    · exact .inr rfl
    · exact .inl rfl
  · exact ⟨_, if_pos (beq_iff_eq.2 hacquiring), s.finishStart_boot⟩

end Sys2Proof.Machine

namespace Sys2Proof.Machine

set_option Elab.async false

/-! ### Scalar entries read back (R346, R347) -/

/-- A root one count past a boundary of the tick code, for which a code written at that boundary still waits behind the
next one. -/
def lateTickCode : State :=
  State.reset.modMer (fun m => { m with role := 1, count := 1, laterCode := some 5 })

/-- The row of `tick_code`, and a write of 3 to it. -/
def tickCodeRow : Row := .mk 0x7000 .one 2 "tick_code" 1 1 0 1 (some 0x2) 2

def tickCodeThree : Cover := [(0, 3)]

/-- The write of 3 is accepted and stands in `nextCode`, but `tick_code` shows the code that waits in `laterCode`. -/
theorem lateTickCode_hides : (lateTickCode.applyWrite .pf tickCodeRow 0x7000 tickCodeThree).2 = St.ok ∧
    (lateTickCode.applyWrite .pf tickCodeRow 0x7000 tickCodeThree).1.mer.nextCode = some 3 ∧
    (lateTickCode.applyWrite .pf tickCodeRow 0x7000 tickCodeThree).1.valueOf .pf tickCodeRow 0x7000 0 1 = some [5] := by
  decide +kernel

/-- Refutes O18: `tick_code` reads the code that waits for the boundary after the next one, where there is one (R258, log entry 67), and
a write in the middle of an interval goes to the code of the next one. The statement quantifies over every state, also
over one in which a `laterCode` waits where `count` is no boundary: a root's `laterCode` is written only at a boundary,
and the next tick takes it over, but no premise says so. -/
theorem not_writtenReadsBack : ¬ Obligations.WrittenReadsBack := by
  unfold Obligations.WrittenReadsBack
  intro h
  obtain ⟨haccepted, -, hshown⟩ := lateTickCode_hides
  have hread := h lateTickCode .pf tickCodeRow 0x7000 tickCodeThree (by decide +kernel) (by decide +kernel) rfl rfl
    (by decide +kernel) (by decide +kernel) haccepted
  have hsame : some [5] = some (tickCodeThree.into (zeros 1)) := hshown.symm.trans hread
  exact absurd hsame (by decide)

end Sys2Proof.Machine

namespace Sys2Proof.Machine

set_option Elab.async false

/-! ### The bytes and the slots, over what stores nothing of its own (R301, R306) -/

section frame
variable {P : Slot → Prop} {s0 s : State}

/-! #### Packets, codewords and beacons -/

theorem State.sendBeacon_frame (n : Nat) (b : Beacon) (hk : Frame P s0 s) : Frame P s0 (s.sendBeacon n b) :=
  State.pumpPort_frame n hk.upd

theorem State.forwardBeacon_frame (b : Beacon) (hk : Frame P s0 s) : Frame P s0 (s.forwardBeacon b) :=
  Frame.foldl (fun _ n ht => State.sendBeacon_frame n _ ht) hk

theorem State.putCtrl_frame (n : Nat) (hk : Frame P s0 s) : Frame P s0 (s.putCtrl n) :=
  hk.traffic (s.besidesTraffic_putCtrl n) (State.putCtrl_sends n (.refl s))

theorem State.acknowledge_frame (n : Nat) (nak : Bool) (hk : Frame P s0 s) : Frame P s0 (s.acknowledge n nak) :=
  State.putCtrl_frame n hk.upd

theorem State.nak_frame (n : Nat) (hk : Frame P s0 s) : Frame P s0 (s.nak n) :=
  Frame.ite (fun _ => hk) (fun _ => State.acknowledge_frame n true hk)

theorem State.replayFrom_frame (n : Nat) (hk : Frame P s0 s) : Frame P s0 (s.replayFrom n) := by
  have hreplayed : Frame P s0 ((s.modPort n (fun p => { p with replays := p.replays + 1, stuck := p.stuck + 1 })).replayAll n) :=
    Frame.foldl (fun _ _ ht => State.emit_frame ht) hk.upd
  exact Frame.ite (fun _ => hreplayed.upd) (fun _ => hreplayed)

theorem State.takeArrived_frame (p : Packet) (hk : Frame P s0 s) : Frame P s0 (s.takeArrived p) :=
  hk.traffic (s.besidesTraffic_takeArrived p) (by
    unfold State.takeArrived
    split
    · exact List.prefix_rfl
    · split
      · exact List.prefix_rfl
      · split <;> exact List.prefix_rfl)

theorem State.receiveCodeword_frame (port : Fin 32) (cw : Codeword) (hk : Frame P s0 s) :
    Frame P s0 (s.receiveCodeword port cw) := by
  unfold State.receiveCodeword
  dsimp only
  refine Frame.ite (fun _ => State.nak_frame _ hk.upd) fun _ => Frame.ite (fun _ => hk.upd) fun _ =>
    Frame.ite (fun _ => State.nak_frame _ hk.upd) fun _ => Frame.ite (fun _ => hk.upd) fun _ =>
      Frame.ite (fun _ => State.acknowledge_frame _ _ hk.upd) fun _ => hk.upd

/-! #### Meridian -/

theorem State.noteRoots_frame (root : U32) (hk : Frame P s0 s) : Frame P s0 (s.noteRoots root) := by
  unfold State.noteRoots
  split
  · exact hk
  · exact Frame.ite (fun _ => hk) fun _ => State.raise_frame _ hk.upd

theorem State.noticeSlots_frame (status : U16) (seq : U64) (hk : Frame P s0 s) : Frame P s0 (s.noticeSlots status seq) :=
  Frame.foldl (fun _ _ ht => State.postCtx_frame ht) hk

theorem State.enterHoldover_frame (hk : Frame P s0 s) : Frame P s0 s.enterHoldover :=
  State.noticeSlots_frame _ _ (State.raiseStatus_frame _ _ _ hk.upd)

/-! #### Completions -/

theorem State.maskVector_frame (f : Func) (v : Nat) (mask : Bool) (hk : Frame P s0 s) : Frame P s0 (s.maskVector f v mask) :=
  Frame.ite (fun _ => State.setMsix_frame hk) fun _ =>
    Frame.ite (fun _ => State.emit_frame (State.setMsix_frame hk)) fun _ => State.setMsix_frame hk

theorem State.drainBacklog_frame (r : Ring) (l : List Cmpl) (hk : Frame P s0 s) : Frame P s0 (s.drainBacklog r l) := by
  induction l generalizing s with
  | nil => exact hk
  | cons e rest ih =>
    unfold State.drainBacklog
    refine Frame.ite (fun _ => hk) fun _ => ih ?_
    have hset := State.setRing_frame (r := r) (x := { s.ringOf r with backlog := rest }) hk
    cases r with
    | module => exact State.writeCmpl_frame hset
    | ctx c =>
      exact Frame.ite (fun _ => State.writeCmpl_frame hset) fun _ =>
        State.modCtx_quiet (fun x => ⟨rfl, rfl, ⟨rfl, rfl, rfl⟩, rfl, rfl, rfl, rfl, rfl, rfl, ⟨rfl, rfl⟩⟩) hset

/-! #### Requests -/

theorem State.sendReply_frame (q : Request) (b : Bytes) (hk : Frame P s0 s) : Frame P s0 (s.sendReply q b) := by
  unfold State.sendReply
  dsimp only
  split
  · exact hk.upd
  · exact hk.upd
  · exact State.emit_frame hk
  · exact State.mgmtPacket_frame _ _ hk

theorem State.respond_frame (q : Request) (a : Reply) (hk : Frame P s0 s) : Frame P s0 (s.respond q a) :=
  Frame.ite (fun _ => State.sendReply_frame q _ hk) fun _ => (State.sendReply_frame q _ hk).upd

theorem State.readValue_frame (ch : Channel) (r : Row) (index off n : Nat) (hk : Frame P s0 s) :
    Frame P s0 (s.readValue ch r index off n).1 := by
  unfold State.readValue
  split
  · split_ifs <;> exact hk
  · exact hk.upd

theorem State.describe_frame (r : Row) (index : Nat) (hk : Frame P s0 s) : Frame P s0 (s.describe r index).1 := by
  unfold State.describe
  dsimp only
  cases s.default? r index with
  | some v => exact Frame.iteOn (fun q : State × Bytes => q.1) (fun _ => hk.upd) fun _ => hk
  | none => exact Frame.iteOn (fun q : State × Bytes => q.1) (fun _ => hk.upd) fun _ => hk.upd

theorem State.readReq_frame (q : Request) (hk : Frame P s0 s) : Frame P s0 (s.readReq q).1 := by
  unfold State.readReq
  dsimp only
  split
  · exact hk
  · split
    · exact hk
    · split
      · exact hk
      · split_ifs
        · exact hk
        · exact hk
        · exact State.readValue_frame _ _ _ _ _ hk
        · exact State.readValue_frame _ _ _ _ _ hk

theorem State.describeReq_frame (q : Request) (hk : Frame P s0 s) : Frame P s0 (s.describeReq q).1 := by
  unfold State.describeReq
  dsimp only
  split
  · exact hk
  · split
    · exact hk
    · exact State.describe_frame _ _ hk

theorem State.authorise_frame (ch : Channel) (b : Bytes) (hk : Frame P s0 s) : Frame P s0 (s.authorise ch b).1 := by
  unfold State.authorise
  dsimp only
  exact Frame.iteOn (fun q : State × U16 => q.1) (fun _ => State.raise_frame _ hk.upd) fun _ => State.raise_frame _ hk.upd

theorem State.authoriseReq_frame (q : Request) (hk : Frame P s0 s) : Frame P s0 (s.authoriseReq q).1 := by
  unfold State.authoriseReq
  split
  · exact hk
  · split
    · exact hk
    · split
      · exact hk
      · split
        · exact hk.upd
        · exact State.authorise_frame _ _ hk.upd

theorem State.subscribe_frame (ch : Channel) (sev : U8) (hk : Frame P s0 s) : Frame P s0 (s.subscribe ch sev).1 := by
  unfold State.subscribe
  split_ifs
  · exact hk
  · exact hk.upd
  · exact hk
  · exact hk.upd

theorem State.subscribeReq_frame (q : Request) (hk : Frame P s0 s) : Frame P s0 (s.subscribeReq q).1 := by
  unfold State.subscribeReq
  split
  · exact hk
  · split
    · exact hk
    · split
      · exact hk
      · exact State.subscribe_frame _ _ hk

/-- A request that is no WRITE. -/
theorem State.answer_frame {q : Request} (hq : q.version ≠ 1 ∨ q.op.toNat ≠ 2) (hk : Frame P s0 s) :
    Frame P s0 (s.answer q).1 := by
  unfold State.answer
  dsimp only
  split
  · exact hk
  · next hversion =>
    split
    · exact State.readReq_frame q hk
    · next hop => exact absurd hop (hq.resolve_left (fun h => h (by simpa using hversion)))
    · exact State.describeReq_frame q hk
    · exact State.authoriseReq_frame q hk
    · exact State.subscribeReq_frame q hk
    · exact hk
    · exact hk

theorem State.serve_frame {q : Request} (hq : q.version ≠ 1 ∨ q.op.toNat ≠ 2) (hk : Frame P s0 s) :
    Frame P s0 (s.serve q none) := by
  unfold State.serve
  dsimp only
  split
  · exact State.sendReply_frame _ _ hk.upd
  · split
    · exact State.respond_frame _ _ (State.answer_frame hq hk.upd)
    · next h => exact nomatch h
    · next h => exact nomatch h
    · exact hk

theorem State.serveIf_frame {is : Request → Bool} (his : ∀ q, is q = true → q.version ≠ 1 ∨ q.op.toNat ≠ 2)
    (hk : Frame P s0 s) : Frame P s0 (s.serveIf none is) := by
  unfold State.serveIf
  split
  · exact hk
  · split
    · next q _ _ h => exact State.serve_frame (his q (Bool.and_eq_true_iff.1 h).2) hk
    · exact hk

/-! #### Power, the Logbook and the staged image -/

theorem State.apportion_frame (b e : Nat) (hk : Frame P s0 s) : Frame P s0 (s.apportion b e) := by
  unfold State.apportion
  dsimp only
  refine Frame.upd (Frame.foldl (fun t q ht => ?_) hk)
  exact State.modCtx_quiet (fun _ => ⟨rfl, rfl, ⟨rfl, rfl, rfl⟩, rfl, rfl, rfl, rfl, rfl, rfl, ⟨rfl, rfl⟩⟩) ht

theorem State.overLimit_frame (b : Nat) (hk : Frame P s0 s) : Frame P s0 (s.overLimit b) := by
  have hraised := State.raiseStatus_frame sevFault St.envelopeLimit { Event.blank with unit := BitVec.ofNat 16 b }
    (hk.upd : Frame P s0 (s.modBlock b (fun x => { x with overRun := 0 })))
  unfold State.overLimit
  dsimp only
  split_ifs
  · exact hraised
  · exact hraised.upd
  · exact hraised.upd
  · exact hraised

theorem State.gained_frame (n : Nat) (gain : F32) (hk : Frame P s0 s) : Frame P s0 (s.gained n gain).1 := by
  unfold State.gained
  split
  · dsimp only
    split_ifs
    · exact hk
    · exact hk
    · exact hk.upd
  · exact hk.upd

theorem State.blockWindow_frame (r : WindowReadings) (b : Nat) (hk : Frame P s0 s) : Frame P s0 (s.blockWindow r b) := by
  unfold State.blockWindow
  dsimp only
  generalize sumNat _ _ = raw
  have hgained := State.gained_frame raw (s.effective (0x2010 + b)) hk
  generalize s.gained raw (s.effective (0x2010 + b)) = g at hgained ⊢
  have happortioned : ∀ f, Frame P s0 ((g.1.modBlock b f).apportion b g.2) :=
    fun _ => State.apportion_frame b g.2 hgained.upd
  exact (Frame.ite (fun _ => State.overLimit_frame b (happortioned _)) fun _ => happortioned _).upd

theorem State.readSensors_frame (r : WindowReadings) (hk : Frame P s0 s) : Frame P s0 (s.readSensors r) :=
  (State.gained_frame _ _ hk).upd

theorem State.retireLimits_frame (hk : Frame P s0 s) : Frame P s0 s.retireLimits :=
  Frame.foldl (fun _ _ ht => State.raise_frame _ ht) hk.upd

theorem State.noteStaged_frame (img : Bytes) (hk : Frame P s0 s) : Frame P s0 (s.noteStaged img) :=
  Frame.ite (fun _ => State.raise_frame _ hk) fun _ => hk

theorem State.verifyStaged_frame (hk : Frame P s0 s) : Frame P s0 s.verifyStaged := by
  unfold State.verifyStaged
  split
  · exact hk
  · have hnoted := fun l => Frame.foldl (l := l) (fun _ img ht => State.noteStaged_frame img ht)
      (hk.upd : Frame P s0 { s with boot := { s.boot with verifying := [] } })
    exact Frame.ite (fun _ => (hnoted _).upd) fun _ => (hnoted _).upd

theorem State.lowerAll_frame (hk : Frame P s0 s) : Frame P s0 s.lowerAll :=
  Frame.foldl (fun _ _ ht => Frame.ite (fun _ => ht.upd) fun _ => ht) hk

theorem State.commitRecord_frame (r : LogRec) (notices : Bool) (hk : Frame P s0 s) :
    Frame P s0 (s.commitRecord r notices) := by
  have hdone (f : Logbook → Logbook) : Frame P s0 (if notices then
      (((s.modLog f).noticeMessages r).noticeCompletions r) else s.modLog f) :=
    Frame.ite (fun _ => State.noticeCompletions_frame r (State.noticeMessages_frame r hk.upd)) fun _ => hk.upd
  unfold State.commitRecord
  dsimp only
  refine Frame.ite (fun _ => hdone _) fun _ => ?_
  split
  · exact Frame.ite (fun _ => State.dropRecord_frame r hk) fun _ => hk.upd
  · exact hdone _

end frame

end Sys2Proof.Machine

namespace Sys2Proof.Machine

set_option Elab.async false

/-! ### Rows that store nothing of their own (R301, R306) -/

/-- Every state that answers comes from `s` by effects that act for the slots of `P` only. -/
def Framed (P : Slot → Prop) (s : State) (o : Host.Outcome State Fault Refusal) : Prop := ∀ t, o = .next t → Frame P s t

section framed
variable {P : Slot → Prop} {s0 s : State}

theorem Framed.next (h : Frame P s0 s) : Framed P s0 (.next s) := by
  intro t ht
  cases ht
  exact h

theorem Framed.fault (f : Fault) : Framed P s0 (.fault f) := fun _ ht => nomatch ht

theorem Framed.ite {c : Prop} [Decidable c] {a b : Host.Outcome State Fault Refusal} (ha : c → Framed P s0 a)
    (hb : ¬c → Framed P s0 b) : Framed P s0 (if c then a else b) := by
  split
  · next h => exact ha h
  · next h => exact hb h

/-- A row that answers with its state as it was, or with `t`. -/
theorem Framed.when {c : Prop} [Decidable c] {t : State} (h : Frame P s t) :
    Framed P s (if c then .next t else .next s) := .ite (fun _ => .next h) fun _ => .next (.refl P s)

theorem Framed.unless {c : Prop} [Decidable c] {t : State} (h : Frame P s t) :
    Framed P s (if c then .next s else .next t) := .ite (fun _ => .next (.refl P s)) fun _ => .next h

end framed

section rows
variable (P : Slot → Prop) (s : State)

theorem execRampEnd_framed (b : Nat) (m : Bool) : Framed P s (execRampEnd b m s) := by
  have hk := Frame.refl P s
  exact .ite (fun _ => .fault _) fun _ => .ite (fun _ => .when hk.upd) fun _ => .when hk.upd

theorem execBeaconReceive_framed (b : Beacon) : Framed P s (execBeaconReceive b s) := by
  have hk := Frame.refl P s
  unfold execBeaconReceive
  dsimp only
  refine .ite (fun _ => .fault _) fun _ => .ite (fun _ => .next hk.upd) fun _ => ?_
  split
  · exact .next hk.upd
  · exact .ite (fun _ => .next (State.forwardBeacon_frame _ (State.noteRoots_frame _ hk.upd).upd)) fun _ =>
      .next (State.noteRoots_frame _ hk.upd)

theorem execTickCodeChange_framed : Framed P s (execTickCodeChange s) := by
  unfold execTickCodeChange
  split
  · exact .next (.refl P s)
  · exact .when (Frame.refl P s).upd

theorem execMbGo_framed (f : Func) (seq : U16) (area : Bytes) : Framed P s (execMbGo f seq area s) :=
  .when (Frame.ite (fun _ => (Frame.refl P s).upd) fun _ => (Frame.refl P s).upd)

theorem execMgmtDatagram_framed (addr : BitVec 128) (port : U16) (ok : Bool) (b : Bytes) :
    Framed P s (execMgmtDatagram addr port ok b s) := by
  have hk := Frame.refl P s
  unfold execMgmtDatagram
  dsimp only
  refine .ite (fun _ => .next hk) fun _ => .ite (fun _ => .next hk.upd) fun _ => ?_
  split
  · exact .next (State.sendReply_frame _ _ hk)
  · exact .ite (fun _ => .next hk.upd) fun _ => .next hk.upd

theorem execMgmtPacket_framed (p : Packet) : Framed P s (execMgmtPacket p s) := by
  have hk := State.takeArrived_frame p (Frame.refl P s)
  unfold execMgmtPacket
  dsimp only
  refine .ite (fun _ => .next (.refl P s)) fun _ => .ite (fun _ => .next hk.upd) fun _ => .ite (fun _ => .next hk.upd) fun _ => ?_
  split
  · exact .next (State.sendReply_frame _ _ hk)
  · exact .next hk.upd

theorem execIcmpv6Frame_framed (kind : IcmpKind) (src : BitVec 128) (b : Bytes) :
    Framed P s (execIcmpv6Frame kind src b s) := by
  have hk := Frame.refl P s
  refine .ite (fun _ => .next hk) fun _ => ?_
  cases kind
  · exact .next (State.emit_frame hk)
  · exact .next (State.emit_frame hk)
  · exact .next hk
  · exact .next hk

theorem execAttestSignComplete_framed : Framed P s (execAttestSignComplete s) := by
  have hk := State.verifyStaged_frame (Frame.refl P s)
  unfold execAttestSignComplete
  dsimp only
  split
  · exact .next hk
  · exact .next (State.raise_frame _ hk.upd)

theorem execPowerWindowEnd_framed (r : WindowReadings) : Framed P s (execPowerWindowEnd r s) := by
  have hwindows : Frame P s (s.sku.blocks.foldl (fun s b => s.blockWindow r b)
      { s with ident := { s.ident with operatingMs := s.ident.operatingMs + 1 } }) :=
    Frame.foldl (fun _ b ht => State.blockWindow_frame r b ht) (Frame.refl P s).upd
  exact .unless (State.verifyStaged_frame (State.retireLimits_frame (State.readSensors_frame r hwindows.upd)))

theorem execThermalCap_framed (d : Fin 8) (tempMc : U32) : Framed P s (execThermalCap d tempMc s) :=
  .ite (fun _ => .fault _) fun _ => .unless (State.raise_frame _ (State.lowerAll_frame (Frame.refl P s).upd))

theorem execCoolantDerate_framed (inlet flow : U32) : Framed P s (execCoolantDerate inlet flow s) :=
  .when (State.raiseStatus_frame _ _ _ (State.lowerAll_frame (Frame.refl P s).upd))

theorem execSupplyDerate_framed (mv : U32) : Framed P s (execSupplyDerate mv s) :=
  .when (State.raiseStatus_frame _ _ _ (State.lowerAll_frame (Frame.refl P s).upd))

theorem execLogbookCommit_framed : Framed P s (execLogbookCommit s) := by
  unfold execLogbookCommit
  split
  · exact .next (.refl P s)
  · exact .unless (State.commitRecord_frame _ _ (Frame.refl P s).upd)

theorem execMirrorWrite_framed : Framed P s (execMirrorWrite s) := by
  unfold execMirrorWrite
  split
  · exact .next (.refl P s)
  · exact .unless (Frame.refl P s).upd

theorem execLinkCtrl_framed (port : Fin 32) (ctl : LinkCtrl) : Framed P s (execLinkCtrl port ctl s) := by
  have hk := Frame.refl P s
  exact .ite (fun _ => .fault _) fun _ => .unless (State.pumpPort_frame _
    (Frame.ite (fun _ => State.replayFrom_frame _ hk.upd) fun _ => hk.upd))

theorem execReads_framed {is : Request → Bool} (his : ∀ q, is q = true → q.version ≠ 1 ∨ q.op.toNat ≠ 2) :
    Framed P s (.next (s.serveIf none is)) := .next (State.serveIf_frame his (Frame.refl P s))

end rows

/-- A request of another operation is no WRITE. -/
theorem Request.isOp_other {q : Request} {n : Nat} (h : q.isOp n = true) (hn : n ≠ 2) :
    q.version ≠ 1 ∨ q.op.toNat ≠ 2 := by
  unfold Request.isOp at h
  obtain ⟨-, hop⟩ := Bool.and_eq_true_iff.1 h
  exact .inr (by rw [beq_iff_eq.1 hop]; exact hn)

/-- A request with no meaning is no WRITE. -/
theorem Request.unknown_other {q : Request} (h : q.unknown = true) : q.version ≠ 1 ∨ q.op.toNat ≠ 2 := by
  simp only [Request.unknown, Bool.or_eq_true, bne_iff_ne, decide_eq_true_iff] at h
  obtain (hversion | hlow) | hhigh := h
  · exact .inl hversion
  · exact .inr (by omega)
  · exact .inr (by omega)

/-- Each row that stores nothing acts for no slot. -/
theorem exec_framed_of_quietRow (P : Slot → Prop) (s : State) {i : Instr} (hquiet : quietRow i = true) :
    Framed P s (exec i s) := by
  have hk := Frame.refl P s
  cases i
  case rampEnd b m => exact execRampEnd_framed P s b m
  case beaconReceive b => exact execBeaconReceive_framed P s b
  case beaconTimeout => exact .when (State.enterHoldover_frame hk)
  case lostBeaconReturn => exact .when hk.upd
  case tickCodeChange => exact execTickCodeChange_framed P s
  case moderationTimeout r => exact .when (State.ringMessage_frame hk)
  case msixUnmask f v => exact .unless (State.maskVector_frame f v.val false hk)
  case completionBacklogDrain r => exact .next (State.drainBacklog_frame r _ hk)
  case ddrRetrain p => exact .ite (fun _ => .fault _) fun _ => .next hk
  case dramRefresh p => exact .ite (fun _ => .fault _) fun _ => .next hk
  case hostLinkUp rate width link => exact .unless hk.upd
  case vfEnableChange enable n => exact .when hk.upd
  case mbGo f seq area => exact execMbGo_framed P s f seq area
  case mgmtDatagram addr port ok b => exact execMgmtDatagram_framed P s addr port ok b
  case mgmtPacket p => exact execMgmtPacket_framed P s p
  case read =>
    exact execReads_framed P s fun q h => (Bool.or_eq_true_iff.1 h).elim (Request.isOp_other · (by decide)) Request.unknown_other
  case readRecords =>
    exact execReads_framed P s fun q h =>
      Request.isOp_other (Bool.and_eq_true_iff.1 (Bool.and_eq_true_iff.1 h).1).1 (by decide)
  case describe => exact execReads_framed P s fun q h => Request.isOp_other h (by decide)
  case authorise => exact execReads_framed P s fun q h => Request.isOp_other h (by decide)
  case subscribe => exact execReads_framed P s fun q h => Request.isOp_other h (by decide)
  case nextIndex => exact execReads_framed P s fun q h => Request.isOp_other h (by decide)
  case stagedTransferExpiry ch => exact .when hk.upd
  case authorisationExpiry ch => exact .when hk.upd
  case channelIdleExpiry ch => exact .unless hk.upd
  case subscriptionExpiry ch => exact .next hk.upd
  case requestMemoryExpiry ch seq => exact .next hk.upd
  case icmpv6Frame kind src b => exact execIcmpv6Frame_framed P s kind src b
  case attestSignComplete => exact execAttestSignComplete_framed P s
  case holdupReady => exact .unless hk.upd
  case powerWindowEnd r => exact execPowerWindowEnd_framed P s r
  case thermalCap d mc => exact execThermalCap_framed P s d mc
  case coolantDerate inlet flow => exact execCoolantDerate_framed P s inlet flow
  case supplyDerate mv => exact execSupplyDerate_framed P s mv
  case busbarHigh mv => exact .when (State.raise_frame _ hk.upd)
  case conditionCleared bits die => exact .unless (State.raise_frame _ hk.upd)
  case logbookCommit => exact execLogbookCommit_framed P s
  case mirrorWrite => exact execMirrorWrite_framed P s
  case codewordReceive port cw =>
    exact .ite (fun _ => .fault _) fun _ => .when (State.receiveCodeword_frame port cw hk)
  case linkCtrl port ctl => exact execLinkCtrl_framed P s port ctl
  case ackTimeoutReplay port => exact .ite (fun _ => .fault _) fun _ => .when (State.replayFrom_frame _ hk)
  case linkAcknowledgement port => exact .ite (fun _ => .fault _) fun _ => .when (State.acknowledge_frame _ _ hk)
  case endpointForwardExpiry die endpoint => exact .ite (fun _ => .fault _) fun _ => .next hk.upd
  all_goals exact nomatch hquiet

/-- Settles O24: such a row acts for no slot at all. -/
theorem quietFrame : Obligations.QuietFrame := by
  unfold Obligations.QuietFrame
  intro i s t hquiet hmem hexec
  have hframe := exec_framed_of_quietRow (fun _ => False) s hquiet t hexec
  exact ⟨fun c k => hframe.byte hmem c k not_false, fun c => hframe.slot c not_false⟩

end Sys2Proof.Machine

namespace Sys2Proof.Machine

set_option Elab.async false

/-! ### An operation and the other slots (R275, R306): its own work -/

/-- A byte outside a range that is cleared. -/
theorem memGet_memClear {lo hi k : Nat} (m : List Host.Cell) (h : k < lo ∨ hi ≤ k) :
    memGet (memClear m lo hi) k = memGet m k := by
  induction m with
  | nil => rfl
  | cons a m ih =>
    obtain ⟨j, x⟩ := a
    unfold memClear at ih ⊢
    rw [List.filter_cons]
    split
    · simp only [memGet, ih]
    · next hcleared =>
      have hne : j ≠ k := by
        rintro rfl
        exact hcleared (by simpa using h)
      rw [ih]
      simp only [memGet, if_neg hne]

section frame
variable {P : Slot → Prop} {s0 s : State} {c : Slot}

section own
variable (hc : P c)
include hc

/-! #### The slot's own records -/

theorem State.modStream_frame (f : CtxStream → CtxStream) (hk : Frame P s0 s) : Frame P s0 (s.modStream c f) :=
  State.modCtx_frame hc hk

theorem State.modOp_frame (n : Nat) (f : OpRec → OpRec) (hk : Frame P s0 s) : Frame P s0 (s.modOp c n f) :=
  State.modStream_frame hc _ hk

theorem State.modRun_frame (n : Nat) (f : RunData → RunData) (hk : Frame P s0 s) : Frame P s0 (s.modRun c n f) :=
  State.modOp_frame hc n _ hk

theorem State.modNum_frame (f : CtxNum → CtxNum) (hk : Frame P s0 s) : Frame P s0 (s.modNum c f) :=
  State.modCtx_frame hc hk

theorem State.modStepAcc_frame (step : U64) (f : StepAcc → StepAcc) (hk : Frame P s0 s) : Frame P s0 (s.modStepAcc c step f) :=
  State.modNum_frame hc _ hk

theorem State.modTrain_frame (f : CtxTrain → CtxTrain) (hk : Frame P s0 s) : Frame P s0 (s.modTrain c f) :=
  State.modCtx_frame hc hk

theorem State.noteStep_frame (step : U64) (bit : Nat) (hk : Frame P s0 s) : Frame P s0 (s.noteStep c step bit) :=
  State.modStepAcc_frame hc step _ hk

/-! #### The training records of the slot -/

theorem State.stashWrite_frame (r : StashRing) (hk : Frame P s0 s) : Frame P s0 (s.stashWrite c r) :=
  Frame.ite (fun _ => hk) fun _ => State.store_frame hc (State.store_frame hc hk)

theorem State.stashMod_frame (q : Nat × Nat) (f : StashRing → StashRing) (hk : Frame P s0 s) : Frame P s0 (s.stashMod c q f) := by
  unfold State.stashMod
  dsimp only
  split
  · exact State.stashWrite_frame hc _ (State.modTrain_frame hc _ hk)
  · exact State.modTrain_frame hc _ hk

theorem State.stashStart_frame (d : Desc) (up : Bool) (hk : Frame P s0 s) : Frame P s0 (s.stashStart c d up) :=
  Frame.ite (fun _ => hk) fun _ => State.modTrain_frame hc _ hk

theorem State.stashComplete_frame (d : Desc) (hk : Frame P s0 s) : Frame P s0 (s.stashComplete c d) :=
  Frame.foldl (fun _ q ht => State.stashMod_frame hc q _ ht) (Frame.foldl (fun _ q ht => State.stashMod_frame hc q _ ht) hk)

theorem State.journalWrite_frame (e : JEntry) (hk : Frame P s0 s) : Frame P s0 (s.journalWrite c e) :=
  Frame.ite (fun _ => State.store_frame hc hk) fun _ => hk

theorem State.journalMod_frame (step : U64) (f : JEntry → JEntry) (hk : Frame P s0 s) : Frame P s0 (s.journalMod c step f) := by
  unfold State.journalMod
  split
  · exact hk
  · exact Frame.ite (fun _ => hk) fun _ => Frame.ite (fun _ => hk) fun _ =>
      State.journalWrite_frame hc _ (State.modTrain_frame hc _ hk)

theorem State.journalOp_frame (step : U64) (list : Nat) (d : Desc) (hk : Frame P s0 s) :
    Frame P s0 (s.journalOp c step list d) := State.journalMod_frame hc _ _ hk

/-! #### Pages freed after their last operation -/

/-- The bytes of a page of `c` are cleared. -/
theorem State.clearPage_frame {t : State} {p : Nat} (hp : p < pageCount) (hctx : t.ctxs = s.ctxs)
    (hmem : t.mem = memClear s.mem (memKey c (p * pageBytes)) (memKey c ((p + 1) * pageBytes))) (hout : t.out = s.out)
    (hk : Frame P s0 s) : Frame P s0 t := by
  have hsame : t.ctx = s.ctx := by
    funext d
    rw [State.ctx, hctx, State.ctx]
  refine hk.trans ⟨fun hm => ?_, fun d _ => by rw [hsame]; exact .refl _, fun hm d k hd hrange _ => ?_, by rw [hout]⟩
  · rw [MemInv, hmem]
    exact memClear_wf _ _ hm
  · have hne : d.val ≠ c.val := fun h => hd (Fin.ext h ▸ hc)
    rw [State.byte, hmem, State.byte]
    refine memGet_memClear _ ?_
    unfold memKey
    unfold pageCount at hp
    unfold rangeBytes at hrange
    unfold pageBytes
    omega

theorem State.freePages_frame (ps : List Nat) (hk : Frame P s0 s) : Frame P s0 (s.freePages c ps) := by
  unfold State.freePages
  dsimp only
  have hcaptured : Frame P s0 (ps.foldl (fun s p => s.captureFirst c p) s) := Frame.foldl (fun _ _ ht => ht.upd) hk
  refine List.foldlRecOn (motive := fun t => Frame P s0 t) _ _ (State.modCtx_frame hc hcaptured) fun t ht p hp => ?_
  exact State.clearPage_frame (s := t) hc (of_decide_eq_true (List.mem_filter.1 hp).2) rfl rfl rfl ht

theorem State.freeAfter_frame (n : Nat) (hk : Frame P s0 s) : Frame P s0 (s.freeAfter c n) :=
  Frame.foldl (fun _ _ ht => State.modCtx_frame hc (State.freePages_frame hc _ ht)) (State.modCtx_frame hc hk)

/-! #### The end and the beginning of an operation -/

theorem State.undefine_frame (a n : Nat) (hk : Frame P s0 s) : Frame P s0 (s.undefine c a n) :=
  State.store_frame hc hk.upd

theorem State.scratchUndefined_frame (d : Desc) (run : Option RunData) (hk : Frame P s0 s) :
    Frame P s0 (s.scratchUndefined c d run) := by
  unfold State.scratchUndefined
  split
  · split
    · split
      · exact State.undefine_frame hc _ _ hk
      · exact hk
    · exact hk
  · exact hk

theorem State.completeLists_frame (hk : Frame P s0 s) : Frame P s0 (s.completeLists c) := by
  unfold State.completeLists
  dsimp only
  refine Frame.foldl (fun t l ht => ?_) hk
  exact Frame.ite (fun _ => State.modStream_frame hc _ ht) fun _ => State.postCtx_frame (State.modStream_frame hc _ ht)

theorem State.finishOp_frame (o : OpRec) (status : U16) (started : Bool) (hk : Frame P s0 s) :
    Frame P s0 (s.finishOp c o status started) := by
  have hdone := State.modOp_frame hc o.n (fun x => { x with st := .done status, run := none })
    (State.scratchUndefined_frame hc o.desc o.run hk)
  have hcounted := Frame.ite (c := status = St.numericInvalid)
    (fun _ => State.modStepAcc_frame hc o.step (fun a => { a with opsInvalid := satAdd32 a.opsInvalid 1 }) hdone) fun _ => hdone
  have hleft := Frame.ite (c := started = true) (fun _ => State.stashStart_frame hc o.desc false hcounted) fun _ => hcounted
  have hread := Frame.ite (c := (started && !endsList status) = true) (fun _ => State.stashComplete_frame hc o.desc hleft)
    fun _ => hleft
  have hfreed := State.freeAfter_frame hc o.n (State.modStream_frame hc CtxStream.dropEnded (State.modStream_frame hc (fun x =>
    { x with lists := x.lists.map (fun l =>
        if l.id == o.list then l.take o.n o.hdr.opId status o.hdr.continue_ else l) }) hread))
  exact State.completeLists_frame hc (Frame.ite (fun _ => State.postCtx_frame hfreed) fun _ => hfreed)

theorem State.beginOp_frame (o : OpRec) (vs : List (Nat × TView)) (hk : Frame P s0 s) : Frame P s0 (s.beginOp c o vs) :=
  State.journalOp_frame hc _ _ _ (State.stashStart_frame hc _ _ (State.modOp_frame hc _ _ hk))

end own

end frame

end Sys2Proof.Machine

namespace Sys2Proof.Machine

set_option Elab.async false

/-! ### An operation and the other slots: its faults, its events and its writers (R97, R117, R234) -/

section frame
variable {P : Slot → Prop} {s0 s : State}

theorem State.endFaulted_frame (o : OpCtx) (hc : P o.c) (status : U16) (hk : Frame P s0 s) :
    Frame P s0 (s.endFaulted o status) := (State.modRun_frame hc o.n _ hk).upd

theorem State.faultOp_frame (o : OpCtx) (hc : P o.c) (status : U16) (handle : U32) (a : Nat) (args : List U64)
    (hk : Frame P s0 s) : Frame P s0 (s.faultOp o status handle a args) := by
  unfold State.faultOp
  split
  · exact hk
  · split
    · exact hk
    · have hmet : Frame P s0 (if unreadable status then (s.meet o.c a, s.badStatus o.c a) else (s, status)).1 :=
        Frame.iteOn (fun q : State × U16 => q.1) (fun _ => State.meet_frame hk) fun _ => hk
      generalize (if unreadable status then (s.meet o.c a, s.badStatus o.c a) else (s, status)) = q at hmet
      obtain ⟨t, st⟩ := q
      have hended := State.endFaulted_frame o hc st hmet
      exact Frame.ite (fun _ => hended) fun _ => Frame.ite (fun _ => State.raiseStatus_frame _ _ _ hended) fun _ => hended

/-! #### Events -/

theorem State.noteInvalid_frame (o : OpCtx) (hc : P o.c) (r : FaultRec) (hk : Frame P s0 s) : Frame P s0 (s.noteInvalid o r) := by
  have hnoted := State.modRun_frame hc o.n (fun x => { x with invalid := true }) (State.noteStep_frame hc o.step 5 hk)
  exact Frame.ite (fun _ => hnoted) fun _ => State.raiseStatus_frame _ _ _ (State.modStepAcc_frame hc _ _ hnoted)

theorem State.event_frame (o : OpCtx) (hc : P o.c) (unit kind : Nat) (e : FEv) (hk : Frame P s0 s) :
    Frame P s0 (s.event o unit kind e) := by
  unfold State.event
  dsimp only
  refine Frame.ite (fun _ => Frame.ite (fun _ => State.modRun_frame hc _ _ hk) fun _ => hk) fun _ => ?_
  exact Frame.ite (fun _ => State.noteInvalid_frame o hc _ (State.modStepAcc_frame hc _ _ hk.upd)) fun _ =>
    State.modStepAcc_frame hc _ _ hk.upd

theorem State.events_frame (o : OpCtx) (hc : P o.c) (unit kind : Nat) (es : List FEv) (hk : Frame P s0 s) :
    Frame P s0 (s.events o unit kind es) := Frame.foldl (fun _ e ht => State.event_frame o hc unit kind e ht) hk

theorem State.reportDark_frame (o : OpCtx) (hc : P o.c) (plates : Nat) (nonZero : Bool) (hk : Frame P s0 s) :
    Frame P s0 (s.reportDark o plates nonZero) := Frame.ite (fun _ => hk) fun _ => State.modNum_frame hc _ hk

/-! #### What an operation reads -/

theorem State.countStale_frame (o : OpCtx) (hc : P o.c) (n : Nat) (hk : Frame P s0 s) : Frame P s0 (s.countStale o n) :=
  Frame.ite (fun _ => hk) fun _ => State.modStepAcc_frame hc _ _ hk

theorem State.noteStale_frame (o : OpCtx) (hc : P o.c) (l : List (Nat × BadPlate)) (hk : Frame P s0 s) :
    Frame P s0 (s.noteStale o l) := by
  unfold State.noteStale
  split
  · exact hk
  · split
    · exact hk
    · next plates rest _ =>
      have hnoted (f : RunData → RunData) := State.modRun_frame hc o.n f (State.countStale_frame o hc (rest.length + 1) hk)
      exact Frame.ite (fun _ => hk) fun _ => Frame.ite (fun _ => hnoted _) fun _ => State.raiseStatus_frame _ _ _ (hnoted _)

theorem State.touchWindow_frame (c : Slot) (w : Window) (hk : Frame P s0 s) : Frame P s0 (s.touchWindow c w) := by
  unfold State.touchWindow
  dsimp only
  refine Frame.foldl (fun t ps ht => ?_) (Frame.foldl (fun _ _ ht => State.touch_frame ht) hk)
  split
  · exact State.touch_frame ht
  · exact ht

theorem State.noteWindows_frame (o : OpCtx) (hc : P o.c) (time : Nat → Nat → Nat → Nat) (ws : List (Nat × Window))
    (hk : Frame P s0 s) : Frame P s0 (s.noteWindows o time ws).1 := by
  unfold State.noteWindows
  dsimp only
  have htouched : Frame P s0 (ws.foldl (fun s x => s.touchWindow o.c x.2) s) :=
    Frame.foldl (fun _ _ ht => State.touchWindow_frame o.c _ ht) hk
  generalize ws.foldl (fun s x => s.touchWindow o.c x.2) s = t at htouched
  have hnoted (b : Bool) (l : List (Nat × BadPlate)) : Frame P s0 (if b then t else t.noteStale o l) :=
    Frame.ite (fun _ => htouched) fun _ => State.noteStale_frame o hc l htouched
  split
  · exact hnoted _ _
  · exact State.faultOp_frame o hc _ _ _ _
      (Frame.ite (fun _ => State.countStale_frame o hc 1 (hnoted _ _)) fun _ => hnoted _ _)

end frame

/-! #### What an operation writes -/

section writer
variable {P : Slot → Prop} {s0 : State} {w : WStat} (cfg : WCfg)

theorem WStat.see_frame (y : F32) (hk : Frame P s0 w.s) : Frame P s0 (w.see y).s := by
  unfold WStat.see
  split
  · exact hk
  · exact hk
  · exact Frame.iteOn WStat.s (fun _ => hk) fun _ => hk

variable (hc : P cfg.c)
include hc

theorem WStat.put_frame (a : Nat) (b : Bytes) (full : Bool) (hk : Frame P s0 w.s) : Frame P s0 (w.put cfg a b full).s :=
  Frame.iteOn WStat.s (fun _ => hk) fun _ => Frame.iteOn WStat.s (fun _ => hk) fun _ => State.store_frame hc hk

theorem WStat.block_frame (mk : Nat → Nat → Nat × FEv) (tr b : Nat) (cells : List (Option Cell))
    (hk : Frame P s0 w.s) : Frame P s0 (w.block cfg mk tr b cells).1.s := by
  have hseen : Frame P s0 (cells.foldl (fun w x => match x with | some e => w.see e.y | none => w) w).s := by
    refine Frame.foldlOn WStat.s (fun w x ht => ?_) hk
    split
    · exact WStat.see_frame _ ht
    · exact ht
  unfold WStat.block
  dsimp only
  split
  · exact hseen
  · split
    · exact WStat.put_frame cfg hc _ _ _ hseen
    · exact hseen

theorem WStat.plate_frame (tr j : Nat) (bs : List OutBlock) (hk : Frame P s0 w.s) : Frame P s0 (w.plate cfg tr j bs).s :=
  WStat.put_frame cfg hc _ _ _ hk

theorem WStat.scaledRow_frame (mk : Nat → Nat → Nat → Nat × FEv) (tr c0 : Nat) (cells : List (Option Cell))
    (hk : Frame P s0 w.s) : Frame P s0 (w.scaledRow cfg mk tr c0 cells).s := by
  unfold WStat.scaledRow
  dsimp only
  refine Frame.foldlOn WStat.s (fun _ j ht => WStat.plate_frame cfg hc tr j _ ht) ?_
  refine Frame.foldlOn (fun q : WStat × List OutBlock => q.1.s) (fun q b ht => ?_) hk
  split
  · exact ht
  · exact WStat.block_frame cfg hc _ _ _ _ ht

theorem WStat.wideRow_frame (mk : Nat → Nat → Nat → Nat × FEv) (dark : Bool) (tr c0 : Nat) (cells : List (Option Cell))
    (hk : Frame P s0 w.s) : Frame P s0 (w.wideRow cfg mk dark tr c0 cells).s := by
  unfold WStat.wideRow
  dsimp only
  refine Frame.foldlOn WStat.s (fun _ k ht => ?_)
    (Frame.foldlOn (fun q : WStat × List Nat => q.1.s) (fun q i ht => ?_) hk)
  · exact Frame.iteOn WStat.s (fun _ => WStat.put_frame cfg hc _ _ _ ht) fun _ => WStat.put_frame cfg hc _ _ _ ht
  · split
    · exact ht
    · exact WStat.see_frame _ ht

theorem WStat.maskRow_frame (tr c0 : Nat) (bits : List Bool) (hk : Frame P s0 w.s) :
    Frame P s0 (w.maskRow cfg tr c0 bits).s :=
  Frame.iteOn WStat.s (fun _ => hk) fun _ => Frame.foldlOn WStat.s (fun _ _ ht => WStat.put_frame cfg hc _ _ _ ht) hk

theorem WStat.endRegions_frame (tr0 c0 width : Nat) (hk : Frame P s0 w.s) :
    Frame P s0 (w.endRegions cfg tr0 c0 width).s := by
  unfold WStat.endRegions
  split
  · exact hk
  · exact Frame.iteOn WStat.s (fun _ => hk) fun _ => Frame.foldlOn WStat.s (fun _ _ ht =>
      Frame.iteOn WStat.s (fun _ => WStat.put_frame cfg hc _ _ _ ht) fun _ => ht) hk

theorem WStat.tileRows_frame (tileR tileC : Nat) (dark : Bool) (tr0 c0 : Nat) (rows : List (Option (List (Option Cell))))
    (hk : Frame P s0 w.s) : Frame P s0 (w.tileRows cfg tileR tileC dark tr0 c0 rows).s := by
  unfold WStat.tileRows
  refine Frame.foldlOn WStat.s (fun w i ht => ?_) hk
  split
  · exact ht
  · split
    · exact ht
    · exact Frame.iteOn WStat.s (fun _ => WStat.scaledRow_frame cfg hc _ _ _ _ ht) fun _ =>
        WStat.wideRow_frame cfg hc _ _ _ _ _ ht

theorem WStat.tile_frame (tileR tileC : Nat) (dark : Bool) (tr0 c0 width : Nat)
    (rows : List (Option (List (Option Cell)))) (hk : Frame P s0 w.s) :
    Frame P s0 (w.tile cfg tileR tileC dark tr0 c0 width rows).s :=
  WStat.endRegions_frame cfg hc _ _ _ (WStat.tileRows_frame cfg hc _ _ _ _ _ _ hk)

omit hc in
theorem WStat.report_frame (o : OpCtx) (hc : P o.c) (hk : Frame P s0 w.s) : Frame P s0 (w.report o cfg) := by
  unfold WStat.report
  dsimp only
  split
  · exact hk
  · split
    · exact hk
    · split
      · exact hk
      · have hrecord := fun f => State.modNum_frame hc f hk
        split
        · exact hrecord _
        · exact Frame.ite (fun _ => State.noteStep_frame hc _ _ (hrecord _)) fun _ =>
            State.raiseStatus_frame _ _ _ (State.noteStep_frame hc _ _ (hrecord _))

omit hc in
theorem State.closeWriter_frame (o : OpCtx) (hc : P o.c) (unit : Nat) (hk : Frame P s0 w.s) :
    Frame P s0 (State.closeWriter o cfg unit w) := by
  have hclosed := State.modRun_frame hc o.n (fun r => { r with tagged := w.tagged, regs := w.regs })
    (State.reportDark_frame o hc w.wgPlates w.wgNonZero
      (State.events_frame o hc unit cfg.kind (inCycles w.evs) (WStat.report_frame cfg o hc hk)))
  unfold State.closeWriter
  dsimp only
  split
  · exact State.faultOp_frame o hc _ _ _ _ hclosed
  · exact hclosed

end writer

end Sys2Proof.Machine

namespace Sys2Proof.Machine

set_option Elab.async false

/-! ### An operation and the other slots: its row and vector work (R143, R155, R275) -/

section frame
variable {P : Slot → Prop} {s0 s : State} (o : OpCtx) (hc : P o.c)
include hc

theorem State.putRows_frame (v : TView) (round : U8) (core kind r0 : Nat) (rows : List (List Cell)) (hk : Frame P s0 s) :
    Frame P s0 (s.putRows o v round core kind r0 rows) :=
  State.closeWriter_frame _ o hc _ (Frame.foldlOn WStat.s (fun _ _ ht => WStat.tile_frame _ hc _ _ _ _ _ _ _ ht) hk)

theorem State.putEntries_frame (v : TView) (r0 : Nat) (es : List (List F32)) (hk : Frame P s0 s) :
    Frame P s0 (s.putEntries o v r0 es) :=
  State.closeWriter_frame _ o hc _ (Frame.foldlOn WStat.s (fun _ _ ht => WStat.put_frame _ hc _ _ _ ht) hk)

theorem State.putFp32Row_frame (v : TView) (row : Nat) (vals : List F32) (hk : Frame P s0 s) :
    Frame P s0 (s.putFp32Row o v row vals) := State.putRows_frame o hc _ _ _ _ _ _ hk

theorem State.putTile_frame (v : TView) (round : U8) (core r0 c0 : Nat) (rows : List (List Cell)) (met : List (Nat × FEv))
    (hk : Frame P s0 s) : Frame P s0 (s.putTile o v round core r0 c0 rows met) :=
  State.closeWriter_frame _ o hc _ (WStat.tile_frame _ hc _ _ _ _ _ _ _ hk)

theorem State.putMask_frame (v : TView) (core r0 c0 : Nat) (rows : List (List Bool)) (met : List (Nat × FEv))
    (hk : Frame P s0 s) : Frame P s0 (s.putMask o v core r0 c0 rows met) :=
  State.closeWriter_frame _ o hc _ (Frame.foldlOn WStat.s (fun _ _ ht => WStat.maskRow_frame _ hc _ _ _ ht) hk)

/-! #### Row operations -/

theorem State.bandPartial_frame (v : TView) (core p k n : Nat) (bands : List BandSum) (hk : Frame P s0 s) :
    Frame P s0 (s.bandPartial o v core p k n bands) := by
  unfold State.bandPartial
  split
  · exact hk
  · exact State.events_frame o hc _ _ _ (State.putFp32Row_frame o hc _ _ _ hk)

theorem State.dparam_frame (v : TView) (k : Nat) (bands : List BandSum) (hk : Frame P s0 s) :
    Frame P s0 (s.dparam o v k bands) := by
  unfold State.dparam
  split
  · exact hk
  · exact State.reportDark_frame o hc _ _ (State.putFp32Row_frame o hc _ _ _ hk)

theorem State.dparamUndefined_frame (v : TView) (l lo hi : Nat) (hk : Frame P s0 s) :
    Frame P s0 (s.dparamUndefined o v l lo hi) :=
  Frame.foldl (fun _ _ ht => State.undefine_frame hc _ _ ht) hk

theorem rowGroup_frame (d : RowD) (vs : List (Nat × TView)) (core r0 n : Nat) (hk : Frame P s0 s) :
    Frame P s0 (rowGroup s o d vs core r0 n).s := by
  unfold rowGroup
  dsimp only
  split
  · exact State.noteWindows_frame o hc _ _ hk.upd
  · next ov _ =>
    have hfree (u : Nat) : Frame P s0 { s with freeCtr := u } := hk.upd
    have hread (u : Nat) (ws : List (Nat × Window)) (es fs : List FEv) :=
      State.events_frame o hc core 5 fs (State.events_frame o hc core 6 es
        (State.noteWindows_frame o hc rowOrder ws (hfree u)))
    refine Frame.iteOn GroupOut.s (fun _ => hread _ _ _ _) fun _ => State.putRows_frame o hc _ _ _ _ _ _ ?_
    split
    · exact State.putEntries_frame o hc _ _ _ (hread _ _ _ _)
    · exact hread _ _ _ _

theorem rowGroups_frame (d : RowD) (vs : List (Nat × TView)) (core : Nat → Nat) (rEnd fuel : Nat) {g : GroupOut} (r : Nat)
    (hk : Frame P s0 g.s) : Frame P s0 (rowGroups o d vs core rEnd fuel g r).s := by
  induction fuel generalizing g r with
  | zero => exact hk
  | succ fuel ih =>
    unfold rowGroups
    exact Frame.iteOn GroupOut.s (fun _ => hk) fun _ => ih _ (rowGroup_frame o hc _ _ _ _ _ hk)

theorem runRow_frame (d : RowD) (vs : List (Nat × TView)) (hk : Frame P s0 s) : Frame P s0 (runRow s o d vs) := by
  unfold runRow
  cases viewAt vs 160 with
  | none => exact rowGroups_frame o hc _ _ _ _ _ _ hk
  | some v =>
    dsimp only
    generalize hbands : List.foldl _ _ _ = bands
    have hband : Frame P s0 bands.1 := by
      rw [← hbands]
      refine Frame.foldl₁ (fun a x ht => ?_) hk
      split
      · exact ht
      · have hgroups := rowGroups_frame o hc d vs (fun row => natAt (s.participants o.c d.groupMask)
            (coreOfTile (ceilDiv d.rows.toNat 2048) 1 (s.participants o.c d.groupMask).length (row / 2048) 0))
          (Nat.min d.rows.toNat (2048 * x + 2048)) 17 (g := { s := a.1, dg := [], db := [], fault := false }) (2048 * x) ht
        split
        · exact hgroups
        · have hfirst := fun core bs => State.bandPartial_frame o hc v core d.p 0 (ceilDiv d.rows.toNat 2048) bs hgroups
          exact Frame.ite (fun _ => State.bandPartial_frame o hc _ _ _ _ _ _ (hfirst _ _)) fun _ => hfirst _ _
    refine Frame.ite (fun _ => State.dparamUndefined_frame o hc _ _ _ _ hband) fun _ =>
      State.dparamUndefined_frame o hc _ _ _ _ ?_
    have hsummed := fun l => State.dparam_frame o hc v 0 l hband
    exact Frame.ite (fun _ => State.dparam_frame o hc _ _ _ (hsummed _)) fun _ => hsummed _

/-! #### Vector operations -/

omit hc in
theorem State.bitsOfRow_frame (ys : List F32) (hk : Frame P s0 s) : Frame P s0 (s.bitsOfRow ys).1 :=
  Frame.foldl₁ (fun a y ht => Frame.iteOn (fun q : State × Bool => q.1) (fun _ => ht) fun _ =>
    Frame.iteOn (fun q : State × Bool => q.1) (fun _ => ht) fun _ => ht.upd) hk

omit hc in
theorem State.bitsOfRows_frame (yss : List (List F32)) (hk : Frame P s0 s) : Frame P s0 (s.bitsOfRows yss).1 :=
  Frame.foldl₁ (fun _ ys ht => State.bitsOfRow_frame ys ht) hk

theorem vecRegion_frame (j : VJob) (vs : List (Nat × TView)) (core : Nat) (tile : Nat × Nat) (rs : List (Nat × VRead))
    (bad : Bool) (hk : Frame P s0 s) : Frame P s0 (vecRegion j o vs core tile rs bad s) := by
  have hstate (off : Nat) (rows : TView → List (List Cell)) {t : State} (ht : Frame P s0 t) :
      Frame P s0 (match viewAt vs off with
        | some v => if j.optim then t.putTile o v 1 core (128 * tile.1) (128 * tile.2) (rows v) [] else t
        | none => t) := by
    split
    · exact Frame.ite (fun _ => State.putTile_frame o hc _ _ _ _ _ _ _ ht) fun _ => ht
    · exact ht
  have hmask (l : List (List Bool)) (v : Option TView) {t : State} (ht : Frame P s0 t) :
      Frame P s0 (match v with
        | none => t
        | some v => t.putMask o v core (128 * tile.1) (128 * tile.2) l []) := by
    split
    · exact ht
    · exact State.putMask_frame o hc _ _ _ _ _ _ ht
  unfold vecRegion
  dsimp only
  refine Frame.ite (fun _ => State.events_frame o hc _ _ _ (State.events_frame o hc _ _ _ hk)) fun _ => ?_
  refine hmask _ _ ?_
  have hstates := fun a b c d e f => hstate 112 f (hstate 64 e (hstate 48 d (State.events_frame o hc a b c hk)))
  split
  · exact State.events_frame o hc _ _ _ (hstates _ _ _ _ _ _)
  · exact Frame.ite (fun _ => State.putMask_frame o hc _ _ _ _ _ _ (State.bitsOfRows_frame _ (hstates _ _ _ _ _ _)))
      fun _ => State.putTile_frame o hc _ _ _ _ _ _ _ (hstates _ _ _ _ _ _)

theorem vecTile_frame (s1 : State) (j : VJob) (vs : List (Nat × TView)) (core : Nat) (t : Nat × Nat) (hk : Frame P s0 s) :
    Frame P s0 (vecTile s1 j o vs core t s) := by
  unfold vecTile
  dsimp only
  exact Frame.ite (fun _ => hk) fun _ => vecRegion_frame o hc _ _ _ _ _ _ (State.noteWindows_frame o hc _ _ hk.upd)

theorem vecBand_frame (j : VJob) (core b : Nat) (hk : Frame P s0 s) : Frame P s0 (vecBand j o core b s).1 :=
  State.events_frame o hc _ _ _ (State.noteWindows_frame o hc _ _ hk.upd)

theorem vecReduce_frame (j : VJob) (vs : List (Nat × TView)) (cores : List Nat) (hk : Frame P s0 s) :
    Frame P s0 (vecReduce j o vs cores s) := by
  unfold vecReduce
  dsimp only
  generalize hbands : List.foldl _ _ _ = bands
  have hband : Frame P s0 bands.1 := by
    rw [← hbands]
    refine Frame.foldl₁ (fun a b ht => ?_) hk
    split
    · exact ht
    · exact State.events_frame o hc _ _ _ (vecBand_frame o hc _ _ _ ht)
  refine Frame.ite (fun _ => hband) fun _ => ?_
  split
  · exact State.putTile_frame o hc _ _ _ _ _ _ _ hband
  · exact hband

theorem VJob.run_frame (j : VJob) (vs : List (Nat × TView)) (hk : Frame P s0 s) : Frame P s0 (j.run o vs s) :=
  Frame.ite (fun _ => vecReduce_frame o hc _ _ _ hk) fun _ => Frame.foldl (fun _ _ ht => vecTile_frame o hc _ _ _ _ _ ht) hk

end frame

end Sys2Proof.Machine

namespace Sys2Proof.Machine

set_option Elab.async false

/-! ### An operation row and the other slots (R275, R306) -/

/-- What `go` does for an operation `mine` selects acts for the operation's slot only. -/
def OwnWork (mine : Desc → Bool) (go : State → OpRec → OpCtx → List (Nat × TView) → State) : Prop :=
  ∀ (P : Slot → Prop) (s0 s : State) (o : OpRec) (oc : OpCtx) (vs : List (Nat × TView)), mine o.desc = true → P oc.c →
    Frame P s0 s → Frame P s0 (go s o oc vs)

@[simp] theorem ownWork_product (mine : Desc → Bool) : OwnWork mine beginProduct := by
  intro P s0 s o oc vs _ hc hk
  unfold beginProduct
  split
  · split
    · exact hk
    · exact Frame.ite (fun _ => State.modRun_frame hc _ _ hk) fun _ =>
        Frame.foldl (fun _ _ ht => ht.upd) (State.modRun_frame hc _ _ hk)
  · exact hk

@[simp] theorem ownWork_row (mine : Desc → Bool) : OwnWork mine beginRow := by
  intro P s0 s o oc vs _ hc hk
  unfold beginRow
  split
  · exact runRow_frame oc hc _ _ hk
  · exact hk

@[simp] theorem ownWork_vector (mine : Desc → Bool) : OwnWork mine beginVector := by
  intro P s0 s o oc vs _ hc hk
  unfold beginVector
  split
  · exact VJob.run_frame oc hc _ _ hk
  · exact VJob.run_frame oc hc _ _ hk
  · exact hk

@[simp] theorem ownWork_wait (mine : Desc → Bool) : OwnWork mine beginWait := fun _ _ _ _ _ _ _ _ hk => hk

/-- A MARK that neither writes nor adds. -/
theorem ownWork_markPost : OwnWork (isMarkOf (fun m => !m.getLsbD 0 && !m.getLsbD 1)) beginMark := by
  intro P s0 s o oc vs hmine _ hk
  unfold beginMark
  split
  · next d hdesc =>
    rw [hdesc] at hmine
    have hpost : (!(d.mflags.getLsbD 0 || d.mflags.getLsbD 1)) = true := by
      rw [Bool.not_or]
      exact hmine
    dsimp only
    rw [if_pos hpost]
    exact hk
  · exact hk

/-- The work of a local row. -/
theorem ownWork_of_localRow {i : Instr} {c : Slot} {n : Nat} {mine : Desc → Bool}
    {go : State → OpRec → OpCtx → List (Nat × TView) → State} (hlocal : localRow i = true)
    (hrow : startRow i = some (c, n, mine, go)) : OwnWork mine go := by
  unfold startRow at hrow
  split at hrow <;> cases hrow <;> simp [localRow, startRow] at hlocal ⊢
  exact ownWork_markPost

theorem State.startOp_frame {P : Slot → Prop} {s0 s : State} {c : Slot} (hc : P c) (n ranks : Nat) (extra : Option U16)
    {mine : Desc → Bool} {go : State → OpRec → OpCtx → List (Nat × TView) → State} (hgo : OwnWork mine go)
    (hk : Frame P s0 s) : Frame P s0 (s.startOp c n mine ranks extra go) := by
  unfold State.startOp
  split
  · exact hk
  · next o _ =>
    split
    · next hstarts =>
      dsimp only
      split
      · exact State.finishOp_frame hc o _ _ hk
      · exact State.finishOp_frame hc o _ _ hk
      · next vs _ =>
        exact Frame.ite (fun _ => hk) fun _ =>
          hgo P s0 _ o _ vs (Bool.and_eq_true_iff.1 hstarts).1 hc (State.beginOp_frame hc o vs hk)
    · exact hk

/-- Settles O25: a local row acts for its own slot only (`State.startOp_frame`). -/
theorem operationFrame : Obligations.OperationFrame := by
  unfold Obligations.OperationFrame
  intro i s t c n mine go hlocal hrow hmem hexec d hd
  rw [exec_of_startRow hrow] at hexec
  have hframe : Frame (· = c) s (s.startOp c n mine 0 none go) :=
    State.startOp_frame (P := (· = c)) rfl n 0 none (ownWork_of_localRow hlocal hrow) (.refl _ s)
  cases hexec
  exact ⟨hframe.slot d hd, fun k => hframe.byte hmem d k hd⟩

end Sys2Proof.Machine
